-- ==== Sys2Proof/Word.lean ====
section
/-! DEFINITION. The words of the module and the sparse table every store of the state is held in. -/

namespace Sys2Proof

/-- One byte of a store of the module. -/
abbrev Byte := BitVec 8

/-- A 32-bit lane, register or X32 value. -/
abbrev W32 := BitVec 32

/-- A 64-bit scalar register, instruction word or sync counter. -/
abbrev W64 := BitVec 64

/-- A sparse store: strictly rising keys; a key that is not listed reads as the store's default. -/
abbrev Tab (α : Type) := List (Nat × α)

end Sys2Proof
end

