-- ==== Sys2Proof/Syntax.lean ====
section
/-! DEFINITION. The commands of the block: one constructor of `Instr` per row of spec/opcode_table.json, and the
operand records they carry. Every command states the cc `t` at which it happens, counted from power-on. -/

namespace Sys2Proof

/-- A physical core: 18 × die + core (R8). -/
abbrev Core := Fin 36

/-- A thread of a core (R113). -/
abbrev Thr := Fin 128

/-- A stack position S0 to S11 (R3). -/
abbrev Stack := Fin 12

/-- A parity upset that appears before an instruction reads: a byte of the core's store, a lane of a vector register of
the thread, an accumulator of a bank, or a ring slot (R110, R145, R453). -/
inductive Upset where
  | store (off : Nat)
  | vec (reg lane : Nat)
  | acc (bank m n : Nat)
  | slot (i : Nat)
deriving DecidableEq, Repr

/-- What the ECC of a read reports (R215): clean, correctable or uncorrectable. -/
inductive Ecc where
  | ok
  | ce
  | ue
deriving DecidableEq, Repr

/-- The issue of a thread's next instruction: the cc, the core, the thread, the instruction word at its program
counter, the upsets that struck since the last step, and what the ECC of a block's refetch reports (R215, R453). -/
structure Issue where
  t : Nat
  core : Core
  thr : Thr
  word : W64
  upsets : List Upset
  ecc : Ecc := .ok
deriving DecidableEq, Repr

/-- Data that comes with a command, and what the ECC of the read of HBM behind it reports: of the stored value of a sum, or of the
operand itself (R203, R215). -/
structure Data where
  bytes : List Byte
  ecc : Ecc
deriving DecidableEq, Repr

/-- A page that is copied out of HBM, and what the ECC of its reads reports (R215). -/
structure PageRead where
  page : Nat
  ecc : Ecc
deriving DecidableEq, Repr

/-- The cc of a flush, and what the ECC of its reads reports (R215, R268). -/
structure Flush where
  t : Nat
  ecc : Ecc
deriving DecidableEq, Repr

/-- A held packet whose wait is over, and what the ECC of its read reports (R215, R351). -/
structure Release where
  hold : Nat
  ecc : Ecc
deriving DecidableEq, Repr

/-- What the host configures in the functions: the codes of maximum payload and read request size (128 bytes × 2^n), the
functions with ATS enabled, the sizes of BAR4 that differ from the model's own, as (function, log2), and the masked MSI-X vectors, as
(function, vector) (R369, R373, R375, R377). -/
structure HostConf where
  payload : Nat
  readReq : Nat
  ats : List Nat
  bar4 : List (Nat × Nat)
  masked : List (Nat × Nat)
deriving DecidableEq, Repr

/-- The functions before the host has configured them: the spec gives no value. The smallest payload and read request, no ATS,
BAR4 at its largest, no vector masked (DESIGN CHOICE, log 46). -/
def HostConf.reset : HostConf := { payload := 0, readReq := 0, ats := [], bar4 := [], masked := [] }

/-- A link that has trained: Flit mode, and what the host then configures (R369; log 46). -/
structure LinkConf where
  flit : Bool
  conf : HostConf
deriving DecidableEq, Repr

/-- What a stack engine finds in an operation's data: nothing, an error of a DRAM burst by its HBM key, an error of the
staging SRAM, or a parity error of a lane; each of the first two correctable or not (R215, R217). -/
inductive EngErr where
  | ok
  | dram (ue : Bool) (key : Nat)
  | stage (ue : Bool)
  | lane
deriving DecidableEq, Repr

/-- A core, and what the refetch of a block with bad parity meets there (R215, R453). -/
structure Fetch where
  core : Core
  ecc : Ecc
deriving DecidableEq, Repr

/-- Where a weight-stream row comes from: a stream of a stack engine, with what its data meets there, or the MSTREAM in flight
on a core (R91, R215, R217). -/
inductive RowSrc where
  | engine (stack : Stack) (stream : Nat) (err : EngErr)
  | copy (at_ : Fetch)
deriving DecidableEq, Repr

/-- An entry of a stack engine, or an operation of the correlator, by its number in the plan, and what its data meets (R215,
R217, R295). -/
structure Ended where
  item : Nat
  err : EngErr
deriving DecidableEq, Repr

/-- What a slip request says of its sender's plan: PERIOD and RUN (R52). -/
structure SlipTail where
  period : Nat
  run : Nat
deriving DecidableEq, Repr

/-- What arrives for a page: its bytes, and whether flash corrected an error in them (R271). -/
structure Arrival where
  ce : Bool
  bytes : List Byte
deriving DecidableEq, Repr

/-- A superblock that is erased, and whether the erasure fails (R270). -/
structure Erasure where
  block : Nat
  failed : Bool
deriving DecidableEq, Repr

/-- The bytes of a region that a packet names (R343). -/
structure RgnBytes where
  off : Nat
  len : Nat
deriving DecidableEq, Repr

/-- The operands of an ATOMIC (R343). -/
structure AtomicOps where
  op1 : W64
  op2 : W64
deriving DecidableEq, Repr

/-- A packet by its context and its PSN (R354). -/
structure PktName where
  ctx : Nat
  psn : Nat
deriving DecidableEq, Repr

/-- Who writes an ACCUMULATE object (R203). -/
inductive Writer where
  | planned (slot : Nat)
  | correlator (slot : Nat)
  | outside (tenant : Nat)
deriving DecidableEq, Repr

/-! ### Plan images (R390) -/

/-- One record of the section table. -/
structure SectionRec where
  type : Nat
  offset : Nat
  length : Nat
deriving DecidableEq, Repr

/-- What a self-test slice has found beside its signature (R464): the entries of a fail map that no spare repaired within the
slice; bit errors by lane; PLL lock in ns and jitter in fs; eye margins by lane; voltage reference in µV; diodes in mK, by
number; the meter's reading of its load and a phase's current with its group's mean, in mA; the oscillator in ppm. -/
structure Measured where
  bad : List Nat := []
  errors : List Nat := []
  lockNs : Nat := 0
  jitter : Nat := 0
  eyes : List Nat := []
  volt : Nat := 0
  diodes : List (Nat × Int) := []
  meter : Nat := 0
  share : Nat := 0
  mean : Nat := 0
  ppm : Int := 0
deriving DecidableEq, Repr

/-- The results of a self-test slice: its signature and what it has found (R464). -/
structure SliceRes extends Measured where
  sig : Nat := 0
deriving DecidableEq, Repr

/-- A thread a segment launches: its core, number, entry address and generator stream number (R115, R158). -/
structure Launch where
  core : Nat
  thread : Nat
  entry : Nat
  stream : Nat
deriving DecidableEq, Repr

/-- A refetch range of a segment (R453). -/
structure Refetch where
  core : Nat
  lo : Nat
  len : Nat
  va : Nat
deriving DecidableEq, Repr

/-- The use a segment makes of one shared resource in one cc (R44): resource number as TIER_WSEL, the part of it (a mesh
link: those below 36 lead into the stop of that core, the others are numbered by the plan's maker; a stack's channel group;
else 0), the direction (0 out or read, 1 in or write), and the bytes asked. -/
structure Use where
  resource : Nat
  part : Nat
  dir : Nat
  cc : Nat
  bytes : Nat
deriving DecidableEq, Repr

/-- A segment of a plan (R44). `phases` lists each part's first cc and phase ID, `critical` the cores on a phase's critical
path as phase × 64 + core (R427), `uses` what the segment asks of shared resources. -/
structure Segment where
  launches : List Launch
  finish : Nat
  milestones : List Nat
  ops : List Nat
  entries : List Nat
  streams : List Nat
  phases : List (Nat × Nat)
  critical : List Nat
  uses : List Use
  refetch : List Refetch
  stepEnd : Bool
  updateStart : Bool
deriving DecidableEq, Repr

/-- A group of the group table: its members in rank order and this module's rank (R276). -/
structure Group where
  members : List Nat
  rank : Nat
deriving DecidableEq, Repr

/-- A correlator entry (R277); `rsv` gathers its reserved bits. -/
structure CorEntry where
  op : Nat
  red : Nat
  part16 : Bool
  inFmt : Nat
  outFmt : Nat
  sig : Bool
  sigSrc : Bool
  keep : Bool
  tagEn : Bool
  group : Nat
  queue : Nat
  tag : Nat
  armCc : Nat
  gate : Nat
  gateVal : Nat
  src : Nat
  dst : Nat
  count : Nat
  sync : Nat
  syncSrc : Nat
  rsv : Nat
deriving DecidableEq, Repr

/-- A queue edge of the plan (R292). -/
structure QEdge where
  group : Nat
  up : Nat
  down : Nat
  ringVa : Nat
  ringBytes : Nat
  arrive : Nat
deriving DecidableEq, Repr

/-- A stack-engine entry other than STREAM (R195): operation code, stack, objects, ranges, tag, rounding, generator
stream number and planned start burst period. UPDATE names a parameter object and one part of it. -/
structure SeEntry where
  op : Nat
  stack : Nat
  object : Nat
  va : Nat
  srcVa : Nat
  count : Nat
  tag : Nat
  form : Nat
  srcFmt : Nat
  gen : Nat
  startBp : Nat
  firstStrip : Nat
  strips : Nat
  prep : Bool
  waitOp : Option Nat
  alloc : Nat
deriving DecidableEq, Repr

/-- A STREAM entry (R198); `shared` marks a co-exposure stream, `base` a receive record's base job and stream (R406), `reads`
gives for each row the burst period in which the plan's grant order reads and derives it (R196, R199). -/
structure StreamEntry where
  stack : Nat
  object : Nat
  va : Nat
  stride : Nat
  rows : Nat
  mode : Nat
  tag : Nat
  dests : List Nat
  firstSlot : Nat
  armCc : Nat
  d0 : Nat
  interval : Nat
  gen : Nat
  shared : Bool
  base : Option (Nat × Nat)
  reads : List Nat
deriving DecidableEq, Repr

/-- A segment's page list on one core, as virtual page addresses (R247). -/
structure PageList where
  segment : Nat
  core : Nat
  pages : List Nat
deriving DecidableEq, Repr

/-- The issue map of one core: for each of 64 cc, whether the cc belongs to this plan's job (R119). -/
structure IssueMap where
  core : Nat
  mine : List Bool
deriving DecidableEq, Repr

/-- A plan image (R390), sections in their table's order, items decoded. `length` is the image's length. -/
structure PlanImage where
  magic : Nat
  version : Nat
  period : Nat
  n0 : Nat
  n1 : Nat
  rsv : Nat
  length : Nat
  sections : List SectionRec
  words : List (Nat × List W64)
  indexed : List (Nat × Nat)
  segments : List Segment
  tags : List (Nat × W64)
  groups : List Group
  cor : List CorEntry
  edges : List QEdge
  se : List SeEntry
  streams : List StreamEntry
  pages : List PageList
  maps : List IssueMap
deriving DecidableEq, Repr

/-! ### Parameter blocks of commands -/

/-- The arm list's entries (R389): object index, handle and threshold. -/
structure ArmRec where
  object : Nat
  handle : Nat
  threshold : Nat
deriving DecidableEq, Repr

/-- The JOB_START parameter block (R389); `rsv` gathers its reserved bits. -/
structure JobBlock where
  plan : Nat
  jobId : Nat
  flags : Nat
  firstSeg : Nat
  loopSeg : Nat
  seed : W64
  g0 : Nat
  scale : Nat
  hyp : Nat
  optStep : Nat
  stepBase : Nat
  wrt : Nat
  wrEntries : Nat
  sync0 : Nat
  sync1 : Nat
  arms : List ArmRec
  armCount : Nat
  startM : Int
  rsv : Nat
deriving DecidableEq, Repr

/-- A parameter descriptor (R220). -/
structure Descriptor where
  master : Nat
  grad : Nat
  mom1 : Nat
  mom2 : Nat
  x0 : Nat
  out : Nat
  rows : Nat
  cols : Nat
  rule : Nat
  e : Int
  rank : Nat
  flags : Nat
  hyp : Nat
  mtag : Nat
deriving DecidableEq, Repr

/-- The OBJ_MAP parameter block (R391). -/
structure MapBlock where
  handle : Nat
  base : Nat
  size : Nat
  page : Nat
  home : Nat
  policy : Nat
  stks : Nat
  stripe : Nat
  shelf : Nat
  rights : Nat
  extra : Nat
  tag : Nat
  homeLoc : Nat
  key : Nat
  module : Nat
  peer : Nat
  desc : Option Descriptor
  hash : Nat
  rsv : Nat
deriving DecidableEq, Repr

/-- An ephemeris entry (R259); `rsv` gathers its reserved bits. -/
structure EphEntry where
  seg : Nat
  armCc : Nat
  object : Nat
  page : Nat
  pages : Nat
  src : Nat
  dst : Nat
  priv : Bool
  pin : Bool
  sig : Bool
  sync : Nat
  dlCc : Nat
  dlSegs : Nat
  rsv : Nat
deriving DecidableEq, Repr

/-- The region a RGN_REGISTER command gives (R348). -/
structure RegionBlock where
  sync : Bool
  r : Bool
  w : Bool
  a : Bool
  trig : Bool
  dp : Bool
  peer : Nat
  peerTenant : Nat
  anyModule : Bool
  anyTenant : Bool
  base : Nat
  length : Nat
  trigObj : Option Nat
deriving DecidableEq, Repr

/-- A firmware image as the bytes in boot NOR read (R407): whether its key hash is an accepted one, its signature
verifies and its body hash agrees are facts about the bytes that the ROM's cryptography establishes. -/
structure Image where
  type : Nat
  svn : Nat
  bodyLen : Nat
  keySlot : Option Nat
  sigOk : Bool
  hashOk : Bool
  digest : Nat
deriving DecidableEq, Repr

/-- The 64-byte command header of a submission slot (R383); `ioOk` says whether host memory serves this command's
parameter block and outputs (R375). -/
structure Header where
  ioOk : Bool
  opcode : Nat
  flags : Nat
  tenant : Nat
  rsv : Nat
  requestId : Nat
  length : Nat
  param : Nat
  p0 : Nat
  p1 : Nat
  p2 : Nat
  p3 : Nat
deriving DecidableEq, Repr

/-! ### Frames and packets -/

/-- The Barfeos base header (R341) with the facts of its carrier: the module that the source address is a port or module
address of, the I/O die that received it, whether the frame carried CE, and the cc of its last bit at the pin (R365). -/
structure Bth where
  version : Nat
  flags : Nat
  dcid : Nat
  psn : Nat
  sbase : Nat
  seg : Nat
  src : Nat
  die : Nat
  ce : Bool
  bit : Nat
deriving DecidableEq, Repr

/-- A frame as a sub-port receives it (R305 to R311): its destination MAC and, in IPv6 or IPv4, its IP destination as a
number. `fecCorr` and `fecUncorr` are its corrected and uncorrectable codewords (R300), `stay` the cc for which it occupies the
ingress buffer (R311; log 44), `err` the error of its timestamp in ns (R327). `stray` is the base header of a Barfeos packet
whose opcode R343 does not list. -/
structure RxFrame where
  len : Nat
  fecCorr : Nat
  fecUncorr : Nat
  stay : Nat
  fragBad : Bool
  fcsBad : Bool
  mac : Nat
  vid : Option Nat
  pcp : Nat
  etherType : Nat
  ipDst : Nat
  hop : Nat
  ecn : Nat
  udpPort : Option Nat
  ipv6 : Bool
  ipCsum : Nat
  udpCsum : Nat
  opcode : Nat
  quanta : List (Nat × Nat)
  err : Int
  stray : Option Bth
deriving DecidableEq, Repr

/-- A frame of the host's transmit ring (R309): FLAGS, PORT and LENGTH of its descriptor, and the MAC addresses, EtherType,
tag, IP addresses, hop limit and the PCP, DSCP and ECN that the host has written into it (R312). -/
structure HostTx where
  flags : Nat
  port : Nat
  length : Nat
  pcp : Nat
  dscp : Nat
  ecn : Nat
  mac : Nat
  srcMac : Nat
  vid : Option Nat
  etherType : Nat
  ipSrc : Nat
  ipDst : Nat
  hop : Nat
deriving DecidableEq, Repr

/-- A finder record (R324). -/
structure FinderRec where
  type : Nat
  hold : Nat
  serial : Nat
  module : Nat
  port : Nat
  mode : Nat
  caps : Nat
  srcMac : Nat
deriving DecidableEq, Repr

/-- The body of CONNECT and ACCEPT (R343). -/
structure ConnBody where
  ctx : Nat
  incarnation : Nat
  sTenant : Nat
  dTenant : Nat
  jobId : Nat
  job : Bool
  bigP : Bool
deriving DecidableEq, Repr

/-- A CONNECT packet: its base header and its body. -/
structure Connect where
  hdr : Bth
  body : ConnBody
deriving DecidableEq, Repr

/-- The body of an ACK (R345): CE count, the PSNs reported beyond CUM, and the error records. -/
structure AckBody where
  ce : Nat
  sack : List Nat
  errors : List (Nat × Nat)
deriving DecidableEq, Repr

/-- The correlator sub-header (R274). -/
structure CorHdr where
  jobId : Nat
  op : Nat
  seg : Nat
  srank : Nat
  kind : Nat
  granule : Nat
  chunk : Nat
  step : Nat
deriving DecidableEq, Repr

/-- What an announce says of its grandmaster, and who sends it (R327): the fields that the best master clock algorithm compares. -/
structure Announce where
  prio1 : Nat
  cls : Nat
  accuracy : Nat
  variance : Nat
  prio2 : Nat
  identity : Nat
  steps : Nat
  sender : Nat
deriving DecidableEq, Repr

/-- A PTP message as a sub-port receives it (R327): the kind (0 announce, 1 sync with its follow-up, 2 the answer to a delay
request), its domain, and what an announce says. `sent` is the timestamp in ns, correction included, that a sync left its
master with, or with which the delay request arrived there; in peer-to-peer measurement the time for which the peer held the
request. `err` is the error of the module's own timestamp in ns. -/
structure PtpMsg where
  port : Nat
  kind : Nat
  domain : Nat
  sent : Nat
  err : Int
  ann : Announce
deriving DecidableEq, Repr

/-- The head of a datagram of the management segment: its SEQ, and whether its FCS fails (R334, R485). -/
structure MgtHead where
  seq : Nat
  bad : Bool
deriving DecidableEq, Repr

/-! ### The commands -/

/-- The block's commands, one per row of spec/opcode_table.json. -/
inductive Instr where
  -- spec/02: meridians, slips and aborts
  | meridian (t len ns : Nat) (err : Int) (rngOk : Bool)
  | twilightSlotStart (t : Nat)
  | twilightSlotEnd (t : Nat)
  | merHoldoverExpiry (t : Nat)
  | jobDeadline (t slot : Nat)
  | slipRequestReceive (t bit job sender : Nat) (mer : Int) (segment excess : Nat) (plan : SlipTail)
  | jobAbortReceive (t job sender : Nat)
  -- spec/04: the outer-product engine
  | mac (i : Issue)
  | drain (i : Issue)
  | release (i : Issue)
  | opeStepEntry (t : Nat) (at_ : Fetch)
  | streamRowWrite (t : Nat) (src : RowSrc)
  -- spec/05: scalar instructions
  | add (i : Issue)
  | sub (i : Issue)
  | mul (i : Issue)
  | mulh (i : Issue)
  | and (i : Issue)
  | or (i : Issue)
  | xor (i : Issue)
  | shl (i : Issue)
  | shr (i : Issue)
  | sra (i : Issue)
  | slt (i : Issue)
  | sltu (i : Issue)
  | min (i : Issue)
  | max (i : Issue)
  | movi (i : Issue)
  | movhi (i : Issue)
  | scvtf (i : Issue)
  | scvti (i : Issue)
  | rdspec (i : Issue)
  -- spec/06: vector instructions
  | vadd (i : Issue)
  | vsub (i : Issue)
  | vmul (i : Issue)
  | vfma (i : Issue)
  | vmax (i : Issue)
  | vmin (i : Issue)
  | vabs (i : Issue)
  | vneg (i : Issue)
  | vcvt (i : Issue)
  | vscale (i : Issue)
  | vbcast (i : Issue)
  | vextr (i : Issue)
  | vsel (i : Issue)
  | vcmplt (i : Issue)
  | vcmpeq (i : Issue)
  | vredsum (i : Issue)
  | vredmax (i : Issue)
  | vexp2 (i : Issue)
  | vlog2 (i : Issue)
  | vrecip (i : Issue)
  | vrsqrt (i : Issue)
  | vrand (i : Issue)
  | vmov (i : Issue)
  -- spec/05: memory-class instructions
  | mldv (i : Issue)
  | mstv (i : Issue)
  | mlds (i : Issue)
  | msts (i : Issue)
  | mldvx (i : Issue)
  | mcopy (i : Issue)
  | mstream (i : Issue)
  | mOpComplete (t : Nat) (core : Core) (data : List Byte) (err : Nat)
  -- spec/05: sync instructions
  | ysig (i : Issue)
  | ywge (i : Issue)
  | yweq (i : Issue)
  | yrst (i : Issue)
  | yarm (i : Issue)
  | yread (i : Issue)
  -- spec/05: control instructions
  | nop (i : Issue)
  | endThread (i : Issue)
  | br (i : Issue)
  | brc (i : Issue)
  | mile (i : Issue)
  | call (i : Issue)
  | ret (i : Issue)
  -- triggers and work requests
  | triggerFire (t obj idx : Nat) (data : Data)
  | workRequestComplete (t id err : Nat) (data : Data)
  -- spec/08: stack engines
  | seStream (t slot entry : Nat)
  | seAccum (t slot : Nat) (work : Ended)
  | seUpdate (t slot : Nat) (work : Ended)
  | sePack (t slot : Nat) (work : Ended)
  | seUnpack (t slot : Nat) (work : Ended)
  | seZero (t slot entry : Nat)
  | stripPhaseComplete (t run strip : Nat) (err : EngErr)
  | accumulateWrite (t : Nat) (who : Writer) (va : Nat) (data : List Byte) (ecc : Ecc)
  | pageFillComplete (t : Nat) (stack : Stack)
  | patrolScrubRead (t : Nat) (stack : Stack) (ecc ecc2 : Ecc)
  -- spec/10: tiers, ephemeris, vault
  | promotionComplete (t obj page : Nat) (data : Arrival)
  | demotionCopyComplete (t obj : Nat) (read : PageRead)
  | ephEntryArm (t slot entry : Nat)
  | ephDeadlineFallback (t slot entry : Nat)
  | ephPageFail (t slot entry page : Nat)
  | vaultFlush (f : Flush)
  | vaultErase (t : Nat) (work : Erasure)
  | wearLevelMove (t src dst : Nat) (failed : Bool)
  -- spec/11: correlator
  | allreduce (t slot op : Nat)
  | reduceScatter (t slot op : Nat)
  | allgather (t slot op : Nat)
  | alltoall (t slot op : Nat)
  | permute (t slot op : Nat)
  | ringRotate (t slot op : Nat)
  | verdict (t slot op : Nat)
  | qsend (t slot op : Nat)
  | qrecv (t slot op : Nat)
  | corOpComplete (t slot : Nat) (work : Ended)
  | corDataGranule (t : Nat) (h : Bth) (hdr : CorHdr) (digest : Option Nat) (data : Data)
  | corVerdictFrame (t : Nat) (h : Bth) (hdr : CorHdr) (dirty : Bool)
  | corPermuteGo (t : Nat) (h : Bth) (hdr : CorHdr) (digest : Option Nat)
  | corCreditFrame (t : Nat) (h : Bth) (hdr : CorHdr) (edge : Nat)
  | creditRepeat (t slot edge : Nat)
  -- spec/12: links, frames, finder, PTP, management segment
  | linkUp (t code : Nat)
  | linkDown (t code : Nat)
  | laneFail (t port lane : Nat) (healthy0 healthy1 accepted : Bool)
  | sprayRejoin (t code : Nat)
  | preemptVerify (t port : Nat) (ok : Bool)
  | frameReceive (t code : Nat) (f : RxFrame)
  | pfcPauseExpire (t code prio : Nat)
  | frameTransmit (t code : Nat)
  | finderSend (t code : Nat)
  | finderReceive (t code : Nat) (r : FinderRec)
  | finderHoldExpiry (t code : Nat)
  | mgtFinderSend (t : Nat)
  | ptpMessageReceive (t : Nat) (m : PtpMsg)
  | ptpMessageSend (t port kind : Nat)
  | ptpAnnounceTimeout (t port : Nat) (master : Option Nat)
  | syncInEdge (t ns : Nat) (offset : Int)
  | syncOutPulse (t : Nat)
  | ptpTimeSet (t ns : Nat)
  | txRingDoorbell (t tail : Nat) (frames : List HostTx)
  | puTailWrite (t tail : Nat)
  | mgtTransmit (t : Nat) (busy collision : Bool)
  | mgtBackoffExpiry (t : Nat) (busy collision : Bool)
  -- spec/13: Barfeos
  | connect (t : Nat) (p : Connect)
  | accept (t : Nat) (h : Bth) (b : ConnBody)
  | refuse (t : Nat) (h : Bth) (cause : Nat)
  | close (t : Nat) (h : Bth)
  | write (t : Nat) (h : Bth) (key : Nat) (rgn : RgnBytes) (data : List Byte)
  | readReq (t : Nat) (h : Bth) (key : Nat) (rgn : RgnBytes) (ecc : Ecc)
  | readResp (t : Nat) (h : Bth) (off : Nat) (data : List Byte)
  | atomic (t : Nat) (h : Bth) (key off aop : Nat) (ops : AtomicOps) (ecc : Ecc)
  | atomicResp (t : Nat) (h : Bth) (old : W64)
  | sync (t : Nat) (h : Bth) (key obj sop value wrh : Nat)
  | ack (t : Nat) (h : Bth) (b : AckBody)
  | nak (t : Nat) (h : Bth) (code retryAfter : Nat)
  | bftWriteLand (t : Nat) (pkt : PktName) (data : List Byte) (ecc : Ecc)
  | bftHoldRelease (t : Nat) (r : Release)
  | bftHoldExpiry (t hold : Nat)
  | bftContextFetch (t ctx : Nat) (ok : Bool)
  | bftRtoExpiry (t ctx psn : Nat)
  | bftRetryAfterExpiry (t ctx psn : Nat)
  | bftAckTimer (t ctx : Nat)
  | bftIdleClose (t ctx : Nat)
  | bftCwndIncrease (t ctx : Nat)
  -- spec/14: host link
  | perstAssert (t : Nat)
  | perstRelease (t : Nat)
  | pcieLinkUp (t speed width : Nat) (link : LinkConf)
  | vfFlr (t vf : Nat)
  | pf0Flr (t : Nat)
  | vfEnableClear (t : Nat)
  | d3hotEntry (t fn : Nat)
  | sqDoorbell (t fn ring tail : Nat)
  | cqHeadWrite (t fn ring head : Nat)
  | ringEnableWrite (t fn ring value : Nat)
  | commandFetch (t fn ring : Nat) (h : Option Header)
  | commandStartedTimeout (t cmd : Nat)
  | irqCoalesceExpiry (t fn ring : Nat)
  | bar4Read (t fn addr len : Nat) (ecc : Ecc)
  | bar4Write (t fn addr : Nat) (data : Data)
  | bar4ReadTimeout (t id : Nat)
  | atsInvalidation (t fn addr len : Nat)
  | ideIntegrityFail (t stream : Nat)
  | ideKeyLoad (t stream : Nat)
  -- spec/14: command packets
  | planLoad (t cmd : Nat) (p : PlanImage)
  | planUnload (t cmd : Nat)
  | jobStart (t cmd : Nat) (b : JobBlock)
  | jobStop (t cmd : Nat)
  | jobStopAbort (t cmd : Nat)
  | tierSetup (t cmd : Nat)
  | objMap (t cmd : Nat) (b : MapBlock)
  | objMapExisting (t cmd : Nat) (b : MapBlock)
  | baseObjectSeal (t cmd : Nat) (b : MapBlock)
  | objUnmap (t cmd : Nat)
  | objPlace (t cmd : Nat)
  | objPin (t cmd : Nat)
  | objVote (t cmd : Nat)
  | objQuery (t cmd : Nat)
  | window (t cmd : Nat)
  | ephLoad (t cmd : Nat) (es : List EphEntry)
  | rgnSetup (t cmd : Nat)
  | rgnRegister (t cmd : Nat) (b : RegionBlock)
  | rgnRevoke (t cmd : Nat)
  | tenantCreate (t cmd : Nat)
  | tenantDestroy (t cmd : Nat)
  | partition (t cmd : Nat)
  | powerShare (t cmd : Nat)
  | lsRule (t cmd : Nat)
  | censusRead (t cmd : Nat)
  | energyQuery (t cmd : Nat)
  | attest (t cmd : Nat) (nonce : Nat)
  | fwStage (t cmd : Nat) (data : List Byte)
  | fwActivate (t cmd : Nat) (img : Image)
  | selftest (t cmd : Nat)
  | spareRetire (t cmd : Nat)
  | spareRetireForce (t cmd : Nat)
  | logRead (t cmd : Nat)
  -- spec/16, spec/17: power, heat, receipts
  | voltageSample (t mv ma : Nat)
  | surgeTimeout (t : Nat)
  | sagTimeout (t : Nat)
  | sagRelease (t : Nat)
  | uvloRelease (t : Nat)
  | uvloLatchClear (t : Nat)
  | bringupStart (t : Nat)
  | inrushCharged (t : Nat)
  | currentLimitTrip (t : Nat)
  | supplyLoss (t : Nat)
  | safeNAssert (t : Nat)
  | safeStopConvertersOff (t : Nat)
  | grantFrame (t : Nat)
  | powerControlPeriod (t : Nat) (fixedW : Nat)
  | phaseDemandUpdate (t slot phase : Nat) (x : List (Nat × Nat))
  | thermalSample (t sensor : Nat) (deciC : Int)
  | thermalCeilingStep (t : Nat)
  | meterOutOfRange (t : Nat)
  | receiptSigned (t : Nat)
  | receiptCheckpoint (t account : Nat)
  -- spec/18: faults
  | ackWindowExpiry (t record : Nat)
  | fltAck (t record : Nat)
  | nightLogDrain (t : Nat)
  | beaconGenerate (t : Nat)
  -- spec/19: self-test
  | sliceComplete (t slice inst sig : Nat) (res : Measured)
  | sliceBudgetExpiry (t slice inst : Nat)
  | channelPairCopyComplete (t : Nat) (stack : Stack)
  | almanacWriteComplete (t : Nat)
  -- spec/20: bring-up and update
  | bringupRails (t : Nat) (good : Bool)
  | bringupBootRom (t : Nat) (seOk : Bool)
  | bringupAlmanac (t : Nat) (factoryOk : Bool) (fieldOk : Bool)
  | bringupImages (t : Nat)
  | bringupSelfTest (t : Nat) (results : List (Nat × Nat × SliceRes))
  | bringupFill (t : Nat)
  | bringupRelease (t : Nat) (rngOk : Bool)
  | bringupReady (t : Nat)
  | bringupStopBeacon (t : Nat)
  | mgtFwStage (t : Nat) (h : MgtHead) (image offset : Nat) (data : List Byte)
  | mgtFwActivate (t : Nat) (h : MgtHead) (image : Nat) (img : Image)
  | mgtFwQuery (t : Nat) (h : MgtHead) (image : Nat)
  -- spec/21: registers
  | commitRegisterWrite (t addr value : Nat)
  | commitGroupMemberWrite (t addr value : Nat)
  | registerPairHiWrite (t addr value : Nat)
  | registerPairLoRead (t addr : Nat)
  | irqStatusW1c (t addr value : Nat)
  | registerWrite (t addr be value : Nat)
  -- further events
  | d3hotExit (t fn : Nat)
  | vfEnableSet (t : Nat) (n : Nat)
  | pcieLinkDown (t : Nat)
  | doeSpdmRequest (t : Nat) (session : Nat)
  | imageWriteComplete (t type : Nat)
  | syncInAbsent (t : Nat)
deriving DecidableEq, Repr

end Sys2Proof
end

