-- ==== Sys2Proof/Decode.lean ====
section
/-! DEFINITION. The command that a word spells. The table gives no row any bits, so no word spells a command: the block takes
its commands from outside (register accesses, frames, host commands, pins, events), each with its operands. -/

namespace Sys2Proof

/-- The command of a word of `nbits` bits: none, since no row of spec/opcode_table.json gives bits. -/
def decodeTableWord (_nbits _w : Nat) : Option Instr := none

end Sys2Proof
end

