-- ==== Sys2Proof/Config.lean ====
section
/-! DEFINITION. What the spec leaves open: values without a body, so that nothing can be proved of them but what holds
of every value. Each is applied to the counter `State.free` or to the operands it depends on (log 3). -/

namespace Sys2Proof

/-- A byte of a destination or value that the spec calls undefined (R291, R295, R448). -/
opaque Config.freeByte : Nat → Byte

/-- A word of the security processor's random source (R157, R159, R339). -/
opaque Config.random : Nat → W64

/-- SHA-384 of a byte string as a number (R405, R408, R440); the function itself lies outside the spec. -/
opaque Config.sha384 : List Byte → Nat

/-- An ECDSA signature over a digest by a key: 0 the identity key, 1 the receipt key (R411, R442). -/
opaque Config.ecdsa : Nat → Nat → Nat

/-- The certificate chain that the secure element holds (R411). -/
opaque Config.chain : List Byte

/-- A 64-bit signature of the almanac's dark frames or another factory record, by number (R409, R466). -/
opaque Config.factory : Nat → Nat

/-- The value of a dark frame of the factory part: by slice, instance and check (R464, R466). -/
opaque Config.dark : Nat → Nat → Nat → Int

/-- The virtual base of the object that a permute table at an address rearranges: neither the entry nor the table's
header states it (R277, R289). -/
opaque Config.permuteBase : Nat → Nat

/-- The flash channel that holds a page, by superblock × 1,024 + position (R266, R271, R469). -/
opaque Config.flashChannel : Nat → Nat

/-- The IDE stream that carries a function's packets where the host has set up selective streams: 1 to 8, or 0 for the link stream
(R376). -/
opaque Config.ideStream : Nat → Nat

/-- The index in the table pool of the aperture of a page of remote memory, by object and page (R245). -/
opaque Config.aperture : Nat → Nat → Nat

/-- The links between routers that a row crosses on its way through a die's stream plane: from a PHY stop 0 to 5, or the
die-to-die bridge stop 6, to cores, or to the bridge stop where it names none; routes are fixed and not given (R16). -/
opaque Config.meshRoute : Nat → List Nat → List Nat

/-- A choice among several admissible ones where the spec gives no order, by counter (R379, R426). -/
opaque Config.choice : Nat → Nat

end Sys2Proof
end

