-- ==== Sys2Proof/Machine/Tab.lean ====
section
/-! DEFINITION. Operations on sparse stores: reading, writing, erasing and replacing a run of keys.
Keys rise strictly and no entry equals the store's default, so equal stores are equal data. -/

namespace Sys2Proof.Machine

/-- What the store lists at a key. -/
def look {α : Type} : Tab α → Nat → Option α
  | [], _ => none
  | (k', v) :: r, k => if k = k' then some v else look r k

/-- The value at a key, the default where the key is not listed. -/
def tget {α : Type} (m : Tab α) (k : Nat) (d : α) : α := (look m k).getD d

/-- The store with a key's entry placed or replaced. -/
def tput {α : Type} : Tab α → Nat → α → Tab α
  | [], k, v => [(k, v)]
  | (k', v') :: r, k, v =>
    if k < k' then (k, v) :: (k', v') :: r
    else if k = k' then (k, v) :: r
    else (k', v') :: tput r k v

/-- The store without a key's entry. -/
def tdel {α : Type} : Tab α → Nat → Tab α
  | [], _ => []
  | (k', v') :: r, k => if k = k' then tdel r k else (k', v') :: tdel r k

/-- Write a value at a key: writing the default removes the entry. -/
def tset {α : Type} [DecidableEq α] (m : Tab α) (k : Nat) (v d : α) : Tab α :=
  if v = d then tdel m k else tput m k v

/-- The entries that a run of values occupies from a base key, defaults left out. -/
def trun {α : Type} [DecidableEq α] (d : α) : Nat → List α → Tab α
  | _, [] => []
  | b, v :: vs => if v = d then trun d (b + 1) vs else (b, v) :: trun d (b + 1) vs

/-- Replace the keys `b` to `b + vs.length - 1` by the values `vs`. -/
def tsplice {α : Type} [DecidableEq α] (m : Tab α) (b : Nat) (vs : List α) (d : α) : Tab α :=
  m.filter (fun e => e.1 < b) ++ trun d b vs ++ m.filter (fun e => b + vs.length ≤ e.1)

/-- The values at `n` keys from `b`. -/
def tread {α : Type} (m : Tab α) (b n : Nat) (d : α) : List α :=
  (List.range n).map (fun i => tget m (b + i) d)

/-- The store without the keys `b` to `b + n - 1`. -/
def tclear {α : Type} (m : Tab α) (b n : Nat) : Tab α :=
  m.filter (fun e => e.1 < b || b + n ≤ e.1)

/-- Replace an entry by a function of it, where the key is listed. -/
def tmod {α : Type} (m : Tab α) (k : Nat) (f : α → α) : Tab α :=
  match look m k with
  | some v => tput m k (f v)
  | none => m

/-- Apply a function to every entry. -/
def tmap {α : Type} (m : Tab α) (f : Nat → α → α) : Tab α := m.map (fun e => (e.1, f e.1 e.2))

/-- The canonical form: keys rise strictly and no entry is the default. -/
abbrev twf {α : Type} (d : α) (m : Tab α) : Prop :=
  m.Pairwise (fun a b => a.1 < b.1) ∧ ∀ e ∈ m, e.2 ≠ d

/-- Bits `lo` to `lo + w - 1` of a number. -/
def bits (x lo w : Nat) : Nat := x / 2 ^ lo % 2 ^ w

/-- One bit of a number. -/
def bitOf (x i : Nat) : Bool := x / 2 ^ i % 2 == 1

/-- A number with bits `lo` to `lo + w - 1` replaced. -/
def setBits (x lo w v : Nat) : Nat :=
  x / 2 ^ (lo + w) * 2 ^ (lo + w) + v % 2 ^ w * 2 ^ lo + x % 2 ^ lo

/-- The little-endian value of a byte string. -/
def leNat : List Byte → Nat
  | [] => 0
  | b :: r => b.toNat + 256 * leNat r

/-- The `n` little-endian bytes of a number. -/
def leBytes : Nat → Nat → List Byte
  | 0, _ => []
  | n + 1, x => BitVec.ofNat 8 x :: leBytes n (x / 256)

/-- A two's complement field of `w` bits as an integer. -/
def sext (w x : Nat) : Int :=
  if x % 2 ^ w < 2 ^ (w - 1) then (x % 2 ^ w : Nat) else (x % 2 ^ w : Nat) - (2 ^ w : Nat)

/-- An integer as a two's complement field of `w` bits. -/
def toField (w : Nat) (i : Int) : Nat := (i % (2 ^ w : Nat)).toNat

/-- Limit a number to a range. -/
def clampNat (lo hi x : Nat) : Nat := if x < lo then lo else if hi < x then hi else x

/-- Limit an integer to a range. -/
def clampInt (lo hi x : Int) : Int := if x < lo then lo else if hi < x then hi else x

/-- Ceiling of a quotient. -/
def ceilDiv (a b : Nat) : Nat := (a + b - 1) / b

/-- Saturating sum of `w` bits. -/
def satAdd (w a b : Nat) : Nat := min (a + b) (2 ^ w - 1)

end Sys2Proof.Machine
end

