-- ==== Sys2Proof/Machine/Sources.lean ====
section
/-! DEFINITION. The fault sources of R454: base class, scope and the kind of block an instance names. -/

namespace Sys2Proof.Machine

/-- What a source's instance names (R454, R456). -/
inductive Unit' where
  | none | core | bank | row | col | stack | port | channel | tier | half | edge | module | function | ide | quar | sensor
  | phase | meter | vault | cp | tag | die
deriving DecidableEq, Repr

/-- The base class and instance kind of each source that the module raises (R454). -/
def sourceTable : List (Nat × Nat × Unit') :=
  [(0x001, 4, .quar), (0x002, 4, .none), (0x020, 0, .none), (0x021, 2, .none), (0x022, 2, .none),
   (0x023, 2, .none), (0x024, 2, .module), (0x025, 2, .none), (0x040, 2, .core), (0x041, 2, .core)] ++
  [(0x042, 2, .row), (0x043, 2, .core), (0x044, 2, .core), (0x045, 2, .core), (0x046, 2, .core),
   (0x047, 0, .die), (0x048, 2, .die), (0x049, 2, .core), (0x04A, 3, .core), (0x04B, 1, .bank)] ++
  [(0x04C, 2, .bank), (0x080, 1, .stack), (0x081, 2, .stack), (0x082, 2, .stack), (0x083, 1, .stack),
   (0x084, 2, .stack), (0x085, 2, .stack), (0x0C0, 2, .none), (0x0C1, 2, .none), (0x0C2, 2, .none)] ++
  [(0x0C3, 2, .none), (0x0C4, 2, .tier), (0x0C8, 1, .channel), (0x0C9, 2, .channel), (0x0CA, 0, .none),
   (0x0CB, 3, .vault), (0x0CC, 2, .none), (0x0E0, 2, .half), (0x0E1, 2, .half), (0x0E2, 2, .edge)] ++
  [(0x0E3, 2, .none), (0x0E4, 2, .none), (0x100, 0, .port), (0x101, 3, .port), (0x102, 0, .module),
   (0x103, 0, .port), (0x104, 0, .port), (0x140, 2, .module), (0x141, 2, .module), (0x160, 2, .function)] ++
  [(0x161, 3, .ide), (0x180, 0, .tag), (0x181, 0, .none), (0x182, 2, .tag), (0x183, 2, .stack),
   (0x184, 2, .stack), (0x185, 2, .stack), (0x186, 0, .none), (0x187, 3, .cp), (0x1A0, 0, .none)] ++
  [(0x1A1, 4, .none), (0x1A2, 0, .none), (0x1A3, 4, .none), (0x1A4, 0, .sensor), (0x1A5, 4, .sensor),
   (0x1A6, 4, .none), (0x1A7, 3, .phase), (0x1C0, 3, .meter), (0x1D0, 3, .none), (0x1E0, 0, .none)]

/-- The base class of a source, 0 for a reserved ID. -/
def srcClass (src : Nat) : Nat := (tget sourceTable src (0, .none)).1

/-- The kind of block a source's instance names. -/
def srcUnit (src : Nat) : Unit' := (tget sourceTable src (0, .none)).2

/-- Default promotion word of a base class, ENABLE in bit 8 and N in [7:0] (R452); a C4 source has no threshold. -/
def promoWord (cls : Nat) : Nat :=
  match cls with
  | 0 => 255
  | 1 => 0x100 + 16
  | 2 => 0x100 + 8
  | 3 => 0x100 + 4
  | _ => 0

/-- Default promotion window of a base class in ms (R452). -/
def promoMs (cls : Nat) : Nat :=
  match cls with
  | 0 => 1
  | 1 => 86400000
  | 2 => 3600000
  | 3 => 86400000
  | _ => 0

end Sys2Proof.Machine
end

