-- ==== Sys2Proof/Machine/State.lean ====
section
/-! DEFINITION. The state of the block as plain data, the reasons a step can stop, and the state after reset.
Each field's docstring gives its width, the file and rule of spec/ that names it, and its reset value. -/

namespace Sys2Proof.Machine

/-- Reasons a step stops with a fault. There are none: every fault the spec describes is an event the module records
and reacts to (spec/18), so it is a next state. -/
inductive Fault
deriving DecidableEq, Repr

/-- Reasons a command is refused by the model. -/
inductive Refusal where
  /-- Raised by the dispatcher for a command that has no meaning yet; safe. -/
  | notModelled (mnemonic : String)
deriving DecidableEq, Repr

/-! ### Cores, threads, sync objects -/

/-- A thread context beside its registers (R113, R116). -/
structure Thread where
  /-- state code; 3 bits; 05 R116; reset 0 INACTIVE -/
  state : Nat
  /-- program counter, word address within the job's program on the core; 15 bits; 05 R113; reset 0 -/
  pc : Nat
  /-- owning job slot; 12 bits; 05 R113; reset 0 -/
  slot : Nat
  /-- owning tenant; 12 bits; 05 R113; reset 0 -/
  tenant : Nat
  /-- generator stream number; 12 bits; 06 R158; reset 0 -/
  stream : Nat
  /-- draws consumed in the segment; 32 bits; 06 R158; reset 0 -/
  draws : Nat
  /-- the cc from which the next instruction may issue, which is also its age; cc; 05 R118, R120; reset 0 -/
  readyAt : Nat
deriving DecidableEq, Repr

/-- A core-store range in flight (R121). -/
structure Range where
  core : Nat
  thr : Nat
  /-- first byte of the range -/
  lo : Nat
  /-- first byte past the range -/
  hi : Nat
  /-- cc from which the range is readable or free -/
  until_ : Nat
  /-- a column panel or column scales of a MAC, not a write -/
  panel : Bool
  /-- the bytes that stood there before a store or a drain; none for a panel or a copy (R122) -/
  old : List Byte
deriving DecidableEq, Repr

/-- The MAC that runs in a core's engine (R96, R101). -/
structure MacRun where
  slot : Nat
  thr : Nat
  bank : Nat
  fmt : Nat
  total : Nat
  col : Nat
  scale : Nat
  sca : Nat
  scb : Nat
  rowPos : Nat
  rel : Bool
  /-- steps entered so far -/
  step : Nat
  /-- cc at which the next step is due to enter -/
  due : Nat
deriving DecidableEq, Repr

/-- Where one address lies, or why it cannot be reached. -/
inductive Place where
  /-- a core store, by key -/
  | core (k : Nat)
  /-- HBM, by key, and the first frame of the page -/
  | hbm (k first : Nat)
  /-- the plate vault, by flash key -/
  | flash (k : Nat)
  /-- host memory, by host address -/
  | host (a : Nat)
  /-- a region of another module: module, tenant there, key and offset -/
  | remote (module peer key off : Nat)
  /-- a page on its way, and its tier -/
  | wait (h page tier : Nat)
  /-- a fault source -/
  | bad (src : Nat)
deriving DecidableEq, Repr

/-- An MCOPY or MSTREAM in flight (R132). -/
structure MOp where
  slot : Nat
  thr : Nat
  stream : Bool
  src : Nat
  dst : Nat
  len : Nat
  sig : Bool
  obj : Nat
  /-- Barfeos message of a copy that reaches another module (R360) -/
  msg : Nat
  /-- the places of a copy's source and destination, as translated at issue or when their pages arrived; 10 R246 -/
  sp : List (Place × Nat)
  dp : List (Place × Nat)
  /-- destination cores of an MSTREAM -/
  dests : List Nat
  /-- first slot of an MSTREAM -/
  first : Nat
  /-- slots still to be written by an MSTREAM; 1 for a copy whose message has still to leave (R211, R256) -/
  left : Nat
  /-- sideband address of an MSTREAM, none for zeros -/
  side : Option Nat
  /-- cc from which a copy may complete, or an MSTREAM's next slot be written; 02 R59, 04 R90 -/
  due : Nat
  /-- a planned copy, whose ends are core store and HBM since its issue: it completes at `due`; 02 R59, 08 R203 -/
  exact : Bool
deriving DecidableEq, Repr

/-- A slot of a weight stream ring; a free slot is not listed (R90, R108). -/
structure Slot where
  /-- 1 valid, 2 discard-pending, 3 lost -/
  state : Nat
  /-- 256 bytes of values -/
  vals : List Byte
  /-- 32 bytes of scale sideband -/
  side : List Byte
deriving DecidableEq, Repr

/-- What a core holds beside threads, registers, store, banks and ring. -/
structure CoreSt where
  /-- one of its die's enabled cores; 1 bit; 21 R500; reset by almanac -/
  enabled : Bool
  /-- retired in the almanac; 1 bit; 21 R500; reset by almanac -/
  retired : Bool
  /-- quarantined and not yet replaced; 1 bit; 21 R500; reset 0 -/
  quarantined : Bool
  /-- logical index; 4 bits; 21 R500; reset by almanac -/
  logical : Nat
  /-- tenants whose segments it last started; 15 R400; reset none -/
  tenants : List Nat
  /-- job slots that hold threads on it; 05 R119; reset none -/
  jobs : List Nat
  /-- job slots whose segments last held threads on it; 04 R109; reset none -/
  last : List Nat
  /-- 64-cc issue map, indices into jobs; 64 x 4 bits; 05 R119; reset none -/
  imap : List Nat
  /-- the MAC that occupies the engine; 04 R103; reset none -/
  mac : Option MacRun
  /-- cc from which the next MAC may issue; cc; 04 R103; reset 0 -/
  opeFree : Nat
  /-- per bank, cc from which its tile is readable; cc; 04 R101; reset 0 -/
  readable : List Nat
  /-- per bank, cc from which it is not DRAINING; cc; 04 R102; reset 0 -/
  drained : List Nat
  /-- cc from which the store's write port is free of drains; cc; 04 R102; reset 0 -/
  portFree : Nat
  /-- next slot a stream will write; 8 bits; 04 R112; reset 0 -/
  ringWr : Nat
  /-- free-running generator seed; 64 bits; 06 R157; reset 0, loaded at bring-up -/
  seed : W64
  /-- the seed is loaded; 1 bit; 06 R161; reset 0 -/
  seeded : Bool
  /-- MCOPY and MSTREAM in flight, oldest first; up to 64; 05 R132; reset none -/
  mq : List MOp
  /-- per class T V S M Y C, one past the cc of its last issue; cc; 05 R117; reset 0 -/
  issued : List Nat
  /-- per class, job slot of that issue; 12 bits; 05 R142; reset 0 -/
  issuer : List Nat
  /-- the 64-cc frame in which `used` counts; 16 R423; reset 0 -/
  frame : Nat
  /-- MAC step entries in that frame; 7 bits; 16 R423; reset 0 -/
  used : Nat
  /-- sag and thermal limit of the frame in 64ths; 7 bits; 16 R423; reset 64 DESIGN CHOICE -/
  grant : Nat
  /-- allocations of the frame in 64ths, by tenant; a tenant not listed has 64; 16 R424; reset none DESIGN CHOICE -/
  granted : Tab Nat
  /-- allocations of the controller, by tenant, that the next frame takes; 16 R428; reset none -/
  alloc : Tab Nat
  /-- thermal ceiling in 64ths; 7 bits; 16 R430; reset 64 -/
  ceiling : Nat
  /-- spare rows in service; 4 bits; 04 R112; reset by almanac -/
  spareRows : Nat
  /-- spare columns in service; 4 bits; 04 R112; reset by almanac -/
  spareCols : Nat
  /-- a job was aborted here since the last clearing of OPE state; 04 R109; reset 0 -/
  abortClear : Bool
deriving DecidableEq, Repr

/-- A trigger armed on a sync object (R137, R138). -/
structure Trigger where
  threshold : Nat
  handle : Nat
  slot : Nat
  armedAt : Nat
deriving DecidableEq, Repr

/-- An allocated sync object (R135). The last fields gather the operations of one cc, which take effect together
(R138): the value at the start of that cc, the reset that wins, and the sum of the signal-adds. -/
structure SyncObj where
  /-- counter; 64 bits; 05 R135; 0 at allocation -/
  value : Nat
  /-- owning job slot; 12 bits; 05 R143; set at allocation -/
  owner : Nat
  /-- owning tenant; 12 bits; 05 R143; set at allocation -/
  tenant : Nat
  /-- triggers armed, at most 4; 05 R137; none at allocation -/
  trigs : List Trigger
  /-- cc of the gathered operations -/
  stamp : Nat
  start : Nat
  reset : Option (Nat × Nat)
  adds : Nat
  /-- values the object has held since allocation, newest first: (cc, value, sources of the change) (R140) -/
  hist : List (Nat × Nat × List Nat)
deriving DecidableEq, Repr

/-! ### Plans and jobs -/

/-- A loaded plan (R390). -/
structure Plan where
  tenant : Nat
  image : PlanImage
  eph : List EphEntry
  /-- status array address (R265) -/
  status : Nat
deriving DecidableEq, Repr

/-- The loss-scale rule's parameters (R181). -/
structure LsPar where
  ls0 : Nat
  lsMin : Nat
  lsMax : Nat
  nClean : Nat
  enable : Bool
deriving DecidableEq, Repr

/-- An ephemeris entry in execution (R259 to R265). -/
structure EphRun where
  entry : Nat
  /-- ARM_CC has come, at this cc and meridian -/
  armed : Bool
  armAt : Nat
  armM : Int
  /-- among the entries in flight, at most 256 in the module -/
  going : Bool
  mismatch : Bool
  /-- pages not yet RESIDENT -/
  left : List Nat
  done : Nat
  /-- ended: complete, fallen back or failed -/
  ended : Bool
deriving DecidableEq, Repr

/-- A correlator operation of a started segment (R279, R284). -/
structure CorRun where
  op : Nat
  /-- number of the queue entry that a QSEND appends (R292) -/
  num : Nat
  /-- 0 armed, 1 begun, 2 complete -/
  phase : Nat
  /-- begun at this cc -/
  at_ : Nat
  /-- granules received or reduced while the operation runs, by kind, chunk and granule -/
  chunks : Tab (List Byte)
  /-- verdicts received: (rank, dirty) -/
  verdicts : List (Nat × Bool)
  /-- granules of a QSEND still held for credit -/
  held : Nat
  /-- SIG and SIG_SRC given -/
  landed : Bool
  sent : Bool
  /-- permute cycles led here and started; moves landed here by leader: last move index + 1 (R290, R291) -/
  led : Nat
  cyc : Tab Nat
  /-- go frames that wait: (slot, finishing); slots whose content is on its way: (slot, 1 from the staging block, 2 more where
  it moves within the module) (R290) -/
  goes : List (Nat × Bool)
  moving : List (Nat × Nat)
  /-- results on their way into memory (R285), and whether it waits for a contribution (R279) -/
  landing : Nat
  waits : Bool
deriving DecidableEq, Repr

/-- A queue edge of a job (R292, R293). -/
structure EdgeSt where
  credits : Nat
  sentTotal : Nat
  /-- largest cumulative count seen from downstream -/
  seen : Nat
  /-- cumulative granules freed here -/
  freed : Nat
  /-- granules in the burst queue: (entry, granule, bytes) -/
  burst : List (Nat × Nat × List Byte)
  /-- granules in the HBM ring -/
  ring : List (Nat × Nat × List Byte)
  /-- granules on their way into the ring: (entry, granule, cc at which they have landed) (R285) -/
  lands : List (Nat × Nat × Nat)
  /-- granules placed in the ring since job start -/
  ringPut : Nat
  nextSend : Nat
  nextRecv : Nat
  /-- cc of the last credit frame (R293) -/
  creditAt : Nat
deriving DecidableEq, Repr

/-- A job in a job slot (R44 to R58, R389). -/
structure Job where
  tenant : Nat
  id : Nat
  plan : Nat
  /-- command that started it and still owes a final reply -/
  cmd : Option Nat
  request : Nat
  block : JobBlock
  /-- sync bases and counts on CD0 and CD1 (R136) -/
  base0 : Nat
  base1 : Nat
  /-- 0 waiting for START_M, 1 running a segment, 2 its segment is done, 3 aborted -/
  phase : Nat
  /-- segments started; 32 bits (R48) -/
  segs : Nat
  /-- plan segment that runs or ran last (R48) -/
  seg : Nat
  /-- cc and meridian number at which the segment started -/
  segAt : Nat
  segM : Int
  /-- cc at which the current exposure's deadline is counted from -/
  deadline : Int
  lateness : Int
  finish : Int
  stopping : Bool
  /-- JOB_STOP with ABORT waits for the meridian -/
  abortNext : Bool
  /-- abort cc and source of an aborted job (R448) -/
  aborted : Option (Nat × Nat)
  /-- meridian numbers to come for which a slip is honoured (R53) -/
  honoured : List Int
  /-- own request made for the coming meridian (R51) -/
  requested : Bool
  /-- slips of this segment in a row (R54) -/
  run : Nat
  /-- slip requests seen: (sender, meridian) (R53) -/
  seen : List (Nat × Int)
  /-- step number (R168) -/
  step : Nat
  optStep : Nat
  ls : Nat
  clean : Nat
  lsPar : LsPar
  lsNext : Option LsPar
  lastSkip : Bool
  /-- local verdict so far in the step: dirty (R177) -/
  dirty : Bool
  /-- verdict frozen at UPDATE_START, combined where a VERDICT ran (R177, R178) -/
  verdict : Option Bool
  /-- AMAX of the step so far, by tag (R170) -/
  amax : Tab Int
  /-- AMAX history, newest first, by tag; none where a step held no finite nonzero value (R170) -/
  hist : Tab (List (Option Int))
  /-- active scale, by MODE 1 tag (R169, R171) -/
  scales : Tab Int
  /-- tags clamped in the current step (R169) -/
  clamped : List Nat
  /-- hyperparameter entries as of the step's UPDATE_START (R225) -/
  hyps : List Byte
  eph : List EphRun
  cor : List CorRun
  /-- SE entries and streams that segments have still to carry out, with the cc at which their segment started; streams
  stand above 65,536 (R195, R198) -/
  busy : List (Nat × Nat)
  /-- a request beyond MER_SLIP_MAX was not sent: the next meridian is an exposure overrun (R54) -/
  overdue : Bool
  /-- learned demand in 4096ths, by phase × 64 + core (R427) -/
  demand : Tab Nat
  /-- direct energy of the exposure in pJ (R436) -/
  direct : Nat
deriving DecidableEq, Repr

/-! ### Stacks and stack engines -/

/-- A weight stream that runs (R198). -/
structure StreamRun where
  slot : Nat
  entry : Nat
  /-- cc at which its segment started -/
  at_ : Nat
  row : Nat
  /-- cc from which the next row may become valid (R199) -/
  due : Nat
  /-- the stream buffer: masters of rows read and not yet delivered, oldest first, and the next row to read; at most 32 rows;
  08 R190, R199 -/
  buf : List (List Byte)
  next : Nat
  /-- destinations bound in other jobs: (job slot, core, first slot) (R406) -/
  bound : List (Nat × Nat × Nat)
deriving DecidableEq, Repr

/-- A contribution to a sum: 0 planned, 1 of the correlator, 2 outside the plans; its operand, the tenant and tag that count it,
and the code that stands after it (R203, R219). -/
structure SumIn where
  cls : Nat
  x : W32
  tenant : Nat
  tag : Nat
  code : Nat
deriving DecidableEq, Repr

/-- A stack and its engine. -/
structure StackSt where
  /-- bring-up fill complete; 1 bit; 08 R213; reset 0 -/
  ready : Bool
  /-- unusable until a power cycle; 19 R469; reset 0 -/
  unusable : Bool
  /-- channel group of the current or last slot; 2 bits; 08 R219; reset 0 -/
  group : Nat
  /-- a twilight slot is in progress; 1 bit; 08 R219; reset 0 -/
  inSlot : Bool
  /-- streams running, at most 8; 08 R198; reset none -/
  streams : List StreamRun
  /-- the burst period in which sums were last added, by its first cc, and those sums by HBM key: the code that stood there
  before, and what was added, in order; they are counted at the end of that burst period; 07 R165, 08 R203; reset none -/
  sumsAt : Nat
  sums : Tab (Nat × List SumIn)
  /-- released pages to fill: (first frame, frames); 08 R214; reset none -/
  fill : List (Nat × Nat)
  /-- burst the scrubber reads next; 30 bits; 08 R216; reset 0 -/
  scrub : Nat
  /-- frames under UPDATE that the pass left out, and that it is on its return to them; 08 R216; reset none -/
  skipped : List Nat
  back : Bool
  /-- a pass has ended late, and none on time since; 1 bit; 08 R216; reset 0 -/
  behind : Bool
  /-- cc at which the scrubber's pass began; 08 R216; reset 0 DESIGN CHOICE -/
  passAt : Nat
  /-- frame of the last uncorrectable error; 20 bits; 08 R219; reset none -/
  lastUe : Option Nat
  /-- spare lanes in service; 6 bits; 08 R219; reset by almanac -/
  laneSpares : Nat
  /-- spare channel pair in service; 1 bit; 08 R219; reset by almanac -/
  chSpare : Bool
  /-- channel pair whose contents are being copied to the spare pair, and whether the copy is complete; 19 R471; reset none -/
  chCopy : Option (Nat × Bool)
  /-- rows repaired; 10 bits; 19 R470; reset by almanac -/
  rowRepairs : Nat
  /-- frames retired, with the SEQ of the retiring entry; 08 R215, 18 R458; reset none -/
  retired : List (Nat × Nat)
  /-- digest of the microcode in use; 384 bits; 15 R408; reset 0 -/
  micro : Nat
  /-- free-running seed; 64 bits; 06 R159; reset 0, loaded at bring-up -/
  seed : W64
  /-- tenants whose segments its engine last worked for; 06 R159; reset none -/
  tenants : List Nat
deriving DecidableEq, Repr

/-- A commit record (R207); FREE records are not listed. -/
structure CommitRec where
  step : Nat
  job : Nat
  state : Nat
  buffer : Nat
  stochastic : Bool
  object : Nat
deriving DecidableEq, Repr

/-- What one counted value shows the census (R164, R166). -/
structure Seen where
  zero : Bool := false
  sat : Bool := false
  inf : Bool := false
  nan : Bool := false
  amax : Option Int := none
deriving DecidableEq, Repr

/-- A strip in flight (R206): its index in the part, phase 0 READ, 1 COMPUTE, 2 STAGE, 3 COPY_M, 4 COPY_W, 5 ZERO_G,
6 FINISH, and its strip buffer: masters, gradient, first and second moments and OUT as READ brings them in, the first,
third and fourth replaced by COMPUTE (R190). -/
structure StripRun where
  idx : Nat
  phase : Nat
  /-- number of the strip buffer; 0 to 6; 08 R190, R207 -/
  buffer : Nat
  /-- cc at which its phase starts, and the cc at which the phase ends, none while it waits for its turn; 08 R206 -/
  ready : Nat
  due : Option Nat
  w : List Nat
  g : List Nat
  m1 : List Byte
  m2 : List Byte
  o : List Nat
  /-- deferred bursts of its phase; 08 R194 -/
  deferred : Nat
  /-- what its new values count, by tag, once they are readable; 07 R165, 08 R211 -/
  seen : List (Nat × List Seen)
deriving DecidableEq, Repr

/-- An UPDATE on one stack (R206 to R212): status as SE_STRIP_STATUS. -/
structure UpdRun where
  slot : Nat
  entry : Nat
  stack : Nat
  step : Nat
  n : Nat
  status : Nat
  /-- 0 a strip pass, 1 the zeroing of the gradient after a dirty verdict (R212), 2 a pre-pass, whose strips stand for its
  phases (R233) -/
  mode : Nat
  next : Nat
  done : Nat
  strips : List StripRun
  job : Nat
  master : Nat
  /-- a re-run of a torn step (R210), and whether the part was torn before -/
  rerun : Bool
  torn : Bool
  /-- the entry itself: a roll-forward may outlast its job (R209) -/
  part : SeEntry
  /-- the part buffer: header and current sketch slot as read before the first strip; 08 R190, 09 R238 -/
  sketch : List Byte
  /-- its planned phases by 8 × strip + phase: first cc, the cc by which it is done, deferred bursts; and that it runs off that
  plan, after a fault or a late start; 08 R196, R208 -/
  sched : Tab (Nat × Nat × Nat)
  retimed : Bool
  /-- cc from which its first READ may start; 09 R238 -/
  readAt : Nat
  /-- the tenant whose census counts it; 07 R165 -/
  tenant : Nat
  /-- cc of an interruption from which its strips' phases run again, 0 once they do; 08 R208 -/
  kick : Nat
deriving DecidableEq, Repr

/-! ### Objects, frames, vault -/

/-- A tenant's mapping of an object (R250). -/
structure Mapping where
  tenant : Nat
  base : Nat
  w : Bool
  acc : Bool
  /-- pages on which the tenant holds a pin, and the cc of the last pin on a page (R253, R254) -/
  pins : List Nat
  pinAt : Tab Nat := []
deriving DecidableEq, Repr

/-- An object (R250, R391). -/
structure Obj where
  pages : Nat
  /-- page size code: 0 64 KiB, 1 2 MiB, 2 1 GiB -/
  psize : Nat
  home : Nat
  policy : Nat
  stks : Nat
  stripe : Nat
  shelf : Nat
  /-- host address, remote region offset, or first logical vault page -/
  homeLoc : Nat
  key : Nat
  module : Nat
  peer : Nat
  /-- ACCUMULATE: rounding SR, and data X32 (R202, R391) -/
  accSr : Bool
  accX : Bool
  tag : Nat
  desc : Option Descriptor
  /-- stored hash of a sealed base object (R405) -/
  sealHash : Option Nat
  maps : List Mapping
  /-- pages marked lost (R271) -/
  lost : List Nat
  /-- pages in HBM: first frame as stack × 2^20 + frame -/
  loc : Tab Nat
deriving DecidableEq, Repr

/-- A frame record of a page's first frame; a FREE frame is not listed (R253). PINS is counted from the mappings. -/
structure Frame where
  /-- 1 FILLING, 2 RESIDENT, 3 PROMOTING, 4 DEMOTING -/
  state : Nat
  dirty : Bool
  /-- tenants whose release vote is pending; VOTE is set while there is one (R253, R258) -/
  voters : List Nat
  lock : Bool
  obj : Nat
  page : Nat
  /-- written since the demotion copy began, and whether that copy is complete (R255) -/
  written : Bool
  copied : Bool
  /-- cc of the last write, for the shelf (R267); while PROMOTING, the cc from which its copy has open slots (R196) -/
  touched : Nat
  /-- cc of the first write since the page was last copied to its home (R268) -/
  dirtyAt : Nat
deriving DecidableEq, Repr

/-- A superblock of the vault (R266, R270). -/
structure Superblock where
  erases : Nat
  erased : Bool
  retired : Bool
  /-- pages programmed -/
  used : Nat
deriving DecidableEq, Repr

/-- The plate vault (R266 to R271). -/
structure Vault where
  /-- superblocks that are not fresh: by number -/
  blocks : Tab Superblock
  /-- vault map: logical page to superblock × 1024 + position, listed once written (R243, R402) -/
  map : Tab Nat
  /-- next free logical page -/
  nextPage : Nat
  /-- freed logical ranges: (first, pages) -/
  free : List (Nat × Nat)
  /-- superblocks erased since bring-up (R269) -/
  erased : Nat
  ready : Bool
  readOnly : Bool
  /-- the shelf page whose flush is under way: (object, page, first frame) (R268) -/
  flushing : Option (Nat × Nat × Nat)
  /-- logical pages in which a correctable error was found, to be rewritten at their next wear-levelling move (R271) -/
  weak : List Nat
  /-- spare pool in superblocks (R270) -/
  spare : Nat
  lowRaised : Bool
deriving DecidableEq, Repr

/-! ### Ports, PTP, management segment -/

/-- A night-log entry (R456). -/
structure Entry where
  seq : Nat
  time : Nat
  mer : Int
  cc : Nat
  source : Nat
  cls : Nat
  flags : Nat
  inst : Nat
  jobId : Nat
  slot : Nat
  tenant : Nat
  coalesced : Nat
  quar : Nat
  detail : Nat
deriving DecidableEq, Repr

/-- A receipt (R440). -/
structure Receipt where
  account : Nat
  seq : Nat
  meta_ : Nat
  unc : Nat
  id : Nat
  tStart : Nat
  tEnd : Nat
  eDirect : Nat
  eShared : Nat
  eIdle : Nat
  fwm : Nat
  prev : Nat
  sig : Nat
deriving DecidableEq, Repr

/-- What a frame carries: an own protocol's message by kind and fields, or a frame in transit or from the host. -/
inductive Msg where
  | slip (version type job sender : Nat) (mer : Int) (segment excess period run : Nat)
  | finder (payload : List Byte)
  | neighbours (payload : List Byte)
  | ptp (kind domain : Nat) (ann : Announce)
  | bft (opcode flags dcid psn sbase seg : Nat) (hdr : List Nat) (cor : Option CorHdr) (data : List Byte)
  | ack (dcid cum sbase seg ce : Nat) (sack : List Nat) (errors : List (Nat × Nat))
  | host (slot : Nat) (stamp : Bool)
  | transit (ingress : Nat) (stomp : Bool)
  | pfc (prio quanta : Nat)
  | receipt (r : Receipt)
  | beacon (type : Nat) (e : Entry)
  | stopBeacon (cause : Nat)
  | fwReply (op seq image status staged : Nat)
deriving DecidableEq, Repr

/-- A frame queued at a sub-port's egress (R314). -/
structure TxFrame where
  /-- 0 express, 1 of a loaded plan, 2 other preemptable -/
  group : Nat
  pcp : Nat
  /-- DSCP of its IP header; 12 R312 -/
  dscp : Nat
  /-- UDP destination port; 0 for a frame without one and a frame in transit; 02 R52, 13 R340 -/
  udp : Nat
  /-- bytes on the wire, FCS included -/
  len : Nat
  /-- ECN of its IP header: 0 Not-ECT, 1 ECT(1), 2 ECT(0), 3 CE; 12 R312, R315 -/
  ecn : Nat
  /-- planned cc, for group 1 -/
  planCc : Nat
  /-- cc from which its first bit may be at the pin; 0 until it is queued; 02 R59, 13 R365 -/
  readyAt : Nat
  /-- the tenant whose traffic it is; none for the module's own; 15 R398 -/
  tenant : Option Nat
  msg : Msg
  /-- the last response of a request: DCID of the request, first PSN, PSNs, ACKREQ; their outcome is recorded once it has left;
  13 R355 -/
  ends : Option (Nat × Nat × Nat × Bool) := none
  /-- UDP source port: that of a Barfeos packet; 0 where the spec gives none; 13 R340 -/
  sport : Nat := 0
  /-- hop limit or TTL, 0 for a frame without one; 12 R316, R321 -/
  hops : Nat := 0
  /-- destination and source MAC; 12 R319, R321, R324 -/
  mac : Nat := 0
  srcMac : Nat := 0
  /-- VID of its tag; 12 R308 -/
  vid : Option Nat := none
  /-- EtherType; 12 R306, R324 -/
  ether : Nat := 0x86DD
  /-- IP source and destination, 0 for a frame without them; 12 R316, R318 -/
  ipSrc : Nat := 0
  ipDst : Nat := 0
  /-- the module computes its IPv4 header and UDP checksums; 12 R310 -/
  csum : Bool := true
deriving DecidableEq, Repr

/-- A sub-port, by port code (R301). -/
structure Port where
  up : Bool
  /-- cc of link up -/
  upAt : Nat
  inSpray : Bool
  loop : Bool
  preempt : Bool
  /-- in use by 400G pair when degraded: none, or the pair (R302) -/
  degraded : Option Nat
  /-- stays down until repair or power cycle -/
  failed : Bool
  /-- paused priorities with the cc at which the pause ends (R311) -/
  paused : List (Nat × Nat)
  /-- egress queue, in order of queueing -/
  queue : List TxFrame
  /-- finder sequence number (R324) -/
  seq : Nat
  /-- last finder record and its arrival (R325) -/
  nbr : Option (FinderRec × Nat)
  /-- NBR_VALID (R325) -/
  nbrOk : Bool
  /-- cc from which the egress is idle, whether a preemptable frame is in progress until then, and the cc at which its fragment
  in progress began or resumes (R313) -/
  freeAt : Nat
  onWire : Bool
  wireAt : Nat
  /-- cc from which no express frame is in progress, and whether the preemptable frame in progress was counted in PREEMPTED
  (R313) -/
  exFree : Nat
  cutOff : Bool
  /-- cc at which the last finder announce was queued (R324) -/
  finderAt : Option Nat
  /-- priorities for which XOFF was sent, and no XON since; bytes in the ingress buffer by priority (R311) -/
  xoff : List Nat
  ingress : Tab Nat
  /-- digest of the SerDes firmware in use -/
  serdes : Nat
  /-- firmware changed over and not rejoined since (R488) -/
  reload : Bool
deriving DecidableEq, Repr

/-- The timebase (R32 to R37, R327 to R330). -/
structure Timebase where
  /-- 0 LOCKED, 1 DRIFT, 2 UNLOCKED; 2 bits; 02 R62; reset 2 -/
  lock : Nat
  /-- PTP time in ns at cc `nsAt`; 64 bits; 12 R329; reset 0 -/
  ns : Nat
  nsAt : Nat
  /-- what the time at `nsAt` has beyond those ns, and what it gains by `rateCc` cc, in 10^-5 ns; 02 R35, R36; reset 0,
  and 10^6 in 33 cc, the nominal rate -/
  frac : Int
  rate : Nat
  rateCc : Nat
  /-- what is still to be made good by slewing since cc `slewAt`, in 10^-5 ns; 02 R36, 12 R329; reset 0 -/
  owed : Int
  slewAt : Nat
  /-- time of day is set; 12 R328; reset 0 -/
  todSet : Bool
  /-- last measured offset, signed ns; 32 bits; 12 R334; reset 0 -/
  offset : Int
  /-- slave port code, 0xFE SYNC_IN, 0xFF none; 8 bits; 12 R334; reset 0xFF -/
  slave : Nat
  /-- a SYNC_IN edge within the last 1.1 s; 1 bit; 12 R334; reset 0 -/
  inPresent : Bool
  /-- cc of the last PTP message or edge; 02 R36; reset 0 -/
  lastMsg : Nat
  /-- cc of the last SYNC_IN edge; 12 R334; reset 0 -/
  lastEdge : Nat
  /-- the masters heard, by sub-port: what the last announce said, and its cc; 12 R327, R328; reset none -/
  heard : Tab (Announce × Nat)
  /-- cc of the last message sent, by 4 × sub-port + kind; 12 R327; reset none -/
  sentAt : Tab Nat
  /-- of the slave sub-port: the time at which its last sync left the master and arrived, and at which its last delay request
  left, and the mean path delay, ns; 12 R327; reset 0 -/
  t1 : Int
  t2 : Int
  t3 : Int
  path : Int
  /-- held halves of SET_SEC (R329); reset 0 -/
  setSec : Nat
deriving DecidableEq, Repr

/-- The meridian state (R32 to R39). -/
structure Meridian where
  /-- meridian number M; 64 bits signed; 02 R62; reset 0 -/
  count : Int
  /-- L of the current exposure; 32 bits; 02 R62; reset 0 -/
  length : Nat
  /-- phase error of the last meridian in ns; 32 bits signed; 02 R62; reset 0 -/
  err : Int
  /-- cc of the current meridian; reset 0 -/
  at_ : Nat
  /-- PTP time in ns of the next meridian's instant, and the cc edge nearest to it; 02 R32, R35; reset 0 -/
  next : Int
  due : Nat
  /-- the exposure is the changeover exposure of MER-0 (R37); reset 0 -/
  changeover : Bool
  /-- meridians are being placed (R476); reset 0 -/
  placing : Bool
deriving DecidableEq, Repr

/-- The management MAC (R331 to R333). -/
structure Mgt where
  /-- queues by priority 1 to 4 (R332); reset empty -/
  q1 : List Msg
  q2 : List Msg
  q3 : List Msg
  q4 : List Msg
  /-- the frame in hand, taken from the queue of its priority, and the attempts at it (R331); reset none, 0 -/
  hand : Option (Nat × Msg)
  tries : Nat
  /-- cc of the last transmit opportunity of PLCA (R331); reset none -/
  opAt : Option Nat
  /-- waiting for a back-off (R331); reset 0 -/
  backoff : Bool
  /-- cc at which the back-off ends (R331); reset 0 -/
  backUntil : Nat
  /-- cc of the last announce, and the announces and reports sent (R324, R326); reset none and 0 -/
  finderAt : Option Nat
  seq : Nat
  /-- last gasp pending or sent; then the MAC is silent (R333); reset none -/
  gasp : Option Bool
deriving DecidableEq, Repr

/-! ### Barfeos -/

/-- A packet without an outcome at its sender (R354 to R358). `msg` names the operation it belongs to: 8 × number + kind,
kind 0 an M-format operation, 1 a work request, 2 the correlator of a job slot, 3 a remote sync operation of a job slot,
4 a promotion. -/
structure TxPkt where
  psn : Nat
  opcode : Nat
  flags : Nat
  hdr : List Nat
  cor : Option CorHdr
  data : List Byte
  seg : Nat
  msg : Nat
  /-- it has left at least once, last at `sentAt` and in the packet of PSN `lead`: its own, or the first of its READ_REQ (R353,
  R356) -/
  sent : Bool
  sentAt : Nat
  lead : Nat
  retx : Bool
  expiries : Nat
  /-- NOT_READY: first refusal and earliest resend (R353) -/
  rnr : Option (Nat × Nat)
  /-- cc from its send to its first bit at the pin (R59, R285, R365) -/
  path : Nat
deriving DecidableEq, Repr

/-- A connection context (R335 to R339). -/
structure Ctx where
  state : Nat
  job : Bool
  host : Bool
  bigP : Bool
  /-- this end offers P = 8,192 in its CONNECT or ACCEPT (R336, R340) -/
  offer : Bool
  gen : Nat
  peer : Nat
  lTenant : Nat
  pTenant : Nat
  jobId : Nat
  peerCtx : Nat
  incarnation : Nat
  nextPsn : Nat
  sbase : Nat
  cum : Nat
  cwnd : Nat
  rtoUs : Nat
  /-- smoothed round-trip time and its variation, ns (R356) -/
  srtt : Nat
  rttvar : Nat
  /-- outcomes of received PSNs at or above CUM, and errored ones kept from SBASE: 0 applied, else the code (R355) -/
  outcomes : Tab Nat
  /-- outcomes since the last ACK, and CE received (R345, R355) -/
  unreported : Nat
  ceRx : Nat
  rxSbase : Nat
  unacked : List TxPkt
  /-- saved results of ATOMICs: (PSN, old value) (R354) -/
  atomics : List (Nat × Nat)
  /-- response data that arrived: (message, offset, bytes, cc at which they land in a core store; 02 R59) -/
  resps : List (Nat × Nat × List Byte × Nat)
  /-- first error code seen in each message that still has packets outstanding (R360) -/
  errs : Tab Nat
  lastUse : Nat
  /-- cc of the last cut of the congestion window, and of its last rise or CE (R358) -/
  lastCut : Nat
  cwndAt : Nat
  /-- cc of the first outcome not yet reported (R355), and CONNECTs resent (R336) -/
  ackAt : Nat
  tries : Nat
  /-- UDP port, and idle time in s, as they were when it was opened (R340, R368) -/
  port : Nat
  idle : Nat
deriving DecidableEq, Repr

/-- A region (R348). -/
structure Region where
  valid : Bool
  revoking : Bool
  gen : Nat
  tenant : Nat
  block : RegionBlock
  /-- admitted accesses not yet landed or served (R350) -/
  inflight : Nat
  /-- command whose reply waits for the drain -/
  cmd : Option Nat
deriving DecidableEq, Repr

/-- A packet held for paging or a context fetch (R351, R352), or an admitted WRITE on its way to memory (R359). -/
structure HeldPkt where
  ctx : Nat
  hdr : Bth
  opcode : Nat
  key : Nat
  off : Nat
  data : List Byte
  len : Nat
  op1 : Nat
  op2 : Nat
  at_ : Nat
  /-- held for a context fetch rather than for paging -/
  fetch : Bool
  tenant : Nat
  die : Nat
  /-- pages the packet waits for, as (object, page), and the slowest tier they come from -/
  pages : List (Nat × Nat)
  tier : Nat
  /-- cc at which an admitted WRITE lands, 0 where no count is promised (R365) -/
  due : Nat
deriving DecidableEq, Repr

/-- What a signal on its way does: add 1 to its object, the operation of an admitted SYNC packet (R125, R364), or, to a
correlator operation, the landing of bytes of its result, of a queue entry that frees its granules, or of a block of a PERMUTE;
or a revocation completes (R285, R290, R292); a queue granule stands in its ring, or a block moves within the module (R285, R290); a
job's slip request is due (R51); an object has held a saturated value for a whole cc (R138); the last response of a request has left a sub-port (R355); a context whose users
have seen its errors is free (R337); a frame leaves the ingress buffer of a sub-port's priority (R311). -/
inductive SyncAct where
  | add
  | remote (p : HeldPkt)
  | slip
  | saturated
  | land (va : Nat) (bs : List Byte) (seen : List Seen) (ecc : Ecc)
  | wake (edge : Nat)
  | move (x : Nat) (fin : Bool)
  | entry (edge granules : Nat)
  | block (index : Nat)
  | revoked
  | left (code dcid psn n : Nat) (ack : Bool)
  | freed (dcid : Nat)
  | drained (code prio bytes : Nat)
deriving DecidableEq, Repr

/-- A signal on its way to a sync object, or a landing (R140, R285, R365): cc of its arrival, job slot, 4096 for one from outside,
object or operation, and source code. -/
structure Signal where
  at_ : Nat
  slot : Nat
  obj : Nat
  src : Nat
  act : SyncAct
deriving DecidableEq, Repr

/-- A write outside the plans that waits for pages, a strip, a fill or an open slot: the tenant whose range it lies in, none for
the owner view, the slot of the job whose record it is, 4096 for a write of the host, its address and data (R211, R265, R374). -/
structure HeldWrite where
  tenant : Option Nat
  slot : Nat
  va : Nat
  data : List Byte
  /-- what the read of a stored value meets (R203) -/
  ecc : Ecc
  /-- where the data comes from, none for the module's own (R46) -/
  src : Option Place
deriving DecidableEq, Repr

/-- A work request that has fired (R362, R363); `held` while its LOCAL waits for pages, a strip or open slots: its entry, and what
its read of LOCAL delivers (R46, R211, R256). -/
structure WorkRun where
  held : Option (List Byte × Data)
  slot : Nat
  handle : Nat
  kind : Nat
  flags : Nat
  peer : Nat
  local_ : Nat
  len : Nat
  done : Nat
deriving DecidableEq, Repr

/-! ### Host interface -/

/-- A reply (R384). -/
structure Reply where
  status : Nat
  flags : Nat
  ring : Nat
  index : Nat
  echo : Nat
  tStart : Nat
  tDur : Nat
  receipt : Option Nat
deriving DecidableEq, Repr

/-- A ring pair (R378). -/
structure Ring where
  sqBase : Nat
  cqBase : Nat
  sqLog : Nat
  cqLog : Nat
  enable : Bool
  vector : Nat
  coalCount : Nat
  coalUs : Nat
  sqTail : Nat
  cqHead : Nat
  sqHead : Nat
  cqTail : Nat
  phase : Bool
  error : Bool
  /-- replies held while the completion ring is full (R381) -/
  held : List Reply
  /-- replies written and not yet signalled, and the first one's cc (R377) -/
  unsignalled : Nat
  firstAt : Nat
  /-- slots made visible and not yet fetched, by doorbell: (slots, cc), oldest first (R382) -/
  bells : List (Nat × Nat)
deriving DecidableEq, Repr

/-- A command fetched and not yet finally answered (R379, R382). -/
structure Exec where
  hdr : Header
  fn : Nat
  ring : Nat
  index : Nat
  /-- the tenant it acts for -/
  tenant : Nat
  bell : Nat
  started : Bool
  /-- it has begun (R380), and its function was reset since: its replies are discarded (R372) -/
  begun : Bool
  mute : Bool
  /-- the echoed word, once known (R384) -/
  echo : Option Nat
  /-- PTP ns at which execution began (R384) -/
  at_ : Nat
  /-- object and pages whose movement the command waits for (R252, R258) -/
  obj : Nat
  left : List Nat
deriving DecidableEq, Repr

/-- The PCI Express controller (R369 to R377). -/
structure Pcie where
  /-- what the host has configured in the functions: payload and read request sizes, ATS, BAR4 sizes, masked vectors; 14 R369,
  R373, R375, R377; reset `HostConf.reset` -/
  conf : HostConf
  /-- translations held: (function, first host address, bytes); 14 R375; reset none -/
  atc : List (Nat × Nat × Nat)
  /-- pending bits: (function, vector); 14 R377; reset none -/
  pendingV : List (Nat × Nat)
  up : Bool
  perst : Bool
  speed : Nat
  width : Nat
  flit : Bool
  numVfs : Nat
  /-- functions in D3hot -/
  d3 : List Nat
  /-- IDE streams: 0 the link stream, 1 to 8 selective; state 1 Secure, 2 Insecure -/
  ide : Tab Nat
  /-- an SPDM session is set up (R376) -/
  spdm : Option Nat
  /-- BAR4 reads not yet served by number: (function, address, bytes, arrival); 14 R374; reset none -/
  reads : Tab (Nat × Nat × Nat × Nat)
  nextRead : Nat
  /-- BAR4 bases set by WINDOW, by function -/
  windows : Tab Nat
  /-- last IRQ summary seen, for rises, and the cc of each bit's rise (R377, R498) -/
  summary : Nat
  riseAt : Tab Nat
  /-- pair last visited, by rotation: 0 the common one, 1 + t that of strict tenant t; 14 R379, 15 R399; reset none -/
  rot : Tab Nat
  /-- the next of the 64 visits of the command processor's frame; 15 R399; reset 0 -/
  visit : Nat
deriving DecidableEq, Repr

/-- A tenant context (R394, R395). -/
structure Tenant where
  strict : Bool
  destroying : Bool
  hostBase : Nat
  hostLen : Nat
  cores : Nat
  stks : Nat
  share : Nat
  power : Nat
  /-- partition and share set and not yet applied (R396, R426) -/
  nextPart : Option (Nat × Nat × Nat)
  nextPower : Option Nat
deriving DecidableEq, Repr

/-- The census counters of one tag (R164). -/
structure Census where
  total : Nat
  zero : Nat
  sat : Nat
  inf : Nat
  nan : Nat
  amax : Option Int
  ovf : Bool
  clamp : Bool
deriving DecidableEq, Repr

/-! ### Energy -/

/-- An account's open request (R437, R441); energies in nJ. -/
structure EReq where
  account : Nat
  id : Nat
  direct : Nat
  shared : Nat
  idle : Nat
  /-- direct energy of the current exposure in pJ, and the core-cc its jobs have held in it -/
  now : Nat
  held : Nat
  repDirect : Nat
  repShared : Nat
  repIdle : Nat
  tStart : Nat
  /-- ns of the covered exposures below 200 W -/
  lowNs : Nat
  fault : Bool
  modelled : Bool
  /-- SEQ reserved for the final receipt once the final reply is written -/
  closing : Option Nat
deriving DecidableEq, Repr

/-- An account's chain (R443, R444). -/
structure Account where
  seq : Nat
  issued : Nat
  prev : Nat
  restart : Bool
  /-- cc of the last periodic checkpoint -/
  checkAt : Option Nat := none
deriving DecidableEq, Repr

/-- The photometer (R434 to R446). -/
structure Photo where
  /-- 1 bit; 17 R435; reset 0 -/
  meterOk : Bool
  /-- last sample in mV and mA; 17, 16 bits; 17 R446; reset 0 -/
  volt : Nat
  curr : Nat
  /-- mean power of the last 1 ms window in W; 16 bits; 17 R446; reset 0 -/
  power : Nat
  /-- sum and number of the samples of the window in progress, mW; reset 0 -/
  winSum : Nat
  winN : Nat
  /-- metered energy since bring-up in pJ, and its value at the last meridian; 17 R437, R446; reset 0 -/
  energy : Nat
  mark : Nat
  /-- PHO_RESIDUAL in nJ; 64 bits signed in mJ; 17 R437; reset 0 -/
  residual : Int
  /-- open requests; 17 R437; reset none -/
  reqs : List EReq
  /-- accounts 0 to 4,096; 17 R443; reset from the checkpoints -/
  accounts : Tab Account
  /-- receipts that wait for their signature; 17 R442; reset none -/
  queue : List Receipt
  /-- the last 4,096 receipts, newest first; 17 R445; reset none -/
  buffer : List Receipt
  /-- next slot of the receipt log; 24 bits; 17 R446; reset 0 -/
  logHead : Nat
  /-- PTP ns of the last meridian, from which interim receipts are due; 17 R439; reset 0 -/
  lastNs : Nat
  /-- cc in which command fetching has waited for signing, shown in µs; 17 R442, R446; reset 0 -/
  fetchWait : Nat
deriving DecidableEq, Repr

/-! ### Faults -/

/-- A quarantine record (R450). -/
structure Quar where
  state : Nat
  source : Nat
  inst : Nat
  /-- cc at which the window ends -/
  until_ : Nat
  /-- SEQ of the retiring event's entry -/
  seq : Nat
deriving DecidableEq, Repr

/-- A retirement that the next meridian serves (R449, R458, R471): spare category (15: no spare of its kind), the
physical spare asked for (0xFF: the lowest free one), and the command that waits for it. -/
structure Repair where
  src : Nat
  inst : Nat
  cat : Nat
  want : Nat
  seq : Nat
  at_ : Nat
  cmd : Option Nat
  /-- served at power-on already: the spare that came in, 0xFFFF for none; its entry waits for the first meridian -/
  got : Option Nat := none
deriving DecidableEq, Repr

/-- The fault block (R447 to R462). -/
structure Faults where
  fifo : List Entry
  /-- night-log ring: entries by SEQ, the last 65,536 -/
  ring : List Entry
  ringSet : Bool
  nextSeq : Nat
  c4 : Option Entry
  quars : Tab Quar
  /-- blocks in quarantine, by kind and instance; an acknowledgement leaves them (R449, R450); reset none -/
  blocks : List (Unit' × Nat)
  /-- those among them whose place a spare has taken (R449, R471); reset none -/
  served : List (Unit' × Nat)
  /-- detection cc of the last N events, newest first, by source (R452) -/
  times : Tab (List Nat)
  /-- cc of the last entry that drained into the ring (R455); reset none -/
  drainAt : Option Nat
  /-- entries from this SEQ on have had no beacon decision yet (R460) -/
  beacons : Nat
  /-- retirements to be served at the next meridian, in order of detection (R471); reset none -/
  repairs : List Repair
deriving DecidableEq, Repr

/-! ### Boot, firmware, spares, power -/

/-- A staging session of an image type (R483, R489). -/
structure Session where
  /-- 0 IDLE, 1 STAGING, 2 PENDING -/
  state : Nat
  bytes : Nat
  aCurrent : Bool
  /-- targets still to change over, and those done -/
  targets : Nat
  done : Nat
  img : Option Image
  cmd : Option Nat
  commit : Bool
  /-- management-segment request to answer: (op, seq, image) -/
  mgt : Option (Nat × Nat × Nat)
  /-- boot NOR write in progress: 0 none, 1 staged bytes, 2 rewrite of copy A -/
  writing : Nat
  pendBytes : Nat
deriving DecidableEq, Repr

/-- A dark frame (R466): the slice, the instance and the mapping on which it was taken, the check whose reference it is, its
value and the PTP time in ns. -/
structure DarkFrame where
  slice : Nat
  inst : Nat
  mapping : Nat
  check : Nat
  value : Int
  taken : Nat
deriving DecidableEq, Repr

/-- A field part of the almanac (R409, R410). -/
structure FieldPart where
  /-- 64 bits; reset 0, no field part -/
  seq : Nat
  /-- enabled cores, bit 18 × die + core -/
  cores : Nat
  /-- logical index of each enabled core, by 18 × die + core (R8, R470, R500) -/
  logical : Tab Nat
  /-- the logical index that a spare in service has taken, by (category × 256 + unit) × 4,096 + physical index (R111, R470) -/
  served : Tab Nat
  /-- retired cores, likewise -/
  retired : Nat
  /-- spares in service or retired, by category × 256 + unit: bit i for spare i (R470) -/
  spares : Tab Nat
  /-- dark frames taken after repair, in place of the factory records (R466) -/
  dark : List DarkFrame
  /-- MIN_SVN by image type -/
  minSvn : Tab Nat
deriving DecidableEq, Repr

/-- The almanac and the rest of what survives a loss of supply (R30, R409, R410). -/
structure Almanac where
  /-- GLB_ID.VARIANT; factory part -/
  variant : Nat
  /-- raw flash in TB: 16, 8 or 0; factory part -/
  flashTb : Nat
  /-- serial number, 16 ASCII bytes as a little-endian number; factory part -/
  serial : Nat
  /-- subsystem ID; 16 bits; factory part -/
  subsystem : Nat
  /-- MAC address base; 48 bits; factory part -/
  macBase : Nat
  /-- calibration epoch, shared and idle rates in W; 17 R437; factory part -/
  calEpoch : Nat
  rateS : Nat
  rateI : Nat
  /-- physical cores enabled as built, bit 18 × die + core; 00 R8; factory part -/
  cores : Nat
  /-- the field part that is current in boot NOR -/
  field : FieldPart
  /-- images in boot NOR: type × 2 + copy -/
  images : Tab Image
  /-- revoked key slots; 15 R407 -/
  revoked : List Nat
  /-- checkpoints: account to (SEQ, hash) (R443) -/
  checks : Tab (Nat × Nat)
  /-- erase count of each superblock, kept in its own spare area (R269), and superblocks retired (R270) -/
  erases : Tab Nat
  dead : List Nat
deriving DecidableEq, Repr

/-- A SELFTEST that waits for its block to return at a meridian (R473): result code, 0xFF until a repair decides it, and
the physical index of the spare. -/
structure SliceWait where
  cmd : Nat
  slice : Nat
  inst : Nat
  res : Nat
  idx : Nat
deriving DecidableEq, Repr

/-- A slice requested or running: its code, instance and command, and the cc at which it started (R463, R473). -/
structure SliceRun where
  slice : Nat
  inst : Nat
  cmd : Nat
  at_ : Option Nat
deriving DecidableEq, Repr

/-- Bring-up and self-test (R463 to R481). -/
structure Boot where
  /-- GLB_BOOT.STAGE; 8 bits; 20 R489; reset 0 -/
  stage : Nat
  /-- GLB_BOOT.RESTARTS; 4 bits; 20 R489; reset 0 -/
  restarts : Nat
  /-- GLB_BOOT.BRINGUP_MS; 16 bits; 20 R489; reset 0 -/
  bringupMs : Nat
  /-- cc at which bring-up began; 20 R476; reset 0 -/
  startAt : Nat
  /-- cause code of a bring-up stop; 8 bits; 20 R480; reset none -/
  cause : Option Nat
  /-- incarnation; 32 bits; 13 R339; reset 0 -/
  incarnation : Nat
  /-- BST_STATUS; 1 bit each; 19 R475; reset 0 -/
  postDone : Bool
  postClean : Bool
  /-- SEC status bits; 1 bit each; 15 R413; reset 0 -/
  seOk : Bool
  rngOk : Bool
  fieldOk : Bool
  /-- images in use: copy in use per type, bit TYPE − 1; 15 R413; reset 0 -/
  copyB : Nat
  /-- measurement of the image active, by type; 384 bits each; 15 R408; reset 0 -/
  digests : Tab Nat
  /-- slices requested or running; 19 R473; reset none -/
  slices : List SliceRun
  /-- last completed slice, its result and instance; 8, 8, 16 bits; 19 R475; reset 0 -/
  lastSlice : Nat
  lastResult : Nat
  lastInst : Nat
  /-- the field part in service, with changes not yet written; 19 R472; reset no core enabled; bring-up loads the almanac's -/
  field : FieldPart
  /-- field-part write in progress; 1 bit in BST_STATUS; 19 R472; reset none -/
  writing : Option FieldPart
  /-- cc at which that write began (R472); reset 0 -/
  writeAt : Nat
  /-- changes that wait for the next write; 19 R472; reset 0 -/
  almPending : Bool
  /-- SELFTESTs whose slice has ended; 19 R473; reset none -/
  returning : List SliceWait
  /-- a command-processor changeover waits; 20 R486; reset 0 -/
  cpPending : Bool
deriving DecidableEq, Repr

/-- The power input and thermal state (R414 to R430). -/
structure Power where
  /-- 0 lockout engaged, 1 lockout released, 2 bring-up or running, 3 safe stop in progress, 4 halted after a C4 event,
  5 bring-up stopped or in recovery; 16 R415, R416, 18 R451, 20 R480; reset 0 -/
  phase : Nat
  /-- the lockout is latched; 1 bit; 16 R415; reset 0 -/
  latched : Bool
  /-- the input capacitance is charged, since this cc; 16 R417; reset none -/
  charged : Option Nat
  /-- FAULT_N is asserted; 1 bit; 16 R419, 18 R451, 20 R480; reset 0 -/
  faultN : Bool
  /-- conditions that the input voltage meets now: since which cc and for how many samples. 0 above 80 V, 1 above 72,
  2 below 54, 3 below 42, 4 below 40, 5 at or above 50, 6 at or above 54, 7 at or above 55; 16 R414 to R418; reset none -/
  volts : Tab (Nat × Nat)
  /-- in the surge region; 1 bit; 16 R414; reset 0 -/
  surge : Bool
  /-- the sag limit is in force; 1 bit; 16 R418; reset 0 -/
  sag : Bool
  /-- cc at which a safe stop began; 16 R419; reset 0 -/
  stopAt : Nat
  /-- sensors at or above their throttle point; 16 R430; reset none -/
  hot : List Nat
  /-- sensors at or above their release point; 16 R430; reset none -/
  warm : List Nat
  /-- sensors at or above their shutdown point; 16 R430; reset none -/
  critical : List Nat
  /-- common pool of the last controller period, in tenths of a watt; 16 R420, R426; reset none -/
  pool : Option Nat
  /-- cc of the last controller period and of the last step of the thermal ceilings; 16 R426, R430; reset none -/
  ctlAt : Option Nat
  ceilAt : Option Nat
deriving DecidableEq, Repr

/-- What leaves the module at a pin or in a reply: the model's own record of its outputs. -/
inductive Out where
  /-- a frame, and the cc of its first bit at the pin -/
  | frame (code at_ : Nat) (f : TxFrame)
  /-- a frame in progress is cut (R304) -/
  | cut (code : Nat)
  /-- a datagram of the management segment: its destination address and UDP port (R332) -/
  | mgt (dest port : Nat) (m : Msg)
  /-- node 0's beacon of PLCA (R331) -/
  | plca
  | msix (fn vec : Nat)
  | reply (fn slot : Nat) (r : Reply)
  | errFatal
  | completion (id : Nat) (abort : Bool) (data : List Byte)
  | passUp (code : Nat) (f : RxFrame) (flags len : Nat)
  | localFault (code : Nat)
  | spdm (session : Nat)
  | hostWrite (fn addr : Nat) (data : List Byte)
  | pulse (ns : Nat)
  | receiptLog (slot : Nat) (r : Receipt)
  | atsDone (fn addr len : Nat)
  /-- Request Retry Status, the answer to a configuration request before bring-up completes (R370) -/
  | retry (fn : Nat)
deriving DecidableEq, Repr

/-- A commit group (R41): 0 IDLE, 1 PENDING, 2 ARMED, and its discard count. -/
structure GroupSt where
  state : Nat
  discards : Nat
deriving DecidableEq, Repr

/-- The state of the module. -/
structure State where
  /-- commands waiting, first in first out; the block's queue; reset empty -/
  pending : List Instr
  /-- cc since power-on at which the last command happened; the model's clock; reset 0 -/
  now : Nat
  /-- counter the free values are drawn by; the model's own field; reset 0 DESIGN CHOICE -/
  free : Nat
  /-- active values of RW-S, RW-L and W1C registers by register key; 32 bits each; 00 R10; a register not listed holds its reset value -/
  act : Tab Nat
  /-- shadow values of RW-S registers; 32 bits each; 02 R40; a register not listed shows its active value -/
  shd : Tab Nat
  /-- counters by register key; 32 or 64 bits; every chapter's register tables; reset 0 -/
  ctr : Tab Nat
  /-- latched HI halves of RO pairs; 32 bits each; 21 R495; reset 0 -/
  latch : Tab Nat
  /-- held HI halves of writable pairs; 32 bits each; 21 R495; reset none -/
  hiHeld : Tab Nat
  /-- status bits that hardware set, by status address: (cc of the last setting, bits set in that cc); 00 R12; reset none -/
  hwSet : Tab (Nat × Nat)
  /-- data of the last register read; 32 bits; 21 R492; reset 0 -/
  readData : Nat
  /-- commit groups MER-0, LNK-0, LNK-1, LNK-2; 21 R497; reset IDLE, 0 -/
  groups : Tab GroupSt
  /-- meridian state; 02 R32 to R39 -/
  mer : Meridian
  /-- timebase; 02 R36, 12 R327 to R330 -/
  ptp : Timebase
  /-- job slots 0 to 4,095; 02 R44; reset none -/
  jobs : Tab Job
  /-- loaded plans by handle, instruction words included; 14 R390; reset none -/
  plans : Tab Plan
  /-- next plan handle; 32 bits; 14 R387; reset 1 DESIGN CHOICE -/
  nextPlan : Nat
  /-- cores by 18 × die + core; reset by the almanac -/
  cores : Tab CoreSt
  /-- thread contexts by core × 128 + thread; an INACTIVE zero context is not listed; 05 R113 -/
  threads : Tab Thread
  /-- scalar registers by (core × 128 + thread) × 64 + register; 64 bits; 05 R113; reset 0 -/
  sregs : Tab W64
  /-- vector lanes by ((core × 128 + thread) × 8 + register) × 256 + lane; 32 bits; 05 R113; reset 0 -/
  vregs : Tab W32
  /-- cc from which a scalar register is usable, keys as sregs; 05 R121; reset 0 -/
  sbusy : Tab Nat
  /-- cc from which a vector register is usable, by (core × 128 + thread) × 8 + register; 05 R121; reset 0 -/
  vbusy : Tab Nat
  /-- ranges in flight; 05 R121; reset none -/
  ranges : List Range
  /-- core stores by core × 2^25 + offset; 24 MiB of bytes each; 01 R23, 05 R133; reset 0 -/
  store : Tab Byte
  /-- core-store bytes with bad parity, keys as store; 18 R453; reset none -/
  badStore : List Nat
  /-- vector registers with bad parity, by (core × 128 + thread) × 8 + register; 06 R145; reset none -/
  badVec : List Nat
  /-- accumulators by ((core × 2 + bank) × 256 + m) × 256 + n; X32; 04 R88; reset +0 -/
  acc : Tab W32
  /-- accumulators with bad parity, keys as acc; 04 R110; reset none -/
  badAcc : List Nat
  /-- ring slots by core × 256 + slot; 04 R90; reset all free -/
  slots : Tab Slot
  /-- ring slots with bad parity, keys as slots; 04 R110; reset none -/
  badSlot : List Nat
  /-- sync objects 0 to 8,191, allocated ones; 05 R135; reset none -/
  sync : Tab SyncObj
  /-- signals on their way from loads and stores with SIG, in order of issue: (cc, job slot, object, source code); 05 R125;
  reset none -/
  signals : List Signal
  /-- HBM by stack × 2^36 + stack-local address; bytes; 08 R192; reset 0 (R213) -/
  hbm : Tab Byte
  /-- stacks S0 to S11; 08 R190; reset by the almanac -/
  stks : Tab StackSt
  /-- commit records by stack × 2^20 + frame; 08 R207; reset all FREE -/
  recs : Tab CommitRec
  /-- updates by run number; 08 R206; reset none -/
  upds : Tab UpdRun
  nextUpd : Nat
  /-- objects by handle; 10 R250; reset none -/
  objs : Tab Obj
  nextObj : Nat
  /-- frame records by stack × 2^20 + first frame; 10 R253; reset all FREE -/
  frames : Tab Frame
  /-- module tables: (bytes, stack mask) once set; 10 R243; reset none -/
  tables : Option (Nat × Nat)
  /-- plate vault; 10 R266 -/
  vault : Vault
  /-- flash by logical page × 65,536 + offset; bytes; 10 R266; reads 0 until written (R402) -/
  flash : Tab Byte
  /-- ephemeris outcome counts by slot × 65,536 + entry: (late, fallback); 10 R265; reset 0 -/
  ephCnt : Tab (Nat × Nat)
  /-- queue edges by slot × 64 + edge; 11 R292; reset none -/
  edges : Tab EdgeSt
  /-- staging blocks that hold a slot's content: (tenant, leader, address, bytes); 11 R290, R291; reset none -/
  staged : List (Nat × Nat × Nat × Nat)
  /-- sub-ports by port code; 12 R301; a port that is down with nothing queued is not listed -/
  ports : Tab Port
  /-- cc from which a shared resource is free of granted traffic outside the plans, by resource × 2 + direction, of a strict
  tenant's own slots plus 1,024 × (tenant + 1); 02 R46, 15 R398; reset 0 -/
  taken : Tab Nat
  /-- spray counters by key: destination, source class, next hop; 12 R320; reset 0 -/
  spray : Tab Int
  /-- pass-up and transmit ring pointers: PU_HEAD and TX_HEAD; 16 bits each; 12 R334; reset 0 -/
  puHead : Nat
  txHead : Nat
  /-- management MAC; 12 R331 -/
  mgt : Mgt
  /-- connection contexts by index; 13 R337; reset all FREE -/
  ctxs : Tab Ctx
  /-- generation of each context index; 8 bits; 13 R337; reset 0 -/
  ctxGen : Tab Nat
  /-- regions by index, and entries of the table; 13 R348; reset none -/
  regions : Tab Region
  regionCap : Nat
  /-- writes outside the plans that wait, in order of arrival; 08 R211, 10 R265, 14 R374; reset none -/
  held : List HeldWrite
  /-- held packets by number; 13 R351; reset none -/
  holds : Tab HeldPkt
  /-- admitted writes on their way, by context × 2^24 + PSN; 13 R359; reset none -/
  landing : Tab HeldPkt
  nextHold : Nat
  /-- work requests issued, by number; 13 R363; reset none -/
  works : Tab WorkRun
  nextWork : Nat
  /-- PCI Express controller; 14 R369 -/
  pcie : Pcie
  /-- ring pairs by function × 64 + ring; 14 R378; reset as R378's table -/
  rings : Tab Ring
  /-- commands in execution or STARTED, by number; 14 R379; reset none -/
  cmds : Tab Exec
  nextCmd : Nat
  /-- tenants 0 to 4,095; 15 R394; reset all absent -/
  tenants : Tab Tenant
  /-- census counters by tenant × 1,024 + tag; 48 bits each; 07 R164; reset 0 -/
  census : Tab Census
  /-- vector results on their way to the census: (cc at which they become usable, tenant, tag, lanes); 06 R153; reset none -/
  tallies : List (Nat × Nat × Nat × List Seen)
  /-- census snapshot and its meridian; 07 R167; reset 0 -/
  snap : Tab Census
  snapM : Int
  /-- photometer; 17 R434 -/
  pho : Photo
  /-- fault block; 18 R447 -/
  flt : Faults
  /-- almanac and boot NOR; 15 R409; survives a loss of supply -/
  alm : Almanac
  /-- bring-up and self-test; 20 R476 -/
  boot : Boot
  /-- staging sessions by image type; 20 R483; reset IDLE -/
  fw : Tab Session
  /-- power input and heat; 16 R414 -/
  pwr : Power
  /-- what has left the module, newest first; the model's own record; reset empty DESIGN CHOICE -/
  out : List Out
deriving DecidableEq, Repr

/-! ### Reset -/

def Meridian.reset : Meridian :=
  { count := 0, length := 0, err := 0, at_ := 0, next := 0, due := 0, changeover := false, placing := false }

def Timebase.reset : Timebase :=
  { lock := 2, ns := 0, nsAt := 0, frac := 0, rate := 1000000, rateCc := 33, owed := 0, slewAt := 0, todSet := false, offset := 0, slave := 0xFF,
    inPresent := false, lastMsg := 0, lastEdge := 0, heard := [], sentAt := [], t1 := 0, t2 := 0, t3 := 0, path := 0, setSec := 0 }

def Mgt.reset : Mgt :=
  { q1 := [], q2 := [], q3 := [], q4 := [], hand := none, tries := 0, opAt := none, backoff := false, backUntil := 0, finderAt := none, seq := 0, gasp := none }

def Vault.reset : Vault :=
  { blocks := [], map := [], nextPage := 0, free := [], erased := 0, ready := false, readOnly := false, flushing := none, weak := [],
    spare := 0, lowRaised := false }

def Pcie.reset : Pcie :=
  { conf := HostConf.reset, atc := [], pendingV := [], up := false, perst := true, speed := 0, width := 0, flit := false, numVfs := 0, d3 := [], ide := [],
    spdm := none, reads := [], nextRead := 0, windows := [], summary := 0, riseAt := [], rot := [], visit := 0 }

def Photo.reset : Photo :=
  { meterOk := false, volt := 0, curr := 0, power := 0, winSum := 0, winN := 0, energy := 0, mark := 0, residual := 0,
    reqs := [], accounts := [], queue := [], buffer := [], logHead := 0, lastNs := 0, fetchWait := 0 }

def Faults.reset : Faults :=
  { fifo := [], ring := [], ringSet := false, nextSeq := 0, c4 := none, quars := [], blocks := [], served := [], times := [],
    drainAt := none, beacons := 0, repairs := [] }

/-- Enabled cores of a die below a core, by a mask. -/
def coresBelow (cores c : Nat) : Nat := ((List.range (c % 18)).filter (fun i => cores.testBit (18 * (c / 18) + i))).length

/-- The spare maps as built, with the factory part's choice of enabled cores and no field part written (R8, R410). The factory
part gives the logical index of each enabled core, and the spec no order of them: they ascend with the physical number (DESIGN
CHOICE, log 4). -/
def FieldPart.built (cores : Nat) : FieldPart :=
  { seq := 0, cores, logical := ((List.range 36).filter (fun c => cores.testBit c)).map (fun c => (c, coresBelow cores c)), served := [],
    retired := 0, spares := [], dark := [], minSvn := [] }

/-- DESIGN CHOICE (log 4): the almanac as built of the model's module, a PX12-2-F16 (R7), cores 0 to 15 of each die
enabled, serial number and MAC address base 0, one accepted image of each type in copy A. -/
def Almanac.built : Almanac :=
  { variant := 0x0C, flashTb := 0x10, serial := 0, subsystem := 0, macBase := 0, calEpoch := 0,
    rateS := 200, rateI := 600, cores := 0x3FFFCFFFF, field := FieldPart.built 0x3FFFCFFFF,
    images :=
      [(2, ⟨1, 0, 0, some 0, true, true, 1⟩), (4, ⟨2, 0, 0, some 0, true, true, 2⟩),
       (6, ⟨3, 0, 0, some 0, true, true, 3⟩), (8, ⟨4, 0, 0, some 0, true, true, 4⟩)],
    revoked := [], checks := [], erases := [], dead := [] }

def Boot.reset : Boot :=
  { stage := 0, restarts := 0, bringupMs := 0, startAt := 0, cause := none, incarnation := 0,
    postDone := false, postClean := false, seOk := false, rngOk := false, fieldOk := false, copyB := 0, digests := [],
    slices := [], lastSlice := 0, lastResult := 0, lastInst := 0, field := FieldPart.built 0, writing := none, writeAt := 0,
    almPending := false, returning := [], cpPending := false }

def Power.reset : Power :=
  { phase := 0, latched := false, charged := none, faultN := false, volts := [], surge := false, sag := false,
    stopAt := 0, hot := [], warm := [], critical := [], pool := none, ctlAt := none, ceilAt := none }

/-- All volatile state as it is before bring-up, with the given survivors of a loss of supply (R30). -/
def State.cold (alm : Almanac) (pending : List Instr) (now free : Nat) (out : List Out) : State :=
  { pending := pending, now := now, free := free, act := [], shd := [], ctr := [], latch := [], hiHeld := [],
    hwSet := [], readData := 0, groups := [], mer := Meridian.reset, ptp := Timebase.reset, jobs := [], plans := [],
    nextPlan := 1, cores := [], threads := [], sregs := [], vregs := [], sbusy := [], vbusy := [],
    ranges := [], store := [], badStore := [], badVec := [], acc := [], badAcc := [], slots := [],
    badSlot := [], sync := [], signals := [], hbm := [], stks := [], recs := [], upds := [], nextUpd := 0, objs := [],
    nextObj := 1, frames := [], tables := none, vault := Vault.reset, flash := [], ephCnt := [], edges := [], staged := [],
    ports := [], taken := [], spray := [], puHead := 0, txHead := 0, mgt := Mgt.reset, ctxs := [], ctxGen := [],
    regions := [], regionCap := 0, held := [], holds := [], landing := [], nextHold := 0, works := [], nextWork := 0,
    pcie := Pcie.reset, rings := [], cmds := [], nextCmd := 0, tenants := [], census := [], tallies := [], snap := [],
    snapM := 0, pho := Photo.reset, flt := Faults.reset, alm := alm, boot := Boot.reset, fw := [],
    pwr := Power.reset, out := out }

/-- The machine before any supply: the lockout is engaged and every volatile field holds its reset value. Cores and
stacks read from the almanac once bring-up has loaded it. -/
def State.reset : State := State.cold Almanac.built [] 0 0 []

end Sys2Proof.Machine
end

