-- ==== Sys2Proof/Machine/Regs.lean ====
section
/-! DEFINITION. The register map: which register lies at an address, its writable fields, resets and ranges
(spec/21 R490 to R502 and the register tables of every chapter), active and shadow values, counters and interrupts. -/

namespace Sys2Proof.Machine

/-! ### Variants (R3, R5) -/

/-- GLB_ID.VARIANT as the almanac gives it. -/
def variant (s : State) : Nat := s.alm.variant

/-- A stack position that the variant populates (R3). -/
def hasStack (s : State) (n : Nat) : Bool :=
  let d := n % 6
  n < 12 && (if variant s = 6 then d < 3 else if variant s = 8 then d < 4 else true)

/-- Stacks populated, as a mask. -/
def stackMask (s : State) : Nat :=
  (List.range 12).foldl (fun m n => if hasStack s n then m + 2 ^ n else m) 0

/-- I/O dies populated (R3). -/
def iods (s : State) : Nat := if variant s = 6 then 1 else 2

/-- Ports populated (R3). -/
def nPorts (s : State) : Nat := 12 * iods s

/-- The envelope in W (R3). -/
def envelope (s : State) : Nat := if variant s = 6 then 1400 else if variant s = 8 then 1700 else 2000

/-- The plate vault is fitted (R5). -/
def hasVault (s : State) : Bool := 0 < s.alm.flashTb

/-! ### Register fields -/

/-- Access codes of writable fields (R10). -/
inductive Acc where
  | rws
  | rwl
  | w1c
  | wo
deriving DecidableEq, Repr

/-- A writable field: its place, access, reset, and the value that a write gives it, none for a reserved code. -/
structure Fld where
  lo : Nat
  w : Nat
  acc : Acc
  dflt : Nat
  fix : Nat → Option Nat := some

def fS (lo w dflt : Nat) : Fld := { lo, w, acc := .rws, dflt }
def fL (lo w dflt : Nat) : Fld := { lo, w, acc := .rwl, dflt }
def fC (w : Nat) : Fld := { lo := 0, w, acc := .w1c, dflt := 0 }
def fW (w : Nat) : Fld := { lo := 0, w, acc := .wo, dflt := 0 }

/-- An RW-S field whose writes are clamped (R493). -/
def fR (lo w dflt a b : Nat) : Fld :=
  { lo, w, acc := .rws, dflt, fix := fun v => some (clampNat a b v) }

/-- An RW-S field with one reserved code or more, from `n` on (R493). -/
def fE (lo w dflt n : Nat) : Fld :=
  { lo, w, acc := .rws, dflt, fix := fun v => if v < n then some v else none }

/-- Largest power of two not above a number, at least 64: ring sizes of the fabric window (R334). -/
def slotsFix (v : Nat) : Nat := if v < 64 then 64 else 2 ^ v.log2

/-- The window base and half window of an assigned address (R490, R491). -/
def window? (s : State) (a : Nat) : Option (Nat × Nat) :=
  let b := a / 0x10000 * 0x10000
  if a < 0x30000 then some (b, 0x8000)
  else if 0x100000 ≤ a ∧ a < 0x350000 then some (b, 0x8000)
  else if 0x400000 ≤ a ∧ a < 0x4C0000 then if hasStack s ((a - 0x400000) / 0x10000) then some (b, 0x8000) else none
  else if 0x700000 ≤ a ∧ a < 0x71B000 then
    let w := (a - 0x700000) / 0x1000
    if w < 24 ∧ ¬ w < nPorts s then none else some (a / 0x1000 * 0x1000, 0x800)
  else if a / 0x10000 ∈ [0x50, 0x60, 0x80, 0x90, 0xA0, 0xA1, 0xB0, 0xB1, 0xC0] then some (b, 0x8000)
  else none

/-- The register address behind an address, and whether the address is its shadow alias (R40). -/
def canonAddr (s : State) (a : Nat) : Option (Nat × Bool) :=
  match window? s a with
  | some (b, h) => if a - b < h then some (a, false) else some (a - h, true)
  | none => none

/-- Writable fields of a LNK port window register (R334). -/
def portFields (off : Nat) : List Fld :=
  match off with
  | 0x000 => [fS 0 2 1, fS 2 1 0, fS 3 1 1, fS 4 1 1, fS 5 1 0, fS 6 1 1, fS 8 12 0]
  | 0x004 => [fR 0 14 0x2580 4224 9600]
  | 0x008 => [fR 0 16 0x64 1 10000]
  | 0x00C => [fS 0 7 0]
  | 0x010 => [fR 0 16 0x400 64 16384]
  | 0x014 => [fS 0 32 0]
  | 0x018 => [fS 0 32 0]
  | 0x01C => [fL 0 2 0]
  | 0x180 => [fL 0 5 0]
  | 0x184 => [fC 5]
  | _ => []

/-- Writable fields of a fabric window register (R334). -/
def fabricFields (nb0 : Bool) (off : Nat) : List Fld :=
  if 0x104 ≤ off ∧ off ≤ 0x140 then [fS 0 32 0] else
  match off with
  | 0x000 => [fS 0 12 0, fS 15 1 0]
  | 0x004 => [fR 0 8 1 1 60]
  | 0x008 => [fR 0 8 16 2 255]
  | 0x010 => [fS 0 32 0]
  | 0x014 => [fS 0 32 0]
  | 0x018 => [fS 0 32 0]
  | 0x020 => [fW 1]
  | 0x100 => [fL 0 12 0]
  | 0x180 => [fL 0 8 0]
  | 0x184 => if nb0 then [] else [fS 0 32 0]
  | 0x188 => if nb0 then [] else [fS 0 16 0]
  | 0x200 => [fS 0 1 0, fS 1 1 0]
  | 0x208 => [fS 0 32 0]
  | 0x20C => [fS 0 32 0]
  | 0x210 => [{ fS 0 16 0x40 with fix := fun v => some (slotsFix v) }]
  | 0x218 => [fL 0 16 0]
  | 0x220 => [fS 0 32 0]
  | 0x224 => [fS 0 32 0]
  | 0x228 => [{ fS 0 16 0x40 with fix := fun v => some (slotsFix v) }]
  | 0x230 => [fL 0 16 0]
  | _ => []

/-- Writable fields of a PTP window register (R334). -/
def ptpFields (off : Nat) : List Fld :=
  match off with
  | 0x000 => [fE 0 2 1 3, fS 2 1 0, fS 3 1 0, fE 4 2 2 3, fS 6 7 0, fS 13 3 4, fS 16 3 4]
  | 0x004 => [fS 0 24 0xFFFFFF]
  | 0x008 => [fS 0 16 0x8080]
  | 0x030 => [fW 32]
  | 0x034 => [fW 32]
  | 0x038 => [fW 32]
  | 0x040 => [fE 0 2 0 2, fE 2 2 0 3]
  | 0x050 => [fW 1]
  | _ => []

/-- Writable fields of a management window register (R334). -/
def mgtFields (off : Nat) : List Fld :=
  match off with
  | 0x000 => [fE 0 2 0 3, fS 2 8 0xFF, fR 10 8 8 1 255, fS 18 8 0x20, fS 26 4 0]
  | 0x010 => [fS 0 32 0]
  | 0x014 => [fS 0 32 0]
  | 0x018 => [fS 0 32 0]
  | 0x01C => [fS 0 32 0]
  | 0x020 => [fW 1]
  | _ => []

/-- Writable fields of a BFT register (R368). -/
def bftFields (off : Nat) : List Fld :=
  match off with
  | 0x00 => [fS 0 16 0xB5F0, fS 16 1 0, fS 17 3 3, fS 20 6 26]
  | 0x04 => [fR 0 16 60 1 65535]
  | 0x08 => [fR 0 10 4 0 1000]
  | 0x0C => [fR 0 8 8 1 255, fS 8 8 0x14, fR 16 4 7 1 15, fR 20 8 4 1 255]
  | 0x10 => [fR 0 14 10 1 10000]
  | 0x14 => [fR 0 14 10 1 10000]
  | 0x18 => [fR 0 11 0x400 64 1024, fR 16 6 0x20 1 63]
  | 0x20 => [fS 0 16 2]
  | 0x24 => [fS 0 16 4]
  | 0x28 => [fS 0 16 100]
  | 0x2C => [fS 0 16 8]
  | 0x30 => [fS 0 32 0]
  | 0x34 => [fS 0 32 0]
  | 0x38 => [fR 0 21 0x4000 16384 1048576]
  | 0x300 => [fL 0 24 0]
  | 0x400 => [fL 0 24 0]
  | 0x380 => [fL 0 4 0]
  | 0x384 => [fC 4]
  | _ => []

/-- Writable fields of the register at a register address; an empty list for a register or hole that ignores writes.
`src` is the source that SRC_SEL selects, `nb0` that NB_SEL selects neighbour 0. -/
def fieldsAt (s : State) (src : Nat) (nb0 : Bool) (a : Nat) : List Fld :=
  if 0x100000 ≤ a ∧ a < 0x340000 then (if a % 0x10000 = 0x4000 then [fL 0 7 0] else []) else
  if 0x400000 ≤ a ∧ a < 0x4C0000 then
    match a % 0x10000 with
    | 0x10 => [fS 0 1 1, fR 8 8 24 1 168]
    | 0x100 => [fL 0 12 0]
    | 0x180 => [fL 0 4 0]
    | 0x184 => [fC 4]
    | _ => []
  else if 0x700000 ≤ a ∧ a < 0x718000 then portFields (a % 0x1000)
  else if 0x718000 ≤ a ∧ a < 0x719000 then fabricFields nb0 (a % 0x1000)
  else if 0x719000 ≤ a ∧ a < 0x71A000 then ptpFields (a % 0x1000)
  else if 0x71A000 ≤ a ∧ a < 0x71B000 then mgtFields (a % 0x1000)
  else if 0x800000 ≤ a ∧ a < 0x810000 then bftFields (a % 0x10000)
  else match a with
    | 0x10000 => [fR 0 16 26 5 26041]
    | 0x10008 => [fS 0 32 0]
    | 0x1000C => [fS 0 32 0]
    | 0x10010 => [fW 1]
    | 0x10018 => [fR 0 18 6600 1650 198000]
    | 0x10034 => [fR 0 16 1000 1 60000]
    | 0x10038 => [fS 0 16 0xB5F1, fR 16 8 4 1 255]
    | 0x10040 => [fL 0 3 0]
    | 0x10044 => [fC 3]
    | 0x10100 => [fL 0 12 0]
    | 0x20380 => [fL 0 4 0]
    | 0x20384 => [fC 4]
    | 0x22000 => [fL 0 12 0]
    | 0x23000 => [fS 0 1 1]
    | 0x23004 => [{ fL 0 3 1 with fix := fun v => if 1 ≤ v ∧ v ≤ 4 then some v else none }]
    | 0x340000 => [fL 0 13 0]
    | 0x500100 => [fL 0 3 0]
    | 0x500180 => [fL 0 5 0]
    | 0x500200 => [fL 0 12 0]
    | 0x500300 => if hasVault s then [fR 0 10 0x100 16 1023] else []
    | 0x500380 => [fL 0 5 0]
    | 0x500384 => [fC 5]
    | 0x600010 => [fR 0 16 10 1 1000]
    | 0x600100 => [fL 0 12 0]
    | 0x600200 => [fL 0 12 0, fL 12 6 0]
    | 0x600380 => [fL 0 3 0]
    | 0x600384 => [fC 3]
    | 0x900180 => [fL 0 3 0]
    | 0x900184 => [fC 3]
    | 0xA00000 => [fR 0 12 (envelope s) 800 (envelope s)]
    | 0xA00100 => [fL 0 12 0]
    | 0xA00180 => [fL 0 1 0]
    | 0xA00184 => [fC 1]
    | 0xA10020 => [fR 0 12 10 1 3600, fS 12 1 1]
    | 0xA10030 => [fS 0 32 0]
    | 0xA10034 => [fS 0 32 0]
    | 0xA10038 => [fR 0 5 12 12 24]
    | 0xA10100 => [fL 0 13 0]
    | 0xA10180 => [fL 0 3 0]
    | 0xA10184 => [fC 3]
    | 0xB00010 => [fL 0 32 0]
    | 0xB00014 => [fL 0 32 0]
    | 0xB00030 => [fR 0 10 50 1 1000]
    | 0xB00034 => [fS 0 1 0]
    | 0xB00040 => [fW 6]
    | 0xB00100 => [fL 0 6 0]
    | 0xB00200 => [fL 0 9 0]
    | 0xB00204 => [fR 0 8 (promoWord (srcClass src) % 256) 1 255, fS 8 1 (promoWord (srcClass src) / 256)]
    | 0xB00208 => [fR 0 27 (promoMs (srcClass src)) 1 86400000]
    | 0xB00380 => [fL 0 4 0]
    | 0xB00384 => [fC 4]
    | 0xB10100 => [fL 0 4 0, fL 8 8 0]
    | 0xB10180 => [fL 0 4 0]
    | 0xB10184 => [fC 4]
    | 0xC00100 => [fL 0 12 0]
    | _ => []

/-! ### Values -/

/-- The key of a register or counter of a selected item (R496). -/
def rkey (a item : Nat) : Nat := a + item * 2 ^ 32

/-- The reset word of a register. -/
def resetWord (s : State) (k : Nat) : Nat :=
  (fieldsAt s (k / 2 ^ 32) false (k % 2 ^ 32)).foldl (fun x f => setBits x f.lo f.w f.dflt) 0

/-- The active word of a register by key. -/
def regA (s : State) (k : Nat) : Nat := (look s.act k).getD (resetWord s k)

/-- The shadow word of a register by key: the active word where no write is waiting. -/
def regS (s : State) (k : Nat) : Nat := (look s.shd k).getD (regA s k)

/-- A field of the active word at an address. -/
def cfg (s : State) (a lo w : Nat) : Nat := bits (regA s a) lo w

/-- The item that a selector chooses for a register of a selected entry, 0 for any other register (R496). -/
def itemOf (s : State) (a : Nat) : Nat :=
  if 0x718104 ≤ a ∧ a ≤ 0x718140 then cfg s 0x718100 0 12
  else if a = 0x718184 ∨ a = 0x718188 then cfg s 0x718180 0 8
  else if a = 0xB00204 ∨ a = 0xB00208 then cfg s 0xB00200 0 9
  else if 0x700000 ≤ a ∧ a < 0x718000 ∧ a % 0x1000 = 0x18 then cfg s (a / 0x1000 * 0x1000 + 0x1C) 0 2
  else 0

/-- The writable fields at an address under the current selectors. -/
def fieldsNow (s : State) (a : Nat) : List Fld :=
  fieldsAt s (itemOf s a) ((a = 0x718184 ∨ a = 0x718188) && itemOf s a = 0) a

/-- The commit group of a register address (R497). -/
def groupOf (a : Nat) : Option Nat :=
  if a ∈ [0x10000, 0x10008, 0x1000C] then some 0
  else if a ∈ [0x718000, 0x718010, 0x718014, 0x718018, 0x718184, 0x718188] ∨ (0x718104 ≤ a ∧ a ≤ 0x718140) then some 1
  else if a ∈ [0x719000, 0x719004, 0x719008, 0x719040] then some 2
  else if a ∈ [0x71A000, 0x71A010, 0x71A014, 0x71A018, 0x71A01C] then some 3
  else none

/-- The commit group that a commit register arms. -/
def commitOf (a : Nat) : Option Nat :=
  if a = 0x10010 then some 0 else if a = 0x718020 then some 1
  else if a = 0x719050 then some 2 else if a = 0x71A020 then some 3 else none

/-- The LO address of a writable pair whose HI is at an address (R495). -/
def pairOfHi (a : Nat) : Option Nat :=
  if a ∈ [0x1000C, 0xB00014, 0x71820C, 0x718224, 0x800034, 0xA10034] then some (a - 4) else none

/-- The HI address of a writable pair whose LO is at an address. -/
def hiOf (a : Nat) : Option Nat :=
  if a ∈ [0x10008, 0xB00010, 0x718208, 0x718220, 0x800030, 0xA10030] then some (a + 4) else none

/-- The word a write leaves in a register: each field of the given access takes its checked value (R493). -/
def applyFields (fs : List Fld) (acc : Acc) (old v : Nat) : Nat :=
  fs.foldl (fun x f =>
    if f.acc = acc then
      match f.fix (bits v f.lo f.w) with
      | some y => setBits x f.lo f.w y
      | none => x
    else x) old

/-- INIT_US is at least MIN_US of the same word (R368). -/
def rtoFix (a w : Nat) : Nat := if a = 0x80000C then setBits w 8 8 (max (bits w 8 8) (bits w 0 8)) else w

/-- The state of a commit group. -/
def groupSt (s : State) (g : Nat) : GroupSt := tget s.groups g ⟨0, 0⟩

/-- A write of a commit group's member (R41). -/
def memberWrite (g a v : Nat) (s : State) : State :=
  let st := groupSt s g
  let s :=
    if st.state = 2 then
      { s with shd := s.shd.filter (fun e => groupOf (e.1 % 2 ^ 32) != some g) }
    else s
  let k := rkey a (itemOf s a)
  { s with
    shd := tput s.shd k (applyFields (fieldsNow s a) .rws (regS s k) v)
    groups := tput s.groups g
      { state := 1, discards := if st.state = 2 then satAdd 16 st.discards 1 else st.discards } }

/-- A write of a commit register with COMMIT = 1 (R41). -/
def commitWrite (g : Nat) (s : State) : State :=
  let st := groupSt s g
  if st.state = 1 then { s with groups := tput s.groups g { st with state := 2 } } else s

/-- A write of the RW-S fields of a word: into the group's shadow, or into the register's own. -/
def shadowWrite (a v : Nat) (s : State) : State :=
  match groupOf a with
  | some g => memberWrite g a v s
  | none =>
    let k := rkey a (itemOf s a)
    { s with shd := tput s.shd k (rtoFix a (applyFields (fieldsNow s a) .rws (regS s k) v)) }

/-- A write of the RW-L fields of a word. -/
def liveWrite (a v : Nat) (s : State) : State :=
  let k := rkey a (itemOf s a)
  { s with act := tput s.act k (applyFields (fieldsNow s a) .rwl (regA s k) v) }

/-! ### At a meridian -/

/-- Shadows that become active at a meridian: those outside groups and those of armed groups; the context table's base and
count wait while a context lies in host memory (R368); the guard is limited afresh by the period active from this meridian
(R38, R41, R49). -/
def applyShadows (s : State) : State :=
  let goes := fun (k : Nat) => match groupOf (k % 2 ^ 32) with
    | some g => (groupSt s g).state == 2
    | none => k != 0x10018 && !([0x800030, 0x800034, 0x800038].contains k && s.ctxs.any (fun c => c.2.host))
  let act := s.shd.foldl (fun m e => if goes e.1 then tput m e.1 e.2 else m) s.act
  let s' := { s with
    act := act
    shd := s.shd.filter (fun e => !goes e.1)
    groups := tmap s.groups (fun _ g => if g.state = 2 then { g with state := 0 } else g) }
  let half := cfg s' 0x10000 0 16 * 12672 / 2
  let g := bits ((look s.shd 0x10018).getD 6600) 0 18
  if g ≤ half ∧ g = 6600 then { s' with act := tdel s'.act 0x10018 }
  else { s' with act := tput s'.act 0x10018 (min g half) }

end Sys2Proof.Machine
end

