-- ==== Sys2Proof/Machine/Flags.lean ====
section
/-! DEFINITION. Counters, status bits and the interrupt summary: how every command counts, sets a status flag and clears
one (spec/00 R10, R12; spec/21 R498). -/

namespace Sys2Proof.Machine

/-! ### Counters -/

/-- A counter by key. -/
def ctrOf (s : State) (k : Nat) : Nat := tget s.ctr k 0

/-- Add to a saturating counter of `w` bits. -/
def bump (k w n : Nat) (s : State) : State :=
  { s with ctr := tset s.ctr k (satAdd w (ctrOf s k) n) 0 }

/-- Set a counter or count-like register. -/
def setCtr (k v : Nat) (s : State) : State := { s with ctr := tset s.ctr k v 0 }

/-! ### Interrupts (R498) -/

/-- The interrupt blocks: summary bit and the status addresses combined. -/
def irqBlocks (s : State) : List (Nat × List Nat) :=
  [(0, [0x10044]), (1, ((List.range 12).filter (hasStack s)).map (fun n => 0x400184 + 0x10000 * n)),
   (2, [0x500384]), (3, [0x600384]), (4, [0x800384]),
   (5, (List.range (nPorts s)).map (fun n => 0x700184 + 0x1000 * n)),
   (6, [0xB00384]), (7, [0xA00184]), (8, [0xA10184]), (9, [0xB10184]), (10, [0x900184]), (11, [0x20384])]

/-- Status and enable meet in some register of a block. -/
def irqLive (s : State) (as : List Nat) : Bool :=
  as.any (fun a => (regA s a) &&& (regA s (a - 4)) != 0)

/-- The summary word as status and enables give it now. -/
def irqNow (s : State) : Nat :=
  (irqBlocks s).foldl (fun m b => if irqLive s b.2 then m + 2 ^ b.1 else m) 0

/-! ### Messages to the host (R369, R376, R377) -/

/-- The IDE stream of a function's packets: the selective stream that the host has given it, once its keys were loaded, else the link
stream (DESIGN CHOICE, log 46: the spec does not associate functions with streams). -/
def streamOf (s : State) (fn : Nat) : Nat :=
  let k := Config.ideStream fn % 9
  if (look s.pcie.ide k).isSome then k else 0

/-- Packets of a function are discarded: PERST_N is asserted, or its stream is Insecure (R372, R376). -/
def replyLost (s : State) (fn : Nat) : Bool := s.pcie.perst || tget s.pcie.ide (streamOf s fn) 0 = 2

/-- A function may send packets of its own: the link is up, and it is not in D3hot (R369). -/
def fnSends (s : State) (fn : Nat) : Bool := s.pcie.up && !s.pcie.d3.contains fn

/-- The vectors that are pending and what has left, once a vector is due (R377): nothing where its TLP would be lost, a pending bit
where the vector is masked or the function sends no memory request, else its message. -/
def msixOut (s : State) (fn vec : Nat) : List (Nat × Nat) × List Out :=
  if replyLost s fn then (s.pcie.pendingV, s.out)
  else if ! fnSends s fn || s.pcie.conf.masked.contains (fn, vec) then
    (if s.pcie.pendingV.contains (fn, vec) then s.pcie.pendingV else s.pcie.pendingV ++ [(fn, vec)], s.out)
  else (s.pcie.pendingV, .msix fn vec :: s.out)

/-- A function signals a vector: its message, or its pending bit where the vector is masked or no message can leave (R377; the last is
DESIGN CHOICE, log 46). -/
def sendMsix (fn vec : Nat) (s : State) : State :=
  { s with pcie := { s.pcie with pendingV := (msixOut s fn vec).1 }, out := (msixOut s fn vec).2 }

/-- Pending vectors that may be sent now are sent (R377). -/
def sendPending (s : State) : State :=
  s.pcie.pendingV.foldl (fun s v => sendMsix v.1 v.2 s) { s with pcie := { s.pcie with pendingV := [] } }

/-- PF0 vector 0 is sent where a summary bit rises (R377, R498); the rise shows from the next cc. -/
def irqUpdate (s : State) : State :=
  let n := irqNow s
  let rise := (List.range 12).filter (fun b => bitOf n b && !bitOf s.pcie.summary b)
  let x := if rise.isEmpty then (s.pcie.pendingV, s.out) else msixOut s 0 0
  { s with
    pcie := { s.pcie with summary := n, riseAt := rise.foldl (fun m b => tput m b s.now) s.pcie.riseAt, pendingV := x.1 }
    out := x.2 }

/-- An event sets bits of a status register. -/
def irqSet (a mask : Nat) (s : State) : State :=
  let old := tget s.hwSet a (0, 0)
  irqUpdate { s with
    act := tput s.act a ((regA s a) ||| mask)
    hwSet := tput s.hwSet a (s.now, if old.1 = s.now then old.2 ||| mask else mask) }

/-- Bits of a status register that hardware set in this cc (R12). -/
def hwNow (s : State) (a : Nat) : Nat :=
  let old := tget s.hwSet a (0, 0)
  if old.1 = s.now then old.2 else 0

/-- A write of 1s clears bits of a status register, those that hardware sets in the same cc apart (R10, R12). -/
def irqClear (a v : Nat) (s : State) : State :=
  irqUpdate { s with act := tput s.act a ((regA s a - ((regA s a) &&& v)) ||| ((regA s a) &&& hwNow s a)) }

end Sys2Proof.Machine
end

