-- ==== Sys2Proof/Machine/Num.lean ====
section
/-! DEFINITION. The number formats of spec/03 and their arithmetic: the logarithmic formats L4, L8 and L16, X32,
the 2^frac table, every conversion with its rounding, and the elementary functions of spec/06. -/

namespace Sys2Proof.Machine

/-! ### Exact values -/

/-- A value before it is rounded: NaN, an infinity, a signed zero, or mag / 2^k with mag not 0. -/
inductive Val where
  | nan
  | inf (neg : Bool)
  | zero (neg : Bool)
  | fin (neg : Bool) (mag k : Nat)
deriving DecidableEq, Repr

/-- Integer square root, rounded down, found bit by bit. -/
def isqrtBits (n : Nat) : Nat → Nat → Nat
  | 0, r => r
  | b + 1, r => if (r + 2 ^ b) * (r + 2 ^ b) ≤ n then isqrtBits n b (r + 2 ^ b) else isqrtBits n b r

/-- Integer square root, rounded down. -/
def isqrt (n : Nat) : Nat := isqrtBits n (n.log2 / 2 + 1) 0

/-- The largest m built from bits b-1 … 0 on `r` that satisfies a monotone test. -/
def searchBits (ok : Nat → Bool) : Nat → Nat → Nat
  | 0, r => r
  | b + 1, r => if ok (r + 2 ^ b) then searchBits ok b (r + 2 ^ b) else searchBits ok b r

/-- Entry j of the 2^frac table: the integer nearest to 2^22 × (2^(j/512) − 1) (R78). -/
def tableT (j : Nat) : Nat :=
  searchBits (fun t => (2 * (2 ^ 22 + t) - 1) ^ 512 ≤ 2 ^ (23 * 512 + j)) 22 0

/-! ### X32 -/

/-- The X32 word of a sign, exponent and fraction (R74). -/
def x32Word (neg : Bool) (e f : Nat) : W32 :=
  BitVec.ofNat 32 ((if neg then 2 ^ 31 else 0) + e * 2 ^ 22 + f)

/-- The NaN the module produces (R75). -/
def x32Nan : W32 := 0x7FE00000#32

/-- What an X32 word means; magnitudes are in units of 2^−277 (R74, R75). -/
def x32Val (w : W32) : Val :=
  let n := w.toNat
  let neg := bitOf n 31
  let e := bits n 22 9
  let f := bits n 0 22
  if e = 0 then .zero neg
  else if e = 511 then (if f = 0 then .inf neg else .nan)
  else .fin neg ((2 ^ 22 + f) * 2 ^ (e - 1)) 277

/-- Round a positive mag / 2^k to 23 significant bits, to nearest with ties to even: significand and exponent. -/
def roundSig (mag k : Nat) : Nat × Int :=
  let l := mag.log2
  let q :=
    if l ≤ 22 then mag * 2 ^ (22 - l)
    else
      let sh := l - 22
      let q := mag / 2 ^ sh
      let r := mag % 2 ^ sh
      if r * 2 < 2 ^ sh then q
      else if 2 ^ sh < r * 2 then q + 1
      else q + q % 2
  let e : Int := (l : Int) - k
  if q = 2 ^ 23 then (2 ^ 22, e + 1) else (q, e)

/-- Round an exact value to X32 (R76): overflow to infinity, underflow to a zero of the same sign. -/
def roundX32 : Val → W32
  | .nan => x32Nan
  | .inf neg => x32Word neg 511 0
  | .zero neg => x32Word neg 0 0
  | .fin neg mag k =>
    let (q, e) := roundSig mag k
    if 255 ≤ e then x32Word neg 511 0
    else if e < -255 then x32Word neg 0 0
    else x32Word neg (e + 256).toNat (q - 2 ^ 22)

/-- The exact value of a signed integer over 2^k; a zero takes the sign given. -/
def ofInt (i : Int) (k : Nat) (zneg : Bool) : Val :=
  if i = 0 then .zero zneg else .fin (decide (i < 0)) i.natAbs k

/-- A finite value as a signed integer over 2^k. -/
def signed (neg : Bool) (mag : Nat) : Int := if neg then -(mag : Int) else mag

/-- Sign inverted. -/
def Val.neg : Val → Val
  | .nan => .nan
  | .inf n => .inf (!n)
  | .zero n => .zero (!n)
  | .fin n m k => .fin (!n) m k

/-- Exact sum (R76, R85): a zero sum is +0, but −0 + −0 is −0. -/
def addVal : Val → Val → Val
  | .nan, _ => .nan
  | _, .nan => .nan
  | .inf a, .inf b => if a = b then .inf a else .nan
  | .inf a, _ => .inf a
  | _, .inf b => .inf b
  | .zero a, .zero b => .zero (a && b)
  | .zero _, v => v
  | v, .zero _ => v
  | .fin na ma ka, .fin nb mb kb =>
    ofInt (signed na (ma * 2 ^ kb) + signed nb (mb * 2 ^ ka)) (ka + kb) false

/-- Exact product (R76, R85). A product that is zero because an operand is ±0 takes the XOR of the signs (DESIGN CHOICE, log 43:
R76 fixes the sign of an exact zero sum only). -/
def mulVal : Val → Val → Val
  | .nan, _ => .nan
  | _, .nan => .nan
  | .inf _, .zero _ => .nan
  | .zero _, .inf _ => .nan
  | .inf a, .inf b => .inf (a != b)
  | .inf a, .fin b _ _ => .inf (a != b)
  | .fin a _ _, .inf b => .inf (a != b)
  | .zero a, .zero b => .zero (a != b)
  | .zero a, .fin b _ _ => .zero (a != b)
  | .fin a _ _, .zero b => .zero (a != b)
  | .fin na ma ka, .fin nb mb kb => .fin (na != nb) (ma * mb) (ka + kb)

/-- X32 addition, one rounding (R76). -/
def addX (a b : W32) : W32 := roundX32 (addVal (x32Val a) (x32Val b))

/-- X32 subtraction, one rounding (R76). -/
def subX (a b : W32) : W32 := roundX32 (addVal (x32Val a) (x32Val b).neg)

/-- X32 multiplication, one rounding (R76). -/
def mulX (a b : W32) : W32 := roundX32 (mulVal (x32Val a) (x32Val b))

/-- X32 fused multiply-add, one rounding (R146). -/
def fmaX (a b c : W32) : W32 := roundX32 (addVal (mulVal (x32Val a) (x32Val b)) (x32Val c))

/-- An irrational or recurring value known between q and q + 1 units of 2^−k, with the remainder's sign as a sticky
bit: rounding it is rounding the exact value. -/
def sticky (neg : Bool) (q k : Nat) (exact : Bool) : Val :=
  .fin neg (2 * q + if exact then 0 else 1) (k + 1)

/-- 1 / x (R148). -/
def recipVal : Val → Val
  | .nan => .nan
  | .inf n => .zero n
  | .zero n => .inf n
  | .fin n m k => sticky n (2 ^ (k + m.log2 + 64) / m) (m.log2 + 64) (2 ^ (k + m.log2 + 64) % m == 0)

/-- The square root; −0 is +0 here and a negative value is invalid (R227, R148). -/
def sqrtVal : Val → Val
  | .nan => .nan
  | .inf n => if n then .nan else .inf false
  | .zero _ => .zero false
  | .fin n m k =>
    if n then .nan
    else
      let x := m * 2 ^ (k + 128)
      sticky false (isqrt x) (k + 64) (isqrt x * isqrt x == x)

/-- 1 / √x (R148). -/
def rsqrtVal : Val → Val
  | .nan => .nan
  | .inf n => if n then .nan else .zero false
  | .zero n => .inf n
  | .fin n m k =>
    if n then .nan
    else
      -- 1/√(m/2^k) in units of 2^-(sh): √(2^(k + 2 sh) / m)
      let sh := m.log2 + 64
      let x := 2 ^ (k + 2 * sh) / m
      sticky false (isqrt x) sh (isqrt x * isqrt x * m == 2 ^ (k + 2 * sh))

def recipX (a : W32) : W32 := roundX32 (recipVal (x32Val a))
def sqrtX (a : W32) : W32 := roundX32 (sqrtVal (x32Val a))
def rsqrtX (a : W32) : W32 := roundX32 (rsqrtVal (x32Val a))

/-- Remove common factors of two from n / 2^q. -/
def halve : Nat → Nat → Nat → Nat × Nat
  | 0, n, q => (n, q)
  | f + 1, n, q => if q = 0 then (n, q) else if n % 2 = 0 then halve f (n / 2) (q - 1) else (n, q)

/-- A lower bound of 2^(n / 2^q) over 2^160, less than 2^10 short: the product, over the bits of n from the highest, of the
square roots in force. -/
def exp2Low : Nat → Nat → Nat → Nat → Nat
  | 0, _, _, acc => acc
  | q + 1, n, r, acc =>
    let r := isqrt (r * 2 ^ 160)
    exp2Low q n r (if bitOf n q then acc * r / 2 ^ 160 else acc)

/-- The 23-bit significand of 2^(n / 2^q) by its definition: the largest m with (2m − 1)^(2^q) ≤ 2^(23·2^q + n). Ties are
impossible, because 2^x is irrational for a fractional x. -/
def exp2Mant (n q : Nat) : Nat :=
  2 ^ 22 + searchBits (fun t => (2 * (2 ^ 22 + t) - 1) ^ (2 ^ q) ≤ 2 ^ (23 * 2 ^ q + n)) 23 0

/-- 2^x for X32, rounded once (R148): where both ends of the bracket round alike that is the result, else the definition
decides. -/
def exp2X (a : W32) : W32 :=
  match x32Val a with
  | .nan => x32Nan
  | .inf n => if n then x32Word false 0 0 else x32Word false 511 0
  | .zero _ => x32Word false 256 0
  | .fin neg m k =>
    if m < 2 ^ (k - 25) then x32Word false 256 0
    else
      let v : Int := signed neg m
      let i := v / (2 ^ k : Nat)
      let fr := (v % (2 ^ k : Nat)).toNat
      if 255 < i then x32Word false 511 0
      else if i < -257 then x32Word false 0 0
      else
        let (n, q) := halve k fr k
        let near := fun (w p : Nat) =>
          if i < 0 then roundX32 (.fin false w (p + i.natAbs)) else roundX32 (.fin false (w * 2 ^ i.toNat) p)
        let low := exp2Low q n (2 ^ 161) (2 ^ 160)
        if near low 160 = near (low + 2 ^ 10) 160 then near low 160 else near (exp2Mant n q) 22

/-- The first bits of the binary logarithm of z / 2^160, where 1 ≤ z / 2^160 < 2: less than 2 units short in the last one
of 100. -/
def log2Bits : Nat → Nat → Nat → Nat
  | 0, _, y => y
  | b + 1, z, y =>
    let z := z * z / 2 ^ 160
    if 2 ^ 161 ≤ z then log2Bits b (z / 2) (2 * y + 1) else log2Bits b z (2 * y)

/-- log2 (m / 2^k) over 2^48 by its definition, rounded down: the length of m^(2^48). -/
def log2Floor (m k : Nat) : Int := ((m ^ (2 ^ 48)).log2 : Int) - (k * 2 ^ 48 : Nat)

/-- log2 x for X32, rounded once (R148): where both ends of the bracket round alike that is the result, else the definition
decides. -/
def log2X (a : W32) : W32 :=
  match x32Val a with
  | .nan => x32Nan
  | .inf n => if n then x32Nan else x32Word false 511 0
  | .zero _ => x32Word true 511 0
  | .fin neg m k =>
    if neg then x32Nan
    else if m = 2 ^ m.log2 then roundX32 (ofInt ((m.log2 : Int) - k) 0 false)
    else
      let v : Int := ((m.log2 : Int) - k) * 2 ^ 100 + (log2Bits 100 (m * 2 ^ 160 / 2 ^ m.log2) 0 : Nat)
      if roundX32 (ofInt v 100 false) = roundX32 (ofInt (v + 2) 100 false) then roundX32 (ofInt v 100 false)
      else roundX32 (ofInt (2 * log2Floor m k + 1) 49 false)

/-- X32 in the module's own forms: one NaN, and zeros with f = 0 (R75, R149). -/
def canonX (a : W32) : W32 :=
  match x32Val a with
  | .nan => x32Nan
  | .zero n => x32Word n 0 0
  | _ => a

/-- Signed-magnitude order of X32 values; NaN is handled by the caller (R76). -/
def keyX (a : W32) : Int :=
  match x32Val a with
  | .nan => 0
  | .inf n => signed n (2 ^ 600)
  | .zero _ => 0
  | .fin n m _ => signed n m

def isNanX (a : W32) : Bool := x32Val a == .nan

/-! ### The logarithmic formats -/

/-- The parameters of a logarithmic format: width, step S, bias B and largest finite code Cmax (R67 to R71). -/
structure LogFmt where
  width : Nat
  step : Nat
  bias : Nat
  cmax : Nat
deriving DecidableEq, Repr

def fmtL4 : LogFmt := { width := 4, step := 256, bias := 4, cmax := 6 }
def fmtL8 : LogFmt := { width := 8, step := 64, bias := 64, cmax := 126 }
def fmtL16 : LogFmt := { width := 16, step := 1, bias := 16384, cmax := 32766 }

/-- The logarithmic format of a format code (R63). -/
def logFmt (code : Nat) : LogFmt := if code = 0 then fmtL4 else if code = 1 then fmtL8 else fmtL16

/-- A logarithmic code: NaN, zero, an infinity, or a sign and a position (R67 to R71). -/
inductive LogVal where
  | nan
  | zero
  | inf (neg : Bool)
  | pos (neg : Bool) (p : Int)
deriving DecidableEq, Repr

/-- What a code of a logarithmic format means, its block scale k added to the position (R67 to R72). -/
def logVal (f : LogFmt) (k : Int) (code : Nat) : LogVal :=
  let neg := bitOf code (f.width - 1)
  let c := bits code 0 (f.width - 1)
  if c = 0 then (if neg then .nan else .zero)
  else if c = f.cmax + 1 then .inf neg
  else .pos neg (f.step * ((c : Int) - f.bias) + 512 * k)

/-- The code of a sign and magnitude code. -/
def logCode (f : LogFmt) (neg : Bool) (q : Nat) : Nat := (if neg then 2 ^ (f.width - 1) else 0) + q

/-- The one NaN code of a format (R70). -/
def logNan (f : LogFmt) : Nat := 2 ^ (f.width - 1)

/-- The code of an infinity. -/
def logInf (f : LogFmt) (neg : Bool) : Nat := logCode f neg (f.cmax + 1)

/-- The exact linear value of a position, its exponent without the limits of R78 (R84 step 1). -/
def posVal (neg : Bool) (p : Int) : Val :=
  let q := p / 512
  let f := tableT (p % 512).toNat
  .fin neg ((2 ^ 22 + f) * 2 ^ (q + 1000).toNat) 1022

/-- Linearisation of a position into X32 (R78). -/
def linPos (neg : Bool) (p : Int) : W32 :=
  let e := 256 + p / 512
  if 510 < e then x32Word neg 511 0
  else if e < 1 then x32Word neg 0 0
  else x32Word neg e.toNat (tableT (p % 512).toNat)

/-- Linearisation of a logarithmic value into X32 (R78). -/
def linLog : LogVal → W32
  | .nan => x32Nan
  | .zero => 0#32
  | .inf n => x32Word n 511 0
  | .pos n p => linPos n p

/-- Linearise an L16 code (R78). -/
def lin16 (c : Nat) : W32 := linLog (logVal fmtL16 0 c)

/-- The product of two logarithmic values (R79). -/
def mulLog : LogVal → LogVal → LogVal
  | .nan, _ => .nan
  | _, .nan => .nan
  | .zero, .inf _ => .nan
  | .inf _, .zero => .nan
  | .zero, _ => .zero
  | _, .zero => .zero
  | .inf a, .inf b => .inf (a != b)
  | .inf a, .pos b _ => .inf (a != b)
  | .pos a _, .inf b => .inf (a != b)
  | .pos a p, .pos b q => .pos (a != b) (p + q)

/-- A rounded code with how it came about: `sat` marks a finite value stored as Cmax by a saturating mode (R164). -/
structure Rounded where
  code : Nat
  sat : Bool
deriving DecidableEq, Repr

/-- Selection of the result from the rounded code q (R83). -/
def pickCode (f : LogFmt) (satMode neg : Bool) (q : Int) : Rounded :=
  if q ≤ 0 then { code := 0, sat := false }
  else if q ≤ f.cmax then { code := logCode f neg q.toNat, sat := false }
  else if satMode then { code := logCode f neg f.cmax, sat := true }
  else { code := logInf f neg, sat := false }

/-- Nearest integer to p / S, ties to even (R82 step 1). -/
def nearEven (p : Int) (s : Nat) : Int :=
  let q := p / s
  let r := 2 * (p % s)
  if r < s then q else if (s : Int) < r then q + 1 else q + q % 2

/-- The integer nearest to 512·log2(mag / 2^k) / S, judged exactly in the logarithmic domain (R82 step 2). -/
def nearLog (mag k s : Nat) : Int :=
  let c := 2 * (512 / s)
  (((2 * mag ^ c).log2 : Int) - (k * c : Nat)) / 2

/-- Rounding to nearest of a logarithmic value (R82, R83). -/
def rnLog (f : LogFmt) (satMode : Bool) (v : LogVal) : Rounded :=
  match v with
  | .nan => { code := logNan f, sat := false }
  | .zero => { code := 0, sat := false }
  | .inf n => { code := logInf f n, sat := false }
  | .pos n p => pickCode f satMode n (nearEven p f.step + f.bias)

/-- Rounding to nearest of an exact linear value (R82, R83). -/
def rnVal (f : LogFmt) (satMode : Bool) (v : Val) : Rounded :=
  match v with
  | .nan => { code := logNan f, sat := false }
  | .zero _ => { code := 0, sat := false }
  | .inf n => { code := logInf f n, sat := false }
  | .fin n m k => pickCode f satMode n (nearLog m k f.step + f.bias)

/-- The linear magnitude of magnitude code q of a format, in units of 2^−1022; code 0 is zero (R84 step 2). -/
def codeMag (f : LogFmt) (q : Nat) : Nat :=
  if q = 0 then 0
  else match posVal false (f.step * ((q : Int) - f.bias)) with
    | .fin _ m _ => m
    | _ => 0

/-- The largest magnitude code whose value is at most mag / 2^k (R84 step 2). -/
def floorCode (f : LogFmt) (mag k : Nat) : Nat :=
  searchBits (fun q => q ≤ f.cmax && codeMag f q * 2 ^ k ≤ mag * 2 ^ 1022) (f.width - 1) 0

/-- Stochastic rounding of an exact value with draw u (R84). -/
def srVal (f : LogFmt) (satMode : Bool) (u : Nat) (v : Val) : Rounded :=
  match v with
  | .nan => { code := logNan f, sat := false }
  | .zero _ => { code := 0, sat := false }
  | .inf n => { code := logInf f n, sat := false }
  | .fin n m k =>
    let q := floorCode f m k
    let x := m * 2 ^ 1022
    let a := codeMag f q * 2 ^ k
    if f.cmax ≤ q then
      (if x = a then { code := logCode f n f.cmax, sat := false } else pickCode f satMode n (f.cmax + 1))
    else
      let b := codeMag f (q + 1) * 2 ^ k
      let rho := 2 ^ 16 * (x - a) / (b - a)
      pickCode f satMode n (if 2 ^ 16 ≤ rho + u then q + 1 else q)

/-- The exact value of a logarithmic value, not limited to X32 range (R84 step 1). -/
def logExact : LogVal → Val
  | .nan => .nan
  | .zero => .zero false
  | .inf n => .inf n
  | .pos n p => posVal n p

/-- Multiply an exact value by 2^i. -/
def scaleVal (i : Int) : Val → Val
  | .fin n m k => if 0 ≤ i then .fin n (m * 2 ^ i.toNat) k else .fin n m (k + i.natAbs)
  | v => v

/-- Move a logarithmic value by a number of position units. -/
def shiftLog (d : Int) : LogVal → LogVal
  | .pos n p => .pos n (p + d)
  | v => v

/-- Rounding modes of R81: bit 1 is stochastic, bit 0 is saturating. -/
def convLog (f : LogFmt) (rm u : Nat) (v : LogVal) : Rounded :=
  if bitOf rm 1 then srVal f (bitOf rm 0) u (logExact v) else rnLog f (bitOf rm 0) v

/-- Conversion of an exact linear value into a logarithmic format under a rounding mode. -/
def convVal (f : LogFmt) (rm u : Nat) (v : Val) : Rounded :=
  if bitOf rm 1 then srVal f (bitOf rm 0) u v else rnVal f (bitOf rm 0) v

/-- L16 sum of two linearised values, rounded once in mode RN (R147, R202). -/
def addRound16 (a b : W32) : Nat := (rnVal fmtL16 false (addVal (x32Val a) (x32Val b))).code

/-- L16 addition (R147). -/
def add16 (a b : Nat) : Nat := addRound16 (lin16 a) (lin16 b)

/-- L16 sign inversion; zero and NaN unchanged (R146). -/
def neg16 (a : Nat) : Nat := if bits a 0 15 = 0 then a else if bitOf a 15 then a - 2 ^ 15 else a + 2 ^ 15

/-- L16 multiplication (R147). -/
def mul16 (a b : Nat) : Nat := (rnLog fmtL16 false (mulLog (logVal fmtL16 0 a) (logVal fmtL16 0 b))).code

/-- Order of L16 values by sign and code (R70); NaN handled by the caller. -/
def key16 (a : Nat) : Int := if bits a 0 15 = 0 then 0 else signed (bitOf a 15) (bits a 0 15)

def isNan16 (a : Nat) : Bool := bits a 0 16 == 0x8000

/-- 2^x for L16 (R148): the code nearest to position 512·x, where x is itself 2^(p/512). -/
def exp2L16 (a : Nat) : Nat :=
  match logVal fmtL16 0 a with
  | .nan => logNan fmtL16
  | .zero => 0x4000
  | .inf n => if n then 0 else logInf fmtL16 false
  | .pos n p =>
    -- nearest integer to 512·2^(p/512): the largest t with (2t − 1)^512 ≤ 2^(10·512 + p); at exactly 1/2 the even 0
    if 10 * 512 ≤ p then (if n then 0 else logInf fmtL16 false)
    else if p ≤ -10 * 512 then 0x4000
    else
      let t := searchBits (fun t => (2 * t - 1) ^ 512 ≤ 2 ^ (10 * 512 + p).toNat) 21 0
      (pickCode fmtL16 false false ((if n then -(t : Int) else t) + fmtL16.bias)).code

/-- log2 x for L16 (R148): the L16 code nearest to p / 512. -/
def log2L16 (a : Nat) : Nat :=
  match logVal fmtL16 0 a with
  | .nan => logNan fmtL16
  | .zero => logInf fmtL16 true
  | .inf n => if n then logNan fmtL16 else logInf fmtL16 false
  | .pos n p => if n then logNan fmtL16 else (rnVal fmtL16 false (ofInt p 9 false)).code

/-- 1/x for L16: code 32,768 − c (R148). -/
def recipL16 (a : Nat) : Nat :=
  match logVal fmtL16 0 a with
  | .nan => logNan fmtL16
  | .zero => logInf fmtL16 false
  | .inf _ => 0
  | .pos n p => (pickCode fmtL16 false n (-p + fmtL16.bias)).code

/-- 1/√x for L16: position −p/2, to the even integer where p is odd (R148). -/
def rsqrtL16 (a : Nat) : Nat :=
  match logVal fmtL16 0 a with
  | .nan => logNan fmtL16
  | .zero => logInf fmtL16 false
  | .inf n => if n then logNan fmtL16 else 0
  | .pos n p => if n then logNan fmtL16 else (pickCode fmtL16 false false (nearEven (-p) 2 + fmtL16.bias)).code

/-! ### Integers -/

/-- An integer to X32, rounded to nearest even (R77). -/
def intToX (i : Int) : W32 := roundX32 (ofInt i 0 false)

/-- X32 to a two's complement integer of w bits: to nearest even, or toward zero (R77). -/
def xToInt (w : Nat) (trunc : Bool) (a : W32) : Int :=
  let hi : Int := 2 ^ (w - 1) - 1
  let lo : Int := -(2 ^ (w - 1))
  match x32Val a with
  | .nan => lo
  | .inf n => if n then lo else hi
  | .zero _ => 0
  | .fin n m k =>
    let q := m / 2 ^ k
    let r := 2 * (m % 2 ^ k)
    let q' := if trunc then q else if r < 2 ^ k then q else if 2 ^ k < r then q + 1 else q + q % 2
    clampInt lo hi (signed n q')

/-! ### Positions for the census and the scales -/

/-- ceil(512 · log2 (mag / 2^k)), exactly (R166). -/
def ceilPos (mag k : Nat) : Int :=
  let m := mag ^ 512
  let l : Int := (m.log2 : Int) - (k * 512 : Nat)
  if m = 2 ^ m.log2 then l else l + 1

/-- The position AMAX records for a value, none for zero, NaN and infinity (R166). -/
def amaxVal : Val → Option Int
  | .fin _ m k => some (ceilPos m k)
  | _ => none

/-- The position AMAX records for a logarithmic value (R166). -/
def amaxLog : LogVal → Option Int
  | .pos _ p => some p
  | _ => none

/-- The larger of two optional positions. -/
def maxPos : Option Int → Option Int → Option Int
  | none, b => b
  | a, none => a
  | some a, some b => some (max a b)

/-- ceil(a / 512). -/
def ceil512 (a : Int) : Int := -((-a) / 512)

/-- The position of a target's largest finite code: TGT 0 is L4, 1 is L8 (R169). -/
def pmaxOf (tgt : Nat) : Int := if tgt = 0 then 512 else 3968

/-- The block scale of R173. -/
def blockScale (tgt : Nat) (a : Option Int) : Int :=
  match a with
  | none => 0
  | some p => clampInt (-128) 127 (ceil512 (p - pmaxOf tgt))

/-! ### The lane generator -/

/-- One draw of a lane generator (R154). -/
def mix (k n : W64) : W32 :=
  let z := k + n * 0x9E3779B97F4A7C15#64
  let z := z ^^^ (z >>> (31 : Nat))
  let z := z * 0xD6E8FEB86659FD93#64
  let z := z ^^^ (z >>> (29 : Nat))
  let z := z * 0xA0F2EC75A1FE1575#64
  let z := z ^^^ (z >>> (32 : Nat))
  z.setWidth 32 ^^^ (z >>> (32 : Nat)).setWidth 32

/-- The key of a lane: SEED xor (ID << 40) (R154). -/
def laneKey (seed : W64) (id : Nat) : W64 := seed ^^^ BitVec.ofNat 64 (id * 2 ^ 40)

/-- The 16-bit value stochastic rounding takes from a draw (R155). -/
def drawU (d : W32) : Nat := d.toNat / 2 ^ 16

/-- L16 rounding of the fused combine x = w + Δ′·2^E (R182). -/
def combine16 (w : Nat) (delta : W32) (e : Int) (rn : Bool) (u : Nat) : Nat :=
  let x := addVal (x32Val (lin16 w)) (scaleVal e (x32Val delta))
  if rn then (rnVal fmtL16 false x).code else (srVal fmtL16 false u x).code

end Sys2Proof.Machine
end

