-- ==== Sys2Proof/Machine/Ops.lean ====
section
/-! DEFINITION. The operations that every family shares: time, records of the night log, routing, the egress of frames,
replies, the end and the abort of a job, and raising a fault. -/

namespace Sys2Proof.Machine

/-- The outcome of a command's meaning. -/
abbrev Res := Host.Outcome State Fault Refusal

/-! ### Time -/

/-- cc of the exposure in progress, counted from its meridian. -/
def ccNow (s : State) : Int := (s.now : Int) - s.mer.at_

/-- What slewing makes good of an offset within a number of cc, in 10^-5 ns: at most 10 ppm (R36). -/
def slewBy (owed : Int) (cc : Nat) : Int := clampInt (-(cc * 10 / 33 : Nat)) (cc * 10 / 33 : Nat) owed

/-- PTP time in 10^-5 ns: it runs at the timebase's rate and slews (R36, R329). -/
def ptpFine (s : State) : Nat :=
  ((s.ptp.ns * 100000 + (s.now - s.ptp.nsAt) * s.ptp.rate / s.ptp.rateCc : Nat) + s.ptp.frac +
    slewBy s.ptp.owed (s.now - s.ptp.slewAt)).toNat

/-- PTP time in ns. -/
def ptpNs (s : State) : Nat := ptpFine s / 100000

/-- cc in a number of ms and of µs. -/
def msCc (n : Nat) : Nat := n * 3300000
def usCc (n : Nat) : Nat := n * 3300

/-- The next free value's number, and the state past `n` of them (log 3). -/
def drawFree (n : Nat) (s : State) : List Byte × State :=
  ((List.range n).map (fun i => Config.freeByte (s.free + i)), { s with free := s.free + n })

/-- One word of the random source. -/
def drawRandom (s : State) : W64 × State := (Config.random s.free, { s with free := s.free + 1 })

/-! ### Lookups and single updates -/

/-- The core record, a default one where bring-up has not built it. -/
def coreOf (s : State) (c : Nat) : CoreSt :=
  (look s.cores c).getD
    { enabled := false, retired := false, quarantined := false, logical := 0, tenants := [], jobs := [], last := [], imap := [],
      mac := none, opeFree := 0, readable := [0, 0], drained := [0, 0], portFree := 0, ringWr := 0, seed := 0,
      seeded := false, mq := [], issued := [0, 0, 0, 0, 0, 0], issuer := [0, 0, 0, 0, 0, 0], frame := 0, used := 0, grant := 64, granted := [], alloc := [],
      ceiling := 64, spareRows := 0, spareCols := 0, abortClear := false }

def modCore (c : Nat) (f : CoreSt → CoreSt) (s : State) : State :=
  { s with cores := tput s.cores c (f (coreOf s c)) }

def modJob (slot : Nat) (f : Job → Job) (s : State) : State := { s with jobs := tmod s.jobs slot f }

def emptyPort : Port :=
  { up := false, upAt := 0, inSpray := false, loop := false, preempt := false, degraded := none, failed := false,
    paused := [], queue := [], seq := 0, nbr := none, nbrOk := false, freeAt := 0, onWire := false,
    wireAt := 0, exFree := 0, cutOff := false, finderAt := none, xoff := [], ingress := [], serdes := 0, reload := false }

def portOf (s : State) (code : Nat) : Port := (look s.ports code).getD emptyPort

def modPort (code : Nat) (f : Port → Port) (s : State) : State :=
  { s with ports := tput s.ports code (f (portOf s code)) }

def emptyStack : StackSt :=
  { ready := false, unusable := false, group := 0, inSlot := false, streams := [], sumsAt := 0, sums := [], fill := [], scrub := 0, skipped := [], back := false,
    behind := false, passAt := 0, lastUe := none, laneSpares := 0, chSpare := false, chCopy := none, rowRepairs := 0,
    retired := [], micro := 0, seed := 0, tenants := [] }

def stackOf (s : State) (n : Nat) : StackSt := (look s.stks n).getD emptyStack

def modStack (n : Nat) (f : StackSt → StackSt) (s : State) : State :=
  { s with stks := tput s.stks n (f (stackOf s n)) }

/-- Out first: something leaves the module. -/
def emit (o : Out) (s : State) : State := { s with out := o :: s.out }

/-- Set the first element at an index of a list. -/
def setAt {α : Type} (l : List α) (i : Nat) (v : α) : List α := l.set i v

/-- The running job of a job ID, in slot order. -/
def jobById (s : State) (id : Nat) : Option (Nat × Job) := s.jobs.find? (fun e => e.2.id = id)

/-- The plan segment a job runs. -/
def segOf (s : State) (j : Job) : Option Segment :=
  match look s.plans j.plan with
  | some p => p.image.segments[j.seg]?
  | none => none

/-- The image of a job's plan. -/
def imageOf (s : State) (j : Job) : Option PlanImage := (look s.plans j.plan).map (·.image)

/-- Members of a job's group, in ascending order without repeats: every module of the plan's group table, and this
module (DEDUCED, log 7). -/
def members (s : State) (j : Job) : List Nat :=
  match imageOf s j with
  | some p => ((p.groups.map (·.members)).flatten).eraseDups
  | none => []

/-- This module's ID, and whether it is valid (R316, R317). -/
def moduleId (s : State) : Nat := cfg s 0x718000 0 12
def moduleValid (s : State) : Bool := cfg s 0x718000 15 1 == 1

/-- The job group has more than one member. -/
def multi (s : State) (j : Job) : Bool := (members s j).any (· ≠ moduleId s)

/-- The trim bound T of R35. -/
def trimBound (n : Nat) : Nat := 33 * ceilDiv (n * 12672 * 20) (33 * 1000000)

/-- The guard in force: the larger of MER_GUARD and T (R49). -/
def guardCc (s : State) : Nat := max (cfg s 0x10018 0 18) (trimBound (cfg s 0x10000 0 16))

/-- The module runs: supply good, no C4 event (R451). -/
def live (s : State) : Bool := s.pwr.phase = 2

/-- Bring-up is complete (R476). -/
def ready (s : State) : Bool := live s && s.boot.stage = 0xFF

/-- BAR0 of PF0 is served in full: after Ready, on a working link, PF0 not in D3hot, before any halt (R376, R494). -/
def barServed (s : State) : Bool :=
  s.boot.stage = 0xFF && (s.pwr.phase = 2 || s.pwr.phase = 3) && fnSends s 0 && !replyLost s 0

/-! ### The night log (R455 to R457) -/

/-- What a detected fault says of itself. -/
structure Ev where
  src : Nat
  slot : Option Nat := none
  tenants : List Nat := []
  unit : Nat := 0
  sub : Nat := 0
  detail : Nat := 0
  /-- kind and spare category of the block, where the source's table row does not give them (R463, R467) -/
  kind : Option Unit' := none
  cat : Option Nat := none

/-- The kind of block that an event names. -/
def kindOf (e : Ev) : Unit' := e.kind.getD (srcUnit e.src)

def inst (e : Ev) : Nat := e.unit % 256 + e.sub % 256 * 256

/-- Bytes 59:0 of an entry (R456). -/
def entryHead (e : Entry) : List Byte :=
  leBytes 8 e.seq ++ leBytes 8 e.time ++ leBytes 8 (toField 64 e.mer) ++ leBytes 4 e.cc ++ leBytes 2 e.source ++
  leBytes 1 e.cls ++ leBytes 1 e.flags ++ leBytes 2 e.inst ++ leBytes 2 e.jobId ++ leBytes 2 e.slot ++
  leBytes 2 e.tenant ++ leBytes 4 e.coalesced ++ leBytes 1 e.quar ++ leBytes 3 0 ++ leBytes 8 e.detail ++ leBytes 4 0

/-- One bit step of CRC-32 in its reflected form. -/
def crcBits : Nat → W32 → W32
  | 0, c => c
  | n + 1, c => crcBits n (if c.getLsbD 0 then (c >>> 1) ^^^ 0xEDB88320#32 else c >>> 1)

/-- CRC-32 with the IEEE 802.3 polynomial. -/
def crc32 (bs : List Byte) : W32 :=
  ~~~ (bs.foldl (fun c b => crcBits 8 (c ^^^ b.setWidth 32)) (BitVec.allOnes 32))

/-- The 64 bytes of an entry (R456). -/
def entryBytes (e : Entry) : List Byte := entryHead e ++ leBytes 4 (crc32 (entryHead e)).toNat

/-- Two entries fold together (R457). -/
def foldable (a b : Entry) : Bool :=
  a.source = b.source && a.inst = b.inst && a.cls % 8 = b.cls % 8 && a.slot = b.slot && a.tenant = b.tenant &&
  a.flags % 4 = b.flags % 4

/-- The entry of an event as it stands at detection. -/
def makeEntry (e : Ev) (cls : Nat) (promoted : Bool) (quar : Option Nat) (flags : Nat) (s : State) : Entry :=
  let j := e.slot.bind (look s.jobs)
  let ten := match j with | some j => some j.tenant | none => e.tenants.head?
  { seq := s.flt.nextSeq, time := ptpNs s, mer := s.mer.count, cc := (ccNow s).toNat, source := e.src,
    cls := cls + srcClass e.src * 8 + (if promoted then 64 else 0),
    flags := (if j.isSome then 1 else 0) + (if ten.isSome then 2 else 0) + (if quar.isSome then 4 else 0) + flags,
    inst := inst e, jobId := (j.map (·.id)).getD 0, slot := e.slot.getD 0, tenant := ten.getD 0,
    coalesced := ctrOf s (rkey 0xB00214 e.src), quar := quar.getD 0, detail := e.detail % 2 ^ 64 }

/-- The SEQ of the entry that an event is recorded in: its own, or that of the one it folds into. -/
def entrySeq (n : Entry) (s : State) : Nat := ((s.flt.fifo.find? (foldable n)).map (·.seq)).getD n.seq

/-- Record an entry: fold it, lose it, or put it into the FIFO (R455, R457). -/
def record (n : Entry) (s : State) : State :=
  if s.flt.fifo.any (foldable n) then
    { s with flt := { s.flt with
        fifo := s.flt.fifo.map (fun o => if foldable n o then { o with coalesced := satAdd 32 o.coalesced 1 } else o) } }
  else if 256 ≤ s.flt.fifo.length then
    irqSet 0xB00384 4 (bump 0xB00020 32 1 (bump (rkey 0xB00214 n.source) 32 1 s))
  else
    setCtr (rkey 0xB00214 n.source) 0
      { s with flt := { s.flt with fifo := s.flt.fifo ++ [n], nextSeq := s.flt.nextSeq + 1 } }

/-- Count an event and decide its class: promotion by R452. -/
def judge (src : Nat) (s : State) : Nat × Bool × State :=
  let cls := srcClass src
  let w := regA s (rkey 0xB00204 src)
  let n := bits w 0 8
  let s := bump (rkey 0xB0020C src) 32 1 s
  if bitOf w 8 && cls < 4 then
    let times := (s.now :: tget s.flt.times src []).take n
    let s := { s with flt := { s.flt with times := tput s.flt.times src times } }
    let promoted := match times[n - 1]? with
      | some t0 => decide (s.now - t0 < msCc (bits (regA s (rkey 0xB00208 src)) 0 27))
      | none => false
    if promoted then (cls + 1, true, bump (rkey 0xB00210 src) 32 1 s) else (cls, false, s)
  else (cls, false, s)

/-- An event of base class C0 or C1: counted and recorded, its correction apart. -/
def note (e : Ev) (s : State) : State :=
  let (cls, p, s) := judge e.src s
  record (makeEntry e cls p none 0 s) s

/-! ### Routing (R318 to R320) -/

/-- Word `i` of the routing entry of a destination module. -/
def rtWord (s : State) (d i : Nat) : Nat := regA s (rkey (0x718104 + 4 * i) d)

/-- The next hops of a destination: (index, port code, weight, neighbour). The entry of the module's own ID is not used
(R318). -/
def hopsOf (s : State) (d : Nat) : List (Nat × Nat × Nat × Nat) :=
  let w := rtWord s d 0
  if bitOf w 0 ∧ d ≠ moduleId s then
    (List.range (min (bits w 8 8) 8)).map (fun j =>
      let h := rtWord s d (2 + j)
      (j, bits h 0 7, max 1 (bits h 8 8), bits h 16 8))
  else []

/-- A next hop is usable: its sub-port sprays, and its neighbour is known (R319, R320). -/
def usable (s : State) (h : Nat × Nat × Nat × Nat) : Bool :=
  let p := portOf s h.2.1
  p.inSpray && (h.2.2.2 ≠ 0 || p.nbr.isSome)

/-- The spray counters of a destination return to 0 when its set of usable next hops changes (R320). -/
def respray (before s : State) : State :=
  let us := fun (s : State) (d : Nat) => ((hopsOf s d).filter (usable s)).map (·.1)
  { s with spray := s.spray.filter (fun e => us before (e.1 / 48) == us s (e.1 / 48)) }

/-- Change a sub-port's part in spraying. -/
def modSpray (code : Nat) (f : Port → Port) (s : State) : State := respray s (modPort code f s)

/-- A sub-port leaves the spraying set; its queued frames are discarded and counted in TX_DISCARD (R303). -/
def leaveSpray (code : Nat) (f : Port → Port) (s : State) : State :=
  modSpray code (fun p => f { p with inSpray := false, queue := [] })
    (bump (0x700058 + 0x1000 * (code / 4)) 32 (portOf s code).queue.length s)

/-- The MAC address of a neighbour on a sub-port: index 0 is the one that finder last learnt there (R319). -/
def neighbourMac (s : State) (code idx : Nat) : Nat :=
  if idx = 0 then ((portOf s code).nbr.map (fun x => x.1.srcMac)).getD 0
  else regA s (rkey 0x718184 idx) + regA s (rkey 0x718188 idx) * 2 ^ 32

/-- An IPV4 entry's sub-port has no IPv4 address: the frame is discarded (R318). -/
def noIp4 (s : State) (d code : Nat) : Bool :=
  bitOf (rtWord s d 0) 1 && regA s (rkey (0x700018 + 0x1000 * (code / 4)) (code % 4)) == 0

/-- The first two usable next hops with distinct sub-ports (R51, R320), less those that R318 refuses: port code and
neighbour. -/
def slipHops (s : State) (d : Nat) : List (Nat × Nat) :=
  let us := ((hopsOf s d).filter (usable s)).map (fun h => (h.2.1, h.2.2.2))
  let first := us.foldl (fun l x => if l.any (fun y => y.1 = x.1) then l else l ++ [x]) ([] : List (Nat × Nat))
  (first.take 2).filter (fun x => !noIp4 s d x.1)

/-- The next hop a sprayed frame takes, by smooth weighted round robin, and the counters after it (R320). `cls` is
0 for a frame of this module and 1 + I/O die for a transit frame. It names the sub-port and the neighbour. -/
def pickHop (d cls : Nat) (s : State) : Option (Nat × Nat) × State :=
  let us := (hopsOf s d).filter (usable s)
  let base := (d * 3 + cls) * 16
  let mask : Int := (us.foldl (fun m h => m + 2 ^ h.1) 0 : Nat)
  let sp := if tget s.spray (base + 8) 0 = mask then s.spray else tclear s.spray base 8
  let c := us.map (fun h => (h, tget sp (base + h.1) 0 + (h.2.2.1 : Int)))
  let sum : Int := (us.foldl (fun m h => m + h.2.2.1) 0 : Nat)
  match c with
  | [] => (none, s)
  | c0 :: cr =>
    let best := cr.foldl (fun b x => if b.2 < x.2 then x else b) c0
    let sp := (c0 :: cr).foldl (fun m x =>
      tset m (base + x.1.1) (if x.1.1 = best.1.1 then x.2 - sum else x.2) 0) sp
    (some (best.1.2.1, best.1.2.2.2), { s with spray := tset sp (base + 8) mask 0 })

/-- Egress from a core store to the first bit at the pin, and transit from pin to pin (R59, R365). -/
def egressCc : Nat := 990
def transitCc : Nat := 660

/-- The register window of a port code's port, its LNK_CFG.MODE (R298), and whether the code names a sub-port of a populated
port in its mode (R301). -/
def portWin (code : Nat) : Nat := 0x700000 + 0x1000 * (code / 4)
def portMode (s : State) (code : Nat) : Nat := cfg s (portWin code) 0 2
def hasSub (s : State) (code : Nat) : Bool :=
  decide (code / 4 < nPorts s) &&
  (match portMode s code with
   | 1 => code % 4 = 0 | 2 => code % 4 < 2 | 3 => true | _ => false)

/-- The MAC address of a sub-port (R334). -/
def portMac (s : State) (code : Nat) : Nat := s.alm.macBase + code

/-- A fabric address: the prefix, a module ID, and a port code, or 0xFF for the module address (R316). -/
def fabricAddr (s : State) (d low : Nat) : Nat :=
  (regA s 0x718010 + regA s 0x718014 * 2 ^ 32 + regA s 0x718018 * 2 ^ 64) * 2 ^ 32 + d * 2 ^ 20 + low
def portAddress (s : State) (code : Nat) : Nat := fabricAddr s (moduleId s) code

/-- The IPv4 address of a sub-port, 0 for none (R316). -/
def portIp4 (s : State) (code : Nat) : Nat := regA s (rkey (0x700018 + 0x1000 * (code / 4)) (code % 4))

/-- The frame is the module's own: neither in transit nor of the host's ring. -/
def ownFrame (f : TxFrame) : Bool := match f.msg with | .transit .. => false | .host .. => false | _ => true

/-- The tag with which a frame leaves a sub-port: none where VLAN_EN is clear and for a finder frame, else LNK_CFG.VID (R308). -/
def tagOf (s : State) (code : Nat) (f : TxFrame) : Option Nat :=
  if cfg s (portWin code) 5 1 == 1 && (match f.msg with | .finder .. => false | _ => true) then some (cfg s (portWin code) 8 12) else none

/-- A frame as a sub-port queues it: one that states no cc of its own takes the egress path (R59); its tag takes 4 bytes (R308);
the module's own frames and those in transit leave with the sub-port's MAC address, and own datagrams from its address (R316,
R321; DEDUCED, log 44: the port address, of the two that R316 forms). -/
def queued (s : State) (code : Nat) (f : TxFrame) : TxFrame :=
  let tag := tagOf s code f
  { f with
    readyAt := if f.readyAt = 0 then s.now + egressCc else f.readyAt
    len := f.len + (if tag.isSome then 4 else 0) - (if f.vid.isSome then 4 else 0)
    vid := tag
    srcMac := match f.msg with | .host .. => f.srcMac | _ => portMac s code
    ipSrc := if ¬ ownFrame f then f.ipSrc
      else if f.ether = 0x86DD then portAddress s code else if f.ether = 0x0800 then portIp4 s code else 0 }

/-- Queue a frame at a sub-port's egress. -/
def queueTx (code : Nat) (f : TxFrame) (s : State) : State :=
  modPort code (fun p => { p with queue := p.queue ++ [queued s code f] }) s

/-- An express frame of the module, to a UDP port where it is a datagram (R312). -/
def express (len : Nat) (m : Msg) (udp : Nat := 0) : TxFrame :=
  { group := 0, pcp := 7, dscp := 56, udp, len, ecn := 0, planCc := 0, readyAt := 0, tenant := none, msg := m }

/-- UDP ports of slip requests and of Barfeos (R52, R340). -/
def slipPort (s : State) : Nat := cfg s 0x10038 0 16
def bftPort (s : State) : Nat := cfg s 0x800000 0 16

/-- A frame of class P2: Barfeos data that no plan schedules (R312, R340). -/
def classP2 (s : State) (tenant port len : Nat) (m : Msg) : TxFrame :=
  { group := 2, pcp := cfg s 0x800000 17 3, dscp := cfg s 0x800000 20 6, udp := port, len, ecn := 2, planCc := 0,
    readyAt := 0, tenant := some tenant, msg := m }

/-- A datagram is 20 bytes shorter over IPv4, and no frame is shorter than 64 bytes (R318, R340). -/
def overIp (ip4 : Bool) (f : TxFrame) : TxFrame :=
  { f with len := if ip4 ∧ f.udp ≠ 0 then max 64 (f.len - 20) else f.len }

/-- A frame to a module that no next hop takes is discarded with LNK_NO_ROUTE (R318). -/
def noRoute (d : Nat) (s : State) : State :=
  note { src := 0x102, unit := d % 256, sub := d / 256 } (bump 0x718240 32 1 s)

/-- A frame to a module through one of its next hops, to the module's address, or to IPV4_DST of an IPV4 entry; a frame of the
host's ring keeps the IP header that the host wrote (R312, R316, R318, R319). -/
def sendVia (d : Nat) (f : TxFrame) (hop : Nat × Nat) (s : State) : State :=
  let f := { f with mac := neighbourMac s hop.1 hop.2, srcMac := portMac s hop.1 }
  queueTx hop.1 (if ¬ ownFrame f then f
    else if bitOf (rtWord s d 0) 1 then { f with hops := cfg s 0x718008 0 8, ether := 0x0800, ipDst := rtWord s d 1 }
    else { f with hops := cfg s 0x718008 0 8, ipDst := fabricAddr s d 0xFF }) s

/-- A frame routed to a module: sprayed over its next hops, or discarded with LNK_NO_ROUTE (R318). -/
def route (d : Nat) (f : TxFrame) (s : State) : State :=
  match pickHop d 0 s with
  | (some (code, nb), s) =>
    if noIp4 s d code then noRoute d s
    else sendVia d (overIp (bitOf (rtWord s d 0) 1) f) (code, nb) s
  | (none, s) => noRoute d s

/-- A queued frame goes to a module (R316, R318). -/
def toPeer (s : State) (d : Nat) (f : TxFrame) : Bool :=
  f.ipDst = fabricAddr s d 0xFF || (f.ether = 0x0800 && bitOf (rtWord s d 0) 1 && f.ipDst = rtWord s d 1)

/-- Originate a frame of a job or of Barfeos: none leaves while the module ID is not valid (R317). -/
def originate (d : Nat) (f : TxFrame) (s : State) : State := if moduleValid s then route d f s else s

/-- BFT counters in R368's order: index i lies at 0x200 + 4i. -/
def bftCount (i : Nat) (s : State) : State := bump (0x800200 + 4 * i) 32 1 s

/-- Send a Barfeos packet: from the port it goes to, and counted in TX_PKTS (R340, R368). -/
def originateBft (d : Nat) (f : TxFrame) (s : State) : State := originate d { f with sport := f.udp } (bftCount 0 s)

/-- A slip or abort frame to every other member, each on its first two next hops, by the first cc at which a port can take
it (R51, R56). -/
def sendSlip (j : Job) (type : Nat) (mer : Int) (excess : Nat) (s : State) : State :=
  if ¬ moduleValid s then s else
  ((members s j).filter (· ≠ moduleId s)).foldl (fun s d =>
    let hs := slipHops s d
    let f := overIp (bitOf (rtWord s d 0) 1) (express 98 (.slip 1 type j.id (moduleId s) mer (j.segs - 1) excess
      (cfg s 0x10000 0 16) (if type = 1 then j.run + 1 else 0)) (slipPort s))
    if hs.isEmpty then noRoute d s
    else hs.foldl (fun s h => sendVia d f h s) s) s

/-- A frame on the management segment, at a priority of R332: the first 32 of a list are its queue, and those after them stand
at their source, which a full queue holds back. -/
def queueMgt (prio : Nat) (m : Msg) (s : State) : State :=
  { s with mgt := match prio with
    | 1 => { s.mgt with q1 := s.mgt.q1 ++ [m] }
    | 2 => { s.mgt with q2 := s.mgt.q2 ++ [m] }
    | 3 => { s.mgt with q3 := s.mgt.q3 ++ [m] }
    | _ => { s.mgt with q4 := s.mgt.q4 ++ [m] } }

/-! ### Energy requests (R436 to R439) -/

/-- A request opens for an account, with T_START at the meridian of the exposure in progress (R437, R440). -/
def addReq (account id : Nat) (s : State) : State :=
  { s with pho := { s.pho with reqs := s.pho.reqs ++
      [{ account, id, direct := 0, shared := 0, idle := 0, now := 0, held := 0, repDirect := 0, repShared := 0, repIdle := 0,
         tStart := s.pho.lastNs, lowNs := 0, fault := false, modelled := false,
         closing := none }] } }

/-- Direct energy in pJ for a job (R436). -/
def chargeJob (slot pj : Nat) (s : State) : State := modJob slot (fun j => { j with direct := j.direct + pj }) s

/-- Reserve the SEQ of a request's final receipt; the request closes at the next meridian (R439). -/
def closeReq (account id : Nat) (s : State) : Nat × State :=
  let a := tget s.pho.accounts account { seq := 0, issued := 0, prev := 0, restart := false }
  (a.seq, { s with pho := { s.pho with
    accounts := tput s.pho.accounts account { a with seq := a.seq + 1 }
    reqs := s.pho.reqs.map (fun r =>
      if r.account = account ∧ r.id = id ∧ r.closing.isNone then { r with closing := some a.seq } else r) } })

/-- Direct energy in pJ of a command's own request (R436). -/
def chargeReq (account id pj : Nat) (s : State) : State :=
  { s with pho := { s.pho with reqs := s.pho.reqs.map (fun r =>
      if r.account = account ∧ r.id = id ∧ r.closing.isNone then { r with now := r.now + pj } else r) } }

/-- cc of the exposure so far that belong to a job on one core: all of them, or those of its issue map (R119, R436). -/
def heldOn (s : State) (slot : Nat) (c : CoreSt) : Nat :=
  let n := s.now - s.mer.at_
  if slot ∉ c.jobs then 0
  else if c.imap.isEmpty then n
  else
    let mine := c.imap.map (fun i => decide (c.jobs[i]? = some slot))
    n / 64 * (mine.filter id).length + ((mine.take (n % 64)).filter id).length

/-- Core-cc that a job has held in the exposure so far (R436). -/
def heldCc (s : State) (slot : Nat) : Nat := s.cores.foldl (fun n c => n + heldOn s slot c.2) 0

/-- A job's direct energy and core-cc of the exposure go to its request (R436, R437). -/
def flushJob (slot : Nat) (s : State) : State :=
  match look s.jobs slot with
  | none => s
  | some j =>
    let cc := heldCc s slot
    let reqs := s.pho.reqs.map (fun r =>
      if r.account = j.tenant ∧ r.id = j.request ∧ r.closing.isNone then
        { r with now := r.now + j.direct + 2290 * cc, held := r.held + cc } else r)
    modJob slot (fun j => { j with direct := 0 }) { s with pho := { s.pho with reqs } }

/-! ### Pages and mappings -/

/-- Bytes of a page-size code (R245). -/
def pageBytes (c : Nat) : Nat := if c = 0 then 2 ^ 16 else if c = 1 then 2 ^ 21 else 2 ^ 30

/-- 64 KiB frames of a page-size code. -/
def pageFrames (c : Nat) : Nat := pageBytes c / 65536

/-- A page that a tenant's mapping holds at an address. -/
structure Hit where
  handle : Nat
  obj : Obj
  map : Mapping
  page : Nat
  off : Nat

/-- The page that an address of the unified range lies in, under one tenant's tree (R244). -/
def hitAt (s : State) (tenant va : Nat) : Option Hit :=
  s.objs.findSome? (fun e => e.2.maps.findSome? (fun m =>
    let sz := pageBytes e.2.psize
    if m.tenant = tenant ∧ m.base ≤ va ∧ va < m.base + e.2.pages * sz then
      some { handle := e.1, obj := e.2, map := m, page := (va - m.base) / sz, off := (va - m.base) % sz }
    else none))

/-! ### Rings and replies (R378 to R386) -/

def resetRing : Ring :=
  { sqBase := 0, cqBase := 0, sqLog := 6, cqLog := 6, enable := false, vector := 1, coalCount := 0, coalUs := 0,
    sqTail := 0, cqHead := 0, sqHead := 0, cqTail := 0, phase := true, error := false, held := [],
    unsignalled := 0, firstAt := 0, bells := [] }

/-- A ring pair; function 0 is PF0 and function n the VF of tenant n − 1 (R372). -/
def ringOf (s : State) (fn r : Nat) : Ring := (look s.rings (fn * 64 + r)).getD resetRing

def setRing (fn r : Nat) (g : Ring) (s : State) : State := { s with rings := tput s.rings (fn * 64 + r) g }

/-- HBM key of a place in device memory as a function names it: an owner-view address for PF0, else a virtual address of
the tenant on a page of an object whose home is HBM (R378). -/
def deviceKey (s : State) (fn a : Nat) (write : Bool) : Option Nat :=
  if fn = 0 then (if a < 12 * 2 ^ 36 ∧ hasStack s (a / 2 ^ 36) then some a else none)
  else match hitAt s (fn - 1) a with
    | some h =>
      if h.obj.home = 0 ∧ (h.map.w ∨ ¬ write) then (look h.obj.loc h.page).map (fun f => f * 65536 + h.off) else none
    | none => none

/-- The 32 bytes of a reply (R384). -/
def replyBytes (r : Reply) : List Byte :=
  leBytes 2 r.status ++ leBytes 1 (r.flags % 8) ++ leBytes 1 r.ring ++ leBytes 2 r.index ++ leBytes 2 0 ++
  leBytes 8 r.echo ++ leBytes 8 r.tStart ++ leBytes 4 r.tDur ++ leBytes 4 (r.receipt.getD 0)

/-- Signal a ring's vector after a counted reply (R377). -/
def signalRing (fn : Nat) (g : Ring) (s : State) : Ring × State :=
  let n := g.unsignalled + 1
  if n < g.coalCount then ({ g with unsignalled := n, firstAt := if g.unsignalled = 0 then s.now else g.firstAt }, s)
  else ({ g with unsignalled := 0 }, sendMsix fn g.vector s)

/-- A ring access failed: the pair stops (R378, R393). -/
def ringError (fn r : Nat) (s : State) : State :=
  irqSet 0x900184 4 (setRing fn r { ringOf s fn r with error := true } s)

/-- Put a reply into the next completion slot, in host memory or in device memory (R378, R381). -/
def placeReply (fn : Nat) (g : Ring) (r : Reply) (s : State) : State :=
  if bitOf g.cqBase 0 then
    match deviceKey s fn (g.cqBase / 32 * 32 + 32 * g.cqTail) true with
    | some k =>
      let hbm := tsplice s.hbm k (replyBytes r) 0
      { s with hbm := hbm }
    | none => ringError fn r.ring s
  else emit (.reply fn g.cqTail { r with flags := r.flags % 8 }) s

/-- Write a reply into the next completion slot, or hold it while the ring is full or the link is down (R381). Bit 3 of
the flags is the model's own mark of NO_IRQ and never leaves in a reply's FLAGS field. -/
def writeReply (fn : Nat) (r : Reply) (s : State) : State :=
  if replyLost s fn ∨ (look s.rings (fn * 64 + r.ring)).isNone then s else
  let g := ringOf s fn r.ring
  let size := 2 ^ g.cqLog
  if ¬ g.held.isEmpty ∨ (g.cqTail + 1) % size = g.cqHead % size ∨ ¬ fnSends s fn then
    setRing fn r.ring { g with held := g.held ++ [r] } s
  else
    let s := placeReply fn g { r with flags := r.flags / 2 * 2 + (if g.phase then 1 else 0) } s
    let g := ringOf s fn r.ring
    let next := (g.cqTail + 1) % size
    let g := { g with cqTail := next, phase := if next = 0 then !g.phase else g.phase }
    let (g, s) := if bitOf r.flags 3 then (g, s) else signalRing fn g s
    setRing fn r.ring g s

/-- Write the replies that a ring holds, as far as there is room (R381). -/
def flushRing (fn r : Nat) (s : State) : State :=
  let g := ringOf s fn r
  if g.held.isEmpty then s
  else g.held.foldl (fun s x => writeReply fn x s) (setRing fn r { g with held := [] } s)

/-- The account that a command's energy belongs to (R437, R439). -/
def accountOf (x : Exec) (owner : Bool) : Nat := if owner then 4096 else x.tenant

/-- Owner-only opcodes (R387). -/
def ownerOnly (op : Nat) : Bool :=
  op ∈ [0x0301, 0x0501, 0x0601, 0x0602, 0x0701, 0x0702, 0x0C01, 0x0C02, 0x0D01, 0x0E01, 0x0F01]

/-- The request number of an account's standing request (R437). -/
def standingId : Nat := 2 ^ 64 - 1

/-- Energy of a command that no tenant can be charged with goes to the owner account's standing request (R437, R439). -/
def chargeOwner (pj : Nat) (s : State) : State :=
  let s := if s.pho.reqs.any (fun r => r.account = 4096 && r.id = standingId) then s else addReq 4096 standingId s
  chargeReq 4096 standingId pj s

/-- A command begins: its request is open, and has the bytes of its header and block (R436, R437). -/
def openReq (x : Exec) (s : State) : State :=
  let acc := accountOf x (ownerOnly x.hdr.opcode)
  chargeReq acc x.hdr.requestId (25 * (64 + x.hdr.length)) (addReq acc x.hdr.requestId s)

/-- Answer a command in execution: STARTED keeps it open, every other reply is final and frees its place (R382). Host
memory takes the 32 bytes (R436). -/
def replyTo (cmd status echo : Nat) (final : Bool) (s : State) : State :=
  match look s.cmds cmd with
  | none => s
  | some x =>
    let noIrq := if bitOf x.hdr.flags 1 then 8 else 0
    let acc := accountOf x (ownerOnly x.hdr.opcode)
    let s := if status = 0x13 then chargeOwner (25 * (96 + x.hdr.length)) s
      else chargeReq acc x.hdr.requestId (25 * 32) (if x.begun then s else openReq x s)
    let (rcpt, s) :=
      if final ∧ status ≠ 0x13 then
        let (q, s) := closeReq acc x.hdr.requestId s
        (some (q % 2 ^ 32), s)
      else (none, s)
    let r : Reply :=
      { status, flags := (if rcpt.isSome then 2 else 0) + (if final then 4 else 0) + noIrq, ring := x.ring,
        index := x.index, echo, tStart := x.at_, tDur := min (ptpNs s - x.at_) (2 ^ 32 - 1), receipt := rcpt }
    let s := if status = 0x17 then bump 0x900104 32 1 s else s
    let s := if x.mute then s else writeReply x.fn r s
    if final then { s with cmds := tdel s.cmds cmd }
    else { s with cmds := tput s.cmds cmd { x with started := true } }

/-- The final reply SUCCESS with an echo. -/
def done (cmd echo : Nat) (s : State) : State := replyTo cmd 0 echo true s

/-- A final reply with a status and no echo. -/
def fail (cmd status : Nat) (s : State) : State := replyTo cmd status 0 true s

/-- REFUSED with a reason; section type and item for a plan's refusal (R386). -/
def refuseWith (cmd reason : Nat) (s : State) (sect : Nat := 0) (item : Nat := 0xFFFFFFFF) : State :=
  replyTo cmd 0x17 (reason + sect * 2 ^ 16 + item * 2 ^ 32) true (if reason = 0x18 then bump 0xC0020C 32 1 s else s)

/-! ### Commands in execution (R379, R380) -/

/-- What a command changes, as (kind, number): tenants 0, jobs 1, objects 2, regions 3, plans 4 (R380). -/
def targetsOf (x : Exec) : List (Nat × Nat) :=
  match x.hdr.opcode with
  | 0x0102 => [(4, x.hdr.p0)]
  | 0x0202 => [(1, x.hdr.p0 % 4096)]
  | 0x0302 => if x.obj = 0 then [] else [(2, x.obj)]
  | 0x0303 => [(2, x.hdr.p0)]
  | 0x0304 => [(2, x.hdr.p0)]
  | 0x0305 => [(2, x.hdr.p0)]
  | 0x0401 => [(4, x.hdr.p0)]
  | 0x0503 => [(3, x.hdr.p0)]
  | 0x0601 => [(0, x.hdr.p0 % 4096)]
  | 0x0602 => [(0, x.hdr.p0 % 4096)]
  | 0x0701 => [(0, x.hdr.p0 % 4096)]
  | 0x0702 => [(0, x.hdr.p0 % 4096)]
  | 0x0801 => [(1, x.hdr.p1 % 4096)]
  | _ => []

/-- A command may begin: its ring's earlier commands have begun, with ORDER they have sent their final replies, no
earlier command that is neither ended nor STARTED changes what it changes, and no changeover holds it (R380, R486). An earlier
OBJ_MAP that has not begun may name any object in its block. -/
def mayBegin (s : State) (cmd : Nat) (x : Exec) : Bool :=
  !s.boot.cpPending &&
  s.cmds.all (fun c => decide (cmd ≤ c.1) ||
    ((c.2.begun && !bitOf x.hdr.flags 2 || !(c.2.fn = x.fn && c.2.ring = x.ring)) &&
     (c.2.started || !((targetsOf c.2).any (fun t => (targetsOf x).contains t))) &&
     (c.2.begun || c.2.hdr.opcode ≠ 0x0302 || !(targetsOf x).any (·.1 = 2))))

/-- Change the record of a command in execution. -/
def modCmd (cmd : Nat) (f : Exec → Exec) (s : State) : State := { s with cmds := tmod s.cmds cmd f }

/-- Every opcode with the bytes of its least parameter block (R387, R389, R391). -/
def opcodes : List (Nat × Nat) :=
  [(0x0101, 64), (0x0102, 0), (0x0201, 128), (0x0202, 0), (0x0301, 0), (0x0302, 64), (0x0303, 0), (0x0304, 0)] ++
  [(0x0305, 0), (0x0306, 0), (0x0307, 0), (0x0401, 32), (0x0501, 0), (0x0502, 32), (0x0503, 0), (0x0601, 0)] ++
  [(0x0602, 0), (0x0701, 0), (0x0702, 0), (0x0801, 0), (0x0901, 0), (0x0A01, 0), (0x0B01, 32), (0x0C01, 1)] ++
  [(0x0C02, 0), (0x0D01, 0), (0x0E01, 0), (0x0F01, 0)]

/-- What a header's own fields make of a command: none where it may go on to execution (R372, R380, R386, R387). The order
of the checks is the model's (DESIGN CHOICE, log 20). -/
def headerStatus (s : State) (fn : Nat) (h : Header) : Option Nat :=
  let own := ownerOnly h.opcode
  let ten := if fn = 0 then h.tenant % 4096 else fn - 1
  let gone := match look s.tenants ten with
    | none => some 0x13
    | some x => if x.destroying then some 0x19 else none
  if fn ≠ 0 ∧ gone.isSome then gone
  else match tget (opcodes.map (fun o => (o.1, some o.2))) h.opcode none with
    | none => some 0x10
    | some least =>
      if h.rsv ≠ 0 ∨ 8 ≤ h.flags ∨ h.length < least ∨ (fn = 0 ∧ ¬ own ∧ 4096 ≤ h.tenant) then some 0x11
      else if own ∧ fn ≠ 0 then some 0x12
      else if own then none
      else gone

/-- Commands that may begin and whose header answers them are answered, in fetch order, as the clock comes to a command (R380). -/
def refuseHeaders (s : State) : State :=
  s.cmds.foldl (fun s e => match look s.cmds e.1 with
    | some x =>
      if x.begun ∨ ¬ mayBegin s e.1 x then s else
      match headerStatus s x.fn x.hdr with
      | some code => fail e.1 code (modCmd e.1 (fun x => { x with at_ := ptpNs s }) s)
      | none => s
    | none => s) s

/-- Begin a command of an opcode and carry it out, unless its header answers it (R380, R386). -/
def runCmd (cmd op : Nat) (f : Exec → State → State) (s : State) : State :=
  let s := refuseHeaders s
  match look s.cmds cmd with
  | none => s
  | some x =>
    if x.hdr.opcode ≠ op ∨ x.begun ∨ ¬ mayBegin s cmd x then s
    else
      let y := { x with begun := true, at_ := ptpNs s }
      f y (openReq x { s with cmds := tput s.cmds cmd y })

/-! ### The end of a job -/

/-- Threads of a job slot: their keys. -/
def threadsOf (s : State) (slot : Nat) : List Nat :=
  (s.threads.filter (fun e => e.2.slot = slot && e.2.state != 0)).map (·.1)

/-- What an update that no longer runs leaves on its stack: nothing, TORN or COMPLETE (R210, R219). -/
def settledUpd (u : UpdRun) : Nat := if u.done = u.n then 2 else if u.done = 0 ∧ ¬ u.torn then 0 else 3

/-- A roll-forward has strips to finish (R209). -/
def rollingUpd (u : UpdRun) : Bool := u.mode = 0 && (u.status = 5 || (u.status = 4 && !u.strips.isEmpty))

/-- Strips of a job's updates at an interruption: READ and COMPUTE buffers are discarded, staged ones roll forward
(R208 to R210). Status as SE_STRIP_STATUS: 0 none, 1 running, 2 complete, 3 torn, 4 lost, 5 rolling. -/
def interruptUpd (u : UpdRun) : UpdRun :=
  let keep := u.strips.filter (fun p => 2 ≤ p.phase)
  { u with strips := keep, next := u.n, status := if keep.isEmpty then settledUpd u else 5 }

/-- An update is interrupted otherwise than by an abort of its job, by a fault of the engine's lanes or strip buffer or a C3
quarantine: the strips from STAGE on run their current phase again from the next burst period (R208, R217). -/
def stopUpd (now : Nat) (u : UpdRun) : UpdRun :=
  let v := interruptUpd u
  { v with status := if u.status = 4 then 4 else v.status, retimed := true, kick := max 1 now,
           strips := v.strips.map (fun p => { p with due := none }) }

/-- A stack engine in quarantine interrupts its updates (R208, R209). -/
def stopUpdates (stack : Nat) (s : State) : State :=
  let mine := fun (u : UpdRun) => u.stack = stack && u.mode = 0 && (u.status = 1 || rollingUpd u)
  let torn := s.upds.any (fun u => mine u.2 && (stopUpd s.now u.2).status = 3)
  let s := { s with upds := tmap s.upds (fun _ u => if mine u then stopUpd s.now u else u) }
  if torn then irqSet (0x400184 + 0x10000 * stack) 2 s else s

/-- Free the sync objects of a job (R135). -/
def releaseSync (slot : Nat) (s : State) : State := { s with sync := s.sync.filter (fun e => e.2.owner ≠ slot) }

/-- Length of a Barfeos frame over IPv6 (R340). -/
def bftLen (hdr data : Nat) : Nat := max 64 (90 + hdr + data)

/-- The running job of a job connection, and the segment index that its packets carry: 0 on a plain connection (R341). -/
def ctxJob (s : State) (c : Ctx) : Option (Nat × Job) :=
  if c.job then s.jobs.find? (fun e => e.2.id = c.jobId && e.2.tenant = c.lTenant) else none
def ctxSeg (s : State) (c : Ctx) : Nat := match ctxJob s c with | some (_, j) => j.segs - 1 | none => 0

/-- Close a connection: CLOSE leaves, and the context is FREE once nothing is outstanding (R335, R337). -/
def closeCtx (i : Nat) (s : State) : State :=
  match look s.ctxs i with
  | none => s
  | some c =>
    let s := originateBft c.peer (express (bftLen 0 0) (.bft 0x23 0 c.peerCtx 0 c.sbase (ctxSeg s c) [] none []) c.port) s
    { s with ctxs := if c.unacked.isEmpty then tdel s.ctxs i else tput s.ctxs i { c with state := 4 } }

/-- What every end of a job takes with it: threads, objects, streams, operations and prefetches; its connections close
(R135, R448). -/
def endJob (slot : Nat) (j : Job) (status echo : Nat) (s : State) : State :=
  let s := flushJob slot s
  let s := ((s.ctxs.filter (fun e => e.2.job && e.2.jobId = j.id && e.2.lTenant = j.tenant &&
    (e.2.state = 1 || e.2.state = 2))).map (·.1)).foldl (fun s i => closeCtx i s) s
  let s := { s with
    jobs := tdel s.jobs slot
    threads := tmap s.threads (fun _ th => if th.slot = slot then { th with state := 0 } else th)
    stks := tmap s.stks (fun _ k => { k with streams := k.streams.filter (·.slot ≠ slot) })
    cores := tmap s.cores (fun _ c => { c with
      jobs := c.jobs.filter (· ≠ slot)
      last := c.last.filter (· ≠ slot)
      mac := c.mac.filter (·.slot ≠ slot) })
    edges := s.edges.filter (fun e => e.1 / 64 ≠ slot) }
  let s := releaseSync slot s
  match j.cmd with
  | some cmd => replyTo cmd status echo true s
  | none => s

/-- A C2 reaction on one job (R448): the abort takes effect at d + 2, and the group is told. -/
def abortJob (slot src : Nat) (s : State) : State :=
  match look s.jobs slot with
  | none => s
  | some j =>
    if j.aborted.isSome then s else
    let s := modJob slot (fun j => { j with aborted := some (s.now + 2, src), phase := 3 }) s
    let s := { s with pho := { s.pho with
      reqs := s.pho.reqs.map (fun r => if r.account = j.tenant ∧ r.id = j.request then { r with fault := true } else r) } }
    sendSlip j 2 s.mer.count 0 s

/-- Every running job of some tenants. -/
def slotsOf (s : State) (ts : List Nat) : List Nat := (s.jobs.filter (fun e => e.2.tenant ∈ ts)).map (·.1)

def abortAll (slots : List Nat) (src : Nat) (s : State) : State := slots.foldl (fun s k => abortJob k src s) s

/-! ### Quarantine and grave faults -/

/-- The spare category a C3 event calls on (R470), 15 for none. -/
def spareCat (src unit : Nat) : Nat :=
  match srcUnit src with
  | .core => 0
  | .row => 1
  | .bank => 3
  | .stack => if src = 0x085 then 4 else 15
  | .phase => if unit < 24 then 9 else 10
  | _ => 15

/-- A block in quarantine or unusable whose place no spare has taken takes no work (R449, R468). -/
def stopped (s : State) (k : Unit') (unit : Nat) : Bool :=
  s.flt.blocks.any (fun b => b.1 == k && b.2 % 256 = unit && !s.flt.served.contains b)

/-- The half that reaches a module: IOD1's where every next hop lies on it, and IOD0's for all once that of IOD1 has failed
(R273, R469). -/
def halfTo (s : State) (ms : List Nat) : Nat :=
  let hs := ((ms.filter (· ≠ moduleId s)).map (fun m => (hopsOf s m).map (fun h => h.2.1 / 48))).flatten
  if !hs.isEmpty && hs.all (· = 1) && iods s = 2 && !stopped s .half 1 then 1 else 0

/-- The peers of a correlator entry: a ring's neighbours, an edge's other end, else every other member (R276, R284, R292). -/
def entryPeers (p : PlanImage) (e : CorEntry) : List Nat :=
  let edge := p.edges[e.queue]?
  match p.groups[if e.op = 8 ∨ e.op = 9 then (edge.map (·.group)).getD e.group else e.group]? with
  | none => []
  | some g =>
    let n := max 1 g.members.length
    let at_ := fun (r : Nat) => (g.members[r % n]?).toList
    match e.op with
    | 4 | 5 | 7 => g.members
    | 8 => (edge.map (fun q => at_ q.down)).getD []
    | 9 => (edge.map (fun q => at_ q.up)).getD []
    | _ => at_ (g.rank + 1) ++ at_ (g.rank + n - 1)

/-- The half that would run an entry, by the ports through which its peers are reached (R273). -/
def entryHalf (s : State) (p : PlanImage) (e : CorEntry) : Nat := halfTo s (entryPeers p e)

/-- Bytes of `n` elements of a format (R63). -/
def elemBytes (fmt n : Nat) : Nat :=
  if fmt = 0 then ceilDiv n 2 else if fmt = 1 ∨ fmt = 6 then n else if fmt = 2 then 2 * n else if fmt = 5 then 8 * n else 4 * n

/-- Pages of a tenant's range that lie on a stack. -/
def rangeOn (s : State) (tenant stack va n : Nat) : Bool :=
  s.objs.any (fun o => o.2.maps.any (fun m => m.tenant = tenant &&
    o.2.loc.any (fun p => p.2 / 2 ^ 20 = stack && decide (va < m.base + (p.1 + 1) * pageBytes o.2.psize) &&
      decide (m.base + p.1 * pageBytes o.2.psize < va + n))))

/-- A job has a copy in flight that meets some place. -/
def copyMeets (s : State) (slot : Nat) (f : Place → Bool) : Bool :=
  s.cores.any (fun c => c.2.mq.any (fun m => m.slot = slot && (m.sp ++ m.dp).any (fun p => f p.1)))

/-- A place is on a stack; it is in host memory. -/
def placeOn (stack : Nat) : Place → Bool | .hbm k _ => decide (k / 2 ^ 36 = stack) | _ => false
def placeHost : Place → Bool | .host _ => true | _ => false

/-- A segment's work meets a stack: entries, streams, operands of correlator operations and copies in flight. -/
def workOn (s : State) (slot : Nat) (j : Job) (g : Segment) (p : PlanImage) (stack : Nat) : Bool :=
  g.entries.any (fun i => (p.se[i]?).any (fun x => x.stack = stack)) ||
  g.streams.any (fun i => (p.streams[i]?).any (fun x => x.stack = stack)) ||
  g.ops.any (fun i => (p.cor[i]?).any (fun x =>
    rangeOn s j.tenant stack x.src (elemBytes x.inFmt x.count) || rangeOn s j.tenant stack x.dst (elemBytes x.outFmt x.count))) ||
  copyMeets s slot (placeOn stack)

/-- A job has traffic to a module: a connection of its own, or a group with that member whose operations its segment runs. -/
def trafficTo (s : State) (j : Job) (g : Segment) (p : PlanImage) (m : Nat) : Bool :=
  g.ops.any (fun i => (p.cor[i]?).any (fun x => (entryPeers p x).contains m)) ||
  s.ctxs.any (fun e => e.2.job && e.2.jobId = j.id && e.2.lTenant = j.tenant && e.2.peer = m && !e.2.unacked.isEmpty)

/-- Jobs that have threads, operations or traffic on the block that an event names (R449); the effects that a source's
own chapter gives take their place (R157, R209, R270, R302, R376, R435). -/
def jobsOnBlock (e : Ev) (s : State) : List Nat :=
  let all := s.jobs.filter (fun k => k.2.phase = 1)
  let on (f : Nat → Job → Segment → PlanImage → Bool) : List Nat :=
    (all.filter (fun k => match segOf s k.2, imageOf s k.2 with
      | some g, some p => f k.1 k.2 g p
      | _, _ => false)).map (·.1)
  match kindOf e with
  | .core => if e.src = 0x04A then [] else on (fun _ _ g _ => g.launches.any (·.core = e.unit))
  | .bank | .row | .col => on (fun _ _ g _ => g.launches.any (·.core = e.unit))
  | .die => on (fun _ _ g _ => g.launches.any (fun l => l.core / 18 = e.unit))
  | .stack => on (fun k j g p => workOn s k j g p e.unit)
  | .half => on (fun _ _ g p => g.ops.any (fun i => (p.cor[i]?).any (fun x => entryHalf s p x = e.unit)))
  | .module => on (fun _ j g p => trafficTo s j g p (e.unit + e.sub * 256))
  | .function => on (fun k _ _ _ => copyMeets s k placeHost)
  | _ => []

/-- The block itself takes no further work (R449). -/
def blockStops (e : Ev) (s : State) : State :=
  match kindOf e with
  | .core => modCore e.unit (fun c => { c with quarantined := true }) s
  | .stack => stopUpdates e.unit s
  | .meter => { s with pho := { s.pho with meterOk := false } }
  | .vault => { s with vault := { s.vault with readOnly := true } }
  | .channel => { s with vault := { s.vault with readOnly := true } }
  | .port => if e.src = 0x1D0 then leaveSpray e.unit (fun p => { p with up := false, failed := true }) s else s
  | _ => s

/-- Every port sends local fault ordered sets as it stops, and a frame in progress is cut (R304). -/
def localFaults (s : State) : List Out :=
  ((List.range 96).filter (fun c => hasSub s c)).map (fun c => .localFault c) ++
    (s.ports.filter (fun e => decide (s.now < e.2.freeAt))).map (fun e => .cut e.1)

/-- C4 (R451): ports stop, ERR_FATAL, last gasp, FAULT_N; a source of R419 starts the safe stop, any other halts. -/
def grave (safe : Bool) (en : Entry) (s : State) : State :=
  if s.flt.c4.isSome then s else
  { s with
    flt := { s.flt with c4 := some { en with flags := en.flags + 8 } }
    ports := tmap s.ports (fun _ p => { p with up := false, inSpray := false, failed := true, queue := [] })
    mgt := { s.mgt with gasp := some false, hand := none, tries := 0, backoff := false, backUntil := 0 }
    pwr := { s.pwr with phase := if safe then 3 else 4, faultN := true, stopAt := s.now }
    out := .errFatal :: localFaults s ++ s.out }

/-- The sources of C4 that start a safe stop (R451). -/
def safeSrc (src : Nat) : Bool := src ∈ [0x1A1, 0x1A3, 0x1A5, 0x1A6]

/-- A C4 event: halt or safe stop, and its entry. During bring-up only a source of a safe stop stops the module: any other
is recorded (R480; DEDUCED, log 29). -/
def raise4 (e : Ev) (p : Bool) (s : State) : State :=
  if live s ∧ ¬ ready s ∧ ¬ safeSrc e.src then record (makeEntry e 4 p none 0 s) s else
  let en := makeEntry e 4 p none (if s.flt.c4.isSome then 0 else 8) s
  record en (grave (safeSrc e.src) { en with flags := en.flags % 8 } s)

/-- The lowest free quarantine record (R450). -/
def freeQuar (s : State) : Option Nat :=
  (List.range 64).find? (fun i => match look s.flt.quars i with | some q => q.state ≠ 1 | none => true)

/-- The block that an event quarantines: a core whole, any other block with its sub-unit. -/
def blockKey (e : Ev) : Unit' × Nat := (kindOf e, match kindOf e with | .core => e.unit | _ => inst e)

/-- A block is in quarantine (R449). -/
def inQuarantine (e : Ev) (s : State) : Bool := s.flt.blocks.contains (blockKey e)

/-- A C3 event (R449): quarantine, the reaction on jobs, a record and its window; with no record free, FLT_Q_FULL. -/
def raise3 (e : Ev) (p : Bool) (s : State) : State :=
  let slots := (jobsOnBlock e s ++ e.slot.toList ++ (if p && e.slot.isNone then slotsOf s e.tenants else [])).eraseDups
  if inQuarantine e s then
    abortAll slots e.src (record (makeEntry e 3 p none 0 s) s)
  else match freeQuar s with
    | some q =>
      let en := makeEntry e 3 p (some q) 0 s
      let s := { blockStops e s with flt := { s.flt with
        quars := tput s.flt.quars q
          { state := 1, source := e.src, inst := inst e, until_ := s.now + msCc (cfg s 0xB00030 0 10), seq := entrySeq en s }
        blocks := s.flt.blocks ++ [blockKey e]
        repairs := s.flt.repairs ++
          [{ src := e.src, inst := inst e, cat := e.cat.getD (spareCat e.src e.unit), want := 0xFF, seq := entrySeq en s, at_ := s.now, cmd := none }] } }
      abortAll slots e.src (record en (irqSet 0xB00384 2 s))
    | none =>
      let s := abortAll slots e.src (record (makeEntry e 3 p none 0 s) s)
      raise4 { src := 0x002, unit := e.unit, sub := e.sub } false (bump (rkey 0xB0020C 0x002) 32 1 s)

/-- A C2 event (R448): its job, or every running job of its tenants. -/
def raise2 (e : Ev) (p : Bool) (s : State) : State :=
  let slots := match e.slot with | some k => [k] | none => slotsOf s e.tenants
  abortAll slots e.src (record (makeEntry e 2 p none 0 s) s)

/-- The kind of block that a slice tests (R463). -/
def sliceKind (slice : Nat) : Option Unit' :=
  if slice ∈ [0x01, 0x02, 0x03, 0x04] then some .core
  else if slice = 0x08 then some .die
  else if slice = 0x10 ∨ slice = 0x11 then some .stack
  else if slice = 0x20 then some .port
  else if slice = 0x21 then some .function
  else if slice = 0x22 then some .channel
  else if slice = 0x30 then some .half
  else if slice = 0x40 ∨ slice = 0x48 then some .meter
  else if slice = 0x41 then some .phase
  else none

/-- Two instances name one block of a kind. -/
def sameUnit (k : Unit') (a b : Nat) : Bool := if k == .port then a % 256 / 4 = b % 256 / 4 else a % 256 = b % 256

/-- The block that an event names is under test: what it meets is a result of its slice, not a fault (R465). -/
def underTest (e : Ev) (s : State) : Bool :=
  s.boot.slices.any (fun x => x.at_.isSome && (match sliceKind x.slice with
    | some .core => (kindOf e == .core || kindOf e == .bank || kindOf e == .row || kindOf e == .col) && sameUnit .core x.inst (inst e)
    | some .meter => kindOf e == .meter
    | some k => kindOf e == k && sameUnit k x.inst (inst e)
    | none => false))

/-- Raise a fault: count it, promote it, react by its class, record it (R447 to R457). -/
def raise (e : Ev) (s : State) : State :=
  if underTest e s then s else
  let (cls, p, s) := judge e.src s
  match cls with
  | 2 => raise2 e p s
  | 3 => raise3 e p s
  | 4 => raise4 e p s
  | c => record (makeEntry e c p none 0 s) s

/-- Raise a fault against a job. -/
def raiseJob (src slot : Nat) (s : State) (unit : Nat := 0) (sub : Nat := 0) (detail : Nat := 0) : State :=
  raise { src, slot := some slot, unit, sub, detail } s

/-- MER_MISMATCH against a job whose peer is out of step, counted for its slot (R53, R56, R57). -/
def mismatch (slot : Nat) (s : State) : State := raiseJob 0x023 slot (bump (rkey 0x1010E slot) 16 1 s)

/-- CMD_INTERNAL and other sources that also set an interrupt bit do so at the caller; HST_HOSTMEM_ERR counts (R393). -/
def hostMemErr (slot fn : Nat) (s : State) : State :=
  raiseJob 0x160 slot (irqSet 0x900184 2 (bump 0x900114 32 1 s)) fn

end Sys2Proof.Machine
end

