-- ==== Sys2Proof/Machine/Census.lean ====
section
/-! DEFINITION. The census of tensor tags, the step verdict's inputs and late gradients (spec/07 R162 to R168, R177,
R180). -/

namespace Sys2Proof.Machine

/-- The empty counters of a tag. -/
def emptyCensus : Census :=
  { total := 0, zero := 0, sat := 0, inf := 0, nan := 0, amax := none, ovf := false, clamp := false }

/-- A logarithmic result counted, its AMAX given by the source (R165). -/
def seenLog (f : LogFmt) (code : Nat) (sat : Bool) (amax : Option Int) : Seen :=
  match logVal f 0 code with
  | .nan => { nan := true }
  | .inf _ => { inf := true, amax }
  | .zero => { zero := true, sat, amax }
  | .pos _ _ => { sat, amax }

/-- An X32 result counted. -/
def seenX (w : W32) : Seen :=
  match x32Val w with
  | .nan => { nan := true }
  | .inf _ => { inf := true }
  | .zero _ => { zero := true }
  | .fin n m k => { amax := amaxVal (.fin n m k) }

/-- An I32 result counted (R166). -/
def seenI (i : Int) : Seen :=
  if i = 0 then { zero := true } else { amax := some (ceilPos i.natAbs 0) }

/-- Add to a 48-bit counter; the flag says that it saturated (R164). -/
def add48 (a n : Nat) : Nat × Bool := (min (a + n) (2 ^ 48 - 1), decide (2 ^ 48 - 1 < a + n))

/-- The counters with one batch of values added. -/
def addSeen (c : Census) (vs : List Seen) : Census :=
  let n := fun (p : Seen → Bool) => (vs.filter p).length
  let t := add48 c.total vs.length
  let z := add48 c.zero (n (·.zero))
  let a := add48 c.sat (n (·.sat))
  let i := add48 c.inf (n (·.inf))
  let q := add48 c.nan (n (·.nan))
  { c with
    total := t.1, zero := z.1, sat := a.1, inf := i.1, nan := q.1
    amax := vs.foldl (fun m v => maxPos m v.amax) c.amax
    ovf := c.ovf || t.2 || z.2 || a.2 || i.2 || q.2 }

/-- The tag word that a job lists for a tag (R162). -/
def tagWord (s : State) (j : Job) (tag : Nat) : Option W64 :=
  match imageOf s j with
  | some p => look p.tags tag
  | none => none

/-- Fields of a tag word (R162). -/
def tagMode (w : W64) : Nat := bits w.toNat 0 2
def tagTgt (w : W64) : Nat := bits w.toNat 2 2
def tagBlk (w : W64) : Nat := bits w.toNat 4 3
def tagSr (w : W64) : Bool := bitOf w.toNat 7
def tagGrad (w : W64) : Bool := bitOf w.toNat 8
def tagHist (w : W64) : Nat := bits w.toNat 9 6 + 1
def tagMargin (w : W64) : Nat := bits w.toNat 15 4
def tagK0 (w : W64) : Int := sext 8 (bits w.toNat 19 8)

/-- The block length of a BLK code. -/
def blkLen (b : Nat) : Nat := 8 * 2 ^ b

/-- A batch counted under a tag reaches the job that lists it, from its first segment on: its step's AMAX, its verdict, or
NUM_LATE_GRAD once the verdict is frozen (R168, R170, R177, R180). -/
def censusJob (slot tag : Nat) (vs : List Seen) (s : State) : State :=
  match look s.jobs slot with
  | none => s
  | some j =>
    match if j.phase = 1 ∨ j.phase = 2 then tagWord s j tag else none with
    | none => s
    | some w =>
      let am := vs.foldl (fun m v => maxPos m v.amax) (look j.amax tag)
      let bad := vs.any (fun v => v.inf || v.nan)
      let s := modJob slot (fun j => { j with amax := match am with | some a => tput j.amax tag a | none => j.amax }) s
      if tagGrad w && bad then
        match j.verdict with
        | none => modJob slot (fun j => { j with dirty := true }) s
        | some _ => raiseJob 0x182 slot s (tag % 256) (tag / 256)
      else s

/-- Count a batch of values under a tenant's tag (R164, R165). -/
def censusAdd (tenant tag : Nat) (vs : List Seen) (s : State) : State :=
  let k := tenant * 1024 + tag
  let s := { s with census := tput s.census k (addSeen (tget s.census k emptyCensus) vs) }
  ((s.jobs.filter (fun e => e.2.tenant = tenant)).map (·.1)).foldl (fun s slot => censusJob slot tag vs s) s

end Sys2Proof.Machine
end

