-- ==== Sys2Proof/Machine/Mem.lean ====
section
/-! DEFINITION. Memory as the spec lays it out: objects and pages, where a virtual address lies (spec/05 R133, R134;
spec/10 R241 to R256), reads and writes of spans, sums into ACCUMULATE objects (spec/08 R202), frames and their release,
errors of a stack (R215), and core-store parity (spec/18 R453). -/

namespace Sys2Proof.Machine

/-! ### Pages and mappings -/

/-- The mapping that a tenant has of an object. -/
def mapOf (o : Obj) (tenant : Nat) : Option Mapping := o.maps.find? (·.tenant = tenant)

/-- The tenant that owns an object's pages: the first that maps it. -/
def ownerOf (o : Obj) : Nat := (o.maps.head?.map (·.tenant)).getD 0

/-- Pins on a page (R253). -/
def pinsOf (o : Obj) (page : Nat) : Nat := (o.maps.filter (fun m => m.pins.contains page)).length

/-- The first frame of a page that is on its way into HBM. -/
def promoting (s : State) (h page : Nat) : Option Nat :=
  (s.frames.find? (fun f => f.2.obj = h && f.2.page = page && (f.2.state = 1 || f.2.state = 3))).map (·.1)

/-! ### Where an address lies -/

/-- A lower tier's place of a page. -/
def lowerPlace (o : Obj) (page off : Nat) : Place :=
  let b := o.homeLoc + page * pageBytes o.psize + off
  match o.home with
  | 1 => .host b
  | 2 => .flash ((o.homeLoc + page) * 65536 + off)
  | 3 => .remote o.module o.peer o.key b
  | _ => .bad 0x0C0

/-- The place of an address of the unified range (R244 to R248, R251, R256). -/
def placeUnified (s : State) (tenant va : Nat) (write : Bool) : Place :=
  match hitAt s tenant va with
  | none => .bad 0x0C0
  | some h =>
    if h.obj.lost.contains h.page then .bad 0x0C2
    else if write ∧ ¬ h.map.w then .bad 0x0C1
    else match look h.obj.loc h.page with
      | some f => .hbm (f * 65536 + h.off) f
      | none =>
        if h.obj.policy = 3 ∧ write ∧ s.vault.readOnly ∧ (promoting s h.handle h.page).isNone then .bad 0x0CC
        else if (promoting s h.handle h.page).isSome ∨ h.obj.policy = 2 ∨ (h.obj.policy = 3 ∧ write) then
          .wait h.handle h.page h.obj.home
        else lowerPlace h.obj h.page h.off

/-- The object and page whose frames hold a frame. -/
def frameOwner (s : State) (key : Nat) : Option (Nat × Obj × Nat × Nat) :=
  s.objs.findSome? (fun e => e.2.loc.findSome? (fun p =>
    if p.2 ≤ key ∧ key < p.2 + pageFrames e.2.psize then some (e.1, e.2, p.1, p.2) else none))

/-- The frame record that stands for a frame, wherever its page is between tiers: first frame and record (R253). -/
def recordAt (s : State) (key : Nat) : Option (Nat × Frame) :=
  s.frames.find? (fun f => decide (f.1 ≤ key) && (match look s.objs f.2.obj with
    | some o => decide (key < f.1 + pageFrames o.psize)
    | none => f.1 = key))

/-- Frames of a stack offered to objects (R192). -/
def frameLimit : Nat := 1048320

/-- The place of an address of the tier windows (R249). In the HBM window the frame's record names the object, and a page that is
filling or on its way is awaited (R214, R256). An aperture of the remote window has the handle of its object as its number (DESIGN
CHOICE, log 9: R249 gives no numbering). -/
def placeWindow (s : State) (tenant va : Nat) (write : Bool) : Place :=
  if va < 2 ^ 56 + 12 * 2 ^ 36 then
    let a := va - 2 ^ 56
    match recordAt s (a / 65536) with
    | some (first, f) =>
      match (look s.objs f.obj).bind (fun o => (mapOf o tenant).map (fun m => (o, m))) with
      | some (o, m) =>
        if write ∧ ¬ m.w then .bad 0x0C1
        else if o.lost.contains f.page then .bad 0x0C2
        else if f.state = 2 ∨ f.state = 4 then .hbm a first
        else .wait f.obj f.page o.home
      | none => .bad 0x0C3
    | none => .bad 0x0C3
  else if 0x110 * 2 ^ 48 ≤ va ∧ va < 0x120 * 2 ^ 48 then
    if write ∧ s.objs.any (fun e => e.2.home = 1 && (mapOf e.2 tenant).isSome && e.2.loc.any (fun p =>
        e.2.homeLoc + p.1 * pageBytes e.2.psize ≤ va - 0x110 * 2 ^ 48 &&
        va - 0x110 * 2 ^ 48 < e.2.homeLoc + (p.1 + 1) * pageBytes e.2.psize))
    then .bad 0x0C3 else .host (va - 0x110 * 2 ^ 48)
  else if 0x120 * 2 ^ 48 ≤ va ∧ va < 0x120 * 2 ^ 48 + 2 ^ 44 then
    let a := va - 0x120 * 2 ^ 48
    match s.objs.find? (fun e => e.2.home = 2 && (mapOf e.2 tenant).isSome && decide (e.2.homeLoc ≤ a / 65536) &&
        decide (a / 65536 < e.2.homeLoc + e.2.pages)) with
    | some e =>
      let page := a / 65536 - e.2.homeLoc
      if e.2.lost.contains page then .bad 0x0C2
      else if write ∧ ¬ ((mapOf e.2 tenant).any (·.w)) then .bad 0x0C1
      else if write ∧ (look e.2.loc page).isSome then .bad 0x0C3
      else .flash a
    | none => .bad 0x0C3
  else if 0x140 * 2 ^ 48 ≤ va ∧ va < 0x140 * 2 ^ 48 + 4096 * 2 ^ 40 then
    let a := va - 0x140 * 2 ^ 48
    match look s.objs (a / 2 ^ 40) with
    | some o =>
      if o.home = 3 ∧ (mapOf o tenant).isSome then
        if write ∧ o.loc.any (fun p => decide (o.homeLoc + p.1 * pageBytes o.psize ≤ a % 2 ^ 40) &&
            decide (a % 2 ^ 40 < o.homeLoc + (p.1 + 1) * pageBytes o.psize)) then .bad 0x0C3
        else .remote o.module o.peer o.key (a % 2 ^ 40)
      else .bad 0x0C3
    | none => .bad 0x0C3
  else .bad 0x0C3

/-- Base of the core-store window (R133). -/
def coreWin : Nat := 0x1FF * 2 ^ 48

/-- The core and offset of an address of the core-store window, where R134 lets the given cores be reached. -/
def placeCore (cores : List Nat) (va : Nat) : Option (Nat × Nat) :=
  let a := va - coreWin
  let c := a / 0x2000000
  if coreWin ≤ va ∧ c < 36 ∧ a % 0x2000000 < 0x1800000 ∧ c ∈ cores then some (c, a % 0x2000000) else none

/-- The erased superblock that takes the next page (R270): lowest erase count, then lowest number. -/
def openBlock (s : State) : Option Nat :=
  (s.vault.blocks.filter (fun b => b.2.erased && !b.2.retired && decide (b.2.used < 1024))).foldl (fun m b =>
    match m with
    | none => some (b.2.erases, b.1)
    | some x => if b.2.erases < x.1 then some (b.2.erases, b.1) else m) none |>.map (·.2)

/-- Program one logical page: the vault map points at its new location (R249, R266, R270). -/
def vaultProgram (page : Nat) (s : State) : State :=
  match openBlock s with
  | none => s
  | some b =>
    let k := tget s.vault.blocks b { erases := 0, erased := true, retired := false, used := 0 }
    bump 0x500310 64 1 { s with vault := { s.vault with
      map := tput s.vault.map page (b * 1024 + k.used)
      blocks := tput s.vault.blocks b { k with used := k.used + 1 } } }

/-- A write in place on flash waits for an erased superblock, and is refused while the vault is read-only (R249, R269,
R270). -/
def flashGate (s : State) (write : Bool) : Place → Place
  | .flash k =>
    if write ∧ s.vault.readOnly then .bad 0x0CC
    else if write ∧ (¬ s.vault.ready ∨ openBlock s = none) then .wait 0 0 2
    else .flash k
  | p => p

/-- The place of a virtual address for an access that may reach the given cores' stores (R133, R134). -/
def place (s : State) (tenant : Nat) (cores : List Nat) (va : Nat) (write : Bool) : Place :=
  if va < 2 ^ 56 then flashGate s write (placeUnified s tenant va write)
  else if va < coreWin then flashGate s write (placeWindow s tenant va write)
  else if va < 2 ^ 57 then
    match placeCore cores va with
    | some (c, o) => .core (c * 2 ^ 25 + o)
    | none => .bad 0x045
  else .bad 0x045

/-- Cores on which a job has threads in its current exposure (R134). -/
def jobCores (s : State) (slot : Nat) : List Nat :=
  match (look s.jobs slot).bind (segOf s) with
  | some g => (g.launches.map (·.core)).eraseDups
  | none => []

/-- A range cut at 64 KiB boundaries: (address, bytes). -/
def spans (va len : Nat) : List (Nat × Nat) :=
  if len = 0 then [] else
  (List.range ((va + len - 1) / 65536 - va / 65536 + 1)).map (fun i =>
    let lo := max va ((va / 65536 + i) * 65536)
    (lo, min (va + len) ((va / 65536 + i + 1) * 65536) - lo))

/-- The places of a range's spans. -/
def placesOf (s : State) (tenant : Nat) (cores : List Nat) (va len : Nat) (write : Bool) : List (Place × Nat) :=
  (spans va len).map (fun x => (place s tenant cores x.1 write, x.2))

/-- The first fault source among places. -/
def badOf (ps : List (Place × Nat)) : Option Nat :=
  ps.findSome? (fun p => match p.1 with | .bad src => some src | _ => none)

/-- The pages that places wait for. -/
def waitsOf (ps : List (Place × Nat)) : List (Nat × Nat × Nat) :=
  ps.filterMap (fun p => match p.1 with | .wait h page tier => some (h, page, tier) | _ => none)

/-! ### Bytes -/

/-- HBM bytes at a key. -/
def hbmRead (s : State) (k n : Nat) : List Byte := tread s.hbm k n 0

/-- A frame record changed by its first frame. -/
def modFrame (first : Nat) (f : Frame → Frame) (s : State) : State := { s with frames := tmod s.frames first f }

/-- HBM bytes written without a mark. -/
def hbmPut (k : Nat) (bs : List Byte) (s : State) : State := { s with hbm := tsplice s.hbm k bs 0 }

/-- A frame is written: it is dirty, since its first write that the home tier has not seen (R253, R255, R268). -/
def soiled (first : Nat) (s : State) : State :=
  modFrame first (fun f => { f with
    dirty := true, written := true, touched := s.now, dirtyAt := if f.dirty ∧ f.written then f.dirtyAt else s.now }) s

/-- A write that reaches a page in HBM: the bytes land and the frame is dirty (R253, R255). -/
def hbmWrite (k first : Nat) (bs : List Byte) (s : State) : State :=
  soiled first (hbmPut k bs s)

/-- Core-store bytes. -/
def storeRead (s : State) (core off n : Nat) : List Byte := tread s.store (core * 2 ^ 25 + off) n 0

/-- Core-store bytes written, with valid parity (R453). -/
def storeWrite (core off : Nat) (bs : List Byte) (s : State) : State :=
  let b := core * 2 ^ 25 + off
  { s with store := tsplice s.store b bs 0, badStore := s.badStore.filter (fun k => k < b || b + bs.length ≤ k) }

/-- Stores and drains of other threads that are in flight over a range of a core's store, oldest first (R122). -/
def crossing (s : State) (core own thr t off n : Nat) : List Range :=
  s.ranges.filter (fun r => r.core = core && !(own = core && r.thr = thr) && !r.old.isEmpty && decide (t < r.until_) &&
    decide (r.lo < off + n) && decide (off < r.hi))

/-- A byte as it stood before some writes, given newest first. -/
def byteBefore (a : Nat) (rs : List Range) (v : Byte) : Byte :=
  rs.foldl (fun v r => if r.lo ≤ a ∧ a < r.hi then (r.old[a - r.lo]?).getD v else v) v

/-- What a thread reads of a core store: where another thread's write is in flight, each 1 KiB block is whole as it was or
whole as it is written, which of them is a free choice (R122; log 3). -/
def threadRead (core own thr t off n : Nat) (s : State) : List Byte × State :=
  let rs := (crossing s core own thr t off n).reverse
  let bs := storeRead s core off n
  if rs.isEmpty then (bs, s) else
    (bs.zipIdx.map (fun b =>
      let a := off + b.2
      byteBefore a (rs.take (Config.choice (s.free + (a / 1024 - off / 1024)) % (rs.length + 1))) b.1),
     { s with free := s.free + (n / 1024 + 2) })

/-- The bytes at a place; outside data comes with the command. -/
def placeRead (s : State) (p : Place × Nat) (out : List Byte) : List Byte :=
  match p.1 with
  | .core k => tread s.store k p.2 0
  | .hbm k _ => hbmRead s k p.2
  | .flash k => tread s.flash k p.2 0
  | _ => out.take p.2

/-- The bytes of a range: spans inside the module from their stores, the others from the data that arrived, in order. -/
def readPlaces (s : State) : List (Place × Nat) → List Byte → List Byte
  | [], _ => []
  | p :: r, out =>
    let inside := match p.1 with | .core _ => true | .hbm _ _ => true | .flash _ => true | _ => false
    placeRead s p out ++ readPlaces s r (if inside then out else out.drop p.2)

/-- Bytes of a whole range inside the module. -/
def readVa (s : State) (tenant : Nat) (cores : List Nat) (va len : Nat) (out : List Byte := []) : List Byte :=
  readPlaces s (placesOf s tenant cores va len false) out

/-! ### Frames (R214, R252 to R256) -/

/-- The stack of a page's frames (R252). -/
def stackFor (o : Obj) (page : Nat) : Nat :=
  let set := (List.range 12).filter (fun n => bitOf o.stks n)
  (set[page / max 1 o.stripe % max 1 set.length]?).getD 0

/-- Frames that the module tables take in each of their stacks (R243). -/
def tableRun (s : State) (stack : Nat) : Nat :=
  match s.tables with
  | some (bytes, mask) =>
    if bitOf mask stack then
      ceilDiv (ceilDiv bytes (max 1 ((List.range 12).filter (fun n => bitOf mask n)).length)) 65536
    else 0
  | none => 0

/-- Frames of a stack in use by pages: (first, count) within the stack. -/
def heldFrames (s : State) (stack : Nat) : List (Nat × Nat) :=
  (s.frames.filter (fun f => f.1 / 2 ^ 20 = stack)).map (fun f =>
    (f.1 % 2 ^ 20, match look s.objs f.2.obj with | some o => pageFrames o.psize | none => 1))

/-- Every run of frames of a stack that cannot be given out now. -/
def takenFrames (s : State) (stack : Nat) : List (Nat × Nat) :=
  (0, tableRun s stack) :: heldFrames s stack ++ (stackOf s stack).fill.map (fun f => (f.1 % 2 ^ 20, f.2)) ++
  (stackOf s stack).retired.map (fun f => (f.1, 1))

/-- Two runs meet. -/
def meets (a n b m : Nat) : Bool := decide (a < b + m) && decide (b < a + n)

/-- The lowest aligned free run of frames outside some runs. -/
def freeRun (taken : List (Nat × Nat)) (n : Nat) : Option Nat :=
  let starts := (0 :: taken.map (fun t => ceilDiv (t.1 + t.2) n * n)).filter (fun a =>
    decide (a + n ≤ frameLimit) && !(taken.any (fun t => meets a n t.1 t.2)))
  starts.foldl (fun b a => match b with | none => some a | some x => some (min x a)) none

/-- The next free frame of a stack for a page of `n` frames (R252). -/
def freeFrame (s : State) (stack n : Nat) : Option Nat :=
  if hasStack s stack ∧ ¬ (stackOf s stack).unusable then freeRun (takenFrames s stack) n else none

/-- VOTE of a frame record (R253). -/
def Frame.vote (f : Frame) : Bool := !f.voters.isEmpty

def freshFrame (st h page now : Nat) : Frame :=
  { state := st, dirty := false, voters := [], lock := false, obj := h, page, written := false, copied := false,
    touched := now, dirtyAt := now }

/-- A spare's arrival, or that no spare took a block's place, in an entry of its own (R458). -/
def spareEntry (src inst detail : Nat) (came : Bool) (s : State) : State :=
  let e : Ev := { src, unit := inst % 256, sub := inst / 256, detail }
  record (makeEntry e 0 false none (if came then 16 else 0) s) s

/-- Key of a physical index of a category and unit in the map of the spares in service (R470). -/
def servedKey (cat unit p : Nat) : Nat := (cat * 256 + unit) * 4096 + p

/-- Spares of a category and unit in service, by the maps of a field part (R111, R112, R470). -/
def sparesServing (f : FieldPart) (cat unit : Nat) : Nat := (f.served.filter (fun e => e.1 / 4096 = cat * 256 + unit)).length

/-- A FREE retired frame is mapped to a repair row, filled and offered again, while one of the 512 rows is left (R471). -/
def repairFrame (stack frame : Nat) (s : State) : State :=
  let k := stackOf s stack
  match k.retired.find? (·.1 = frame) with
  | none => s
  | some r =>
    if 512 ≤ k.rowRepairs then s else
    let s := modStack stack (fun k => { k with
      retired := k.retired.filter (·.1 ≠ frame), rowRepairs := k.rowRepairs + 1, fill := k.fill ++ [(stack * 2 ^ 20 + frame, 1)] }) s
    let used := tget s.boot.field.spares (5 * 256 + stack) 0
    let spares := tput s.boot.field.spares (5 * 256 + stack) (used * 2 + 1)
    let served := tput s.boot.field.served (servedKey 5 stack k.rowRepairs) frame
    let s := { s with boot := { s.boot with field := { s.boot.field with spares, served }, almPending := true } }
    spareEntry 0x081 stack (k.rowRepairs + r.2 % 65536 * 65536 + frame * 2 ^ 32) true
      (irqSet 0xB10184 4 (bump 0xB1020C 32 1 (bump 0xB10208 32 1 s)))

/-- A page leaves HBM: its translation takes the home location, its frames are FILLING, its commit records FREE later
(R214, R255). -/
def releaseFrame (first n : Nat) (s : State) : State :=
  let k := first / 2 ^ 20
  modStack k (fun st => { st with fill := st.fill ++ [(first, n)] }) { s with frames := tdel s.frames first }

/-- Release a page's frames and clear its location. -/
def dropPage (h page : Nat) (s : State) : State :=
  match look s.objs h with
  | none => s
  | some o =>
    match look o.loc page with
    | none => s
    | some f =>
      releaseFrame f (pageFrames o.psize) { s with objs := tput s.objs h { o with loc := tdel o.loc page } }

/-- Pages of an object in HBM or on their way. -/
def upPages (s : State) (h : Nat) (o : Obj) : Nat :=
  o.loc.length + (s.frames.filter (fun f => f.2.obj = h && f.2.state = 3)).length

/-- The clean page of a shelf that was least recently written and may leave at once (R267). -/
def cleanShelf (s : State) (o : Obj) : Option Nat :=
  ((o.loc.filterMap (fun p => match look s.frames p.2 with
    | some f => if f.state = 2 ∧ f.dirty = false ∧ f.lock = false ∧ pinsOf o p.1 = 0 then some (f.touched, p.1) else none
    | none => none)).foldl (fun m e => match m with
      | none => some e
      | some x => if e.1 < x.1 then some e else some x) none).map (·.2)

/-- Room in the shelf of a VAULT-ROWS object for one more page: with no free shelf frame its least recently written
clean page leaves at once; with none clean the writer waits (R267). -/
def shelfRoom (h : Nat) (o : Obj) (s : State) : Bool × State :=
  if o.policy ≠ 3 ∨ upPages s h o < o.shelf then (true, s) else
  match cleanShelf s o with
  | some p => (true, dropPage h p (bump (rkey 0x500118 2) 32 1 s))
  | none => (false, s)

/-- Begin a promotion (R256): a frame in the page's stack, PROMOTING; with no free frame the movement waits. -/
def promote (h page : Nat) (s : State) : State :=
  match look s.objs h with
  | none => s
  | some o =>
    if (look o.loc page).isSome ∨ (promoting s h page).isSome ∨ o.home = 0 ∨ o.pages ≤ page then s else
    let k := stackFor o page
    let (room, s) := shelfRoom h o s
    match if room then freeFrame s k (pageFrames o.psize) else none with
    | some f => { s with frames := tput s.frames (k * 2 ^ 20 + f) (freshFrame 3 h page s.now) }
    | none => s

/-! ### Errors of a stack (R215) -/

/-- Instance of a stack fault: the stack and the channel pair. -/
def stackEv (src stack : Nat) (slot : Option Nat) (tenants : List Nat) : Ev := { src, slot, tenants, unit := stack }

/-- A correctable error. -/
def hbmCe (stack : Nat) (s : State) : State :=
  raise (stackEv 0x080 stack none []) (bump (0x400020 + 0x10000 * stack) 32 1 s)

/-- Tenants of whom a staging block with a slot's content lies in a frame (R291). -/
def permLost (s : State) (frameKey : Nat) : List Nat :=
  ((s.staged.filter (fun x => (spans x.2.2.1 x.2.2.2).any (fun y =>
    match placeUnified s x.1 y.1 false with | .hbm k _ => k / 65536 = frameKey | _ => false))).map (·.1)).eraseDups

/-- An uncorrectable error in a frame: HBM_UE against a job or tenants, C0 with neither; the page is retired. -/
def hbmUe (frameKey : Nat) (slot : Option Nat) (tenants : List Nat) (s : State) : State :=
  let k := frameKey / 2 ^ 20
  let f := frameKey % 2 ^ 20
  let s := modStack k (fun st => { st with
    lastUe := some f, retired := if st.retired.any (·.1 = f) then st.retired else st.retired ++ [(f, s.flt.nextSeq)] }) s
  let s := irqSet (0x400184 + 0x10000 * k) 4 (bump (0x400024 + 0x10000 * k) 32 1 s)
  let e := stackEv 0x081 k slot tenants
  let s := if slot.isNone ∧ tenants.isEmpty then
      record (makeEntry e 0 false none 0 s) (bump (rkey 0xB0020C 0x081) 32 1 s)
    else raise e s
  (permLost s frameKey).foldl (fun s t => irqSet 0x600384 4 (raise { src := 0x0E4, tenants := [t] } s)) s

/-- The tenant that owns the page of a frame. -/
def pageOwner (s : State) (frame : Nat) : List Nat :=
  match frameOwner s frame with | some (_, o, _, _) => [ownerOf o] | none => []

/-- A flash page is lost: every later access to it raises TIER_LOST (R271). -/
def loseFlash (page : Nat) (s : State) : State :=
  { s with objs := tmap s.objs (fun _ o =>
      if o.home = 2 ∧ o.homeLoc ≤ page ∧ page < o.homeLoc + o.pages ∧ ¬ (page - o.homeLoc) ∈ o.lost then
        { o with lost := o.lost ++ [page - o.homeLoc] } else o) }

/-- The tenant that owns a page of the plate vault (R241, R271). -/
def flashOwner (s : State) (page : Nat) : Nat :=
  (s.objs.findSome? (fun e => if e.2.home = 2 ∧ e.2.homeLoc ≤ page ∧ page < e.2.homeLoc + e.2.pages then some (ownerOf e.2) else none)).getD 0

/-- An uncorrectable flash error in a logical page: VAULT_UE against the tenant that owns the page, which is lost (R271).
The rules do not say which channel holds a page: a free value (log 3). -/
def vaultUe (page tenant : Nat) (s : State) : State :=
  let ch := Config.flashChannel (tget s.vault.map page 0) % 16
  raise { src := 0x0C9, tenants := [tenant], unit := ch } (bump 0x50031C 32 1 (loseFlash page s))

/-- A correctable flash error in a logical page: VAULT_CE, and the page is rewritten at its next wear-levelling move (R271). -/
def vaultCe (page : Nat) (s : State) : State :=
  let ch := Config.flashChannel (tget s.vault.map page 0) % 16
  let weak := if page ∈ s.vault.weak then s.vault.weak else s.vault.weak ++ [page]
  raise { src := 0x0C8, unit := ch } (bump 0x500318 32 1 { s with vault := { s.vault with weak } })

/-- A flash channel has failed: the written pages on it that have no copy in HBM are lost (R469). -/
def channelLost (ch : Nat) (s : State) : State :=
  let here := (s.vault.map.filter (fun m => Config.flashChannel m.2 % 16 = ch)).map (·.1)
  here.foldl (fun s q =>
    if s.objs.any (fun e => e.2.home = 2 && decide (e.2.homeLoc ≤ q) && (look e.2.loc (q - e.2.homeLoc)).isSome) then s
    else loseFlash q s) s

/-! ### ACCUMULATE objects (R202, R203) -/

/-- The 16-bit elements of a byte string. -/
def halves : List Byte → List Nat
  | a :: b :: r => (a.toNat + 256 * b.toNat) :: halves r
  | _ => []

/-- The 32-bit elements of a byte string. -/
def words : List Byte → List W32
  | a :: b :: c :: d :: r => BitVec.ofNat 32 (leNat [a, b, c, d]) :: words r
  | _ => []

/-- Free-running draw of a stack engine: the lane and cycle that convert an element are not stated (R159; log 3). -/
def stackDraw (stack : Nat) (s : State) : Nat × State :=
  let lane := Config.choice s.free % 1024
  let n := Config.choice (s.free + 1)
  (drawU (mix (laneKey (stackOf s stack).seed (0x100000 + 1024 * stack + lane)) (BitVec.ofNat 64 n)),
   { s with free := s.free + 2 })

/-- One sum: the stored code and the linear operand, rounded once. -/
def accOne (sr : Bool) (u : Nat) (old : Nat) (x : W32) : Nat :=
  let v := addVal (x32Val (lin16 old)) (x32Val x)
  if sr then (srVal fmtL16 false u v).code else (rnVal fmtL16 false v).code

/-- The first cc of the burst period that a cc lies in (R191). -/
def bpStart (s : State) : Nat := s.mer.at_ + (s.now - s.mer.at_) / 33 * 33

/-- What the census sees of the code of a sum (R202). -/
def seenSum (c : Nat) : Seen := seenLog fmtL16 c false (amaxLog (logVal fmtL16 0 c))

/-- Several sums into one element, in order: each with the code that stands after it. -/
def accFold (sr : Bool) (stack : Nat) : Nat → List SumIn → State → List SumIn × State
  | _, [], s => ([], s)
  | c, x :: xs, s =>
    let (u, s) := if sr then stackDraw stack s else (0, s)
    let c' := accOne sr u c x.x
    let (cs, s) := accFold sr stack c' xs s
    ({ x with code := c' } :: cs, s)

/-- The sums of a stack's last burst period are usable, and counted (R165, R202). -/
def countSums (stack : Nat) (s : State) : State :=
  (((stackOf s stack).sums.map (·.2.2)).flatten).foldl (fun s y => censusAdd y.tenant y.tag [seenSum y.code] s)
    (modStack stack (fun st => { st with sums := [] }) s)

/-- One sum into an element at an HBM key: the contributions that reach it in one burst period apply planned first, then the
correlator's, then those outside the plans (R203). -/
def accElem (sr : Bool) (stack k : Nat) (x : SumIn) (s : State) : State :=
  let s := if (stackOf s stack).sumsAt = bpStart s then s else countSums stack s
  let (c0, xs) := tget (stackOf s stack).sums k (leNat (hbmRead s k 2), [])
  let ys := xs.filter (fun y => decide (y.cls ≤ x.cls)) ++ x :: xs.filter (fun y => decide (x.cls < y.cls))
  let (ys, s) := accFold sr stack c0 ys s
  let s := modStack stack (fun st => { st with sumsAt := bpStart s, sums := tput st.sums k (c0, ys) }) s
  hbmPut k (leBytes 2 ((ys.getLast?.map (·.code)).getD c0)) s

/-- Sums into consecutive elements from an HBM key. -/
def accRun (sr : Bool) (stack : Nat) (y : W32 → SumIn) : Nat → List W32 → State → State
  | _, [], s => s
  | k, x :: xs, s => accRun sr stack y (k + 2) xs (accElem sr stack k (y x) s)

/-- Add data into an ACCUMULATE page in HBM: the sums count under the object's tag once they are usable, and in SE_ACCUM (R165,
R202, R219). -/
def accInto (o : Obj) (tenant cls k first : Nat) (xs : List W32) (s : State) : State :=
  let stack := k / 2 ^ 36
  let s := accRun o.accSr stack (fun x => { cls, x, tenant, tag := o.tag, code := 0 }) (k / 2 * 2) xs s
  soiled first (bump (0x400058 + 0x10000 * stack) 64 xs.length s)

/-- The same sums below HBM, where the page is served in place: their codes. The rules name no draw for SR there: a free value (R251,
R361; log 3). -/
def accBelow (sr : Bool) : List Nat → List W32 → State → List Nat × State
  | c :: cs, x :: xs, s =>
    let c' := accOne sr (Config.choice s.free) c x
    let (r, s) := accBelow sr cs xs { s with free := s.free + 1 }
    (c' :: r, s)
  | _, _, s => ([], s)

/-! ### Writes -/

/-- The linear operands that the data of a write to an ACCUMULATE object carries. -/
def accData (o : Obj) (bs : List Byte) : List W32 := if o.accX then words bs else (halves bs).map lin16

/-- A write of one span; what leaves the module leaves through `out`, remote writes through `far`. -/
def writePlace (fn : Nat) (far : Bool → Nat → Nat → Nat → Nat → List Byte → State → State) (p : Place) (bs : List Byte)
    (last : Bool) (s : State) : State :=
  match p with
  | .core k => storeWrite (k / 2 ^ 25) (k % 2 ^ 25) bs s
  | .hbm k first => hbmWrite k first bs s
  | .flash k =>
    vaultProgram (k / 65536) { s with flash := tsplice s.flash k bs 0 }
  | .host a => emit (.hostWrite fn a bs) s
  | .remote m peer key off => far last m peer key off bs s
  | _ => s

/-- Write consecutive data over the places of a range. -/
def writePlaces (fn : Nat) (far : Bool → Nat → Nat → Nat → Nat → List Byte → State → State) :
    List (Place × Nat) → List Byte → State → State
  | [], _, s => s
  | p :: r, bs, s => writePlaces fn far r (bs.drop p.2) (writePlace fn far p.1 (bs.take p.2) r.isEmpty s)

/-- Sums into a place below HBM: what stands there is read, added to and written back; what host memory and another module hold is
a free value (R251, R361; log 3). -/
def accPlace (o : Obj) (tenant : Nat) (far : Bool → Nat → Nat → Nat → Nat → List Byte → State → State) (p : Place) (n : Nat)
    (xs : List W32) (last : Bool) (s : State) : State :=
  let sums := fun (old : List Byte) (s : State) =>
    let (cs, s) := accBelow o.accSr (halves old) xs s
    writePlace (tenant + 1) far p ((cs.map (leBytes 2)).flatten) last (censusAdd tenant o.tag (cs.map seenSum) s)
  match p with
  | .flash k => sums (tread s.flash k n 0) s
  | .host _ => let (bs, s) := drawFree n s; sums bs s
  | .remote .. => let (bs, s) := drawFree n s; sums bs s
  | _ => s

/-- Data that leaves for no other module. -/
def noFar : Bool → Nat → Nat → Nat → Nat → List Byte → State → State := fun _ _ _ _ _ _ s => s

/-- Sums into the places of a range, which lie in order. -/
def accOver (o : Obj) (tenant cls : Nat) (far : Bool → Nat → Nat → Nat → Nat → List Byte → State → State) :
    List (Place × Nat) → List W32 → State → State
  | [], _, s => s
  | (.hbm k first, n) :: r, xs, s =>
    accOver o tenant cls far r (xs.drop (n / 2)) (accInto o tenant cls k first (xs.take (n / 2)) s)
  | (p, n) :: r, xs, s =>
    accOver o tenant cls far r (xs.drop (n / 2)) (accPlace o tenant far p n (xs.take (n / 2)) r.isEmpty s)

/-- The ACCUMULATE object that a write of a tenant at an address adds into: through its mapping, or through the HBM window
of a page of such an object (R202, R249). -/
def accAt (s : State) (tenant va : Nat) : Option Obj :=
  match hitAt s tenant va with
  | some h => if h.map.acc then some h.obj else none
  | none =>
    if 2 ^ 56 ≤ va ∧ va < 2 ^ 56 + 12 * 2 ^ 36 then
      ((recordAt s ((va - 2 ^ 56) / 65536)).bind (fun f => look s.objs f.2.obj)).filter (fun o => (mapOf o tenant).any (·.acc))
    else none

/-- A plain or accumulating write of a tenant over the places of its range (R202); `cls` ranks it among the contributions of
its burst period (R203). -/
def writeOver (far : Bool → Nat → Nat → Nat → Nat → List Byte → State → State) (tenant va : Nat) (ps : List (Place × Nat))
    (bs : List Byte) (s : State) (cls : Nat := 2) : State :=
  match accAt s tenant va with
  | some o => accOver o tenant cls far ps (accData o bs) s
  | none => writePlaces (tenant + 1) far ps bs s

/-- The range that a write's checks are made on (R202). -/
def writeRange (s : State) (tenant va len : Nat) : Nat × Nat :=
  match accAt s tenant va with
  | some o => (va / 2 * 2, (if o.accX then len / 4 else len / 2) * 2)
  | none => (va, len)

/-- A plain or accumulating write of a tenant at a virtual address. -/
def writeVa (far : Bool → Nat → Nat → Nat → Nat → List Byte → State → State) (tenant : Nat) (cores : List Nat) (va : Nat)
    (bs : List Byte) (s : State) (cls : Nat := 2) : State :=
  let w := writeRange s tenant va bs.length
  writeOver far tenant va (placesOf s tenant cores w.1 w.2 true) bs s cls

/-! ### Core-store parity (R453) -/

/-- The refetch range of the job's segment that holds a 1 KiB block of a core. -/
def refetchOf (s : State) (slot core off : Nat) : Option Refetch :=
  match (look s.jobs slot).bind (segOf s) with
  | some g => g.refetch.find? (fun r => r.core = core && decide (r.lo ≤ off) && decide (off < r.lo + r.len))
  | none => none

/-- The 1 KiB blocks of a read with bad parity, by block number within the store. -/
def badBlocks (s : State) (core off n : Nat) : List Nat :=
  ((s.badStore.filter (fun k => core * 2 ^ 25 + off ≤ k && k < core * 2 ^ 25 + off + n)).map
    (fun k => k % 2 ^ 25 / 1024)).eraseDups

/-- One block refetched from a RESIDENT page, or not: what the read finds afterwards; `ecc` is what the read of the source meets. It
is no planned access: HBM_UE stands against the page's owner (R215; DEDUCED, log 31). -/
def refetchBlock (ecc : Ecc) (slot tenant core b : Nat) (acc : Bool × State) : Bool × State :=
  let s := acc.2
  let fail := (false, raiseJob 0x04C slot s core (b / 1024))
  match refetchOf s slot core (b * 1024) with
  | none => fail
  | some r =>
    match place s tenant [] (r.va + (b * 1024 - r.lo)) false with
    | .hbm k first =>
      if ¬ (look s.frames first).any (·.state = 2) then fail
      else if ecc = .ue then (false, raiseJob 0x04C slot (hbmUe (k / 65536) none (pageOwner s (k / 65536)) s) core (b / 1024))
      else
        let s := if ecc = .ce then hbmCe (k / 2 ^ 36) s else s
        (acc.1, raiseJob 0x04B slot (storeWrite core (b * 1024) (hbmRead s k 1024) s) core (b / 1024))
    | _ => fail

/-- Check the parity of a core-store read for a job: true where the data may be delivered (R453). -/
def checkStore (slot tenant core off n : Nat) (s : State) (ecc : Ecc := .ok) : Bool × State :=
  match badBlocks s core off n with
  | [] => (true, s)
  | bs => bs.foldl (fun a b => refetchBlock ecc slot tenant core b a) (true, s)

/-- A run of device memory as a command names it: all of its spans in HBM (R378). -/
def devicePlaces (s : State) (fn a n : Nat) (write : Bool) : Option (List (Nat × Nat)) :=
  (spans a n).mapM (fun x => (if fn = 0 then (if x.1 < 12 * 2 ^ 36 ∧ hasStack s (x.1 / 2 ^ 36) then some x.1 else none)
    else match placeUnified s (fn - 1) x.1 write with | .hbm k _ => some k | _ => none).map (fun k => (k, x.2)))

/-- A command's parameter block can be read (R375, R386). -/
def blockOk (s : State) (x : Exec) : Bool :=
  if bitOf x.hdr.flags 0 then (devicePlaces s x.fn x.hdr.param x.hdr.length false).isSome else x.hdr.ioOk

end Sys2Proof.Machine
end

