-- ==== Sys2Proof/Machine/Params.lean ====
section
/-! DEFINITION. Optimiser arithmetic: hyperparameters, element rules, sketches, block-scaled moments and ZRL8 (spec/09
R220 to R236; spec/07 R173, R183 to R185). -/

namespace Sys2Proof.Machine

def oneX : W32 := 0x40000000#32
def negX (a : W32) : W32 := canonX (a ^^^ 0x80000000#32)
def sqX (a : W32) : W32 := mulX a a

/-- base^n by square and multiply from the most significant set bit (R227). -/
def powX (base : W32) (n : Nat) : W32 :=
  if n = 0 then oneX else
  (List.range (n.log2 + 1)).foldl (fun z i =>
    let z := mulX z z
    if n.testBit (n.log2 - i) then mulX z base else z) oneX

/-- A hyperparameter entry (R224). -/
structure Hyp where
  lr : W32
  b1 : W32
  b2 : W32
  eps : W32
  wd : W32
  scale : W32

/-- Entry `i` of a job's captured table. -/
def hypAt (bs : List Byte) (i : Nat) : Hyp :=
  let f := fun k => BitVec.ofNat 32 (leNat ((bs.drop (32 * i + 4 * k)).take 4))
  { lr := f 0, b1 := f 1, b2 := f 2, eps := f 3, wd := f 4, scale := f 5 }

/-- Terms of one interleaved partial (R232). -/
def partials (l : List W32) : List W32 :=
  (List.range 32).map (fun q =>
    match (l.zipIdx.filter (fun x => x.2 % 32 = q)).map (·.1) with
    | [] => 0
    | a :: r => r.foldl addX a)

/-- One level of a pairwise tree. -/
def pairUp : List W32 → List W32
  | a :: b :: r => addX a b :: pairUp r
  | l => l

/-- Σ of R232: 32 interleaved partial sums, then a five-level tree. -/
def sumX (l : List W32) : W32 :=
  (((List.range 5).foldl (fun l _ => pairUp l) (partials l)).head?).getD 0

/-- What an element rule reads for one value. -/
structure Elem where
  /-- linear master, unscaled gradient, first moment, root of the second moment, v̂ of a sketch, matrix result -/
  w : W32
  g : W32
  m : W32
  r : W32
  v : W32
  o : W32

/-- What an element rule gives: the update Δ′, the new first moment and the new root (R227, R236). -/
structure ElemRes where
  delta : W32
  m : W32
  r : W32

/-- The element rules (R227, R236). -/
def elemRule (rule n : Nat) (h : Hyp) (x : Elem) : ElemRes :=
  let nl := negX h.lr
  let o1 := subX oneX h.b1
  let o2 := subX oneX h.b2
  let c1 := recipX (subX oneX (powX h.b1 n))
  let s2 := rsqrtX (subX oneX (powX h.b2 n))
  let ada := fun (v : W32) =>
    let m := fmaX h.b1 x.m (mulX o1 x.g)
    let r := sqrtX v
    let d := fmaX r s2 h.eps
    let u := fmaX (mulX m c1) (recipX d) (mulX h.wd x.w)
    { delta := mulX nl u, m, r : ElemRes }
  match rule with
  | 0x00 => { delta := mulX nl (fmaX h.wd x.w x.g), m := 0, r := 0 }
  | 0x01 =>
    let m := fmaX h.b1 x.m x.g
    { delta := mulX nl (fmaX h.wd x.w m), m, r := 0 }
  | 0x02 => ada (fmaX h.b2 (sqX x.r) (mulX o2 (sqX x.g)))
  | 0x03 => ada x.v
  | 0x04 => ada x.v
  | 0x10 => { delta := mulX nl (fmaX h.scale x.o (mulX h.wd x.w)), m := fmaX h.b1 x.m x.g, r := 0 }
  | _ =>
    let m := fmaX h.b1 x.m x.o
    { delta := mulX nl (fmaX h.wd x.w m), m, r := 0 }

/-- A rule keeps a first moment, a second-moment root, a sketch, an X0 (R227). -/
def hasM1 (rule : Nat) : Bool := rule ≠ 0
def hasM2 (rule : Nat) : Bool := rule = 2
def hasSketch (rule : Nat) : Bool := rule = 3 || rule = 4
def hasX0 (rule : Nat) : Bool := rule = 0x10 || rule = 0x11
def knownRule (rule : Nat) : Bool := rule ∈ [0, 1, 2, 3, 4, 0x10, 0x11]

/-- Rank of a sketch. -/
def rankOf (d : Descriptor) : Nat := if d.rule = 4 then d.rank else 1

/-- Bytes of a sketch slot (R222). -/
def slotBytes (r p n : Nat) : Nat := 64 * ceilDiv (2 * r * (p + n)) 64

/-- New sketch factors of rule 0x03 (R230): `g` holds the part's unscaled gradient by rows. -/
def sketch3 (h : Hyp) (p n : Nat) (a b : List W32) (g : List (List W32)) : List W32 × List W32 :=
  let o2 := subX oneX h.b2
  let inv := fun k => recipX (intToX k)
  let a' := List.zipWith (fun x row => fmaX h.b2 x (mulX o2 (mulX (sumX (row.map sqX)) (inv n)))) a g
  let b' := List.zipWith (fun x j =>
    fmaX h.b2 x (mulX o2 (mulX (sumX (g.map (fun row => sqX ((row[j]?).getD 0)))) (inv p)))) b (List.range n)
  (a', b')

/-- Column k of the factors of rule 0x04: wA_k, wB_k and μ_k of a part of p rows (R231). -/
def colSums (p : Nat) (a b : List (List W32)) (k : Nat) : W32 × W32 × W32 :=
  let col := fun (m : List (List W32)) => sumX (m.map (fun row => (row[k]?).getD 0))
  (col a, col b, mulX (col a) (recipX (intToX p)))

/-- A column that keeps its factors and adds nothing: one of its sums is +0 (R231). -/
def idleCol (x : W32 × W32 × W32) : Bool := x.1 = 0 || x.2.1 = 0 || x.2.2 = 0

/-- New sketch factors of rule 0x04 (R231): A by rows of r, B by rows of r; a column with a sum of +0 keeps its own. -/
def sketch4 (h : Hyp) (p r : Nat) (a b g : List (List W32)) : List (List W32) × List (List W32) :=
  let o2 := subX oneX h.b2
  let at2 := fun (m : List (List W32)) i k => (((m[i]?).getD [])[k]?).getD 0
  let cols := (List.range r).map (colSums p a b)
  let new := fun (old : W32) (x : W32 × W32 × W32) (w : W32) (sum : W32) =>
    if idleCol x then old else fmaX h.b2 old (mulX o2 (mulX sum (recipX w)))
  let a' := List.zipWith (fun row gi => cols.zipIdx.map (fun x =>
    new ((row[x.2]?).getD 0) x.1 x.1.2.1 (sumX (gi.zipIdx.map (fun y => mulX (sqX y.1) (at2 b y.2 x.2)))))) a g
  let b' := b.zipIdx.map (fun bj => cols.zipIdx.map (fun x =>
    new ((bj.1[x.2]?).getD 0) x.1 x.1.1
      (sumX (g.zipIdx.map (fun y => mulX (sqX ((y.1[bj.2]?).getD 0)) (at2 a y.2 x.2))))))
  (a', b')

/-- v̂ of rule 0x03 for an element, μ being the part's mean of a: +0 where μ is +0 (R230). -/
def vhat3 (mu : W32) (a b : List W32) (i j : Nat) : W32 :=
  if mu = 0 then 0 else mulX (mulX ((a[i]?).getD 0) ((b[j]?).getD 0)) (recipX mu)

/-- v̂ of rule 0x04 for an element, from its columns' sums: the columns that are not idle add up, in ascending k (R231). -/
def vhat4 (cols : List (W32 × W32 × W32)) (a b : List (List W32)) (i j : Nat) : W32 :=
  cols.zipIdx.foldl (fun acc x =>
    if idleCol x.1 then acc else
    addX acc (mulX (mulX (((a[i]?).getD [])[x.2]?.getD 0) (((b[j]?).getD [])[x.2]?.getD 0)) (recipX x.1.2.2))) 0

/-- Round a linear value to L16 in mode RN. -/
def toL16 (x : W32) : Nat := (rnVal fmtL16 false (x32Val x)).code

/-! ### Blocks under a scale (R173, R228) -/

/-- Cut a list into runs of `n`. -/
def chunksOf {α : Type} (n : Nat) : Nat → List α → List (List α)
  | 0, _ => []
  | k + 1, l => if l.isEmpty then [] else l.take n :: chunksOf n k (l.drop n)

/-- The largest position of a block of exact values (R166, R173). -/
def blockPos (l : List Val) : Option Int := l.foldl (fun m v => maxPos m (amaxVal v)) none

/-- A position list of logarithmic values. -/
def blockPosLog (l : List LogVal) : Option Int := l.foldl (fun m v => maxPos m (amaxLog v)) none

/-- A ZRL8 group of 64 L8 values: mask, then the nonzero codes (R184). -/
def zrlGroup (l : List Byte) : List Byte :=
  let l := l ++ List.replicate (64 - l.length) 0
  leBytes 8 (l.zipIdx.foldl (fun m x => if x.1 = 0 then m else m + 2 ^ x.2) 0) ++ l.filter (· ≠ 0)

/-- A ZRL8 chunk of 4,096 values. -/
def zrlChunk (l : List Byte) : List Byte := ((chunksOf 64 64 l).map zrlGroup).flatten

/-- Pad to a multiple of 64 bytes. -/
def pad64 (l : List Byte) : List Byte := l ++ List.replicate (64 * ceilDiv l.length 64 - l.length) 0

/-- Chunks one after another on 64-byte boundaries, the last without padding (R184). -/
def joinChunks : List (List Byte) → List Byte
  | [] => []
  | [c] => c
  | c :: r => pad64 c ++ joinChunks r

/-- A ZRL8 object: the chunk index, then the chunks on 64-byte boundaries (R184). -/
def zrlObject (l : List Byte) : List Byte :=
  let cs := (chunksOf 4096 (ceilDiv l.length 4096) l).map zrlChunk
  let offs := (cs.foldl (fun (a : List Nat × Nat) c => (a.1 ++ [a.2], a.2 + ceilDiv c.length 64)) ([], 0)).1
  (offs.map (leBytes 4)).flatten ++ joinChunks cs

/-- Decode one ZRL8 group: 64 values and the bytes that follow. -/
def unzrlGroup (bs : List Byte) : List Byte × List Byte :=
  let m := leNat (bs.take 8)
  (List.range 64).foldl (fun (a : List Byte × List Byte) i =>
    if m.testBit i then (a.1 ++ [(a.2.head?).getD 0], a.2.tail) else (a.1 ++ [0], a.2)) ([], bs.drop 8)

/-- Decode up to 64 groups of a chunk. -/
def unzrlGroups : Nat → List Byte → List Byte
  | 0, _ => []
  | n + 1, bs => let (g, r) := unzrlGroup bs; g ++ unzrlGroups n r

/-- The first `n` values of a ZRL8 object given as its bytes (R184). -/
def unzrl (n : Nat) (bs : List Byte) : List Byte :=
  let cs := ceilDiv n 4096
  let body := bs.drop (4 * cs)
  (((List.range cs).map (fun i =>
    unzrlGroups (min 64 (ceilDiv (n - 4096 * i) 64)) (body.drop (64 * leNat ((bs.drop (4 * i)).take 4))))).flatten).take n

end Sys2Proof.Machine
end

