-- ==== Sys2Proof/Machine/Paths.lean ====
section
/-! DEFINITION. Paths inside the module: twilight slots and what waits for them (spec/02 R42, R43; spec/08 R191 to R194,
R196), the promised counts (spec/02 R59, R60), and the shared resources with what they provide (spec/01 R15 to R25; spec/02
R44, R45; spec/15 R398). -/

namespace Sys2Proof.Machine

/-! ### Twilight slots (R42, R193) -/

/-- The first burst period of the slot of twilight period j in an exposure of n twilight periods (R193). -/
def slotBp (n j : Nat) : Nat := 384 * j + 352 - (if j + 1 = n then trimBound n / 33 else 0)

/-- The first cc of the slot of twilight period j, counted from the meridian; none where it has no slot (R37, R193). -/
def slotOf (s : State) (j : Nat) : Option Nat :=
  let n := cfg s 0x10000 0 16
  if ¬ s.mer.placing then none
  else if s.mer.changeover then (if (j + 1) * 12672 ≤ s.mer.length then some (j * 12672 + 11616) else none)
  else if j < n then some (33 * slotBp n j)
  else none

/-- The twilight period that a cc of the exposure lies in, and the first cc of its slot, none where it has no slot. -/
def slotAt (s : State) : Option (Nat × Nat) :=
  let j := (s.now - s.mer.at_) / 12672
  (slotOf s j).map (fun c => (j, c))

/-! ### Accesses (R43, R192) -/

/-- Channel group, and channel within it, of an HBM key (R192). -/
def chGroup (k : Nat) : Nat := k / 4096 % 4
def chIn (k : Nat) : Nat := k / 512 % 8

/-- The channel groups that a range of keys lies in. -/
def groupsOf (k n : Nat) : List Nat :=
  if n = 0 then [] else ((List.range (min 4 ((k + n - 1) / 4096 - k / 4096 + 1))).map (fun i => (k / 4096 + i) % 4))

/-- The cc from which an access that reaches the stack at a cc goes on: the cc after the slot where its group refreshes
then (R43). -/
def groupFree (s : State) (g c : Nat) : Nat :=
  let j := (c - s.mer.at_) / 12672
  match slotOf s j with
  | some o => if j % 4 = g ∧ s.mer.at_ + o ≤ c ∧ c < s.mer.at_ + o + 1056 then s.mer.at_ + o + 1056 else c
  | none => c

/-- The same for every group of a range. -/
def rangeFree (s : State) (k n c : Nat) : Nat := (groupsOf k n).foldl (fun m g => max m (groupFree s g c)) c

/-- The same for the places of an access. -/
def placesFree (s : State) (ps : List (Place × Nat)) (c : Nat) : Nat :=
  ps.foldl (fun m p => match p.1 with | .hbm k _ => max m (rangeFree s k p.2 c) | _ => m) c

/-- An HBM access that a command would make now waits for a slot to end (R43). -/
def refreshing (s : State) (k n : Nat) : Bool := decide (s.now < rangeFree s k n s.now)

/-! ### Phases of an engine's operations (R191, R194, R196) -/

/-- Bursts of 64 bytes that a range has in a channel group: in a page they lie in four runs of 4 KiB (R191, R192). -/
def burstsIn (g k n : Nat) : Nat :=
  if n = 0 then 0 else
  (List.range ((k + n - 1) / 4096 - k / 4096 + 1)).foldl (fun a i =>
    let b := k / 4096 + i
    if b % 4 = g then
      let lo := max k (b * 4096)
      let hi := min (k + n) ((b + 1) * 4096)
      a + ((hi + 63) / 64 - lo / 64)
    else a) 0

/-- The burst period by which a group has moved some bursts from period b on, 200 in each, none while it refreshes, and the
bursts that were deferred (R191, R194). -/
def groupEnd (n g : Nat) : Nat → Nat → Nat → Nat × Nat
  | 0, b, m => (b + ceilDiv m 200, 0)
  | fuel + 1, b, m =>
    let j0 := b / 384 + (g + 4 - b / 384 % 4) % 4
    let j := if slotBp n j0 + 32 ≤ b then j0 + 4 else j0
    let c := slotBp n j
    if m ≤ 200 * (c - b) ∨ n ≤ j then (b + ceilDiv m 200, 0)
    else
      let left := m - 200 * (c - b)
      let r := groupEnd n g fuel (c + 32) left
      (r.1, r.2 + min left (200 * (c + 32 - max b c)))

/-- A phase: the burst period by which its bursts and its lane-cycles are done, and the bursts deferred (R194, R196). -/
def phaseEnd (n b : Nat) (ranges : List (Nat × Nat)) (lanes : Nat) : Nat × Nat :=
  (List.range 4).foldl (fun a g =>
    let m := (ranges.map (fun r => burstsIn g r.1 r.2)).foldl (· + ·) 0
    let r := groupEnd n g (n + 1) b m
    (max a.1 r.1, a.2 + r.2)) (b + ceilDiv lanes 16896, 0)

/-- A channel group refreshes in a burst period of an exposure of n twilight periods (R193). -/
def groupRests (n g b : Nat) : Bool :=
  b / 384 % 4 = g && decide (slotBp n (b / 384) ≤ b) && decide (b < slotBp n (b / 384) + 32)

/-- Bursts that a group moves in a burst period of a phase that begins at period b0 with m bursts in the group. -/
def movesAt (n g b0 m b : Nat) : Nat :=
  if groupRests n g b then 0 else
  min 200 (m - 200 * ((List.range (b - b0)).filter (fun i => !groupRests n g (b0 + i))).length)

/-- What a phase takes of a stack: its bursts by group and burst period, and its lane-cycles (R191, R194, R196). -/
def phaseUses (n k b0 : Nat) (ranges : List (Nat × Nat)) (lanes : Nat) : List Use :=
  ((List.range ((phaseEnd n b0 ranges lanes).1 - b0)).map (fun i =>
    let b := b0 + i
    ((List.range 4).map (fun g =>
      let m := (ranges.map (fun r => burstsIn g r.1 r.2)).foldl (· + ·) 0
      { resource := 2 + k, part := g, dir := 0, cc := b, bytes := movesAt n g b0 m b : Use })) ++
    [{ resource := 272 + k, part := 0, dir := 0, cc := b, bytes := min 16896 (lanes - 16896 * i) }])).flatten

/-- Burst periods of an exposure: those after its last slot are none (R191, R193). -/
def lastBp (n : Nat) : Nat := slotBp n (n - 1) + 32

/-! ### Shared resources (R15 to R25, R191, R298, R398) -/

/-- What a resource provides in one cc and direction, and the factor to which the bytes asked are multiplied for the
comparison. Numbers are those of TIER_WSEL (R272): 0 and 1 a die's data plane, 2 to 13 a stack's internal path in bursts per
burst period, 14 to 19 bridges, 20 the host link, 21 the flash media; beyond them 32 + code a sub-port, 128 + core a core's
read port, 192 + core its write port, 256 + stack a stack's interface, 272 + stack its lanes in lane-cycles per burst period,
288 + die a die's stream plane (log 19). -/
def provides (s : State) (r dir : Nat) : Nat × Nat :=
  if r ≤ 1 ∨ r = 288 ∨ r = 289 then (1024, 1)
  else if r ≤ 13 then (800, 1)
  else if r = 14 then (80000, 33)
  else if r ≤ 18 then (30000, 33)
  else if r = 19 then (16000, 33)
  else if r = 20 then (2560, 33)
  else if r = 21 then ((if s.alm.flashTb = 16 then (if dir = 0 then 480 else 120) else if dir = 0 then 400 else 100), 33)
  else if 32 ≤ r ∧ r < 128 then
    let mode := cfg s (0x700000 + 0x1000 * ((r - 32) / 4)) 0 2
    (if mode = 1 then 1000 else if mode = 2 then 500 else if mode = 3 then 250 else 0, 33)
  else if 128 ≤ r ∧ r < 164 then (2048, 1)
  else if 192 ≤ r ∧ r < 228 then (1024, 1)
  else if 256 ≤ r ∧ r < 268 then (400, 1)
  else if 272 ≤ r ∧ r < 284 then (16896, 1)
  else (0, 1)

/-- A resource whose two directions share what it provides: a stack's paths and lanes (R23, R191). -/
def bothWays (r : Nat) : Bool := (decide (2 ≤ r) && decide (r ≤ 13)) || (decide (256 ≤ r) && decide (r < 284))

/-- What a list of uses asks of a part of a resource in one cc and direction. -/
def askOf (us : List Use) (r part dir c : Nat) : Nat :=
  (us.filter (fun u => u.resource = r && u.part = part && u.cc = c && (bothWays r || u.dir = dir))).foldl (fun n u => n + u.bytes) 0

/-- First slot and slots of a strict tenant in each 64-cc frame (R398). -/
def strictSlots (s : State) (tenant : Nat) : Nat × Nat :=
  let before := (s.tenants.filter (fun e => e.2.strict && decide (e.1 < tenant))).foldl (fun n e => n + e.2.share) 0
  (before, ((look s.tenants tenant).map (·.share)).getD 0)

/-- A cc of a divided resource that a tenant may use; the module's own traffic is that of no strict tenant (R398). -/
def slotMine (s : State) (tenant : Option Nat) (c : Nat) : Bool :=
  let i := c % 64
  if (tenant.bind (look s.tenants)).any (·.strict) then
    let (a, n) := strictSlots s (tenant.getD 0)
    decide (a ≤ i ∧ i < a + n)
  else
    decide (s.tenants.foldl (fun n e => if e.2.strict then n + e.2.share else n) 0 ≤ i)

/-- A resource that strict partitions do not divide (R398). -/
def divided (r : Nat) : Bool :=
  r ≤ 1 || (decide (14 ≤ r) && decide (r ≤ 21)) || (decide (32 ≤ r) && decide (r < 128)) || r = 288 || r = 289

/-! ### Kinds of places -/

/-- The stacks that places lie in. -/
def stacksIn (ps : List (Place × Nat)) : List Nat :=
  (ps.filterMap (fun p => match p.1 with | .hbm k _ => some (k / 2 ^ 36) | _ => none)).eraseDups

/-- Bytes of the places of a kind. -/
def bytesOf (kind : Place → Bool) (ps : List (Place × Nat)) : Nat := ps.foldl (fun n p => if kind p.1 then n + p.2 else n) 0

/-- The tiers of the places that are not in HBM or a core store, pages on their way included. -/
def tiersOff (ps : List (Place × Nat)) : List Nat :=
  ps.filterMap (fun p => match p.1 with
    | .wait _ _ t => some t | .host _ => some 1 | .flash _ => some 2 | .remote .. => some 3 | _ => none)

/-- A place in host memory, one on flash, one in another module, and one on a compute die. -/
def isHost : Place → Bool
  | .host _ => true
  | _ => false
def isFlash : Place → Bool
  | .flash _ => true
  | _ => false
def isRemote : Place → Bool
  | .remote .. => true
  | _ => false
def isOnDie (d : Nat) : Place → Bool
  | .hbm k _ => k / 2 ^ 36 / 6 = d
  | .core k => k / 2 ^ 25 / 18 = d
  | _ => false

/-- A place from which a copy's data is a planned contribution: core store or HBM (R203). -/
def planned : Place → Bool
  | .core _ => true
  | .hbm _ _ => true
  | _ => false

/-! ### Promised counts (R59, R60) -/

/-- A core's read of a place: cc from its issue to the data in its core store; none for a path that leaves the module (R59,
R61). -/
def pathCc (core : Nat) : Place → Nat
  | .hbm k _ => if k / 2 ^ 36 / 6 = core / 18 then 212 else 240
  | .core k => if k / 2 ^ 25 = core then 9 else if k / 2 ^ 25 / 18 = core / 18 then 34 else 58
  | _ => 0

/-- The cc at which the data of a read that issues at a cc is in the core store: the longest of its places (R43, R59). -/
def readReady (s : State) (core : Nat) (ps : List (Place × Nat)) (c : Nat) : Nat :=
  ps.foldl (fun m p => max m (placesFree s [p] c + pathCc core p.1)) c

/-- The cc from which a copy that has its pages may complete: its data is there, and no group that it writes refreshes (R43,
R59). -/
def copyReady (s : State) (core : Nat) (src dst : List (Place × Nat)) (c : Nat) : Nat :=
  placesFree s dst (readReady s core src c)

/-- Ingress of a frame from its last bit at the pin to the core store: 1,320 cc, and 1 cc for each 256 bytes beyond 4,224, a
remainder counted whole (R59, R60; the rounding is a DESIGN CHOICE, log 36). -/
def ingressCc (len : Nat) : Nat := 1320 + ceilDiv (len - 4224) 256

/-- cc that a message's source adds to the egress path: 190 from HBM, and its twilight wait (R365). -/
def sourceCc (s : State) (ps : List (Place × Nat)) : Nat :=
  if (stacksIn ps).isEmpty then 0 else 190 + (placesFree s ps s.now - s.now)

end Sys2Proof.Machine
end

