-- ==== Sys2Proof/Machine/Schedule.lean ====
section
/-! DEFINITION. When a stack engine works: the phases of an entry, the bursts and lane-cycles of each, and the burst periods
in which they run (spec/08 R191 to R196, R205, R206; spec/09 R222, R227, R233, R238). -/

namespace Sys2Proof.Machine

/-! ### Objects by offset -/

/-- HBM key of a byte of an object, and the first frame of its page. -/
def objKey (s : State) (h off : Nat) : Option (Nat × Nat) :=
  match look s.objs h with
  | none => none
  | some o =>
    (look o.loc (off / pageBytes o.psize)).map (fun f => (f * 65536 + off % pageBytes o.psize, f))

/-- The offset in an object at which its part on a stack starts (R222). -/
def partStart (s : State) (h stack : Nat) : Nat :=
  match look s.objs h with
  | none => 0
  | some o => match (List.range o.pages).find? (fun i => stackFor o i = stack) with
    | some i => i * pageBytes o.psize
    | none => 0

/-- The commit record key of a strip: its master page's frame (R207). -/
def recKey (s : State) (h strip : Nat) : Option Nat := (objKey s h (65536 * strip)).map (fun k => k.1 / 65536)

/-- The descriptor of an UPDATE's master object. -/
def descOf (s : State) (h : Nat) : Option Descriptor := (look s.objs h).bind (·.desc)

/-- Values of a part. -/
def partVals (d : Descriptor) (e : SeEntry) : Nat := min (32768 * e.strips) (d.rows * d.cols - 32768 * e.firstStrip)

/-- Values of a strip. -/
def stripVals (d : Descriptor) (e : SeEntry) (i : Nat) : Nat := min 32768 (partVals d e - 32768 * i)

/-- Whole rows of a part. -/
def partRows (d : Descriptor) (e : SeEntry) : Nat := partVals d e / max 1 d.cols

/-- Where a rule's pre-pass header lies: sketch part or X0 part (R222). -/
def headerAt (s : State) (d : Descriptor) (e : SeEntry) : Nat × Nat :=
  if hasSketch d.rule then (d.mom2, partStart s d.mom2 e.stack)
  else (d.x0, partStart s d.x0 e.stack + 65536 * e.strips)

/-- Bytes of a sketch slot of a part (R222). -/
def partSlot (d : Descriptor) (e : SeEntry) : Nat := slotBytes (rankOf d) (partRows d e) d.cols

/-! ### Phases (R195, R196) -/

/-- A phase: the ranges that its bursts lie in, by addresses that agree with the stack's in their low 16 bits (a page of 64
KiB lies as a whole in one frame, R192), and its lane-cycles. -/
structure Phase where
  ranges : List (Nat × Nat)
  lanes : Nat

/-- Bursts of a phase by channel group. -/
def groupBursts (p : Phase) : List Nat :=
  (List.range 4).map (fun g => (p.ranges.map (fun r => burstsIn g r.1 r.2)).foldl (· + ·) 0)

/-- Lane-cycles per value of a rule's strip pass and of its pre-pass (R227). -/
def ruleLanes (d : Descriptor) : Nat :=
  match d.rule with
  | 0x00 => 3 | 0x01 => 6 | 0x02 => 12 | 0x03 => 11 | 0x04 => 10 + d.rank | 0x10 => 7 | _ => 6
def prepLanes (d : Descriptor) : Nat :=
  match d.rule with
  | 0x03 => 2 | 0x04 => 2 * d.rank + 1 | 0x10 => 4 | _ => 2

/-- A phase of strip `i` of an UPDATE: 0 READ to 6 FINISH; a partial strip costs the same as a whole one (R206, R221, R222,
R236, R238). -/
def stripPhase (s : State) (d : Descriptor) (e : SeEntry) (i ph : Nat) : Phase :=
  let w := (65536 * (e.firstStrip + i), 65536)
  let g := (partStart s d.grad e.stack + 65536 * i, 65536)
  let m := (if hasM1 d.rule then [(partStart s d.mom1 e.stack + 33280 * i, 33280)] else []) ++
    (if hasM2 d.rule then [(partStart s d.mom2 e.stack + 33280 * i, 33280)] else [])
  match ph with
  | 0 => { ranges := [w] ++ (if d.rule = 0x11 then [] else [g]) ++ m ++
             (if hasX0 d.rule then [(partStart s d.out e.stack + 65536 * i, 65536)] else []), lanes := 0 }
  | 1 => { ranges := [], lanes := 32768 * ruleLanes d }
  | 3 => { ranges := m, lanes := 0 }
  | 4 => { ranges := [w], lanes := 0 }
  | 5 => { ranges := [g], lanes := 0 }
  | _ => { ranges := [(16 * (recKey s e.object (e.firstStrip + i)).getD 0, 16)], lanes := 0 }

/-- The phase in which a strip pass reads the part's sketch into the part buffer, before its first strip (R190, R238). -/
def sketchPhase (s : State) (d : Descriptor) (e : SeEntry) : List Phase :=
  if hasSketch d.rule then [{ ranges := [((headerAt s d e).2, 64 + partSlot d e)], lanes := 0 }] else []

/-- The phases of a pre-pass: its header (and sketch slot) is read and, for X0, written; each strip; what it commits (R230 to
R236). That header and slot take phases of their own is an inference from R233 and R238 (log 35). -/
def prepPhases (s : State) (d : Descriptor) (e : SeEntry) : List Phase :=
  let h := (headerAt s d e).2
  let g := fun i => (partStart s d.grad e.stack + 65536 * i, 65536)
  let x0 := fun i => (partStart s d.x0 e.stack + 65536 * i, 65536)
  let first : Phase := { ranges := if hasSketch d.rule then [(h, 64 + partSlot d e)] else [(h, 64), (h, 64)], lanes := 0 }
  let last : Phase := { ranges := (if hasSketch d.rule then [(h + 64 + partSlot d e, partSlot d e)] else []) ++ [(h, 64)], lanes := 0 }
  [first] ++ (List.range e.strips).map (fun i =>
    { ranges := [g i] ++ (if hasX0 d.rule then [x0 i] else []) ++
        (if d.rule = 0x10 then [(partStart s d.mom1 e.stack + 33280 * i, 33280)] else [])
      lanes := 32768 * prepLanes d : Phase }) ++ [last]

/-- Bytes that a PACK may write at most: codes with their scales, the compressed object in its allocation, or L16 (R183 to
R185, R205). -/
def packMax (w : W64) (e : SeEntry) : Nat :=
  match e.form with
  | 0 => e.count + ceilDiv e.count (blkLen (max 1 (tagBlk w)))
  | 1 => ceilDiv e.count 2 + ceilDiv e.count (blkLen (max 1 (tagBlk w)))
  | 2 => min e.alloc (4 * ceilDiv e.count 4096 + 72 * ceilDiv e.count 64 + 64 * ceilDiv e.count 4096)
  | _ => 2 * e.count

/-- The phases of an entry that is no strip pass; `w` is the word of its tag, and a PACK writes `out` bytes (R195, R205). -/
def entryPhases (s : State) (w : W64) (out : Nat) (e : SeEntry) : List Phase :=
  let acc := (e.va / 2 * 2, 2 * e.count)
  match e.op with
  | 2 => [{ ranges := [(e.srcVa, 2 * e.count), acc, acc], lanes := e.count }]
  | 3 => match descOf s e.object with
    | some d => prepPhases s d e
    | none => []
  | 4 => [{ ranges := [(e.srcVa, elemBytes e.srcFmt e.count), (e.va, out)],
            lanes := if e.form ≤ 1 ∧ tagSr w then e.count else ceilDiv e.count 2 }]
  | 5 => [{ ranges := [(e.srcVa, e.alloc), (e.va, e.count)], lanes := ceilDiv e.count 2 }]
  | _ => [{ ranges := [(e.va, e.count)], lanes := 0 }]

/-- Phases one after another from a burst period on: of each its first burst period, the one by which it is done, and its
deferred bursts (R194, R196). -/
def runPhases (n : Nat) : Nat → List Phase → List (Nat × Nat × Nat)
  | _, [] => []
  | b, p :: ps =>
    let r := phaseEnd n b p.ranges p.lanes
    (b, r.1, r.2) :: runPhases n r.1 ps

/-! ### The strips of an UPDATE in flight (R206, R238) -/

/-- A strip in flight in a burst period: its phase, since when it runs, the bursts by group and lane-cycles that are left of
it, the bursts deferred in the slot in progress, and in all. -/
structure SimStrip where
  idx : Nat
  phase : Nat
  since : Option Nat
  left : List Nat
  lanes : Nat
  ghost : Nat
  deferred : Nat

/-- A strip pass as its burst periods go by: the next strip to read, those in flight, the phases that are done as (strip,
phase, first burst period, the one by which it is done, deferred bursts), and the bursts by group and lane-cycles that each
burst period took. -/
structure Sim where
  next : Nat
  strips : List SimStrip
  done : List (Nat × Nat × Nat × Nat × Nat)
  took : List (Nat × List Nat × Nat)

/-- Begin what may begin in a burst period: READ of one strip at a time, COMPUTE one strip at a time, and the copy phases and
FINISH of the oldest strip alone (R206). A COPY_M of no bursts is done where it starts (R238). -/
def simBegin (ph : Nat → Nat → Phase) (b : Nat) :
    Bool → Bool → List SimStrip → List SimStrip × List (Nat × Nat × Nat × Nat × Nat)
  | _, _, [] => ([], [])
  | computing, older, x :: r =>
    let go := x.since.isNone && (if x.phase = 1 then !computing else if 3 ≤ x.phase then !older else true)
    let (rest, log) := simBegin ph b (computing || decide (x.phase ≤ 1)) true r
    if go then
      let skip := x.phase = 3 ∧ (ph x.idx 3).ranges.isEmpty
      let k := if skip then 4 else x.phase
      let p := ph x.idx k
      ({ x with phase := k, since := some b, left := groupBursts p, lanes := p.lanes, ghost := 0, deferred := 0 } :: rest,
       (if skip then [(x.idx, 3, b, b, 0)] else []) ++ log)
    else (x :: rest, log)

/-- What the strips move in a burst period, the oldest first: the operation's own phases share it in that order (DESIGN
CHOICE, log 35: R196 leaves it to the plan's grant order), 200 bursts in each group that does not refresh. `rests` says of a
group that it refreshes. -/
def simMove (rests : Nat → Bool) : List Nat → Nat → List SimStrip → List SimStrip
  | _, _, [] => []
  | room, lanes, x :: r =>
    if x.since.isNone then x :: simMove rests room lanes r else
    let moved := List.zipWith min x.left room
    let ln := min x.lanes lanes
    let resting := (List.range 4).filter rests
    let later := resting.foldl (fun a g => a + min 200 (((x.left[g]?).getD 0) - x.ghost)) 0
    { x with left := List.zipWith (· - ·) x.left moved, lanes := x.lanes - ln,
             ghost := if resting.isEmpty then 0 else x.ghost + later, deferred := x.deferred + later } ::
      simMove rests (List.zipWith (· - ·) room moved) (lanes - ln) r

/-- A strip whose phase has nothing left. -/
def simOver (x : SimStrip) : Bool := x.since.isSome && x.left.all (· = 0) && x.lanes = 0

/-- One burst period of a strip pass over `k` strips. -/
def simStep (ph : Nat → Nat → Phase) (n k b : Nat) (m : Sim) : Sim :=
  let m := if m.next < k ∧ m.strips.length < 7 ∧ ¬ m.strips.any (·.phase = 0) then
      { m with next := m.next + 1, strips := m.strips ++
        [{ idx := m.next, phase := 0, since := none, left := [], lanes := 0, ghost := 0, deferred := 0 }] }
    else m
  let (xs, log) := simBegin ph b false false m.strips
  let room := (List.range 4).map (fun g => if groupRests n g b then 0 else 200)
  let ys := simMove (fun g => groupRests n g b) room 16896 xs
  let left := fun (l : List SimStrip) => (List.range 4).map (fun g => l.foldl (fun a x => a + (x.left[g]?).getD 0) 0)
  let lanes := fun (l : List SimStrip) => l.foldl (fun a x => a + x.lanes) 0
  { m with
    strips := (ys.map (fun x => if simOver x then { x with phase := x.phase + 1, since := none } else x)).filter (·.phase < 7)
    done := m.done ++ log ++ (ys.filter simOver).map (fun x => (x.idx, x.phase, x.since.getD b, b + 1, x.deferred))
    took := m.took ++ [(b, List.zipWith (· - ·) (left xs) (left ys), lanes xs - lanes ys)] }

/-- A strip pass from a burst period on, for at most so many burst periods. -/
def simRun (ph : Nat → Nat → Phase) (n k : Nat) : Nat → Nat → Sim → Sim
  | 0, _, m => m
  | fuel + 1, b, m =>
    if m.next = k ∧ m.strips.isEmpty then m else simRun ph n k fuel (b + 1) (simStep ph n k b m)

/-- The strip pass of an entry in an exposure of n twilight periods: it starts in burst period `startBp`. -/
def stripPass (s : State) (d : Descriptor) (e : SeEntry) (n : Nat) : Sim :=
  let pre := runPhases n e.startBp (sketchPhase s d e)
  let b := ((pre.getLast?).map (·.2.1)).getD e.startBp
  simRun (stripPhase s d e) n e.strips (lastBp n - b) b { next := 0, strips := [], done := [], took := [] }

/-! ### What an entry asks for (R45, R191, R196) -/

/-- The uses that phases one after another make of a stack. -/
def phasesUses (n k b : Nat) (ps : List Phase) : List Use :=
  (List.zipWith (fun (p : Phase) r => phaseUses n k r.1 p.ranges p.lanes) ps (runPhases n b ps)).flatten

/-- The uses that an entry makes of its stack. -/
def entryUses (s : State) (w : W64) (e : SeEntry) : List Use :=
  let n := cfg s 0x10000 0 16
  if e.op = 3 ∧ ¬ e.prep then
    match descOf s e.object with
    | none => []
    | some d =>
      phasesUses n e.stack e.startBp (sketchPhase s d e) ++ ((stripPass s d e n).took.map (fun x =>
        ((List.range 4).map (fun g =>
          { resource := 2 + e.stack, part := g, dir := 0, cc := x.1, bytes := (x.2.1[g]?).getD 0 : Use })) ++
        [{ resource := 272 + e.stack, part := 0, dir := 0, cc := x.1, bytes := x.2.2 : Use }])).flatten
  else phasesUses n e.stack e.startBp (entryPhases s w (packMax w e) e)

/-- Every phase of an entry completes within the burst periods of its exposure (R196). -/
def entryFits (s : State) (w : W64) (e : SeEntry) : Bool :=
  let n := cfg s 0x10000 0 16
  decide (e.startBp < lastBp n) &&
  (if e.op = 3 ∧ ¬ e.prep then
    match descOf s e.object with
    | none => true
    | some d => let m := stripPass s d e n; decide (m.next = e.strips) && m.strips.isEmpty
  else (runPhases n e.startBp (entryPhases s w (packMax w e) e)).all (fun r => decide (r.2.1 ≤ lastBp n)))

/-- The planned phases of a strip pass, by 8 × strip + phase: first cc, the cc by which it is done, deferred bursts; `at_` is
the cc of the segment's meridian. -/
def passTimes (s : State) (d : Descriptor) (e : SeEntry) (at_ : Nat) : Tab (Nat × Nat × Nat) :=
  (stripPass s d e (cfg s 0x10000 0 16)).done.foldl (fun t x =>
    tput t (8 * x.1 + x.2.1) (at_ + 33 * x.2.2.1, at_ + 33 * x.2.2.2.1, x.2.2.2.2)) []

/-- The same for phases one after another, by 8 × their number. -/
def phaseTimes (s : State) (ps : List Phase) (b at_ : Nat) : Tab (Nat × Nat × Nat) :=
  (runPhases (cfg s 0x10000 0 16) b ps).zipIdx.map (fun x => (8 * x.2, at_ + 33 * x.1.1, at_ + 33 * x.1.2.1, x.1.2.2))

/-! ### What a segment asks for (R15, R16, R44, R195, R199) -/

/-- The SE entries and streams of a segment. -/
def segEntries (p : PlanImage) (g : Segment) : List SeEntry := g.entries.filterMap (fun i => p.se[i]?)
def segStreams (p : PlanImage) (g : Segment) : List StreamEntry :=
  (g.streams.filterMap (fun i => p.streams[i]?)).filter (·.base.isNone)

/-- The tag word of a plan's own table. -/
def planTag (p : PlanImage) (tag : Nat) : W64 := ((p.tags.find? (·.1 = tag)).map (·.2)).getD 0

/-- Bursts of the interface and lane-cycles that a row takes (R195, R200). -/
def rowCost (p : PlanImage) (e : StreamEntry) : Nat × Nat :=
  (if e.mode = 0 then 2 else if e.mode = 1 then 4 else 8,
   if e.mode = 2 then 0 else if tagSr (planTag p e.tag) then 256 else 128)

/-- The links of the stream plane that a row crosses, as (die, part) pairs: out of its stack's PHY stop, over the routers, out
of the die-to-die bridge stop where the stack lies on the other die, and into the stop of each destination (R15, R16; log 19:
part n is the link into core n's stop, 32 + q the one out of PHY stop q, 38 and 39 those out of and into the bridge stop, 64
and on the links between routers). -/
def rowLinks (e : StreamEntry) : List (Nat × Nat) :=
  let own := e.stack / 6
  let die := (e.dests.head?.map (· / 18)).getD own
  let cores := e.dests.map (· % 18)
  let inner := fun (d src : Nat) (to_ : List Nat) => (Config.meshRoute src to_).map (fun l => (d, 64 + l))
  [(own, 32 + e.stack % 6)] ++
  (if die = own then inner die (e.stack % 6) cores
   else inner own (e.stack % 6) [] ++ [(own, 39), (die, 38)] ++ inner die 6 cores) ++
  cores.map (fun c => (die, c))

/-- What a stream's rows use: of their stack, in the burst period in which the plan reads each, 8 bursts by channel group, its
interface and lanes (R195, R199, R200); and in the cc of their delivery each link of the stream plane on their way, and the
die-to-die bridge where the stack lies on the other die, once (R15, R16). -/
def streamUses (p : PlanImage) (e : StreamEntry) : List Use :=
  let bytes := if e.mode = 2 then 512 else 288
  let n := if e.mode = 0 then (e.rows + 1) / 2 else e.rows
  let (face, lanes) := rowCost p e
  ((List.range e.rows).map (fun i =>
    let b := (e.reads[i]?).getD 0
    ((List.range 4).map (fun g =>
      { resource := 2 + e.stack, part := g, dir := 0, cc := b, bytes := burstsIn g (e.va + i * e.stride) 512 : Use })) ++
    [{ resource := 256 + e.stack, part := 0, dir := 0, cc := b, bytes := face },
     { resource := 272 + e.stack, part := 0, dir := 0, cc := b, bytes := lanes }])).flatten ++
  ((List.range n).map (fun i =>
    let c := e.d0 + i * e.interval
    (rowLinks e).map (fun l => { resource := 288 + l.1, part := l.2, dir := 0, cc := c, bytes : Use }) ++
    (if e.dests.any (fun d => d / 18 ≠ e.stack / 6) then
      [{ resource := 14, part := 0, dir := e.stack / 6, cc := c, bytes }] else []))).flatten

/-- Every use that a segment makes of shared resources: what it declares, which is what its threads and its correlator
operations ask for, and what its stack-engine entries and streams take, which their own fields fix (R44, R196; log 19). -/
def segUses (s : State) (p : PlanImage) (g : Segment) : List Use :=
  g.uses ++ ((segEntries p g).map (fun e => entryUses s (planTag p e.tag) e)).flatten ++
  ((segStreams p g).map (streamUses p)).flatten

/-! ### Open slots (R46, R196, R398) -/

/-- The uses that the running segments of some jobs make of a resource, each with the cc of its segment's meridian. -/
def usesOf (which : Nat × Job → Bool) (s : State) (r : Nat) : List (Nat × Use) :=
  ((s.jobs.filter which).map (fun e => if e.2.phase = 1 then (match segOf s e.2, imageOf s e.2 with
    | some g, some p => ((segUses s p g).filter (fun u => u.resource = r)).map (fun u => (e.2.segAt, u))
    | _, _ => []) else [])).flatten

/-- The uses that running segments make of a resource. -/
def plannedUses (s : State) (r : Nat) : List (Nat × Use) := usesOf (fun _ => true) s r

/-- First cc of a use, and the one after it, counted from power-on: a stack's takes a burst period. -/
def useSpan (r : Nat) (x : Nat × Use) : Nat × Nat :=
  if bothWays r then (x.1 + 33 * x.2.cc, x.1 + 33 * x.2.cc + 33) else (x.1 + x.2.cc, x.1 + x.2.cc + 1)

/-- What running segments ask of a resource in a cc: of a mesh plane what they ask of its busiest link (DESIGN CHOICE, log 19:
the spec gives no routes). -/
def askedAt (s : State) (r dir c : Nat) : Nat :=
  let us := ((plannedUses s r).filter (fun x => (bothWays r || x.2.dir = dir) &&
    decide ((useSpan r x).1 ≤ c) && decide (c < (useSpan r x).2))).map (·.2)
  if r ≤ 1 then (us.map (fun u => (us.filter (fun v => v.part = u.part)).foldl (fun n v => n + v.bytes) 0)).foldl max 0
  else us.foldl (fun n u => n + u.bytes) 0

/-- First and last cc of the current exposure that belong to no burst period: those after its last slot, or after the last whole
burst period of a changeover exposure (R37, R191, R193). -/
def noBp (s : State) : Nat × Nat :=
  let l := s.mer.length
  if ¬ s.mer.placing then (0, 0)
  else (s.mer.at_ + (if s.mer.changeover then l - l % 12672 % 33 else 33 * lastBp (cfg s 0x10000 0 16)), s.mer.at_ + l)

/-- A channel group refreshes in a cc (R42, R193). -/
def restsAt (s : State) (c : Nat) : Bool :=
  (slotOf s ((c - s.mer.at_) / 12672)).any (fun o => decide (s.mer.at_ + o ≤ c) && decide (c < s.mer.at_ + o + 1056))

/-- What running segments leave of a resource in a cc, in the units of `provides`: of a stack's internal path 600 bursts of a
burst period in a slot, and no more than they leave of its interface (R24, R46, R191). -/
def roomAt (s : State) (r dir c : Nat) : Nat :=
  let (cap, k) := provides s r dir
  if 2 ≤ r ∧ r ≤ 13 then
    if (noBp s).1 ≤ c ∧ c < (noBp s).2 then 0
    else min ((if restsAt s c then 600 else cap) - askedAt s r dir c) (400 - askedAt s (r + 254) dir c)
  else cap - k * askedAt s r dir c

/-- The cc after one at which what is left of a resource may change, ascending. -/
def marks (s : State) (r c : Nat) : List Nat :=
  let spans := (plannedUses s r).map (useSpan r) ++
    (if 2 ≤ r ∧ r ≤ 13 then (plannedUses s (r + 254)).map (useSpan r) ++ [noBp s] else [])
  ((spans.map (fun x => [x.1, x.2])).flatten.foldl (fun (m : Tab Unit) x => if c < x then tput m x () else m) []).map (·.1)

/-- First slot of each 64-cc frame that a tenant's traffic outside the plans, or the module's own, may use of a resource, and
how many it has (R398). -/
def ownSlots (s : State) (tenant : Option Nat) (r : Nat) : Nat × Nat :=
  let all := s.tenants.foldl (fun n e => if e.2.strict then n + e.2.share else n) 0
  if ¬ divided r then (0, 64)
  else if (tenant.bind (look s.tenants)).any (·.strict) then strictSlots s (tenant.getD 0)
  else (all, 64 - all)

/-- Own slots before a cc counted from the meridian, and the cc after the m-th of them from a cc on. -/
def ownCc (w : Nat × Nat) (c : Nat) : Nat := c / 64 * w.2 + min w.2 (c % 64 - w.1)
def ownEnd (w : Nat × Nat) (c m : Nat) : Nat :=
  let t := ownCc w c + m
  (t - 1) / w.2 * 64 + w.1 + (t - 1) % w.2 + 1

/-- Traffic of some units takes what is left in its own slots from a cc on: the first cc that it takes, the cc after the last,
and the cc that it takes. `ms` are the cc at which what is left may change; cc are counted from the meridian. -/
def openRun (room : Nat → Nat) (w : Nat × Nat) : List Nat → Nat → Nat → Option Nat → Nat → Nat × Nat × Nat
  | [], c, need, first, used =>
    let m := ceilDiv need (max 1 (room c))
    (first.getD (ownEnd w c 1 - 1), ownEnd w c m, used + m)
  | b :: ms, c, need, first, used =>
    let slots := ownCc w b - ownCc w c
    if room c = 0 ∨ slots = 0 then openRun room w ms b need first used
    else
      let m := ceilDiv need (room c)
      let first := some (first.getD (ownEnd w c 1 - 1))
      if m ≤ slots then (first.getD c, ownEnd w c m, used + m)
      else openRun room w ms b (need - room c * slots) first (used + slots)

/-- A place in the table of what is taken: a strict tenant's slots are its own (R398). -/
def takenKey (s : State) (tenant : Option Nat) (r dir : Nat) : Nat :=
  2 * r + dir + (match tenant with
    | some x => if divided r ∧ (look s.tenants x).any (·.strict) then 1024 * (x + 1) else 0
    | none => 0)

/-- A slot of a resource that traffic of a tenant outside the plans, or the module's own, may take in a cc: the plans leave it,
and no such traffic granted before has it (R46, R398). -/
def openSlot (s : State) (tenant : Option Nat) (r dir c : Nat) : Bool :=
  decide (0 < roomAt s r dir c) && (!divided r || slotMine s tenant (c - s.mer.at_)) &&
  decide (tget s.taken (takenKey s tenant r dir) 0 ≤ c)

/-- Traffic outside the plans takes a resource: the cc from which it is granted, after such traffic granted before it; its wait
is counted in the TIER block (R46, R196, R272). `n` counts bytes, of a stack bursts (R23, R191). -/
def takeOpen (tenant : Option Nat) (r dir n c : Nat) (s : State) : Nat × State :=
  let key := takenKey s tenant r dir
  let k := if bothWays r then 33 else (provides s r dir).2
  let a := max c (tget s.taken key 0)
  let at_ := s.mer.at_
  let (g, e, used) := openRun (fun x => roomAt s r dir (at_ + x)) (ownSlots s tenant r) ((marks s r a).map (· - at_)) (a - at_)
    (max 1 (n * k)) none 0
  let s := { s with taken := tput s.taken key (at_ + e) }
  let wait := at_ + e - c - used
  (at_ + g, if wait = 0 then s else bump (rkey 0x500184 r) 32 wait s)

/-- What traffic outside the plans between places asks of the module's resources, as (resource, direction, amount) in the order
of its way: host link, flash media, bridge of each compute die to I/O die `iod`, data plane, and bursts of each stack (R15, R18,
R20, R46, R272). -/
def outsideAsks (iod : Nat) (src dst : List (Place × Nat)) : List (Nat × Nat × Nat) :=
  let far := fun (ps : List (Place × Nat)) => ps.any (fun p => isHost p.1 || isFlash p.1 || isRemote p.1)
  let io := fun (a b : List (Place × Nat)) => if (a ++ b).any (fun p => isHost p.1 || isFlash p.1) then 0 else iod
  let enter := fun (d : Nat) => if far src then bytesOf (isOnDie d) dst else 0
  let leave := fun (d : Nat) => if far dst then bytesOf (isOnDie d) src else 0
  let bursts := fun (k : Nat) => (src ++ dst).foldl (fun n p => match p.1 with
    | .hbm a _ => if a / 2 ^ 36 = k then n + ceilDiv (p.2 + a % 64) 64 else n
    | _ => n) 0
  ([(20, 1, bytesOf isHost src), (21, 0, bytesOf isFlash src)] ++
   ([0, 1].map (fun d => [(15 + 2 * d + io src dst, 1, enter d), (d, 1, enter d)])).flatten ++
   (stacksIn (src ++ dst)).map (fun k => (2 + k, 0, bursts k)) ++
   ([0, 1].map (fun d => [(d, 0, leave d), (15 + 2 * d + io src dst, 0, leave d)])).flatten ++
   [(20, 0, bytesOf isHost dst), (21, 1, bytesOf isFlash dst)]).filter (fun x => x.2.2 ≠ 0)

/-- With ATS enabled on a tenant's function, its accesses of host memory use translations that the module holds (R375). -/
def translate (tenant : Option Nat) (ps : List (Place × Nat)) (s : State) : State :=
  let fn := (tenant.map (· + 1)).getD 0
  if ¬ s.pcie.conf.ats.contains fn then s else
  let new := ps.filterMap (fun p => match p.1 with | .host a => if a < 2 ^ 64 then some (fn, a, p.2) else none | _ => none)
  { s with pcie := { s.pcie with atc := new.foldl (fun l x => if l.contains x then l else l ++ [x]) s.pcie.atc } }

/-- Traffic outside the plans between places takes open slots of every resource on its way, then waits for the end of a slot in
which one of its groups refreshes: the cc from which it goes on (R43, R46, R196, R272). -/
def outsideGrant (tenant : Option Nat) (src dst : List (Place × Nat)) (c : Nat) (s : State) (iod : Nat := 0) : Nat × State :=
  let (c, s) := (outsideAsks iod src dst).foldl (fun a x => takeOpen tenant x.1 x.2.1 x.2.2 a.1 a.2) (c, s)
  (placesFree s (src ++ dst) c, translate tenant (src ++ dst) s)

/-- Traffic outside the plans between places may go now: each resource on its way has an open slot, and none of its groups
refreshes (R43, R46, R196). -/
def openNow (s : State) (tenant : Option Nat) (src dst : List (Place × Nat)) (iod : Nat := 0) : Bool :=
  (outsideAsks iod src dst).all (fun x => openSlot s tenant x.1 x.2.1 s.now) &&
  decide (placesFree s (src ++ dst) s.now = s.now)

/-- The same traffic goes: it takes its slots. -/
def goNow (tenant : Option Nat) (src dst : List (Place × Nat)) (s : State) (iod : Nat := 0) : State :=
  (outsideGrant tenant src dst s.now s iod).2

/-- The cc of a span in which a resource has no slot for a tenant's traffic outside the plans, or the module's own. -/
def closedCc (s : State) (tenant : Option Nat) (r dir a b : Nat) : Nat :=
  let w := ownSlots s tenant r
  let cuts := a :: (marks s r a).filter (fun x => decide (x < b))
  let open_ := (cuts.zip (cuts.tail ++ [b])).foldl (fun n x =>
    if roomAt s r dir x.1 = 0 then n else n + (ownCc w (x.2 - s.mer.at_) - ownCc w (x.1 - s.mer.at_))) 0
  b - a - open_

/-! ### Phases off the plan (R208, R209) -/

/-- The first burst period that begins at a cc or later, in this exposure or the next one (R37, R191, R193). -/
def bpFrom (s : State) (c : Nat) : Nat :=
  let (a, e) := noBp s
  let base := if e ≤ c ∧ a < e then e else s.mer.at_
  let b := base + 33 * ceilDiv (c - base) 33
  if a ≤ b ∧ b < e then e else b

/-- A channel group refreshes in the burst period that begins at a cc of this exposure or the next one (R42, R193). -/
def restsFrom (s : State) (c g : Nat) : Bool :=
  if (noBp s).2 ≤ c ∧ s.mer.placing then groupRests (cfg s 0x10000 0 16) g ((c - (noBp s).2) / 33)
  else (c - s.mer.at_) / 12672 % 4 = g && restsAt s c

/-- Work of a phase as burst periods go by from a cc on, in what other jobs' running segments leave of the stack, `bursts` and
`lanes`: the cc after its last burst period, and its deferred bursts (R194, R209). -/
def offPlan (s : State) (bursts lanes : List (Nat × Use)) : Nat → Nat → SimStrip → Nat × Nat
  | 0, c, x => (c, x.deferred)
  | n + 1, c, x =>
    if simOver x then (c, x.deferred) else
    let c := bpFrom s c
    let asked := fun (us : List (Nat × Use)) (g : Nat) =>
      (us.filter (fun u => u.2.part = g && u.1 + 33 * u.2.cc = c)).foldl (fun n u => n + u.2.bytes) 0
    let room := (List.range 4).map (fun g => if restsFrom s c g then 0 else 200 - asked bursts g)
    match simMove (restsFrom s c) room (16896 - asked lanes 0) [x] with
    | [y] => offPlan s bursts lanes n (c + 33) y
    | _ => (c, x.deferred)

/-- A phase of a job's work on a stack that runs off its plan, from a cc on: its first cc, the cc after its last burst period,
and its deferred bursts. It takes what its own job had reserved, and otherwise what no other job's segment uses (R208, R209). -/
def phaseFrom (s : State) (slot job stack c : Nat) (p : Phase) : Nat × Nat × Nat :=
  let others := fun (r : Nat) => usesOf (fun e => !(e.1 = slot && e.2.id = job)) s r
  let b := bpFrom s c
  (b, offPlan s (others (2 + stack)) (others (272 + stack)) 65536 b
    { idx := 0, phase := 0, since := some 0, left := groupBursts p, lanes := p.lanes, ghost := 0, deferred := 0 })

/-! ### Pages of a part (R197, R257) -/

/-- The objects and ranges that a part of an UPDATE takes with it (R197, R206, R222). -/
def partSpans (s : State) (d : Descriptor) (e : SeEntry) : List (Nat × Nat × Nat) :=
  let lin := fun (h : Nat) => (h, partStart s h e.stack, 65536 * e.strips)
  let mom := fun (h : Nat) => (h, partStart s h e.stack, 33280 * e.strips)
  [(e.object, 65536 * e.firstStrip, 65536 * e.strips), lin d.grad] ++ (if hasM1 d.rule then [mom d.mom1] else []) ++
  (if hasM2 d.rule then [mom d.mom2] else []) ++
  (if hasSketch d.rule then [(d.mom2, partStart s d.mom2 e.stack, 64 + 2 * partSlot d e)] else []) ++
  (if hasX0 d.rule then [(d.x0, partStart s d.x0 e.stack, 65536 * e.strips + 64), lin d.out] else [])

/-- The pages of a part that are not in HBM now: (object, page) (R257). -/
def partWaits (s : State) (d : Descriptor) (e : SeEntry) : List (Nat × Nat) :=
  ((partSpans s d e).map (fun r => (spans r.2.1 r.2.2).filterMap (fun x => match look s.objs r.1 with
    | some o => if (look o.loc (x.1 / pageBytes o.psize)).isNone then some (r.1, x.1 / pageBytes o.psize) else none
    | none => none))).flatten

/-! ### Accesses that wait for a strip (R211) -/

/-- The byte ranges (object, offset, length) of a strip in flight: master, gradient, moments and sketches (R206, R211). -/
def stripRanges (s : State) (u : UpdRun) (e : SeEntry) (p : StripRun) : List (Nat × Nat × Nat) :=
  match descOf s u.master with
  | none => []
  | some d =>
    let lin := 65536 * (e.firstStrip + p.idx)
    let mom := fun (h : Nat) => [(h, partStart s h e.stack + 33280 * p.idx, 33280)]
    [(u.master, lin, 65536), (d.grad, partStart s d.grad e.stack + 65536 * p.idx, 65536)] ++ (if hasM1 d.rule then mom d.mom1 else []) ++
    (if hasM2 d.rule then mom d.mom2
     else if hasSketch d.rule then
       [(d.mom2, partStart s d.mom2 e.stack, 64 + 2 * slotBytes (rankOf d) (partRows d e) d.cols)]
     else [])

/-- An unscheduled access from outside an update waits for a strip: a write from the start of READ to FINISH, a read from
STAGE to FINISH (R211). -/
def stripWait (s : State) (h off n : Nat) (write : Bool) : Bool :=
  s.upds.any (fun u => u.2.mode = 0 && u.2.strips.any (fun p => decide (p.ready ≤ s.now) && (write || decide (2 ≤ p.phase)) &&
    (stripRanges s u.2 u.2.part p).any (fun r => r.1 = h && meets off (max 1 n) r.2.1 r.2.2)))

/-- As `stripWait`, for a tenant's address. -/
def stripWaitVa (s : State) (tenant va n : Nat) (write : Bool) : Bool :=
  match hitAt s tenant va with
  | some h => stripWait s h.handle (h.page * pageBytes h.obj.psize + h.off) n write
  | none => false

/-- An access waits for a strip under update, for the owner view (R211). -/
def stripWaitKey (s : State) (k n : Nat) (write : Bool) : Bool :=
  match frameOwner s (k / 65536) with
  | some (h, o, page, first) => stripWait s h (page * pageBytes o.psize + (k - first * 65536)) n write
  | none => false

/-- The region a key names. -/
def regionOf (s : State) (key : Nat) : Option Region := if key / 256 = 0 then none else look s.regions (key / 256)

/-- Bytes that a packet's range covers, in the object's own layout on an ACCUMULATE page (R202). -/
def pktRange (s : State) (r : Region) (p : HeldPkt) : Nat × Nat :=
  let va := r.block.base + p.off
  match p.opcode with
  | 1 => writeRange s r.tenant va p.data.length
  | 2 => (va, p.len)
  | _ => (va, 8)

/-- The stacks on which an unscheduled access waits for a strip: a copy with an end outside the module, a read of BAR4, or a
packet that arrived by Barfeos (R203, R211). -/
def stripStalls (s : State) : List Nat :=
  let far := fun (ps : List (Place × Nat)) => !(ps.all (fun p => planned p.1))
  let copies := (s.cores.map (fun c => (c.2.mq.take 1).filterMap (fun m => match look s.jobs m.slot with
    | some j =>
      if far (m.sp ++ m.dp) && (stripWaitVa s j.tenant m.src m.len false || stripWaitVa s j.tenant m.dst m.len true) then
        (stacksIn (m.sp ++ m.dp)).head? else none
    | none => none))).flatten
  let reads := s.pcie.reads.filterMap (fun r =>
    if r.2.1 = 0 then (if stripWaitKey s r.2.2.1 r.2.2.2.1 false then some (r.2.2.1 / 2 ^ 36) else none)
    else if stripWaitVa s (r.2.1 - 1) r.2.2.1 r.2.2.2.1 false then
      (stacksIn (placesOf s (r.2.1 - 1) [] r.2.2.1 r.2.2.2.1 false)).head? else none)
  let packets := (s.holds ++ s.landing).filterMap (fun h => match regionOf s h.2.key with
    | some r =>
      let x := pktRange s r h.2
      if stripWaitVa s r.tenant x.1 x.2 (h.2.opcode ≠ 2) then
        (stacksIn (placesOf s r.tenant [] x.1 x.2 (h.2.opcode ≠ 2))).head? else none
    | none => none)
  (copies ++ reads ++ packets).eraseDups

end Sys2Proof.Machine
end

