-- ==== Sys2Proof/Machine/Operands.lean ====
section
/-! DEFINITION. The fields of an instruction word in its six classes (spec/04 R95 to R98, spec/05 R123 to R130), the
registers it names, and the core-store ranges it reads and writes. -/

namespace Sys2Proof.Machine

/-- A field of an instruction word. -/
def fld (w : W64) (lo n : Nat) : Nat := bits w.toNat lo n

def opClass (w : W64) : Nat := fld w 60 4
def opCode (w : W64) : Nat := fld w 54 6

/-! S format (R123) -/
def sSD (w : W64) : Nat := fld w 48 6
def sSA (w : W64) : Nat := fld w 42 6
def sSB (w : W64) : Nat := fld w 36 6
def sIMM (w : W64) : Bool := bitOf w.toNat 35
def sW (w : W64) : Bool := bitOf w.toNat 34
def sRM (w : W64) : Nat := fld w 32 2
def sImm32 (w : W64) : Nat := fld w 0 32

/-! V format (R124) -/
def vFMT (w : W64) : Nat := fld w 50 4
def vTFMT (w : W64) : Nat := fld w 46 4
def vRM (w : W64) : Nat := fld w 44 2
def vVD (w : W64) : Nat := fld w 41 3
def vVA (w : W64) : Nat := fld w 38 3
def vVB (w : W64) : Nat := fld w 35 3
def vVC (w : W64) : Nat := fld w 32 3
def vSS (w : W64) : Nat := fld w 26 6
def vTAGEN (w : W64) : Bool := bitOf w.toNat 25
def vTAG (w : W64) : Nat := fld w 15 10
def vLane (w : W64) : Nat := fld w 7 8

/-! M format (R125) -/
def mVR (w : W64) : Nat := fld w 47 3
def mSA (w : W64) : Nat := fld w 41 6
def mSB (w : W64) : Nat := fld w 35 6
def mSC (w : W64) : Nat := fld w 29 6
def mOBJ (w : W64) : Nat := fld w 16 13
def mSIG (w : W64) : Bool := bitOf w.toNat 15

/-! Y format (R126) -/
def yOBJ (w : W64) : Nat := fld w 41 13
def ySV (w : W64) : Nat := fld w 35 6
def yIMM (w : W64) : Bool := bitOf w.toNat 34
def yFENCE (w : W64) : Bool := bitOf w.toNat 33
def yREM (w : W64) : Bool := bitOf w.toNat 32
def yMODULE (w : W64) : Nat := fld w 20 12
def yImm20 (w : W64) : Nat := fld w 0 20

/-! C format (R127) -/
def cSA (w : W64) : Nat := fld w 48 6
def cSB (w : W64) : Nat := fld w 42 6
def cCOND (w : W64) : Nat := fld w 39 3
def cOFFSET (w : W64) : Int := sext 24 (fld w 0 24)
def cMile (w : W64) : Nat := fld w 0 16

/-! T format (R96 to R98) -/
def tFMT (w : W64) : Nat := fld w 50 4
def tBANK (w : W64) : Nat := fld w 49 1
def tINIT (w : W64) : Bool := bitOf w.toNat 48
def tK (w : W64) : Nat := fld w 36 12 + 1
def tRA (w : W64) : Nat := fld w 30 6
def tRSA (w : W64) : Nat := fld w 24 6
def tSCA (w : W64) : Nat := fld w 21 3
def tSCB (w : W64) : Nat := fld w 18 3
def tROWPOS (w : W64) : Nat := fld w 10 8
def tREL (w : W64) : Bool := bitOf w.toNat 9
def dROW0 (w : W64) : Nat := fld w 40 8
def dROWS (w : W64) : Nat := fld w 32 8 + 1
def dCW (w : W64) : Nat := fld w 29 3
def dRD (w : W64) : Nat := fld w 23 6
def rROWPOS (w : W64) : Nat := fld w 40 8
def rCOUNT (w : W64) : Nat := fld w 32 8 + 1

/-! ### Registers (R113) -/

/-- Key of a thread context. -/
def thrKey (core thr : Nat) : Nat := core * 128 + thr

/-- A scalar register; s0 reads as 0. -/
def sreg (s : State) (k r : Nat) : W64 := if r = 0 then 0 else tget s.sregs (k * 64 + r) 0

/-- Write a scalar register, usable from a cc; writes to s0 are discarded. -/
def setSreg (k r : Nat) (v : W64) (usable : Nat) (s : State) : State :=
  if r = 0 then s else
  { s with sregs := tset s.sregs (k * 64 + r) v 0, sbusy := tput s.sbusy (k * 64 + r) usable }

/-- The 256 lanes of a vector register. -/
def vreg (s : State) (k v : Nat) : List W32 := tread s.vregs ((k * 8 + v) * 256) 256 0

/-- Write a vector register with valid parity, usable from a cc. -/
def setVreg (k v : Nat) (lanes : List W32) (usable : Nat) (s : State) : State :=
  { s with
    vregs := tsplice s.vregs ((k * 8 + v) * 256) lanes 0
    vbusy := tput s.vbusy (k * 8 + v) usable
    badVec := s.badVec.filter (· ≠ k * 8 + v) }

/-! ### Sizes -/

/-- Bytes of one vector in core store (R125). -/
def vecBytes (fmt : Nat) : Nat := if fmt = 0 then 128 else if fmt = 1 ∨ fmt = 6 then 256 else if fmt = 2 then 512 else 1024

/-- An address with the bits below a power of two cleared. -/
def align (a n : Nat) : Nat := a / n * n

/-- Bytes of one column vector (R89). -/
def colBytes (fmt : Nat) : Nat := if fmt = 0 then 128 else if fmt = 1 then 256 else 512

/-- Address of a MAC's column panel (R89). -/
def panelAddr (fmt a : Nat) : Nat := align a (if fmt = 2 then 512 else 256)

/-- Scales per vector of a block-size code (R92). -/
def scalesPer (sc : Nat) : Nat := 256 / (8 * 2 ^ sc)

/-- The byte ranges of a MAC: its panel and its column scales (R89, R92, R100). -/
def macRanges (s : State) (k : Nat) (w : W64) : List (Nat × Nat) :=
  let a := panelAddr (tFMT w) (sreg s k (tRA w)).toNat
  let p := (a, a + colBytes (tFMT w) * tK w)
  if tSCA w = 0 then [p] else
    let b := align (sreg s k (tRSA w)).toNat 16
    [p, (b, b + tK w * scalesPer (tSCA w))]

/-- The destination of a DRAIN (R97). -/
def drainRange (s : State) (k : Nat) (w : W64) : Nat × Nat :=
  let a := align (sreg s k (dRD w)).toNat 128
  (a, a + dROWS w * 128 * (dCW w + 1))

/-- The local range of MLDV, MSTV, MLDS and MSTS (R125). -/
def localRange (s : State) (k : Nat) (w : W64) : Nat × Nat :=
  let n := if opCode w = 3 ∨ opCode w = 4 then 8 else vecBytes (vFMT w)
  let a := align (sreg s k (mSA w)).toNat n
  (a, a + n)

/-- The own-store part of a window range. -/
def ownRange (core va n : Nat) : List (Nat × Nat) :=
  let b := coreWin + core * 0x2000000
  if b ≤ va ∧ va < b + 0x1800000 then [(va - b, va - b + n)] else []

/-- Stream control of an MSTREAM (R130): destination cores, first slot and slots. -/
def streamDests (core ctl : Nat) : List Nat :=
  ((List.range 18).filter (fun i => bitOf ctl i)).map (fun i => core / 18 * 18 + i)
def streamFirst (ctl : Nat) : Nat := bits ctl 18 8
def streamSlots (ctl : Nat) : Nat := bits ctl 26 8 + 1

/-! ### What the scoreboard compares (R121) -/

/-- The registers and own core-store ranges that an instruction uses. -/
structure Needs where
  srcS : List Nat := []
  dstS : Option Nat := none
  srcV : List Nat := []
  dstV : Option Nat := none
  reads : List (Nat × Nat) := []
  writes : List (Nat × Nat) := []

/-- The uses of an S-format instruction. -/
def needsS (w : W64) : Needs :=
  let op := opCode w
  let src :=
    if op = 0x0F ∨ op = 0x13 then []
    else if op = 0x10 then [sSD w]
    else if op = 0x11 ∨ op = 0x12 ∨ sIMM w then [sSA w]
    else [sSA w, sSB w]
  { srcS := src, dstS := some (sSD w) }

/-- The uses of a V-format instruction. -/
def needsV (w : W64) : Needs :=
  let op := opCode w
  let one := [0x07, 0x08, 0x09, 0x0A, 0x0C, 0x10, 0x11, 0x12, 0x13, 0x14, 0x15, 0x17]
  let srcV :=
    if op = 0x0B ∨ op = 0x16 then []
    else if op ∈ one then [vVA w]
    else if op = 0x04 ∨ op = 0x0D then [vVA w, vVB w, vVC w]
    else [vVA w, vVB w]
  let srcS := if op = 0x0B ∨ op = 0x0A ∨ (op = 0x09 ∧ (vFMT w = 0 ∨ vTFMT w = 0)) then [vSS w] else []
  if op = 0x0C then { srcV, dstS := some (vSS w) } else { srcS, srcV, dstV := some (vVD w) }

/-- The uses of an M-format instruction. -/
def needsM (s : State) (core k : Nat) (w : W64) : Needs :=
  let a := (sreg s k (mSA w)).toNat
  let n := (sreg s k (mSB w)).toNat
  let c := (sreg s k (mSC w)).toNat
  match opCode w with
  | 0x01 => { srcS := [mSA w], dstV := some (mVR w), reads := [localRange s k w] }
  | 0x02 => { srcS := [mSA w], srcV := [mVR w], writes := [localRange s k w] }
  | 0x03 => { srcS := [mSA w], dstS := some (mSB w), reads := [localRange s k w] }
  | 0x04 => { srcS := [mSA w, mSB w], writes := [localRange s k w] }
  | 0x05 => { srcS := [mSA w], dstV := some (mVR w),
              reads := ownRange core (align a (vecBytes (vFMT w))) (vecBytes (vFMT w)) }
  | 0x06 => { srcS := [mSA w, mSB w, mSC w], reads := ownRange core a n, writes := ownRange core c n }
  | _ => { srcS := [mSA w, mSB w, mSC w],
           reads := (a, a + 256 * streamSlots n) :: (if mSC w = 0 then [] else [(c, c + 32 * streamSlots n)]) }

/-- The uses of a Y-format instruction; `ix` says that the plan marks it indexed (R137). -/
def needsY (ix : Bool) (w : W64) : Needs :=
  let rd := ix || opCode w == 0x05 || (opCode w != 0x06 && !yIMM w)
  { srcS := if rd then [ySV w] else [], dstS := if opCode w = 0x06 then some (ySV w) else none }

/-- The uses of a C-format instruction. -/
def needsC (w : W64) : Needs :=
  match opCode w with
  | 0x04 => { srcS := [cSA w, cSB w] }
  | 0x06 => { dstS := some 63 }
  | 0x07 => { srcS := [cSA w] }
  | _ => {}

/-- The uses of a T-format instruction. -/
def needsT (s : State) (k : Nat) (w : W64) : Needs :=
  match opCode w with
  | 0x01 => { srcS := tRA w :: (if tSCA w = 0 then [] else [tRSA w]), reads := macRanges s k w }
  | 0x02 => { srcS := [dRD w], writes := [drainRange s k w] }
  | _ => {}

/-- The uses of an instruction of any class. -/
def needsOf (s : State) (core k : Nat) (ix : Bool) (w : W64) : Needs :=
  match opClass w with
  | 0 => needsT s k w
  | 1 => needsV w
  | 2 => needsS w
  | 3 => needsM s core k w
  | 4 => needsY ix w
  | _ => needsC w

end Sys2Proof.Machine
end

