-- ==== Sys2Proof/Machine/Threads.lean ====
section
/-! DEFINITION. Sync objects and the operations of one cc taken together (spec/05 R135 to R138), and what a thread's next
instruction waits for: the scoreboard, sync objects, units and the issue map (R116 to R122, R132, R140; spec/04 R103). -/

namespace Sys2Proof.Machine

/-- The compute die of an object (R135). -/
def objDie (obj : Nat) : Nat := obj / 4096

/-- Ranks of sources in one cc (R138), and the source codes that R140 tells apart: a thread of core c is c, an M-format
completion on core c is 100 + c, a unit outside the cores 200, an arriving remote signal 300. -/
def rankCommand : Nat := 0
def rankThread (core thr : Nat) : Nat := 2 ^ 40 + core * 128 + thr
def rankCopy (slot n : Nat) : Nat := 2 * 2 ^ 40 + slot * 2 ^ 20 + n
def rankUnit (slot n : Nat) : Nat := 3 * 2 ^ 40 + slot * 2 ^ 20 + n
def rankWork (slot n : Nat) : Nat := 4 * 2 ^ 40 + slot * 2 ^ 20 + n
def rankRemote : Nat := 5 * 2 ^ 40

/-- The reset that wins: the one of the lowest source (R138). -/
def lowerReset : Option (Nat × Nat) → Option (Nat × Nat) → Option (Nat × Nat)
  | none, b => b
  | a, none => a
  | some a, some b => if b.1 < a.1 then some b else some a

/-- An object after operations of one source in this cc: a reset, or a sum to add (R137, R138). -/
def SyncObj.join (o : SyncObj) (now : Nat) (reset : Option (Nat × Nat)) (add src : Nat) : SyncObj :=
  let fresh := o.stamp ≠ now ∨ o.hist.isEmpty
  let start := if fresh then o.value else o.start
  let r := lowerReset (if fresh then none else o.reset) reset
  let adds := (if fresh then 0 else o.adds) + add
  let v := min ((match r with | some x => x.2 | none => start) + adds) (2 ^ 64 - 1)
  let old := match o.hist with | (c, _, ss) :: _ => if c = now ∧ ¬ fresh then ss else [] | [] => []
  let tail := match o.hist with | (c, x, ss) :: r => if c = now ∧ ¬ fresh then r else (c, x, ss) :: r | [] => []
  { o with value := v, stamp := now, start, reset := r, adds, hist := (now, v, old ++ [src]) :: tail }

/-- The sum of this cc passes 2^64 − 1 (R137). -/
def SyncObj.saturates (o : SyncObj) : Bool :=
  decide (2 ^ 64 - 1 < (match o.reset with | some x => x.2 | none => o.start) + o.adds)

/-- Signal-adds and resets reach an object (R138). -/
def syncOp (obj : Nat) (reset : Option (Nat × Nat)) (add src : Nat) (s : State) : State :=
  match look s.sync obj with
  | none => s
  | some o =>
    let o' := o.join s.now reset add src
    let x : Signal := { at_ := s.now + 1, slot := 4096, obj, src, act := .saturated }
    let told := s.signals.any (fun y => y.at_ = x.at_ && y.obj = obj && y.act = .saturated)
    { s with sync := tput s.sync obj o', signals := if o'.saturates && !told then s.signals ++ [x] else s.signals }

def signalAdd (obj add src : Nat) (s : State) : State := syncOp obj none add src s

/-- The absolute object of a job-relative index (R136). -/
def absObj (s : State) (j : Job) (idx : Nat) : Option Nat :=
  match imageOf s j with
  | some p =>
    if idx < p.n0 then some (j.base0 + idx)
    else if idx < p.n0 + p.n1 then some (j.base1 + idx - p.n0)
    else none
  | none => none

/-- The count from a change to a waiter on a core (R140). -/
def visCount (obj core src : Nat) : Nat :=
  if src < 36 then
    if src = core ∧ objDie obj = core / 18 then 12
    else if src / 18 = core / 18 ∧ objDie obj = core / 18 then 40 else 64
  else if src < 200 then (if (src - 100) / 18 = objDie obj then 40 else 64)
  else 64

/-- When each value of an object's history, oldest first, is seen on a core: (from cc, value) (R140). -/
def seenFrom (obj core : Nat) : Nat → List (Nat × Nat × List Nat) → List (Nat × Nat)
  | _, [] => []
  | v, (cc, x, srcs) :: r =>
    let w := max v (cc + srcs.foldl (fun m k => max m (visCount obj core k)) 0)
    (w, x) :: seenFrom obj core w r

/-- Values of a list of (from cc, value) that are seen at some cc of a span. -/
def seenIn (a b : Nat) : List (Nat × Nat) → List Nat
  | [] => []
  | [(f, x)] => if f ≤ b then [x] else []
  | (f, x) :: (g, y) :: r => (if f ≤ b ∧ a < g ∧ f < g then [x] else []) ++ seenIn a b ((g, y) :: r)

/-- Values of an object that a waiter on a core sees from one cc to another. -/
def valuesSeen (s : State) (obj core a b : Nat) : List Nat :=
  match look s.sync obj with
  | some o => seenIn a b (seenFrom obj core 0 o.hist.reverse)
  | none => []

/-- The instruction words of a job's program on a core. -/
def programOf (s : State) (j : Job) (core : Nat) : List W64 :=
  match imageOf s j with
  | some p => (look p.words core).getD []
  | none => []

/-- The plan marks a thread's next instruction indexed (R137). -/
def indexedAt (s : State) (j : Job) (core pc : Nat) : Bool :=
  match imageOf s j with
  | some p => p.indexed.contains (core, pc)
  | none => false

/-- Two byte ranges meet, judged on 256-byte granules (R121). -/
def granMeet (a b : Nat × Nat) : Bool :=
  decide (a.1 < a.2) && decide (b.1 < b.2) && decide (a.1 / 256 ≤ (b.2 - 1) / 256) && decide (b.1 / 256 ≤ (a.2 - 1) / 256)

/-- Ranges of a thread in flight at a cc. -/
def rangesOf (s : State) (core thr t : Nat) : List Range :=
  s.ranges.filter (fun r => r.core = core && r.thr = thr && decide (t < r.until_))

/-- The scoreboard holds an instruction (R121, R139). -/
def hazard (s : State) (core thr t : Nat) (ix : Bool) (w : W64) : Bool :=
  let k := thrKey core thr
  let n := needsOf s core k ix w
  let busyS := fun r => r ≠ 0 && decide (t < tget s.sbusy (k * 64 + r) 0)
  let busyV := fun r => decide (t < tget s.vbusy (k * 8 + r) 0)
  let live := rangesOf s core thr t
  let ws := live.filter (fun r => !r.panel)
  n.srcS.any busyS || n.dstS.any busyS || n.srcV.any busyV || n.dstV.any busyV ||
  n.reads.any (fun x => ws.any (fun r => granMeet x (r.lo, r.hi))) ||
  n.writes.any (fun x => live.any (fun r => granMeet x (r.lo, r.hi))) ||
  (!n.writes.isEmpty && decide (8 ≤ live.length)) ||
  (opClass w = 4 && opCode w = 1 && yFENCE w &&
    (!ws.isEmpty || (coreOf s core).mq.any (fun m => m.thr = thr)))

/-- The job-relative object and the operand of a Y-format instruction (R126, R137). -/
def yArgs (s : State) (j : Job) (k : Nat) (ix : Bool) (w : W64) : Option Nat × Nat :=
  let sv := (sreg s k (ySV w)).toNat
  (if ix then absObj s j sv else absObj s j (yOBJ w), if ix || yIMM w then yImm20 w else sv)

/-- The cc from which the scoreboard no longer holds a Y-format wait: its registers are there, and it is the thread's next
instruction (R116, R121). -/
def waitFrom (s : State) (core k : Nat) (th : Thread) (ix : Bool) (w : W64) : Nat :=
  (needsOf s core k ix w).srcS.foldl (fun m r => if r = 0 then m else max m (tget s.sbusy (k * 64 + r) 0)) th.readyAt

/-- A Y-format wait's condition has held in no cc since the scoreboard let it go: one that has held once lets it proceed (R116,
R137, R138, R140). -/
def waiting (s : State) (j : Job) (core k : Nat) (th : Thread) (t : Nat) (ix : Bool) (w : W64) : Bool :=
  if opClass w = 4 ∧ (opCode w = 2 ∨ opCode w = 3) then
    match yArgs s j k ix w with
    | (some obj, v) =>
      !((valuesSeen s obj core (waitFrom s core k th ix w) t).any (fun x => if opCode w = 2 then decide (v ≤ x) else x = v))
    | (none, _) => false
  else false

/-- The issue map gives a cc to a job (R119); DRAIN and RELEASE issue in any cc. -/
def mapAllows (s : State) (core slot t : Nat) (w : W64) : Bool :=
  let c := coreOf s core
  if opClass w = 0 ∧ opCode w ≠ 1 then true
  else if c.imap.isEmpty then true
  else match c.imap[(t - s.mer.at_) % 64]? with
    | some i => c.jobs[i]? = some slot
    | none => true

/-- The unit or queue that an instruction needs is busy (R103, R132). -/
def unitBusy (s : State) (core t : Nat) (w : W64) : Bool :=
  let c := coreOf s core
  match opClass w, opCode w with
  | 0, 1 => c.mac.isSome || decide (t < c.opeFree) || decide (t < (c.drained[tBANK w]?).getD 0)
  | 0, 2 => c.mac.any (fun m => m.bank = tBANK w) || decide (t < (c.readable[tBANK w]?).getD 0) || decide (t < c.portFree)
  | 3, _ => decide (64 ≤ c.mq.length)
  | _, _ => false

/-- The state code of a context at a cc (R116): the order is hazard, sync, unit. -/
def thrState (s : State) (core thr t : Nat) : Nat :=
  let k := thrKey core thr
  match look s.threads k with
  | none => 0
  | some th =>
    if th.state ≠ 1 then th.state else
    match look s.jobs th.slot with
    | none => 0
    | some j =>
      match (programOf s j core)[th.pc]? with
      | none => 1
      | some w =>
        let ix := indexedAt s j core th.pc
        if hazard s core thr t ix w then 2
        else if waiting s j core k th t ix w then 3
        else if unitBusy s core t w || !mapAllows s core th.slot t w then 4
        else 1

/-- The class of a thread's next instruction, and the object that it waits on where it is in WAIT-SYNC (R116, R137). -/
def nextClass (s : State) (core thr : Nat) : Nat :=
  match (look s.threads (thrKey core thr)).bind (fun th => (look s.jobs th.slot).bind (fun j => (programOf s j core)[th.pc]?)) with
  | some w => opClass w
  | none => 15

def waitsOn (s : State) (core thr t : Nat) : Option Nat :=
  if thrState s core thr t ≠ 3 then none else
  (look s.threads (thrKey core thr)).bind (fun th => (look s.jobs th.slot).bind (fun j =>
    ((programOf s j core)[th.pc]?).bind (fun w => (yArgs s j (thrKey core thr) (indexedAt s j core th.pc) w).1)))

end Sys2Proof.Machine
end

