-- ==== Sys2Proof/Machine/Clock.lean ====
section
/-! DEFINITION. How the clock moves on: what elapses between two commands is counted, and the rows of weight streams are
read in the burst periods of their plan (spec/05 R142; spec/08 R196, R199; spec/10 R256, R272). -/

namespace Sys2Proof.Machine

/-! ### Rows of weight streams (R199) -/

/-- The stream entry of a running stream. -/
def streamEntry (s : State) (r : StreamRun) : Option (Job × StreamEntry) :=
  match look s.jobs r.slot with
  | none => none
  | some j => match imageOf s j with
    | none => none
    | some p => (p.streams[r.entry]?).map (fun e => (j, e))

/-- The cc after the burst period in which a plan's grant order reads a row (R191, R196, R199). -/
def rowReadAt (r : StreamRun) (e : StreamEntry) (row : Nat) : Nat := r.at_ + 33 * ((e.reads[row]?).getD 0 + 1)

/-- Rows that one delivery carries: two in L4 (R199); slots that it fills: two in L16 (R90). -/
def rowsPer (e : StreamEntry) : Nat := if e.mode = 0 then 2 else 1
def slotsPer (e : StreamEntry) : Nat := if e.mode = 2 then 2 else 1

/-- The next row's masters come into the stream buffer, as they stand when the row is read (R199; log 23). -/
def readRow (t : Nat) (s : State) (r : StreamRun) : StreamRun :=
  match streamEntry s r with
  | none => r
  | some (j, e) =>
    let ps := placesOf s j.tenant [] (e.va + r.next * e.stride) 512 false
    if r.next < e.rows ∧ r.next < r.row + 32 ∧ rowReadAt r e r.next ≤ t ∧ (tiersOff ps).isEmpty then
      { r with next := r.next + 1, buf := r.buf ++ [readPlaces s ps []] }
    else r

/-- The rows that are read by a cc: at most the 32 that the buffer holds. -/
def readRows (t : Nat) (s : State) : State :=
  { s with stks := tmap s.stks (fun _ k => { k with
      streams := k.streams.map (fun r => (List.range 32).foldl (fun r _ => readRow t s r) r) }) }

/-! ### Holds (R107, R199) -/

def slotKey (core i : Nat) : Nat := core * 256 + i % 256

/-- The state of a slot: 0 free, 1 valid, 2 discard-pending, 3 lost (R90, R98, R108). -/
def slotState (s : State) (core i : Nat) : Nat := ((look s.slots (slotKey core i)).map (·.state)).getD 0

/-- A slot that no row can be written into. -/
def slotFull (s : State) (core i : Nat) : Bool := slotState s core i = 1 || slotState s core i = 3

/-- RING_WR of a core, the next slot a stream will write: where several streams write one ring, the slot after the last one that
any of them has passed, or the first of the one that started last (DESIGN CHOICE, log 42: R112 does not say). -/
def passRing (core i : Nat) (s : State) : State := modCore core (fun c => { c with ringWr := i % 256 }) s

/-- The slot of a stream's next row at its own destinations. -/
def nextSlot (e : StreamEntry) (r : StreamRun) : Nat := e.firstSlot + r.row / rowsPer e * slotsPer e

/-- The cores whose full ring holds a stream's next row: none where the stream is shared between jobs (R107, R108). -/
def heldBy (s : State) (r : StreamRun) : List Nat :=
  match streamEntry s r with
  | none => []
  | some (_, e) =>
    if e.shared || !r.bound.isEmpty || decide (r.next ≤ r.row) then []
    else e.dests.filter (fun c => (List.range (slotsPer e)).any (fun q => slotFull s c (nextSlot e r + q)))

/-- The same for the MSTREAM in front of a core's queue. -/
def copyHeldBy (s : State) (m : MOp) : List Nat :=
  if m.stream ∧ 0 < m.left then m.dests.filter (fun c => slotFull s c m.first) else []

/-- Streams that hold before a cc: the cc from which each holds, its stack, and the cores that hold it. -/
def holds (t : Nat) (s : State) : List (Nat × Option Nat × List Nat) :=
  let engines : List (Nat × Option Nat × List Nat) :=
    (s.stks.map (fun k => k.2.streams.map (fun r => (max s.now r.due, some k.1, heldBy s r)))).flatten
  let copies : List (Nat × Option Nat × List Nat) :=
    s.cores.filterMap (fun c => c.2.mq.head?.map (fun m => (max s.now m.due, none, copyHeldBy s m)))
  (engines ++ copies).filter (fun h => decide (h.1 < t) && !h.2.2.isEmpty)

/-- The first cc of some holds. -/
def firstOf (t : Nat) (hs : List (Nat × Option Nat × List Nat)) : Nat := hs.foldl (fun m h => min m h.1) t

/-- Count the cc in which streams hold, at their engine and at the cores that hold them; each cc moves the stream's later
rows back by one (R107, R112, R199). -/
def countHolds (t : Nat) (s : State) : State :=
  let hs := holds t s
  if hs.isEmpty then s else
  let s' := (hs.filterMap (·.2.1)).eraseDups.foldl (fun s k =>
    bump (0x400040 + 0x10000 * k) 32 (t - firstOf t (hs.filter (fun h => h.2.1 = some k))) s) s
  let s' := ((hs.map (·.2.2)).flatten).eraseDups.foldl (fun s c =>
    bump (0x100000 + 0x10000 * c + 0x3014) 32 (t - firstOf t (hs.filter (fun h => h.2.2.contains c))) s) s'
  { s' with
    stks := tmap s'.stks (fun _ k => { k with
      streams := k.streams.map (fun r => if (heldBy s r).isEmpty then r else { r with due := max r.due t }) })
    cores := tmap s'.cores (fun _ c => match c.mq with
      | m :: r => if (copyHeldBy s m).isEmpty then c else { c with mq := { m with due := max m.due t } :: r }
      | [] => c) }

/-! ### Waits of threads (R142) -/

/-- A thread of a core is in a waiting state at a cc, and no thread of its job issued in its class then (R142). -/
def waitsAt (s : State) (core st c : Nat) : Bool :=
  let k := coreOf s core
  s.threads.any (fun e => e.1 / 128 = core && e.2.state = 1 && decide (e.2.readyAt ≤ c) &&
    thrState s core (e.1 % 128) c = st &&
    !((k.issued[nextClass s core (e.1 % 128)]?).getD 0 = c + 1 && (k.issuer[nextClass s core (e.1 % 128)]?).getD 0 = e.2.slot))

/-- Count the cc from now up to a cc in which threads of a core waited: CORE_WAIT_HAZARD, _SYNC and _UNIT (R142). -/
def countWaits (t core : Nat) (s : State) : State :=
  if s.threads.all (fun e => e.1 / 128 ≠ core || e.2.state ≠ 1) then s else
  [2, 3, 4].foldl (fun s' st =>
    let n := ((List.range (t - s.now)).filter (fun i => waitsAt s core st (s.now + i))).length
    bump (0x100000 + 0x10000 * core + 0x4028 + 4 * (st - 2)) 32 n s') s

/-! ### Waits for pages (R256, R257, R272) -/

/-- The copies that wait for pages: (job slot, tiers). -/
def waitingCopies (s : State) : List (Nat × List Nat) :=
  ((s.cores.map (fun c => c.2.mq.map (fun m => (m.slot, (waitsOf (m.sp ++ m.dp)).map (·.2.2))))).flatten).filter
    (fun x => !x.2.isEmpty)

/-- Rows of weight streams whose cc has come by `t` and whose pages are not in HBM: (tier, cc) (R257). -/
def waitingRows (t : Nat) (s : State) : List (Nat × Nat) :=
  (s.stks.map (fun k => (k.2.streams.map (fun r => match streamEntry s r with
    | some (j, e) =>
      if r.next < e.rows ∧ r.next < r.row + 32 ∧ rowReadAt r e r.next ≤ t then
        (tiersOff (placesOf s j.tenant [] (e.va + r.next * e.stride) 512 false)).map (fun x => (x, rowReadAt r e r.next))
      else []
    | none => [])).flatten)).flatten

/-- Places of a stack-engine entry of one phase. -/
def entryPlaces (s : State) (j : Job) (e : SeEntry) : List (Place × Nat) :=
  let at_ := fun (va n : Nat) => placesOf s j.tenant [] va n false
  match e.op with
  | 2 => at_ e.srcVa (2 * e.count) ++ at_ (e.va / 2 * 2) (2 * e.count)
  | 4 => at_ e.srcVa (elemBytes e.srcFmt e.count) ++ at_ e.va (min e.alloc (packMax 0 e))
  | 5 => at_ e.srcVa e.alloc ++ at_ e.va e.count
  | 6 => at_ e.va e.count
  | _ => []

/-- Entries of running segments whose start has come by `t` and whose pages are not in HBM, updates among them: (tier, cc) (R257). -/
def waitingEntries (t : Nat) (s : State) : List (Nat × Nat) :=
  (s.jobs.map (fun x => (x.2.busy.map (fun b => match (imageOf s x.2).bind (fun p => p.se[b.1]?) with
    | some e =>
      let c := b.2 + 33 * e.startBp
      if t < c ∨ x.2.phase ≠ 1 then []
      else if e.op = 3 then
        if s.upds.any (fun u => u.2.slot = x.1 && u.2.entry = b.1 && u.2.status = 1) then [] else
        match descOf s e.object with
        | some d => (partWaits s d e).map (fun w => (((look s.objs w.1).map (·.home)).getD 1, c))
        | none => []
      else (tiersOff (entryPlaces s x.2 e)).map (fun k => (k, c))
    | none => [])).flatten)).flatten

/-- Tiers on whose pages some access waits by `t`, each with the cc from which it does: a copy, a packet held for paging, a read
of BAR4, a row of a stream, an entry or an update of a stack engine. -/
def stalledTiers (t : Nat) (s : State) : List (Nat × Nat) :=
  (((waitingCopies s).map (·.2)).flatten ++ (s.holds.filter (fun h => !h.2.pages.isEmpty)).map (·.2.tier) ++
    (s.pcie.reads.map (fun r => if r.2.1 = 0 then [] else
      (waitsOf (placesOf s (r.2.1 - 1) [] r.2.2.1 r.2.2.2.1 false)).map (·.2.2))).flatten).map (fun k => (k, s.now)) ++
  waitingRows t s ++ waitingEntries t s

/-- A flush, a copy home or a write in place waits for the vault's erased superblocks (R269). -/
def flashWaits (s : State) : Bool :=
  hasVault s && (!s.vault.ready || (openBlock s).isNone) &&
  (s.frames.any (fun f => (look s.objs f.2.obj).any (fun o => o.home = 2 && ((o.policy = 3 && f.2.state = 2 && f.2.dirty) ||
      (f.2.state = 4 && !f.2.copied)))) ||
   s.cores.any (fun c => c.2.mq.any (fun m => (waitsOf m.dp).contains (0, 0, 2))))

/-- What traffic that waits to go asks for: fill, scrub's and the movers' copies to lower tiers, and accesses of BAR4 that are held;
(tenant, resource, direction) (R46, R196, R214, R255). -/
def openWaits (s : State) : List (Option Nat × Nat × Nat) :=
  let asks := fun (t : Option Nat) (src dst : List (Place × Nat)) => (outsideAsks 0 src dst).map (fun a => (t, a.1, a.2.1))
  let fills : List (Option Nat × Nat × Nat) := (s.stks.filter (fun k => !k.2.fill.isEmpty)).map (fun k => (none, 2 + k.1, 0))
  let homes : List (List (Option Nat × Nat × Nat)) := s.frames.map (fun f => match look s.objs f.2.obj with
    | some o =>
      if f.2.state = 4 ∧ ¬ f.2.copied then
        asks none [(.hbm (f.1 * 65536) f.1, pageBytes o.psize)] [(lowerPlace o f.2.page 0, pageBytes o.psize)]
      else []
    | none => [])
  let reads : List (List (Option Nat × Nat × Nat)) := s.pcie.reads.map (fun r =>
    if r.2.1 = 0 then asks none [(.hbm r.2.2.1 0, r.2.2.2.1)] [(.host 0, r.2.2.2.1)]
    else asks (some (r.2.1 - 1)) (placesOf s (r.2.1 - 1) [] r.2.2.1 r.2.2.2.1 false) [(.host 0, r.2.2.2.1)])
  (fills ++ homes.flatten ++ reads.flatten).eraseDups

/-- Count the cc in which accesses wait on pages, by tier and by job, and those in which writes wait for the vault or accesses
for a strip, by resource (R211, R269, R272). -/
def countStalls (n : Nat) (s : State) : State :=
  let s := if flashWaits s then bump (rkey 0x500184 21) 32 n s else s
  let s := (stripStalls s).foldl (fun s k => bump (rkey 0x500184 (2 + k)) 32 n s) s
  let s := (openWaits s).foldl (fun s k => let m := closedCc s k.1 k.2.1 k.2.2 s.now (s.now + n)
    if m = 0 then s else bump (rkey 0x500184 k.2.1) 32 m s) s
  let st := stalledTiers (s.now + n) s
  let s' := (st.map (·.1)).eraseDups.foldl (fun s' k =>
    let from_ := st.foldl (fun m x => if x.1 = k then min m (max s.now x.2) else m) (s.now + n)
    bump (rkey 0x500104 k) 32 (s.now + n - from_) s') s
  ((waitingCopies s).map (·.1)).eraseDups.foldl (fun s k => bump (rkey 0x500214 k) 32 n s) s'

/-! ### Waits of the correlator (R279, R293) -/

def edgeKey (slot q : Nat) : Nat := slot * 64 + q

/-- The cc up to t in which an operation of a job waits for a contribution, or, armed, for its gate (R279). -/
def corWaits (t : Nat) (s : State) (j : Job) : Nat :=
  let es := j.cor.filterMap (fun r => ((imageOf s j).bind (fun p => p.cor[r.op]?)).map (fun e => (r, e)))
  let starts := es.filterMap (fun x =>
    if x.1.phase = 1 ∧ x.1.waits then some s.now
    else if x.1.phase = 0 ∧ j.phase = 1 ∧ x.2.gateVal ≠ 0 then some (max s.now (j.segAt + x.2.armCc))
    else none)
  starts.foldl (fun n a => max n (t - a)) 0

/-- Edges on which a QSEND of a job holds for credit (R293). -/
def creditHeld (s : State) (j : Job) : List Nat :=
  (j.cor.filterMap (fun r => if r.phase = 1 ∧ 0 < r.held then ((imageOf s j).bind (fun p => p.cor[r.op]?)).map (·.queue) else none)).eraseDups

/-- Count the waits and the credit stalls of every job's operations up to a cc (R279, R293). -/
def countCor (t : Nat) (s : State) : State :=
  s.jobs.foldl (fun s e =>
    if e.2.aborted.isSome then s else
    let w := corWaits t s e.2
    let qs := creditHeld s e.2
    let n := t - s.now
    let s := if w = 0 then s else bump (rkey 0x600108 e.1) 32 w s
    let s := if qs.isEmpty then s else bump (rkey 0x60010C e.1) 32 n s
    qs.foldl (fun s q => bump (rkey 0x600210 (edgeKey e.1 q)) 32 n s) s) s

/-! ### Pauses (R311) -/

/-- Count the cc up to a cc in which some priority of each sub-port is paused, a cc in which several are counted once
(R311). -/
def countPauses (t : Nat) (s : State) : State :=
  s.ports.foldl (fun s e =>
    let last := e.2.paused.foldl (fun m x => max m (min t x.2)) s.now
    if last = s.now then s else bump (0x700030 + 0x1000 * (e.1 / 4) + 4 * 17) 32 (last - s.now) s) s

/-! ### The clock -/

/-- Count the cc in which command fetching waits for signing (R442, R446). -/
def countFetch (n : Nat) (s : State) : State :=
  if 61440 < s.pho.queue.length then { s with pho := { s.pho with fetchWait := s.pho.fetchWait + n } } else s

/-- Time passes up to a cc: rows are read and what elapses is counted. -/
def advance (t : Nat) (s : State) : State :=
  if t ≤ s.now then s else
  let s' := countHolds t (readRows t s)
  let s' := (s'.cores.map (·.1)).foldl (fun s c => countWaits t c s) s'
  { countCor t (countFetch (t - s.now) (countStalls (t - s.now) (countPauses t s'))) with now := t }

end Sys2Proof.Machine
end

