-- ==== Sys2Proof/Machine/Acks.lean ====
section
/-! DEFINITION. Outcomes of received packets and their acknowledgement (spec/13 R345, R355), and remote operations on sync
objects as they apply (R364, R365). -/

namespace Sys2Proof.Machine

def modCtx (i : Nat) (f : Ctx → Ctx) (s : State) : State := { s with ctxs := tmod s.ctxs i f }

/-- PSNs modulo 2^24. -/
def psnAdd (p n : Nat) : Nat := (p + n) % 2 ^ 24
def psnSub (p q : Nat) : Nat := (p + 2 ^ 24 - q % 2 ^ 24) % 2 ^ 24

/-! ### Acknowledgements (R345, R355) -/

/-- The context a DCID names, where index and generation agree. -/
def ctxNamed (s : State) (dcid : Nat) : Option (Nat × Ctx) :=
  match look s.ctxs (dcid % 2 ^ 24) with
  | some c => if c.gen = dcid / 2 ^ 24 % 256 then some (dcid % 2 ^ 24, c) else none
  | none => none

/-- A frame that transport control sends by itself: 420 cc from what it reports to the first bit at the pin (R365; log 36). -/
def controlFrame (s : State) (f : TxFrame) : TxFrame := { f with readyAt := s.now + 420 }

/-- Outcomes recorded at or above CUM, as an ACK reports them. -/
def ackFrame (s : State) (c : Ctx) : TxFrame :=
  let sack := (c.outcomes.filter (fun o => psnSub o.1 c.cum < 1025 && o.1 ≠ c.cum)).map (fun o => psnSub o.1 c.cum - 1)
  let bad := (c.outcomes.filter (fun o => o.2 ≠ 0 && decide (psnSub o.1 c.rxSbase < 2 ^ 23))).map (fun o => (o.1, o.2))
  -- lowest PSN first, counted from the SBASE last received
  let errs := (bad.filter (fun o => c.rxSbase ≤ o.1) ++ bad.filter (fun o => o.1 < c.rxSbase)).take 8
  controlFrame s (express (bftLen 168 0) (.ack c.peerCtx c.cum c.sbase (ctxSeg s c) (min c.ceRx 65535) sack errs) c.port)

/-- Send an ACK. -/
def sendAck (i : Nat) (s : State) : State :=
  match look s.ctxs i with
  | none => s
  | some c =>
    originateBft c.peer (ackFrame s c) { s with ctxs := tput s.ctxs i { c with unreported := 0, ceRx := 0 } }

/-- Advance CUM over outcomes, and drop what lies below the sender's SBASE. -/
def advanceCum : Nat → Ctx → Ctx
  | 0, c => c
  | n + 1, c => if (look c.outcomes c.cum).isSome then advanceCum n { c with cum := psnAdd c.cum 1 } else c

/-- PSNs gain their outcome, 0 applied or an error code, and an ACK is sent where R355 asks for it. -/
def outcome (i psn n code : Nat) (ackReq : Bool) (s : State) : State :=
  match look s.ctxs i with
  | none => s
  | some c =>
    let c := { c with
      outcomes := (List.range n).foldl (fun m k => tput m (psnAdd psn k) code) c.outcomes
      unreported := c.unreported + 1
      ackAt := if c.unreported = 0 then s.now else c.ackAt }
    let c := advanceCum 1025 c
    let c := { c with
      outcomes := c.outcomes.filter (fun o => decide (psnSub o.1 c.rxSbase < 2 ^ 23))
      atomics := c.atomics.filter (fun o => decide (psnSub o.1 c.cum < 1024) || decide (psnSub c.cum o.1 ≤ 2 ^ 23)) }
    let s := { s with ctxs := tput s.ctxs i c }
    let s := match code with
      | 2 => bftCount 9 s | 3 => bftCount 10 s | 4 => bftCount 11 s | 5 => bftCount 12 s
      | 7 => bftCount 13 s | 8 => bftCount 7 s | _ => s
    if code ≠ 0 ∨ ackReq ∨ cfg s 0x800018 16 6 ≤ c.unreported then sendAck i s else s

/-- The same for a packet that was received, where its context still stands. -/
def outcomeOf (dcid psn n code : Nat) (ackReq : Bool) (s : State) : State :=
  match ctxNamed s dcid with
  | some (i, _) => outcome i psn n code ackReq s
  | none => s

/-! ### The ingress buffer of a sub-port (R311) -/

/-- A PFC frame: the quanta of one priority. -/
def pfcFrame (prio quanta : Nat) : TxFrame :=
  { express 64 (.pfc prio quanta) with ether := 0x8808, mac := 0x0180C2000001, csum := false }

/-- A frame leaves the ingress buffer of its priority: XON as an enabled one falls below 64 KiB (R311). -/
def ingressFalls (code prio n : Nat) (s : State) : State :=
  let p := portOf s code
  let held := tget p.ingress prio 0 - n
  let s := modPort code (fun p => { p with ingress := tset p.ingress prio held 0 }) s
  if p.xoff.contains prio ∧ held < 65536 then
    queueTx code (pfcFrame prio 0) (modPort code (fun p => { p with xoff := p.xoff.filter (· ≠ prio) }) s)
  else s

/-! ### Work-request tables and triggers (R137, R362) -/

/-- Write the STATUS of a job's work request in its table (R362, R363). -/
def wrStatus (slot handle st err : Nat) (s : State) : State :=
  match look s.jobs slot with
  | none => s
  | some j =>
    writeVa noFar j.tenant [] (j.block.wrt + 64 * handle + 52) (leBytes 1 st ++ leBytes 1 err) s

/-- A revocation whose admitted accesses have all ended completes, and its reply is sent, in the cc after (R350). -/
def revokeDone (idx : Nat) (s : State) : State :=
  match look s.regions idx with
  | none => s
  | some r =>
    let s := irqSet 0x800384 2 { s with regions := tput s.regions idx { r with valid := false, revoking := false, cmd := none } }
    match r.cmd with | some c => done c r.gen s | none => s

/-- Attach a trigger: at most four per object, and a handle within the owner's work-request table (R137, R362); the
entry's STATUS then reads armed (DEDUCED, log 13). -/
def armOn (obj threshold handle : Nat) (s : State) : Bool × State :=
  match look s.sync obj with
  | none => (false, s)
  | some o =>
    let len := ((look s.jobs o.owner).map (fun j => j.block.wrEntries)).getD 0
    if 4 ≤ o.trigs.length ∨ len ≤ handle then (false, s)
    else
      let t : Trigger := { threshold, handle, slot := o.owner, armedAt := s.now }
      (true, wrStatus o.owner handle 1 0 { s with sync := tput s.sync obj { o with trigs := o.trigs ++ [t] } })

/-! ### Remote operations on sync objects (R364) -/

/-- Apply an admitted SYNC packet to its object (R364): ADD, RESET or ARM; its PSN then has its outcome (R355). -/
def applySync (p : HeldPkt) (s : State) : State :=
  let fin := fun code s => outcomeOf p.hdr.dcid p.hdr.psn 1 code (bitOf p.hdr.flags 2) s
  match look s.sync p.off, p.len with
  | none, _ => fin 4 s
  | some _, 1 => fin 0 (signalAdd p.off p.op1 300 s)
  | some _, 2 => fin 0 (syncOp p.off (some (rankRemote, p.op1)) 0 300 s)
  | some o, _ =>
    if 4 ≤ o.trigs.length then fin 9 s else
    match armOn p.off p.op1 p.op2 s with
    | (true, s) => fin 0 s
    | (false, s) => fin 9 (raiseJob 0x048 o.owner s (objDie p.off))

end Sys2Proof.Machine
end

