-- ==== Sys2Proof/Machine/Transport.lean ====
section
/-! DEFINITION. What every sender of Barfeos messages shares: contexts, packets, the send window, acknowledgements and
the completion of messages with an error (spec/13 R335 to R366). -/

namespace Sys2Proof.Machine

def freshCtx : Ctx :=
  { state := 0, job := false, host := false, bigP := false, offer := false, gen := 0, peer := 0, lTenant := 0, pTenant := 0,
    jobId := 0, peerCtx := 0, incarnation := 0, nextPsn := 0, sbase := 0, cum := 0, cwnd := 0, rtoUs := 0, srtt := 0,
    rttvar := 0, outcomes := [], unreported := 0, ceRx := 0, rxSbase := 0, unacked := [], atomics := [],
    resps := [], errs := [], lastUse := 0, lastCut := 0, cwndAt := 0, ackAt := 0, tries := 0, port := 0, idle := 0 }

/-- A loaded plan of the local tenant names the context's peer (R338). -/
def planNames (s : State) (c : Ctx) : Bool :=
  s.plans.any (fun p => p.2.tenant = c.lTenant && p.2.image.groups.any (fun g => g.members.contains c.peer))

/-- A context is pinned on-die (R338). -/
def ctxPinned (s : State) (i : Nat) (c : Ctx) : Bool :=
  (ctxJob s c).isSome || planNames s c || !c.unacked.isEmpty || s.holds.any (fun h => h.2.ctx = i)

/-- Contexts held on-die. -/
def ctxCached (s : State) : Nat := (s.ctxs.filter (fun e => !e.2.host)).length

/-- Make room on-die: the least recently used unpinned context goes to host memory (R338). -/
def evictCtx (s : State) : State :=
  if ctxCached s < 16384 then s else
  let us := s.ctxs.filter (fun e => !e.2.host && !ctxPinned s e.1 e.2)
  match us.foldl (fun m e => match m with
      | none => some (e.2.lastUse, e.1)
      | some x => if e.2.lastUse < x.1 then some (e.2.lastUse, e.1) else m) none with
  | some (_, i) => bftCount 18 (modCtx i (fun c => { c with host := true }) s)
  | none => s

/-- The lowest free context index of a table (R337, R338). -/
def freeIndex (used : Tab Ctx) (n : Nat) : Option Nat :=
  (List.range (min n (used.length + 1))).find? (fun i => (look used i).isNone)

/-- Allocate a context, where one more has room on-die: the generation of its index rises by one (R337, R338). -/
def allocCtx (c : Ctx) (s : State) : Option Nat × State :=
  match freeIndex s.ctxs (max 16384 (cfg s 0x800038 0 21)) with
  | none => (none, s)
  | some i =>
    let s := evictCtx s
    if 16384 ≤ ctxCached s then (none, s) else
    let g := (tget s.ctxGen i 0 + 1) % 256
    let c := { c with gen := g, cwnd := cfg s 0x800018 0 11, rtoUs := cfg s 0x80000C 8 8, lastUse := s.now,
                      port := bftPort s, idle := cfg s 0x800004 0 16 }
    (some i, { s with ctxGen := tput s.ctxGen i g, ctxs := tput s.ctxs i c })

/-- This end's context name: index and generation. -/
def ctxName (i : Nat) (c : Ctx) : Nat := i + c.gen * 2 ^ 24

/-- The context that joins a local tenant with a peer tenant, for a job or plain (R335). -/
def findCtx (s : State) (tenant peer pTenant : Nat) (jobId : Option Nat) : Option Nat :=
  (s.ctxs.find? (fun e => (e.2.state = 1 || e.2.state = 2) && e.2.lTenant = tenant && e.2.peer = peer &&
    e.2.pTenant = pTenant && (match jobId with | some id => e.2.job && e.2.jobId = id | none => !e.2.job))).map (·.1)

/-- The CONNECT or ACCEPT frame of a context (R343). -/
def handshake (op i : Nat) (c : Ctx) (s : State) : TxFrame :=
  express (bftLen 32 0) (.bft op 0 (if op = 0x20 then 0 else c.peerCtx) 0 c.sbase (ctxSeg s c)
    [ctxName i c, s.boot.incarnation, c.lTenant, c.pTenant, c.jobId, if c.job then 1 else 0, if c.offer then 1 else 0]
    none []) c.port

/-- This end offers 8,192 bytes to a peer: PAYLOAD is set, and every sub-port of the peer's routing entry takes frames of 8,320
bytes (R340). -/
def offersBig (s : State) (peer : Nat) : Bool :=
  cfg s 0x800000 16 1 = 1 && (hopsOf s peer).all (fun h => decide (8320 ≤ cfg s (0x700004 + 0x1000 * (h.2.1 / 4)) 0 14))

/-- Open a connection: a context in CONNECTING and a CONNECT frame (R336). -/
def openCtx (tenant peer pTenant : Nat) (jobId : Option Nat) (s : State) : Option Nat × State :=
  match findCtx s tenant peer pTenant jobId with
  | some i => (some i, s)
  | none =>
    let c := { freshCtx with
      state := 1, job := jobId.isSome, offer := offersBig s peer, peer, lTenant := tenant, pTenant,
      jobId := jobId.getD 0 }
    match allocCtx c s with
    | (some i, s) =>
      let c := (look s.ctxs i).getD c
      (some i, originateBft peer (handshake 0x20 i c s) s)
    | (none, s) => (none, s)

/-! ### Sending packets -/

/-- Length of an operation header (R343). -/
def hdrLen (op : Nat) : Nat :=
  match op with
  | 1 => 16 | 2 => 16 | 3 => 8 | 4 => 32 | 5 => 8 | 6 => 24 | 7 => 32 | 0x10 => 168 | 0x11 => 8 | _ => 0

/-- Payload bytes of a connection (R340): 8,192 once both ends of it have offered them. -/
def payload (c : Ctx) : Nat := if c.bigP ∧ c.state ≠ 1 then 8192 else 4096

/-- A number of a packet's operation header; of a READ_REQ the fourth counts its PSN from the request's first. -/
def TxPkt.field (p : TxPkt) (i : Nat) : Nat := (p.hdr[i]?).getD 0

/-- The operation header of a packet: a READ_REQ asks for the bytes of n packets from its own on (R343, R356). -/
def pktHdr (c : Ctx) (p : TxPkt) (n : Nat) : List Nat :=
  if p.opcode = 2 then
    let at_ := p.field 3 * payload c
    [p.field 0, p.field 1 + at_, min (n * payload c) (p.field 2 - at_)]
  else p.hdr

/-- The frame of a packet in its class (R312, R340), at the pin once it has come from its source (R365). A packet that a plan
schedules has its slot at that cc (R314, R358). -/
def pktFrame (s : State) (c : Ctx) (p : TxPkt) (n : Nat) : TxFrame :=
  let len := bftLen (hdrLen p.opcode) p.data.length
  let flags := p.flags + (if p.retx then 8 else 0)
  let m : Msg := .bft p.opcode flags c.peerCtx p.psn c.sbase p.seg (pktHdr c p n) p.cor p.data
  let f := match p.cor with
    | some h =>
      if h.kind ∈ [6, 7, 8] then express len m c.port
      else { classP2 s c.lTenant c.port len m with group := 1, pcp := 4, dscp := 34, planCc := s.now + p.path }
    | none => if p.opcode = 6 then express len m c.port else classP2 s c.lTenant c.port len m
  { f with tenant := some c.lTenant, readyAt := s.now + p.path }

/-- The packets that leave as one: a packet alone, or the PSNs of a READ_REQ from one on that wait alike for their answers
(R343, R353, R356). -/
def runOf (c : Ctx) (p : TxPkt) : List TxPkt :=
  if p.opcode = 2 then
    (c.unacked.filter (fun q => decide (psnSub q.psn p.psn < 256))).foldl (fun l q =>
      if psnSub q.psn p.psn = l.length ∧ q.opcode = 2 ∧ q.msg = p.msg ∧ q.hdr.take 3 = p.hdr.take 3 ∧ q.sent = p.sent ∧
        (q.sent = false ∨ q.sentAt = p.sentAt) then l ++ [q] else l) []
  else [p]

/-- Put a packet of a context onto its way, a READ_REQ for a number of PSNs: those that leave first are given out (R354). -/
def sendRun (i psn n : Nat) (s : State) : State :=
  match look s.ctxs i with
  | none => s
  | some c =>
    match c.unacked.find? (·.psn = psn) with
    | none => s
    | some p =>
      let s := if p.sent then bftCount 2 s else s
      let c' := { c with
        unacked := c.unacked.map (fun q => if psnSub q.psn psn < n then
          { q with retx := q.sent, sent := true, sentAt := s.now, lead := psn, rnr := q.rnr.map (fun x => (x.1, 2 ^ 64)) } else q)
        nextPsn := if p.sent then c.nextPsn else psnAdd psn n
        lastUse := s.now }
      originateBft c.peer (pktFrame s c { p with retx := p.sent } n) { s with ctxs := tput s.ctxs i c' }

/-- Send a packet, or the READ_REQ that begins with it. -/
def sendPkt (i psn : Nat) (s : State) : State :=
  match (look s.ctxs i).bind (fun c => (c.unacked.find? (·.psn = psn)).map (fun p => (runOf c p).length)) with
  | some n => sendRun i psn n s
  | none => s

/-- How many PSNs a packet may give out now, where it may leave: within the window and, where no plan schedules it, the
congestion window; a READ_REQ goes whole, or, with nothing outstanding, as far as the window holds it (R354, R358). -/
def mayLeave (s : State) (c : Ctx) (p : TxPkt) : Option Nat :=
  let n := (runOf c p).length
  let room := cfg s 0x800018 0 11 - psnSub p.psn c.sbase
  if c.state ≠ 2 ∨ c.host ∨ p.sent ∨ room = 0 then none
  else if p.cor.isNone ∧ c.cwnd ≤ psnSub p.psn c.sbase then none
  else if n ≤ room then some n
  else if p.psn = c.sbase then some room
  else none

/-- Send what may leave, in order. -/
def pump (i : Nat) (s : State) : State :=
  ((look s.ctxs i).elim [] (fun c => (c.unacked.filter (fun p => !p.sent)).map (·.psn))).foldl (fun s psn =>
    match (look s.ctxs i).bind (fun c => (c.unacked.find? (·.psn = psn)).bind (mayLeave s c)) with
    | some n => sendRun i psn n s
    | none => s) s

/-- Packets that wait on a context take the PSNs after the last one given out, those that a plan schedules first (R354, R358). -/
def enqueue (c : Ctx) (ps : List TxPkt) : Ctx :=
  let wait := c.unacked.filter (fun p => !p.sent) ++ ps
  let wait := wait.filter (·.cor.isSome) ++ wait.filter (·.cor.isNone)
  { c with unacked := c.unacked.filter (·.sent) ++
      (List.zip wait (List.range wait.length)).map (fun x => { x.1 with psn := psnAdd c.nextPsn x.2 }) }

/-- A packet as its source gives it; PSNs used by a READ_REQ are several (R343). -/
structure Draft where
  opcode : Nat
  flags : Nat := 0
  hdr : List Nat := []
  cor : Option CorHdr := none
  data : List Byte := []
  psns : Nat := 1
  /-- cc from the send to the first bit at the pin (R59, R285, R365) -/
  path : Nat := egressCc

/-- Queue packets of one message on a context and send what may leave; a context in host memory is fetched first (R338). -/
def sendOn (i msg : Nat) (ds : List Draft) (s : State) : State :=
  match look s.ctxs i with
  | none => s
  | some c =>
    let seg := ctxSeg s c
    let ps := (ds.map (fun d => (List.range d.psns).map (fun n =>
      { psn := 0, opcode := d.opcode, flags := d.flags,
        hdr := if d.opcode = 2 then d.hdr ++ [n] else d.hdr, cor := d.cor, data := d.data,
        seg, msg, sent := false, sentAt := s.now, lead := 0, retx := false, expiries := 0, rnr := none, path := d.path }))).flatten
    pump i { s with ctxs := tput s.ctxs i (enqueue c ps) }

/-- The WRITE packets of a message (R343). -/
def writeDrafts (p key off : Nat) (final trig : Bool) (bs : List Byte) : List Draft :=
  let n := max 1 (ceilDiv bs.length p)
  (List.range n).map (fun i =>
    let d := (bs.drop (i * p)).take p
    let last := i + 1 = n
    { opcode := 1, flags := (if last && final then 1 else 0) + (if last && trig then 2 else 0),
      hdr := [key, off + i * p, d.length], data := d })

/-- The READ_REQ packets of a message: at most 256 packets of answer each. -/
def readDrafts (p key off len : Nat) (fence : Bool) : List Draft :=
  let m := 256 * p
  (List.range (max 1 (ceilDiv len m))).map (fun i =>
    let l := min m (len - i * m)
    { opcode := 2, flags := if fence then 16 else 0, hdr := [key, off + i * m, l], psns := max 1 (ceilDiv l p) })

/-- The job whose connection traffic to a peer takes: a member of its group and there the job's tenant; none for a plain
connection (R335, R363). -/
def connJob (s : State) (slot peer pTenant : Nat) : Option Nat :=
  match look s.jobs slot with
  | some j => if peer ∈ members s j ∧ pTenant = j.tenant then some j.id else none
  | none => none

/-- The connection that a job's traffic to a peer takes, where it stands: its job connection, or a plain one. -/
def routeTo (s : State) (slot tenant peer pTenant : Nat) : Option Nat :=
  match connJob s slot peer pTenant with
  | some id => (s.ctxs.find? (fun e => (e.2.state = 1 || e.2.state = 2) && e.2.job && e.2.jobId = id && e.2.peer = peer &&
      e.2.lTenant = tenant)).map (·.1)
  | none => findCtx s tenant peer pTenant none

/-! ### Errors of messages (R337, R360) -/

/-- A message completes with an error (R360); no further fault for a job that is being aborted (R366). -/
def msgError (msg code peer : Nat) (s : State) : State :=
  let id := msg / 8
  match msg % 8 with
  | 0 =>
    match s.cores.findSome? (fun c => (c.2.mq.find? (fun m => m.msg = msg)).map (fun m => m.slot)) with
    | some slot => raiseJob 0x140 slot { s with cores := tmap s.cores (fun _ c =>
        { c with mq := c.mq.filter (fun m => m.msg ≠ msg) }) } (peer % 256) (peer / 256) code
    | none => s
  | 1 =>
    match look s.works id with
    | some w =>
      let s := wrStatus w.slot w.handle 4 code { s with works := tdel s.works id }
      raiseJob 0x141 w.slot (irqSet 0x800384 8 (bftCount 22 s)) (peer % 256) (peer / 256) code
    | none => s
  | 2 => raiseJob 0x0E0 id (irqSet 0x600384 1 (bump (rkey 0x60011C id) 16 1 s))
  | 3 => raiseJob 0x140 id s (peer % 256) (peer / 256) code
  | _ => s

/-- Send a message to a peer on its job connection or on a plain one, which opens where none stands (R335, R337, R363);
where no context is free, the message completes with an error, as after a REFUSE (DESIGN CHOICE, log 7). `wait` is what its
source takes beyond the egress path (R365). -/
def sendMsg (slot tenant peer pTenant msg : Nat) (mk : Nat → List Draft) (s : State) (wait : Nat := 0) : State :=
  let mk := fun p => (mk p).map (fun d => { d with path := d.path + wait })
  match routeTo s slot tenant peer pTenant with
  | some i => sendOn i msg (mk ((look s.ctxs i).elim 4096 payload)) s
  | none =>
    match openCtx tenant peer pTenant (connJob s slot peer pTenant) s with
    | (some i, s) => sendOn i msg (mk ((look s.ctxs i).elim 4096 payload)) s
    | (none, s) => msgError msg 0 peer s

/-- Begin a page's promotion; a page of remote memory is read from its region on a plain connection of the owning
tenant (R241, R256, R335). -/
def startMove (h page : Nat) (s : State) : State :=
  let s' := promote h page s
  match look s.objs h, promoting s h page, promoting s' h page with
  | some o, none, some f =>
    let n := pageBytes o.psize
    let (c, s') := outsideGrant (some (ownerOf o)) [(lowerPlace o page 0, n)] [(.hbm (f * 65536) f, n)] s.now s'
    let s' := modFrame f (fun r => { r with touched := c }) s'
    if o.home = 3 then
      sendMsg 4096 (ownerOf o) o.module o.peer (8 * f + 4) (fun p => readDrafts p o.key (o.homeLoc + page * n) n false) s'
    else s'
  | _, _, _ => s'

/-- A message has packets without an outcome. -/
def msgOpen (s : State) (msg : Nat) : Bool := s.ctxs.any (fun e => e.2.unacked.any (·.msg = msg))

/-- The response bytes that arrived for a message, in order of their offset. -/
def collected (s : State) (msg : Nat) : List Byte :=
  let rs := (s.ctxs.map (fun e => e.2.resps.filter (fun r => r.1 = msg))).flatten
  ((rs.foldl (fun (m : Tab (List Byte)) r => tput m r.2.1 r.2.2.1) []).map (·.2)).flatten

/-- The cc by which the response bytes of a message have landed in a core store: 0 where there are none (R59, R360). -/
def landedBy (s : State) (msg : Nat) : Nat :=
  (((s.ctxs.map (fun e => e.2.resps.filter (fun r => r.1 = msg))).flatten).map (·.2.2.2)).foldl max 0

/-- A message that nobody waits for any more: its packets go on, and its responses are discarded (R263). -/
def abandon (msg : Nat) (s : State) : State :=
  { s with ctxs := tmap s.ctxs (fun _ c => { c with
      unacked := c.unacked.map (fun p => if p.msg = msg then { p with msg := 5 } else p)
      resps := c.resps.filter (fun r => r.1 ≠ msg) }) }

/-- Forget the responses of a message. -/
def forget (msg : Nat) (s : State) : State :=
  { s with ctxs := tmap s.ctxs (fun _ c => { c with resps := c.resps.filter (fun r => r.1 ≠ msg) }) }

/-! ### NAKs (R346) -/

/-- Send a NAK to the peer of a context (R343, R346). -/
def sendNak (i psn code retry : Nat) (s : State) : State :=
  match look s.ctxs i with
  | none => s
  | some c =>
    let s := if code = 1 then bftCount 14 s else if code = 6 then bftCount 8 s else s
    originateBft c.peer (controlFrame s (express (bftLen 8 0) (.bft 0x11 0 c.peerCtx psn c.sbase (ctxSeg s c) [code, retry] none []) c.port)) s

end Sys2Proof.Machine
end

