-- ==== Sys2Proof/Machine/CorBase.lean ====
section
/-! DEFINITION. What every operation of the correlator shares: its group and its frames on their paths, queue edges and their
credits, the cycles of a permute, and what arrives at its own cc (spec/11 R273 to R293). -/

namespace Sys2Proof.Machine

/-- The group of a correlator entry and this module's rank in it; that of its edge for QSEND and QRECV (R276, R292). -/
def corGroup (s : State) (j : Job) (e : CorEntry) : Group :=
  ((imageOf s j).bind (fun p =>
    p.groups[if e.op = 8 ∨ e.op = 9 then ((p.edges[e.queue]?).map (·.group)).getD e.group else e.group]?)).getD { members := [moduleId s], rank := 0 }

/-- The destination that a correlator operation writes: address and bytes (R277, R284). -/
def corDst (s : State) (j : Job) (e : CorEntry) : Nat × Nat :=
  let n := max 1 (corGroup s j e).members.length
  match e.op with
  | 1 => (e.dst, elemBytes e.outFmt e.count)
  | 2 => (e.dst, elemBytes e.outFmt (ceilDiv e.count n))
  | 3 => (e.dst, n * elemBytes e.inFmt e.count)
  | 4 => (e.dst, e.count / n * n)
  | 6 => (e.dst, e.count)
  | 9 => (e.dst, e.count)
  | _ => (e.dst, 0)

/-! ### An operation and its group -/

/-- What a correlator operation's meaning sees: job slot, job, entry, operation index and group. -/
structure Cor where
  slot : Nat
  job : Job
  e : CorEntry
  op : Nat
  ms : List Nat
  rank : Nat

/-- Members of the group. -/
def Cor.n (c : Cor) : Nat := max 1 c.ms.length

/-- The correlator operation with an index in a job's plan. -/
def corOf (s : State) (slot op : Nat) : Option Cor :=
  match look s.jobs slot with
  | none => none
  | some j =>
    match (imageOf s j).bind (fun p => p.cor[op]?) with
    | none => none
    | some e =>
      let g := corGroup s j e
      some { slot, job := j, e, op, ms := g.members, rank := g.rank }

/-- The run of an operation that a started segment armed. -/
def corRun (s : State) (slot op : Nat) : Option CorRun := (look s.jobs slot).bind (fun j => j.cor.find? (·.op = op))

def modCor (slot op : Nat) (f : CorRun → CorRun) (s : State) : State :=
  modJob slot (fun j => { j with cor := j.cor.map (fun r => if r.op = op then f r else r) }) s

/-- Key of a granule held by an operation. -/
def granKey (kind chunk gran : Nat) : Nat := (kind * 2 ^ 32 + chunk) * 2 ^ 32 + gran

def putChunk (c : Cor) (kind chunk gran : Nat) (bs : List Byte) (s : State) : State :=
  modCor c.slot c.op (fun r => { r with chunks := tput r.chunks (granKey kind chunk gran) bs }) s

/-- Every granule of a block of `bytes` is held. -/
def whole (r : CorRun) (kind chunk bytes : Nat) : Bool :=
  (List.range (ceilDiv bytes 4096)).all (fun g => (look r.chunks (granKey kind chunk g)).isSome)

/-- The bytes of a block's granules, in order. -/
def gathered (r : CorRun) (kind chunk bytes : Nat) : List Byte :=
  ((List.range (ceilDiv bytes 4096)).map (fun g => (look r.chunks (granKey kind chunk g)).getD [])).flatten

/-- The half that runs an operation (R273). -/
def Cor.half (c : Cor) (s : State) : Nat := ((imageOf s c.job).map (fun p => entryHalf s p c.e)).getD 0

/-- A correlator frame's sub-header (R274). -/
def Cor.hdr (c : Cor) (kind chunk gran : Nat) : CorHdr :=
  { jobId := c.job.id, op := c.op, seg := c.job.segs - 1, srank := c.rank, kind, granule := gran, chunk,
    step := if kind = 7 then c.job.step else 0 }

/-- Send packets of an operation to the member of a rank on its job connection (R274, R335); `wait` is what their source takes
beyond their path (R285). -/
def corSend (c : Cor) (rank : Nat) (ds : List Draft) (s : State) (wait : Nat := 0) : State :=
  match c.ms[rank]? with
  | none => s
  | some m =>
    let n := (ds.map (fun d => d.data.length)).sum
    sendMsg c.slot c.job.tenant m c.job.tenant (8 * c.slot + 2) (fun _ => ds)
      (chargeJob c.slot (30 * n) (bump (rkey 0x600110 c.slot) 64 n s)) wait

/-- The granules of a block as packets; the path of each takes what its source adds at its address (R285). -/
def granDrafts (c : Cor) (kind chunk va : Nat) (bs : List Byte) (s : State) (mark : List Nat := []) : List Draft :=
  (List.range (ceilDiv bs.length 4096)).map (fun g =>
    let d : Draft := { opcode := 7, hdr := if g = 0 then mark else [], cor := some (c.hdr kind chunk g),
                       data := (bs.drop (g * 4096)).take 4096 }
    { d with path := d.path + sourceCc s (placesOf s c.job.tenant (jobCores s c.slot) (va + g * 4096) d.data.length false) })

/-- One granule that is passed on, on the path of its turnaround (R285). -/
def granDraft (c : Cor) (kind chunk g path : Nat) (bs : List Byte) : Draft :=
  { opcode := 7, cor := some (c.hdr kind chunk g), data := bs, path }

/-- From the processing of a granule, 400 cc after its last bit, to the first bit of the reduced, and of the forwarded, granule:
1,480 and 1,120 cc in all (R285). -/
def reduceCc : Nat := 1080
def forwardCc : Nat := 720

/-- One frame without operand data: permute go and verdict 420 cc, credit 520 cc before its first bit at the pin (R285). -/
def signDraft (c : Cor) (kind chunk gran : Nat) (mark : List Nat := []) : List Draft :=
  [{ opcode := 7, hdr := mark, cor := some (c.hdr kind chunk gran), path := if kind = 8 then 520 else 420 }]

/-- Where data lands that begins at a byte of a result: X32 data that adds into an ACCUMULATE object steps by the object's own L16
values, 2 bytes for each 4 (R202, R283). -/
def landOff (c : Cor) (off : Nat) (s : State) : Nat :=
  c.e.dst + (if (accAt s c.job.tenant c.e.dst).any (·.accX) then off / 2 else off)

/-- The address of a result's lane. -/
def landAddr (c : Cor) (fmt lane : Nat) (s : State) : Nat :=
  if fmt = 3 then landOff c (elemBytes fmt lane) s else c.e.dst + elemBytes fmt lane

/-- Land a result now: its values are counted under TAG as they become usable; one that adds to a stored value which cannot be read
does not, and HBM_UE stands against the job (R165, R203, R215, R283, R284). -/
def corLand (c : Cor) (va : Nat) (bs : List Byte) (s : State) (seen : List Seen := []) (ecc : Ecc := .ok) : State :=
  let s := if seen.isEmpty then s else censusAdd c.job.tenant c.e.tag seen s
  if bs.isEmpty then s else
  let w := writeRange s c.job.tenant va bs.length
  let key := (placesOf s c.job.tenant [] w.1 w.2 true).findSome? (fun p => match p.1 with | .hbm k _ => some k | _ => none)
  match ecc, if (accAt s c.job.tenant va).isSome then key else none with
  | .ue, some k => hbmUe (k / 65536) (some c.slot) [] s
  | .ce, some k => writeVa noFar c.job.tenant (jobCores s c.slot) va bs (hbmCe (k / 2 ^ 36) s) 1
  | _, _ => writeVa noFar c.job.tenant (jobCores s c.slot) va bs s 1

/-- A result whose last granule was at the pin 400 cc ago lands 1,560 cc after it in HBM, at the end of a twilight slot, or 1,320 in
core store (R43, R283, R285). -/
def corLandLater (c : Cor) (va : Nat) (bs : List Byte) (s : State) (seen : List Seen := []) (ecc : Ecc := .ok) : State :=
  if bs.isEmpty then s else
  let ps := placesOf s c.job.tenant (jobCores s c.slot) va bs.length true
  let due := if (stacksIn ps).isEmpty then s.now + 920 else placesFree s ps (s.now + 1160)
  modCor c.slot c.op (fun r => { r with landing := r.landing + 1 })
    { s with signals := s.signals ++ [{ at_ := due, slot := c.slot, obj := c.op, src := 200, act := .land va bs seen ecc }] }

/-- Bytes of the local operand. -/
def corSrc (c : Cor) (off n : Nat) (s : State) : List Byte := readVa s c.job.tenant (jobCores s c.slot) (c.e.src + off) n

/-! ### Queue edges (R292 to R294) -/

/-- The plan's edge of an entry, and the ring's granules. -/
def edgeOf (s : State) (j : Job) (q : Nat) : Option QEdge := (imageOf s j).bind (fun p => p.edges[q]?)

def freshEdge (e : QEdge) : EdgeSt :=
  { credits := 64 + e.ringBytes / 4096, sentTotal := 0, seen := 0, freed := 0, burst := [], ring := [], lands := [], ringPut := 0,
    nextSend := 0, nextRecv := 0, creditAt := 0 }

def edgeSt (s : State) (slot q : Nat) (e : QEdge) : EdgeSt := tget s.edges (edgeKey slot q) (freshEdge e)

def setEdge (slot q : Nat) (x : EdgeSt) (s : State) : State := { s with edges := tput s.edges (edgeKey slot q) x }

/-- The credit frame of an edge: the cumulative count of granules freed, at the pin 520 cc after the change (R285, R293). -/
def sendCredit (c : Cor) (q : QEdge) (freed : Nat) (s : State) : State :=
  corSend c q.up (signDraft c 8 (freed / 2 ^ 32) (freed % 2 ^ 32))
    (setEdge c.slot c.e.queue { edgeSt s c.slot c.e.queue q with creditAt := s.now } s)

/-- A QRECV's copy has landed: its entry's granules are freed, and credits go back (R292, R293). -/
def entryFreed (c : Cor) (entry : Nat) (s : State) : State :=
  match edgeOf s c.job c.e.queue with
  | none => s
  | some q =>
    let x := edgeSt s c.slot c.e.queue q
    let keep := fun (l : List (Nat × Nat × List Byte)) => l.filter (fun g => g.1 ≠ entry)
    let x' := { x with burst := keep x.burst, ring := keep x.ring, lands := x.lands.filter (fun l => l.1 ≠ entry) }
    let n := x.burst.length + x.ring.length - (x'.burst.length + x'.ring.length)
    sendCredit c q (x.freed + n) (setEdge c.slot c.e.queue { x' with freed := x.freed + n } s)

/-! ### Permutes (R289 to R291) -/

/-- A permute table: block bytes, blocks per member, digest, and the destination slot of every slot. The header's fields
lie in its first four 8-byte words, and its group is the operation's (log 16). -/
structure Perm where
  b : Nat
  per : Nat
  digest : Nat
  dests : List Nat
  ok : Bool

/-- Split a byte string into 8-byte words. -/
def octets : List Byte → List Nat
  | a :: b :: c :: d :: e :: f :: g :: h :: r => leNat [a, b, c, d, e, f, g, h] :: octets r
  | _ => []

/-- The table at SRC, checked: a permutation of the slots whose digest is the first 8 bytes of its entries' SHA-384. -/
def permOf (c : Cor) (s : State) : Perm :=
  let h := octets (corSrc c 0 64 s)
  let per := (h[1]?).getD 0
  let bs := corSrc c 64 (8 * (c.n * per)) s
  let es := octets bs
  let ds := es.map (fun e => e % 256 * per + e / 2 ^ 32)
  { b := (h[0]?).getD 0, per, digest := (h[3]?).getD 0, dests := ds,
    ok := es.all (fun e => decide (bits e 8 24 = 0) && decide (e % 256 < c.n) && decide (e / 2 ^ 32 < per)) &&
      (List.range ds.length).all (fun i => ds.contains i) && decide ((h[0]?).getD 0 % 65536 = 0) &&
      (h[2]?).getD 0 = c.e.group && (h[3]?).getD 0 == leNat (leBytes 8 (Config.sha384 bs / 2 ^ 320)).reverse }

/-- The cycle through a slot, from that slot on. -/
def cycFrom (p : Perm) (start : Nat) : Nat → Nat → List Nat
  | 0, _ => []
  | fuel + 1, x => if x = start then [] else x :: cycFrom p start fuel ((p.dests[x]?).getD start)

def cycleOf (p : Perm) (x : Nat) : List Nat := x :: cycFrom p x p.dests.length ((p.dests[x]?).getD x)

/-- Leaders of the cycles, ascending: the lowest slot of each, fixed slots apart. -/
def leaders (p : Perm) : List Nat :=
  (List.range p.dests.length).filter (fun i => (p.dests[i]?).getD i ≠ i && (cycleOf p i).all (fun y => decide (i ≤ y)))

/-- The cycle of a slot in leader order, and the slot's place in it. -/
def cyclePos (p : Perm) (x : Nat) : Option (Nat × List Nat × Nat) :=
  (leaders p).findSome? (fun l => let cy := cycleOf p l; if cy.contains x then some (l, cy, cy.idxOf x) else none)

/-- The index of the move that fills place `i` of a cycle of `k`: 0 is the staging copy, k the last move (R290). -/
def moveInto (k i : Nat) : Nat := if i = 0 then k else k - i

/-- The member that holds a slot. -/
def holder (p : Perm) (x : Nat) : Nat := x / max 1 p.per

/-- Address of a slot's block on its member. -/
def blockVa (c : Cor) (p : Perm) (x : Nat) : Nat := Config.permuteBase c.e.src + x % max 1 p.per * p.b

/-- Address of the staging block that a cycle uses on the holder of its last slot. -/
def stageVa (c : Cor) (p : Perm) (l : Nat) : Nat := c.e.dst + (leaders p).idxOf l % 16 * p.b

def readBlock (c : Cor) (va n : Nat) (s : State) : List Byte := readVa s c.job.tenant [] va n
def writeBlock (c : Cor) (va : Nat) (bs : List Byte) (s : State) : State :=
  writeVa noFar c.job.tenant [] va bs s 1

/-- Moves of a cycle that have landed on this member: last index + 1. -/
def movesIn (s : State) (c : Cor) (l : Nat) : Nat := ((corRun s c.slot c.op).map (fun r => tget r.cyc l 0)).getD 0

/-- The cycles that have a slot on this member, in leader order, and a cycle's place among them. -/
def ownCycles (c : Cor) (p : Perm) : List Nat := (leaders p).filter (fun l => (cycleOf p l).any (fun y => holder p y = c.rank))
def cycleIdx (c : Cor) (p : Perm) (l : Nat) : Nat := (ownCycles c p).idxOf l

/-- Address of a cycle's record in the permute log: the 256 records serve the cycles that touch this member in turn (R291; DESIGN
CHOICE, log 16). -/
def logVa (c : Cor) (p : Perm) (l : Nat) : Nat := c.e.dst + 16 * p.b + cycleIdx c p l % 256 * 16

/-- A move has landed on this member: it is counted and logged (R291). -/
def landMove (c : Cor) (p : Perm) (l m : Nat) (s : State) : State :=
  let s := modCor c.slot c.op (fun r => { r with cyc := tput r.cyc l (max (tget r.cyc l 0) (m + 1)) }) s
  writeBlock c (logVa c p l) (leBytes 4 l ++ leBytes 4 m ++ leBytes 8 p.digest) (bump (rkey 0x600118 c.slot) 32 1 s)

/-- A go frame to the holder of a slot, or the go taken here (R290). -/
def goFrame (c : Cor) (p : Perm) (x : Nat) (fin : Bool) (mark : List Nat) (s : State) : State :=
  corSend c (holder p x) (signDraft c 6 (x % max 1 p.per) (if fin then 1 else 0) mark) s

/-- Every slot of a cycle from a place on lies on the member that holds its leader: no frame of the cycle has left yet. -/
def unsent (p : Perm) (l : Nat) (cy : List Nat) (i : Nat) : Bool := (cy.drop i).all (fun y => holder p y = holder p l)

/-- What a cycle's first frame carries: the digest, before any frame of the cycle (R289). -/
def firstMark (p : Perm) (l : Nat) (cy : List Nat) (i : Nat) : List Nat := if unsent p l cy i then [p.digest] else []

/-- A cycle's staging block is in use, and is free again (R290, R291). -/
def stageBlock (c : Cor) (p : Perm) (l : Nat) (s : State) : State :=
  { s with staged := s.staged.filter (fun y => !(y.1 = c.job.tenant && y.2.2.1 = stageVa c p l)) ++
      [(c.job.tenant, l, stageVa c p l, p.b)] }
def unstageBlock (c : Cor) (p : Perm) (l : Nat) (s : State) : State :=
  { s with staged := s.staged.filter (fun y => !(y.1 = c.job.tenant && y.2.2.1 = stageVa c p l)) }

/-- Another cycle's content stands in the staging block of a cycle. -/
def stageBusy (s : State) (c : Cor) (p : Perm) (l : Nat) : Bool :=
  s.staged.any (fun y => y.1 = c.job.tenant && y.2.2.1 = stageVa c p l && y.2.1 ≠ l)

/-- Cycles led here start in ascending order, up to 16 at once, but those that an interrupted run completed (R289, R291); the
starting go is a cycle's first frame where it leaves the member. What this member owes next: goes that it takes itself. -/
def startCycles (c : Cor) (p : Perm) (s : State) : List (Nat × Bool) × State :=
  match corRun s c.slot c.op with
  | none => ([], s)
  | some r =>
    let ran := fun (l : Nat) => decide ((cycleOf p l).length < movesIn s c l)
    let mine := (leaders p).filter (fun l => holder p l = c.rank)
    let ended := (mine.take r.led).filter ran
    let n := min mine.length (ended.length + 16)
    let new := ((mine.take n).drop r.led).filter (fun l => !ran l)
    let s := modCor c.slot c.op (fun r => { r with led := max r.led n }) s
    new.foldl (fun (a : List (Nat × Bool) × State) l =>
      let x := ((cycleOf p l).getLast?).getD l
      if holder p x = c.rank then (a.1 ++ [(x, false)], a.2) else (a.1, goFrame c p x false [p.digest] a.2)) ([], s)

/-- The slot that a move fills: the one after, or, from staging, the leader. -/
def moveDest (l : Nat) (cy : List Nat) (i : Nat) (fin : Bool) : Nat := if fin then l else (cy[i + 1]?).getD l

/-- What follows once a slot's content has moved: the slot before it in its cycle is told, after the leader the holder of the
staging block; a staging block that has moved is free (R290). -/
def afterMove (c : Cor) (p : Perm) (x : Nat) (fin : Bool) (s : State) : List (Nat × Bool) × State :=
  match cyclePos p x with
  | none => ([], s)
  | some (l, cy, i) =>
    if fin then ([], unstageBlock c p l s) else
    let y := if i = 0 then (cy.getLast?).getD l else (cy[i - 1]?).getD l
    if holder p y = c.rank then ([(y, decide (i = 0))], s)
    else ([], goFrame c p y (decide (i = 0)) (firstMark p l cy i) s)

/-- A block begins its move within this member, a copy in open slots: it lands once they have come and its bytes have been read and
written (R43, R46, R59, R290). -/
def copyBlock (c : Cor) (p : Perm) (x : Nat) (fin : Bool) (src dst : Nat) (s : State) : State :=
  let a := placesOf s c.job.tenant [] src p.b false
  let b := placesOf s c.job.tenant [] dst p.b true
  let (g, s) := outsideGrant (some c.job.tenant) a b s.now s
  modCor c.slot c.op (fun r => { r with moving := r.moving ++ [(x, if fin then 3 else 2)] })
    { s with signals := s.signals ++ [{ at_ := copyReady s 0 a b g, slot := c.slot, obj := c.op, src := 200, act := .move x fin }] }

/-- Where the content of a slot goes: source and destination, and the index of the move; the last slot's goes into staging (R290). -/
def moveEnds (c : Cor) (p : Perm) (x : Nat) (fin : Bool) (l : Nat) (cy : List Nat) (i : Nat) : Nat × Nat × Nat :=
  if fin then (stageVa c p l, blockVa c p l, cy.length)
  else if i + 1 = cy.length then (blockVa c p x, stageVa c p l, 0)
  else (blockVa c p x, blockVa c p (moveDest l cy i false), cy.length - 1 - i)

/-- Move a block to the holder of a slot: within this member, a copy; else its packets leave, and what follows waits for their
outcome (R290, R291). -/
def moveBlock (c : Cor) (p : Perm) (x : Nat) (fin : Bool) (y va : Nat) (mark : List Nat) (s : State) : State :=
  if holder p y = c.rank then copyBlock c p x fin va (blockVa c p y) s
  else
    modCor c.slot c.op (fun r => { r with moving := r.moving ++ [(x, if fin then 1 else 0)] })
      (corSend c (holder p y) (granDrafts c 5 (y % max 1 p.per) va (readBlock c va p.b s) s mark) s)

/-- Take one go: the content of a slot moves on, into staging for the cycle's last slot; the finishing go moves the staging block
to the leader. A slot whose new content has landed has moved before (R290, R291). -/
def takeGo (c : Cor) (p : Perm) (x : Nat) (fin : Bool) (s : State) : List (Nat × Bool) × State :=
  match cyclePos p x with
  | none => ([], s)
  | some (l, cy, i) =>
    let k := cy.length
    if fin then ([], moveBlock c p x true l (stageVa c p l) [] s)
    else if moveInto k i < movesIn s c l then afterMove c p x false s
    else if i + 1 = k then
      if stageBusy s c p l then ([], modCor c.slot c.op (fun r => { r with goes := r.goes ++ [(x, false)] }) s)
      else if 0 < movesIn s c l then afterMove c p x false (stageBlock c p l s)
      else ([], copyBlock c p x false (blockVa c p x) (stageVa c p l) (stageBlock c p l s))
    else ([], moveBlock c p x false (moveDest l cy i false) (blockVa c p x) (firstMark p l cy i) s)

/-- Take goes until none is owed here. -/
def takeGoes (c : Cor) (p : Perm) : Nat → List (Nat × Bool) → State → State
  | 0, _, s => s
  | _, [], s => (startCycles c p s).2
  | fuel + 1, (x, f) :: r, s =>
    let (more, s) := takeGo c p x f s
    let (new, s) := startCycles c p s
    takeGoes c p fuel (r ++ more ++ new) s

/-- Steps enough for every go of a table. -/
def permFuel (p : Perm) : Nat := 3 * p.dests.length + 3

/-- Packets of a move without an outcome: the block has not landed yet. -/
def moveOpen (s : State) (c : Cor) (p : Perm) (x : Nat) (fin : Bool) : Bool :=
  match cyclePos p x with
  | none => false
  | some (l, cy, i) =>
    let y := moveDest l cy i fin
    s.ctxs.any (fun e => e.2.job && e.2.jobId = c.job.id && (c.ms[holder p y]?).any (· = e.2.peer) &&
      e.2.unacked.any (fun q => q.cor.any (fun h => h.op = c.op && h.kind = 5 && h.chunk = y % max 1 p.per)))

/-- Moves whose blocks have landed, goes that waited for a staging block or for the operation to begin, and cycles that may start
are taken up. -/
def retryGoes (c : Cor) (p : Perm) (s : State) : State :=
  match corRun s c.slot c.op with
  | none => s
  | some r =>
    let gone := r.moving.filter (fun x => decide (x.2 < 2) && !moveOpen s c p x.1 (x.2 = 1))
    let s := modCor c.slot c.op (fun r => { r with goes := [], moving := r.moving.filter (fun x => !gone.contains x) }) s
    let (next, s) := gone.foldl (fun (a : List (Nat × Bool) × State) x =>
      let b := afterMove c p x.1 (x.2 = 1) a.2
      (a.1 ++ b.1, b.2)) ([], s)
    let (new, s) := startCycles c p s
    takeGoes c p (permFuel p) (r.goes ++ next ++ new) s

/-- A block's move within this member has landed (R290). -/
def moveLands (c : Cor) (p : Perm) (x : Nat) (fin : Bool) (s : State) : State :=
  match cyclePos p x with
  | none => s
  | some (l, cy, i) =>
    let e := moveEnds c p x fin l cy i
    let s := modCor c.slot c.op (fun r => { r with moving := r.moving.filter (· ≠ (x, if fin then 3 else 2)) }) s
    let s := landMove c p l e.2.2 (writeBlock c e.2.1 (readBlock c e.1 p.b s) s)
    let (next, s) := afterMove c p x fin s
    takeGoes c p (permFuel p) next s

/-- A job's PERMUTEs go on after outcomes have come (R290). -/
def permOn (slot : Nat) (s : State) : State :=
  match look s.jobs slot with
  | none => s
  | some j => (j.cor.filter (fun r => r.phase = 1 && !r.moving.isEmpty)).foldl (fun s r => match corOf s slot r.op with
      | some c => retryGoes c (permOf c s) s
      | none => s) s

/-- A block's granules are complete: it lands in its slot (R290). -/
def takeBlock (c : Cor) (p : Perm) (block : Nat) (s : State) : State :=
  let x := c.rank * p.per + block
  match corRun s c.slot c.op, cyclePos p x with
  | some r, some (l, cy, i) =>
    if r.phase ≠ 1 ∨ p.b = 0 ∨ ¬ whole r 5 block p.b then s else
    let bs := gathered r 5 block p.b
    let s := modCor c.slot c.op (fun r => { r with chunks := tclear r.chunks (granKey 5 block 0) (ceilDiv p.b 4096) }) s
    retryGoes c p (landMove c p l (moveInto cy.length i) (writeBlock c (blockVa c p x) bs s))
  | _, _ => s

/-- A block that is whole lands 1,560 cc after its last granule's last bit at the pin, after a twilight slot (R43, R285). -/
def blockLater (c : Cor) (p : Perm) (block : Nat) (s : State) : State :=
  match corRun s c.slot c.op with
  | none => s
  | some r =>
    if p.b = 0 ∨ ¬ whole r 5 block p.b then s else
    let ps := placesOf s c.job.tenant [] (blockVa c p (c.rank * p.per + block)) p.b true
    { s with signals := s.signals ++ [{ at_ := placesFree s ps (s.now + 1160), slot := c.slot, obj := c.op, src := 200,
                                        act := .block block }] }

/-- Every cycle that touches this member's slots has filled them, and what left them has landed; that the cycles are over elsewhere
too shows in no frame, but in the command that completes the operation (R290; log 16). -/
def permDone (c : Cor) (s : State) : Bool :=
  let p := permOf c s
  (leaders p).all (fun l =>
    let cy := cycleOf p l
    (List.range cy.length).all (fun i => holder p ((cy[i]?).getD l) ≠ c.rank || decide (moveInto cy.length i < movesIn s c l))) &&
  (corRun s c.slot c.op).all (fun r => r.moving.isEmpty && r.goes.isEmpty) &&
  !(s.staged.any (fun y => y.1 = c.job.tenant && decide (c.e.dst ≤ y.2.2.1) && decide (y.2.2.1 < c.e.dst + 16 * p.b)))

/-! ### Arrivals (R140, R285, R365) -/

/-- The QRECV operations of an edge that have begun. -/
def qWaiting (s : State) (slot q : Nat) : List Nat :=
  match look s.jobs slot with
  | some j => (j.cor.filter (fun r => r.phase = 1 && ((imageOf s j).bind (fun p => p.cor[r.op]?)).any (fun e => e.op = 9 && e.queue = q))).map (·.op)
  | none => []

/-- cc from a QRECV's begin to its copy in core store: 380 from the burst queue, the read count of R59 from the ring's stack (R285). -/
def recvCc (c : Cor) (q : QEdge) (ring : Bool) (s : State) : Nat :=
  if ring then
    let core := match placeCore (jobCores s c.slot) c.e.dst with | some (k, _) => k | none => 0
    readReady s core (placesOf s c.job.tenant [] q.ringVa 1 false) s.now - s.now
  else 380

/-- QRECV copies the oldest entry once it has landed whole, in the ring too; its granules are free when the copy has landed (R285,
R292). -/
def qTake (c : Cor) (s : State) : State :=
  match edgeOf s c.job c.e.queue, corRun s c.slot c.op with
  | some q, some r =>
    let x := edgeSt s c.slot c.e.queue q
    let n := ceilDiv c.e.count 4096
    let mine := (x.burst ++ x.ring).filter (fun g => g.1 = x.nextRecv)
    let onWay := x.lands.any (fun l => l.1 = x.nextRecv && decide (s.now < l.2.2))
    if r.phase ≠ 1 ∨ (look r.chunks (granKey 9 0 0)).isSome ∨ mine.length < n ∨ onWay then s else
    let bs := ((List.range n).map (fun i => ((mine.find? (fun g => g.2.1 = i)).map (·.2.2)).getD [])).flatten
    let due := s.now + recvCc c q (x.ring.any (fun g => g.1 = x.nextRecv)) s
    let s := modCor c.slot c.op (fun r => { r with landing := r.landing + 1, waits := false }) (putChunk c 9 0 0 [] s)
    let s := setEdge c.slot c.e.queue { x with nextRecv := x.nextRecv + 1 } s
    { s with signals := s.signals ++
        [{ at_ := due, slot := c.slot, obj := c.op, src := 200, act := .land c.e.dst bs [] .ok },
         { at_ := due, slot := c.slot, obj := c.op, src := 200, act := .entry c.e.queue x.nextRecv }] }
  | _, _ => s

/-- The QRECVs of an edge that have begun look for their entry. -/
def wakeQueue (slot edge : Nat) (s : State) : State :=
  (qWaiting s slot edge).foldl (fun s op => match corOf s slot op with | some c => qTake c s | none => s) s

/-- The logs of the PERMUTEs that a job's segment has completed are empty once the segment is over: every member has completed them
or the job has been aborted (R291; DESIGN CHOICE, log 16). -/
def clearLogs (slot : Nat) (s : State) : State :=
  match look s.jobs slot with
  | none => s
  | some j => (j.cor.filter (·.phase = 2)).foldl (fun s r => match corOf s slot r.op with
    | some c =>
      if c.e.op = 5 then writeBlock c (c.e.dst + 16 * (permOf c s).b) (List.replicate 4096 0) s else s
    | none => s) s

/-! ### Slips (spec/02 R51 to R57) -/

/-- Honour a slip for the coming meridian (R51, R53, R57). -/
def honour (slot : Nat) (mer : Int) (sender excess : Nat) (s : State) : State :=
  match look s.jobs slot with
  | none => s
  | some j =>
    if j.honoured.contains mer then s else
    let s := modJob slot (fun j => { j with honoured := j.honoured ++ [mer] }) s
    let s := setCtr (rkey 0x1011C slot) excess (setCtr (rkey 0x10118 slot) sender (bump (rkey 0x10104 slot) 32 1 s))
    irqSet 0x10044 2 s

/-- Request a slip for a job (R51, R54): once per meridian, whoever else asked for it; one beyond MER_SLIP_MAX in a row is not
sent, and the next meridian is an exposure overrun. -/
def requestSlip (slot excess : Nat) (s : State) : State :=
  match look s.jobs slot with
  | none => s
  | some j =>
    let mer := s.mer.count + 1
    if j.requested then s
    else if cfg s 0x10038 16 8 < j.run + 1 then modJob slot (fun j => { j with overdue := true }) s
    else
    let s := bump (rkey 0x10108 slot) 32 1 (modJob slot (fun j => { j with requested := true }) s)
    let s := honour slot mer (moduleId s) excess s
    sendSlip j 1 mer excess s

/-- The predicted finish exceeds the deadline (R50, R51): the excess. -/
def predictedExcess (s : State) (j : Job) : Int :=
  match segOf s j with
  | some g => (j.segAt : Int) + g.finish + j.lateness - j.deadline
  | none => 0

/-- A running segment whose predicted finish exceeds its deadline asks for a slip (R51). -/
def slipCheck (slot : Nat) (s : State) : State :=
  match look s.jobs slot with
  | some j =>
    if j.phase = 1 ∧ j.aborted.isNone ∧ 0 < predictedExcess s j then requestSlip slot (predictedExcess s j).toNat s else s
  | none => s

/-- A sync object's value saturated in the cc before: SYNC_SAT, recorded in the cc of its operations (R137, R138). -/
def saturated (x : Signal) (s : State) : State :=
  match look s.sync x.obj with
  | some o =>
    if o.stamp + 1 = x.at_ ∧ o.saturates then
      { raise { src := 0x047, slot := some o.owner, tenants := [o.tenant], unit := objDie x.obj } { s with now := o.stamp } with
        now := s.now }
    else s
  | none => s

/-- A signal arrives at its object, or a result of the correlator lands. -/
def arriveSignal (x : Signal) (s : State) : State :=
  match x.act with
  | .add => signalAdd x.obj 1 x.src s
  | .remote p => applySync p s
  | .slip => slipCheck x.slot s
  | .saturated => saturated x s
  | .revoked => revokeDone x.obj s
  | .left _ dcid psn n ack => outcomeOf dcid psn n 0 ack s
  | .freed dcid => match ctxNamed s dcid with
    | some (i, c) => if c.state = 3 then { s with ctxs := tdel s.ctxs i } else s
    | none => s
  | .drained code prio n => ingressFalls code prio n s
  | .land va bs seen ecc => match corOf s x.slot x.obj with
    | some c => modCor x.slot x.obj (fun r => { r with landing := r.landing - 1 }) (corLand c va bs s seen ecc)
    | none => s
  | .wake edge => wakeQueue x.slot edge s
  | .move y fin => match corOf s x.slot x.obj with
    | some c => moveLands c (permOf c s) y fin s
    | none => s
  | .entry _ n => match corOf s x.slot x.obj with
    | some c => entryFreed c n s
    | none => s
  | .block b => match corOf s x.slot x.obj with
    | some c => takeBlock c (permOf c s) b s
    | none => s

/-- A block of a PERMUTE that is whole lands although its job is aborted: HBM keeps every block (R291). -/
def landBlocks (slot : Nat) (s : State) : State :=
  (s.signals.filter (fun x => x.slot = slot && (match x.act with | .block _ => true | _ => false))).foldl
    (fun s x => arriveSignal x s) s

end Sys2Proof.Machine
end

