-- ==== Sys2Proof/Machine/Held.lean ====
section
/-! DEFINITION. Accesses outside the plans that wait for pages, strips, fills or open slots, and go on once they may: status records,
BAR4 writes and work requests (spec/08 R211, R214; spec/10 R265; spec/13 R363; spec/14 R374); the owner view's writes. -/

namespace Sys2Proof.Machine

/-- A write that leaves for another module as a message of its own. -/
def farWrite (slot tenant msg : Nat) : Bool → Nat → Nat → Nat → Nat → List Byte → State → State :=
  fun last m peer key off bs s => sendMsg slot tenant m peer msg (fun p => writeDrafts p key off last false bs) s

/-! ### The owner view (R374) -/

/-- The stacks of a mask in ascending order. -/
def maskStacks (m : Nat) : List Nat := (List.range 12).filter (fun n => bitOf m n)

/-- An owner-view key lies in the module tables: its offset in the object (R243). -/
def tableOff (s : State) (k : Nat) : Option Nat :=
  match s.tables with
  | some (_, mask) =>
    let st := k / 2 ^ 36
    let run := tableRun s st * 65536
    if k % 2 ^ 36 < run then some (((maskStacks mask).filter (· < st)).length * run + k % 2 ^ 36) else none
  | none => none

/-- An owner-view key lies in the module reserve (R192). -/
def inReserve (k : Nat) : Bool := decide (frameLimit * 65536 ≤ k % 2 ^ 36)

/-- Plain data written through the owner view: the module reserve, the module tables and stacks that are not there ignore it
(R374). -/
def ownerPut (k : Nat) (bs : List Byte) (s : State) : State :=
  ((spans k bs.length).foldl (fun (a : List Byte × State) x =>
    (a.1.drop x.2,
     if ¬ hasStack a.2 (x.1 / 2 ^ 36) ∨ inReserve x.1 ∨ (tableOff a.2 x.1).isSome then a.2
     else match frameOwner a.2 (x.1 / 65536) with
       | some (_, _, _, first) => hbmWrite x.1 first (a.1.take x.2) a.2
       | none => hbmPut x.1 (a.1.take x.2) a.2)) (bs, s)).2

/-- A write through the owner view: where it begins in an ACCUMULATE object it adds to that object's pages in its range, as
every write that reaches one does; else it replaces what it meets (R202, R374). -/
def ownerWrite (k : Nat) (bs : List Byte) (s : State) : State :=
  match frameOwner s (k / 65536) with
  | some (h, o, _, _) =>
    if o.maps.any (·.acc) then
      let ps := (spans (k / 2 * 2) ((if o.accX then bs.length / 4 else bs.length / 2) * 2)).map (fun x =>
        match frameOwner s (x.1 / 65536) with
        | some (h', _, _, first) => (if h' = h then Place.hbm x.1 first else .bad 0x0C0, x.2)
        | none => (.bad 0x0C0, x.2))
      accOver o (ownerOf o) 2 (farWrite 4096 (ownerOf o) 5) ps (accData o bs) s
    else ownerPut k bs s
  | none => ownerPut k bs s

/-- Places of a run of the owner view, for the paths that its bytes take. -/
def keyPlaces (k n : Nat) : List (Place × Nat) := (spans k n).map (fun x => (.hbm x.1 (x.1 / 65536), x.2))

/-- The host's end of an access of BAR4, at no host address of the module's own accesses. -/
def hostBar : Place := .host (2 ^ 64)
def hostEnd (n : Nat) : List (Place × Nat) := [(hostBar, n)]

/-- A run of the owner view lies in a frame that is FILLING (R214). -/
def filling (s : State) (k n : Nat) : Bool :=
  (stackOf s (k / 2 ^ 36)).fill.any (fun f => meets k (max 1 n) (f.1 * 65536) (f.2 * 65536))

/-- An access of the owner waits: for a fill, a strip, an open slot of a resource or the end of a twilight slot (R43, R46, R211,
R214). -/
def ownerWaits (s : State) (k n : Nat) (write : Bool) : Bool :=
  hasStack s (k / 2 ^ 36) && (filling s k n || stripWaitKey s k n write || !openNow s none (if write then hostEnd n else keyPlaces k n) (if write then keyPlaces k n else hostEnd n))

/-- An access of a tenant by the host waits for a strip, an open slot of a resource or the end of a twilight slot (R43, R46, R211). -/
def tenantWaits (s : State) (tenant va n : Nat) (write : Bool) : Bool :=
  let ps := placesOf s tenant [] va n write
  stripWaitVa s tenant va n write ||
  !openNow s (some tenant) (if write then hostEnd n else ps) (if write then ps else hostEnd n)

/-! ### Held writes (R211, R265, R374) -/

/-- The places that a held write of a tenant reaches, and where it comes from. -/
def heldPlaces (s : State) (t : Nat) (w : HeldWrite) : List (Place × Nat) :=
  let r := writeRange s t w.va w.data.length
  placesOf s t (jobCores s w.slot) r.1 r.2 true
def heldFrom (w : HeldWrite) : List (Place × Nat) := (w.src.map (fun p => (p, w.data.length))).toList

/-- A read or write misses: a read ends with Completer Abort (R374). -/
def barMiss (s : State) : State := bump 0x900108 32 1 s

/-- A write of a tenant by the host meets a page that is not in HBM: it is discarded (R374). -/
def hostMisses (s : State) (t : Nat) (w : HeldWrite) : Bool :=
  w.src = some hostBar && !(heldPlaces s t w).all (fun p => match p.1 with | .hbm .. => true | _ => false)

/-- A held write still waits: for a page on its way, a strip, an open slot of a resource or the end of a twilight slot. -/
def heldWaits (s : State) (w : HeldWrite) : Bool :=
  match w.tenant with
  | none => ownerWaits s w.va w.data.length true
  | some t =>
    let r := writeRange s t w.va w.data.length
    let ps := heldPlaces s t w
    !hostMisses s t w && (!(waitsOf ps).isEmpty || stripWaitVa s t r.1 r.2 true || !openNow s (some t) (heldFrom w) ps)

/-- The HBM run of an ACCUMULATE page that a write begins in: its key (R202). -/
def sumKey (s : State) (w : HeldWrite) : Option Nat :=
  match w.tenant with
  | none => if (frameOwner s (w.va / 65536)).any (fun f => f.2.1.maps.any (·.acc)) then some w.va else none
  | some t =>
    if (accAt s t w.va).isSome then (placesOf s t [] (w.va / 2 * 2) 2 true).findSome? (fun p => match p.1 with | .hbm k _ => some k | _ => none)
    else none

/-- A write outside the plans lands and takes its open slots; a sum whose stored value is uncorrectable does not take place, and
HBM_UE stands against the page's owner (R46, R203, R215). -/
def landHeld (w : HeldWrite) (s : State) : State :=
  let sum := sumKey s w
  let s := match w.ecc, sum with
    | .ok, _ | _, none => s
    | .ce, some k => hbmCe (k / 2 ^ 36) s
    | .ue, some k => hbmUe (k / 65536) none (pageOwner s (k / 65536)) s
  if w.ecc = .ue ∧ sum.isSome then s else
  match w.tenant with
  | none => ownerWrite w.va w.data (goNow none (hostEnd w.data.length) (keyPlaces w.va w.data.length) s)
  | some t =>
    if hostMisses s t w then barMiss s else
    let s := goNow (some t) (heldFrom w) (heldPlaces s t w) s
    writeVa (farWrite w.slot t (8 * w.slot + 5)) t (jobCores s w.slot) w.va w.data s

/-- Pages below HBM on which an access waits begin their promotion (R251, R256, R267). -/
def touchPages (ps : List (Place × Nat)) (s : State) : State :=
  (waitsOf ps).foldl (fun s w => startMove w.1 w.2.1 s) s
def moveHeld (w : HeldWrite) (s : State) : State :=
  match w.tenant with
  | none => s
  | some t => touchPages (heldPlaces s t w) s

/-- A write outside the plans lands, or waits with those that came before it. -/
def writeHeld (w : HeldWrite) (s : State) : State :=
  if s.held.isEmpty && !heldWaits s w then landHeld w s else moveHeld w { s with held := s.held ++ [w] }

/-! ### ECC of accesses outside the plans (R203, R215, R271) -/

/-- An uncorrectable error of an access outside the plans stands against the tenant that owns the first page it reads of HBM or
the plate vault, a correctable one against nobody: whether the data is delivered. -/
def eccOf (ecc : Ecc) (ps : List (Place × Nat)) (s : State) : Bool × State :=
  match ecc, ps.findSome? (fun x => match x.1 with | .hbm k _ => some (false, k / 65536) | .flash k => some (true, k / 65536) | _ => none) with
  | .ce, some (false, f) => (true, hbmCe (f / 2 ^ 20) s)
  | .ue, some (false, f) => (false, hbmUe f none (pageOwner s f) s)
  | .ce, some (true, q) => (true, vaultCe q s)
  | .ue, some (true, q) => (false, vaultUe q (flashOwner s q) s)
  | _, _ => (true, s)

/-! ### Work requests (R362, R363) -/

/-- Fields of a work-request entry. -/
def wrField (bs : List Byte) (lo n : Nat) : Nat := leNat ((bs.drop lo).take n)

/-- The places that the WRITE of a work request reads at LOCAL. -/
def workPlaces (s : State) (j : Job) (w : WorkRun) : List (Place × Nat) :=
  placesOf s j.tenant (jobCores s w.slot) w.local_ w.len false

/-- A work request's read of LOCAL waits: for a page on its way, a strip, an open slot or the end of a twilight slot (R43, R46, R211,
R256). -/
def workWaits (s : State) (j : Job) (w : WorkRun) : Bool :=
  w.kind = 1 && (badOf (workPlaces s j w)).isNone &&
  (!(waitsOf (workPlaces s j w)).isEmpty || stripWaitVa s j.tenant w.local_ w.len false ||
    !openNow s (some j.tenant) (workPlaces s j w) [(.remote w.peer 0 0 0, w.len)])

/-- A work request ends where it began, its STATUS an error: its LOCAL is no place of the job's, or cannot be read. -/
def workFails (id : Nat) (w : WorkRun) (s : State) : State := wrStatus w.slot w.handle 4 0 { s with works := tdel s.works id }

/-- Issue a work request: WRITE, READ or SYNC on the job's connection to its peer (R363). Its first bit is at the pin 70 cc later
than a message's own, and 260 later with its source in HBM (R365). -/
def sendWork (id : Nat) (j : Job) (w : WorkRun) (bs : List Byte) (data : Data) (s : State) : State :=
  let pTenant := bits (wrField bs 4 4) 12 12
  let key := wrField bs 8 4
  let off := wrField bs 12 8
  let s := wrStatus w.slot w.handle 2 0 { s with works := tput s.works id { w with held := none } }
  match w.kind with
  | 1 =>
    let ps := workPlaces s j w
    match badOf ps with
    | some src => raiseJob src w.slot (workFails id w s)
    | none =>
      let (ok, s) := eccOf data.ecc ps s
      if ¬ ok then workFails id w s else
      let bs := readPlaces s ps data.bytes
      sendMsg w.slot j.tenant w.peer pTenant (8 * id + 1) (fun p => writeDrafts p key off (bitOf w.flags 0) (bitOf w.flags 1) bs)
        (goNow (some j.tenant) ps [(.remote w.peer 0 0 0, w.len)] s) (70 + sourceCc s ps)
  | 2 => sendMsg w.slot j.tenant w.peer pTenant (8 * id + 1) (fun p => readDrafts p key off w.len (bitOf w.flags 3)) s 70
  | _ =>
    sendMsg w.slot j.tenant w.peer pTenant (8 * id + 1)
      (fun _ => [{ opcode := 6, hdr := [key, bits (wrField bs 36 2) 0 13, wrField bs 34 1, wrField bs 40 8, bits (wrField bs 48 4) 0 20] }]) s 70

/-- A work request fires with its entry as it stands: it is issued, or waits at LOCAL. A KIND the table reserves issues nothing and
its STATUS reads error (R362, R363). -/
def issueWork (slot handle : Nat) (j : Job) (bs : List Byte) (data : Data) (s : State) : State :=
  let kind := wrField bs 0 1
  let id := s.nextWork + 1
  let w : WorkRun := { held := some (bs, data), slot, handle, kind, flags := wrField bs 1 1, peer := bits (wrField bs 4 4) 0 12,
                       local_ := wrField bs 20 8, len := wrField bs 28 4, done := bits (wrField bs 32 2) 0 13 }
  if kind = 0 ∨ 3 < kind then wrStatus slot handle 4 0 s
  else if workWaits s j w then touchPages (workPlaces s j w) { s with nextWork := id, works := tput s.works id w }
  else sendWork id j w bs data { s with nextWork := id }

/-- A work request that waits at LOCAL is issued once it may be. -/
def releaseWork (id : Nat) (w : WorkRun) (s : State) : State :=
  match w.held, look s.jobs w.slot with
  | some (bs, data), some j => if workWaits s j w then s else sendWork id j w bs data s
  | _, _ => s

/-- Held writes and work requests whose wait is over go on, in order of arrival, as the clock comes to a command (log 36). -/
def releaseHeld (s : State) : State :=
  let s := if s.held.isEmpty then s
    else s.held.foldl (fun s w => if heldWaits s w then { s with held := s.held ++ [w] } else landHeld w s) { s with held := [] }
  (s.works.filter (fun e => e.2.held.isSome)).foldl (fun s e => releaseWork e.1 e.2 s) s

end Sys2Proof.Machine
end

