-- ==== Sys2Proof/Machine/Abort.lean ====
section
/-! DEFINITION. When an abort takes effect (spec/18 R448) and how the clock moves on. -/

namespace Sys2Proof.Machine

/-- Overwrite a run of places with free bytes. -/
def scribble : List (Place × Nat) → State → State
  | [], s => s
  | (.core k, n) :: r, s =>
    let (bs, s) := drawFree n s
    scribble r (storeWrite (k / 2 ^ 25) (k % 2 ^ 25) bs s)
  | (.hbm k first, n) :: r, s =>
    let (bs, s) := drawFree n s
    scribble r (hbmWrite k first bs s)
  | _ :: r, s => scribble r s

/-- The destination of a copy in flight is undefined where its job is aborted (R448). -/
def dropMOp (m : MOp) (s : State) : State := if m.stream then s else scribble m.dp s

/-- Copies, streams and stores of a job in flight at its abort: their destinations are undefined (R448; log 3). -/
def dropMOps (slot : Nat) (s : State) : State :=
  let mine := (s.cores.map (fun c => c.2.mq.filter (·.slot = slot))).flatten
  let s' := mine.foldl (fun s m => dropMOp m s) s
  let s' := (s.ranges.filter (fun r => !r.panel && decide (s.now < r.until_) &&
      (look s.threads (thrKey r.core r.thr)).any (·.slot = slot))).foldl (fun s r =>
    let (bs, s) := drawFree (r.hi - r.lo) s
    storeWrite r.core r.lo bs s) s'
  { s' with cores := tmap s'.cores (fun _ c => { c with mq := c.mq.filter (·.slot ≠ slot) }) }

/-- After a cancelled correlator operation its destination is undefined, ACCUMULATE destinations apart, which hold what
has landed (R295; log 3). -/
def dropCor (slot : Nat) (j : Job) (s : State) : State :=
  (j.cor.filter (·.phase = 1)).foldl (fun s r =>
    match (imageOf s j).bind (fun p => p.cor[r.op]?) with
    | none => s
    | some e =>
      let d := corDst s j e
      if (hitAt s j.tenant d.1).any (·.map.acc) then s
      else scribble (placesOf s j.tenant (jobCores s slot) d.1 d.2 true) s) s

/-- Unlock the pages of a segment (R257). -/
def unlockPages (s : State) (slot : Nat) (j : Job) : State :=
  match imageOf s j with
  | none => s
  | some p =>
    let others := ((s.jobs.filter (fun e => e.1 ≠ slot && e.2.phase = 1)).map (fun e => match imageOf s e.2 with
      | some q => ((q.pages.filter (·.segment = e.2.seg)).map (fun l => l.pages.filterMap (fun va =>
          (hitAt s e.2.tenant va).bind (fun h => look h.obj.loc h.page)))).flatten
      | none => [])).flatten
    let mine := ((p.pages.filter (·.segment = j.seg)).map (fun l => l.pages.filterMap (fun va =>
      (hitAt s j.tenant va).bind (fun h => look h.obj.loc h.page)))).flatten
    (mine.filter (fun f => f ∉ others)).foldl (fun s f => modFrame f (fun r => { r with lock := false }) s) s

/-- At cc a = d + 2 the abort of a job takes effect (R448): its frames no longer begin, its updates roll forward, its
Barfeos messages end, its segment's pages are unlocked (R257), and the job ends with ABORTED and its fault source. -/
def finishAbort (slot : Nat) (j : Job) (src : Nat) (s : State) : State :=
  let s := dropCor slot j (dropMOps slot (landBlocks slot s))
  let torn := (s.upds.filter (fun e => e.2.slot = slot && e.2.job = j.id && e.2.status = 1 &&
    e.2.mode = 0 && (interruptUpd e.2).status = 3)).map (·.2.stack)
  let mine : Nat → Bool := fun i => match look s.ctxs i with
    | some c => c.job && c.jobId = j.id && c.lTenant = j.tenant
    | none => false
  -- a queued packet of its connections: their peer's context at their peer's address
  let theirs : TxFrame → Nat → Bool := fun f d => s.ctxs.any (fun e => mine e.1 && e.2.peerCtx = d && toPeer s e.2.peer f)
  let s := ((s.works.filter (fun e => e.2.slot = slot)).map (·.2)).foldl (fun s w => wrStatus w.slot w.handle 4 0 s) s
  let s := { s with
    ports := tmap s.ports (fun _ p => { p with queue := p.queue.filter (fun f => match f.msg with
      | .bft _ _ _ _ _ _ _ (some h) _ => h.jobId ≠ j.id
      | .bft op _ d _ _ _ _ none _ => 0x10 ≤ op || ! theirs f d
      | _ => true) })
    ctxs := tmap s.ctxs (fun i c => if mine i then { c with unacked := [] } else c)
    works := s.works.filter (fun e => e.2.slot ≠ slot)
    signals := s.signals.filter (·.slot ≠ slot)
    upds := tmap (s.upds.filter (fun e => !(e.2.slot = slot && e.2.job = j.id && e.2.mode ≠ 0)))
      (fun _ u => if u.slot = slot && u.job = j.id && u.status = 1 then interruptUpd u else u)
    cores := tmap s.cores (fun _ c => if slot ∈ c.jobs then { c with abortClear := true } else c) }
  let s := unlockPages (torn.foldl (fun s k => irqSet (0x400184 + 0x10000 * k) 2 s) s) slot j
  endJob slot j 0x02 src s

/-- The cc by `t` at which an abort takes effect, a signal arrives or a result has been counted, ascending. A result counts
within the cc in which it becomes usable, so before the cc that follows, a sum in the last cc of its burst period (R153, R165). -/
def dueAt (t : Nat) (s : State) : List Nat :=
  let ccs : List Nat := s.jobs.filterMap (fun e => e.2.aborted.map (·.1)) ++ s.signals.map (·.at_) ++
    s.tallies.map (fun x => x.1 + 1) ++ (s.stks.filter (fun k => !k.2.sums.isEmpty)).map (fun k => k.2.sumsAt + 33)
  ccs.foldl (fun l a =>
    if t < a then l else l.filter (fun b => decide (b < a)) ++ [a] ++ l.filter (fun b => decide (a < b))) []

/-- What is due at a cc: the results counted before it and the sync objects that saturated before it, the aborts that take effect, by job slot, then the signals that
arrive, in order of issue. -/
def settleAt (a : Nat) (s : State) : State :=
  let s := (s.tallies.filter (fun x => decide (x.1 < a))).foldl (fun s x => censusAdd x.2.1 x.2.2.1 x.2.2.2 s)
    { s with tallies := s.tallies.filter (fun x => decide (a ≤ x.1)) }
  let s := ((s.stks.filter (fun k => !k.2.sums.isEmpty && decide (k.2.sumsAt + 33 ≤ a))).map (·.1)).foldl (fun s k => countSums k s) s
  let ends : Signal → Bool := fun x => x.act = .saturated && decide (x.at_ ≤ a)
  let s := (s.signals.filter ends).foldl (fun s x => saturated x s) { s with signals := s.signals.filter (fun x => !ends x) }
  let s := s.jobs.foldl (fun s e => match e.2.aborted with
    | some (c, src) => if c ≤ a then finishAbort e.1 e.2 src s else s
    | none => s) s
  let due := s.signals.filter (fun x => decide (x.at_ ≤ a))
  due.foldl (fun s x => arriveSignal x s) { s with signals := s.signals.filter (fun x => decide (a < x.at_)) }

/-- Aborts, signals and counts whose cc has come by `t` take effect, each at its own cc, before anything later happens. -/
def settle (t : Nat) (s : State) : State := (dueAt t s).foldl (fun s a => settleAt a (advance a s)) s

/-- The clock moves to the cc of a command, never backwards (log 1). -/
def tick (t : Nat) (s : State) : State := refuseHeaders (releaseHeld (advance t (settle t s)))

end Sys2Proof.Machine
end

