-- ==== Sys2Proof/Machine/Sync.lean ====
section
/-! DEFINITION. Sync objects: signals of units outside the cores, allocation, and the triggers they carry (spec/05 R135 to
R141). -/

namespace Sys2Proof.Machine

/-- A unit outside the cores signals a job's object by its job-relative index. -/
def unitSignal (slot idx add : Nat) (s : State) : State :=
  match look s.jobs slot with
  | none => s
  | some j => match absObj s j idx with | some o => signalAdd o add 200 s | none => s

/-- A freshly allocated object (R135). -/
def freshSync (owner tenant now : Nat) : SyncObj :=
  { value := 0, owner, tenant, trigs := [], stamp := now, start := 0, reset := some (rankCommand, 0), adds := 0, hist := [(now, 0, [])] }

end Sys2Proof.Machine
end

