-- ==== Sys2Proof/Machine/Issue.lean ====
section
/-! DEFINITION. Issue: the scoreboard, waits, units, the issue map and the oldest-first rule (spec/05 R116 to R122, R132,
R137 to R140; spec/04 R103), and the shared frame of an instruction's meaning. -/

namespace Sys2Proof.Machine

/-- Another thread of the core has an older READY instruction of the class, or one as old and a lower number (R118). -/
def outranked (s : State) (core thr t cls : Nat) (th : Thread) : Bool :=
  (List.range 128).any (fun n =>
    n ≠ thr && (match look s.threads (thrKey core n) with
      | none => false
      | some x =>
        x.state = 1 && decide (x.readyAt ≤ t) &&
        (decide (x.readyAt < th.readyAt) || (x.readyAt = th.readyAt && decide (n < thr))) &&
        (match (look s.jobs x.slot).bind (fun j => (programOf s j core)[x.pc]?) with
          | some w => opClass w = cls && thrState s core n t = 1
          | none => false)))

/-- What an instruction's meaning sees of its issue. -/
structure Ctx' where
  t : Nat
  core : Nat
  thr : Nat
  /-- key of the context -/
  k : Nat
  slot : Nat
  tenant : Nat
  job : Job
  pc : Nat
  w : W64
  ix : Bool
  /-- what the refetch of a block with bad parity meets (R453) -/
  ecc : Ecc

/-- Parity upsets that struck before an issue. -/
def strike (core k : Nat) (us : List Upset) (s : State) : State :=
  us.foldl (fun s u => match u with
    | .store off => { s with badStore := s.badStore ++ [core * 2 ^ 25 + off] }
    | .vec r _ => { s with badVec := s.badVec ++ [k * 8 + r] }
    | .acc b m n => { s with badAcc := s.badAcc ++ [((core * 2 + b) * 256 + m) * 256 + n] }
    | .slot i => { s with badSlot := s.badSlot ++ [core * 256 + i] }) s

/-- A context changed. -/
def modThr (k : Nat) (f : Thread → Thread) (s : State) : State := { s with threads := tmod s.threads k f }

/-- The book-keeping of an issue: the class is taken for this cc, the thread moves to its next instruction, and its
registers and ranges that have become usable are forgotten (R117, R121, R142). -/
def markIssue (core k cls t slot : Nat) (s : State) : State :=
  let s := bump (0x100000 + 0x10000 * core + 0x4010 + 4 * cls) 32 1 s
  let s := modCore core (fun c => { c with issued := c.issued.set cls (t + 1), issuer := c.issuer.set cls slot }) s
  modThr k (fun th => { th with pc := th.pc + 1, readyAt := t + 1 })
    { s with ranges := s.ranges.filter (fun r => decide (t < r.until_)) }

/-- The frame of every instruction: a thread that is in its segment, whose next instruction is the word with this class
and opcode, issues it where nothing holds it (R116 to R121); a thread past its program's last word raises THR_PC
(R131); a held instruction, whose waits the clock counts, and any other word change nothing. -/
def issue (cls op : Nat) (i : Issue) (f : Ctx' → State → State) (s : State) : State :=
  let s := tick i.t s
  let core := i.core.val
  let k := thrKey core i.thr.val
  match look s.threads k with
  | none => s
  | some th =>
    match look s.jobs th.slot with
    | none => s
    | some j =>
      if th.state ≠ 1 ∨ i.t < th.readyAt ∨ i.t ≠ s.now ∨ ¬ live s then s else
      match (programOf s j core)[th.pc]? with
      | none => if j.aborted.isSome then s else raiseJob 0x044 th.slot s core i.thr.val th.pc
      | some w =>
        if w ≠ i.word ∨ opClass w ≠ cls ∨ opCode w ≠ op then s else
        let s := strike core k i.upsets s
        let st := thrState s core i.thr.val i.t
        if st ≠ 1 then s
        else if i.t < ((coreOf s core).issued[cls]?).getD 0 ∨ outranked s core i.thr.val i.t cls th then s
        else
          f { t := i.t, core, thr := i.thr.val, k, slot := th.slot, tenant := j.tenant, job := j, pc := th.pc, w,
              ix := indexedAt s j core th.pc, ecc := i.ecc } (markIssue core k cls i.t th.slot s)

/-- The faults of a thread name its core and number (R456). -/
def thrFault (src : Nat) (c : Ctx') (s : State) (detail : Nat := 0) : State :=
  raiseJob src c.slot s c.core c.thr detail

/-- Put a range of the thread in flight. -/
def addRange (c : Ctx') (lo hi until_ : Nat) (panel : Bool) (s : State) : State :=
  { s with ranges := s.ranges ++ [{ core := c.core, thr := c.thr, lo, hi, until_, panel, old := [] }] }

/-- A store or a drain of the thread: the bytes land, and the range is in flight until it is readable (R121, R122). -/
def landStore (c : Ctx') (lo hi until_ : Nat) (bs : List Byte) (s : State) : State :=
  let s' := storeWrite c.core lo bs s
  { s' with ranges := s'.ranges ++
      [{ core := c.core, thr := c.thr, lo, hi, until_, panel := false, old := storeRead s c.core lo bs.length }] }

end Sys2Proof.Machine
end

