-- ==== Sys2Proof/Machine/Control.lean ====
section
/-! DEFINITION. C-format instructions (spec/05 R127, R128) and the slack monitor's milestones (spec/02 R50, R51). -/

namespace Sys2Proof.Machine

/-- A frame carries packets of a job: correlator traffic, or packets on one of its connections. -/
def frameOfJob (s : State) (j : Job) (f : TxFrame) : Bool :=
  match f.msg with
  | .bft _ _ d _ _ _ _ cor _ =>
    (match cor with | some h => h.jobId = j.id | none => false) ||
    s.ctxs.any (fun e => e.2.job && e.2.jobId = j.id && e.2.lTenant = j.tenant && e.2.peerCtx = d)
  | _ => false

/-- A place outside the module. -/
def outside : Place → Bool
  | .host _ => true
  | .remote .. => true
  | _ => false

/-- The job slot that a message belongs to: of a copy, of a work request, of the correlator and of sync and other writes by slot;
4,096 for none. -/
def msgSlot (s : State) (msg : Nat) : Nat :=
  match msg % 8 with
  | 0 => (s.cores.findSome? (fun c => (c.2.mq.find? (fun m => m.msg = msg)).map (·.slot))).getD 4096
  | 1 => ((look s.works (msg / 8)).map (·.slot)).getD 4096
  | 4 => 4096
  | _ => msg / 8

/-- An opcode of a packet that writes at its receiver: WRITE, ATOMIC, SYNC and correlator packets (R343). -/
def writesThere (opcode : Nat) : Bool := decide (opcode ∈ [1, 4, 6]) || (decide (7 ≤ opcode) && decide (opcode < 16))

/-- A frame that carries an outbound write of a job for the first time: it is no retransmission (R47). -/
def frameWrites (s : State) (slot : Nat) (f : TxFrame) : Bool :=
  match f.msg with
  | .bft op flags d psn _ _ _ _ _ => writesThere op && !bitOf flags 3 &&
    s.ctxs.any (fun e => e.2.peerCtx = d && toPeer s e.2.peer f && e.2.unacked.any (fun p => p.psn = psn && msgSlot s p.msg = slot))
  | _ => false

/-- The rest of the work that keeps a job's segment from being done, threads apart (R47): correlator operations, ephemeris entries,
and the outbound writes that have still to leave the module: packets on its connections and at its ports, copies to host memory or
held before they leave, and work requests that wait. -/
def segBusy (s : State) (slot : Nat) (j : Job) : Bool :=
  j.cor.any (fun c => c.phase ≠ 2) || j.eph.any (fun e => !e.ended) ||
  s.ports.any (fun p => p.2.queue.any (frameWrites s slot)) ||
  s.cores.any (fun c => c.2.mq.any (fun m => m.slot = slot && (m.dp.any (fun p => outside p.1) && (m.left = 1 || m.dp.any (fun p => isHost p.1))))) ||
  s.works.any (fun e => e.2.slot = slot && e.2.held.isSome) ||
  s.ctxs.any (fun e => e.2.unacked.any (fun p => !p.sent && writesThere p.opcode && msgSlot s p.msg = slot))

/-- Every thread that the segment launched has executed END. -/
def threadsDone (s : State) (slot : Nat) : Bool :=
  s.threads.all (fun e => e.2.slot ≠ slot || e.2.state ≠ 1)

/-- Check whether a running job's segment is done (R47), record its slack (R57) and unlock its pages (R257). -/
def checkDone (slot : Nat) (s : State) : State :=
  match look s.jobs slot with
  | none => s
  | some j =>
    if j.phase = 1 ∧ j.aborted.isNone ∧ threadsDone s slot ∧ ¬ segBusy s slot j then
      let fin := ccNow s
      let slack := j.deadline - (s.now : Int)
      let low := sext 32 ((look s.ctr (rkey 0x10114 slot)).getD 0x7FFFFFFF)
      let s := setCtr (rkey 0x10110 slot) (toField 32 slack) s
      let s := { s with ctr := tput s.ctr (rkey 0x10114 slot) (toField 32 (if slack < low then slack else low)) }
      unlockPages (modJob slot (fun j => { j with phase := 2, finish := fin }) s) slot j
    else s

/-- A C-format instruction. -/
def control (op : Nat) (f : Ctx' → State → State) (i : Issue) (s : State) : Res := .next (issue 5 op i f s)

/-- The next instruction of the thread: a word of its program, two cc after a taken branch (R120). -/
def jumpTo (c : Ctx') (target : Int) (s : State) : State :=
  if 0 ≤ target ∧ target.toNat < (programOf s c.job c.core).length then
    modThr c.k (fun th => { th with pc := target.toNat, readyAt := c.t + 2 }) s
  else thrFault 0x044 c (modThr c.k (fun th => { th with pc := c.pc }) s)

/-- The six conditions of BRC (R127). -/
def condHolds (cond : Nat) (a b : W64) : Bool :=
  match cond with
  | 0 => a == b
  | 1 => a != b
  | 2 => a.slt b
  | 3 => !a.slt b
  | 4 => a.ult b
  | _ => !a.ult b

/-- NOP has no effect but its issue. -/
def execNop (i : Issue) (s : State) : Res := control 0x01 (fun _ s => s) i s

/-- END: the thread enters DONE, and the segment may be done with it (R47, R116). -/
def execEndThread (i : Issue) (s : State) : Res :=
  control 0x02 (fun c s => checkDone c.slot (modThr c.k (fun th => { th with state := 5 }) s)) i s

/-- BR: jump by OFFSET. -/
def execBr (i : Issue) (s : State) : Res := control 0x03 (fun c s => jumpTo c (c.pc + cOFFSET c.w) s) i s

/-- BRC: jump by OFFSET where the condition holds. -/
def execBrc (i : Issue) (s : State) : Res :=
  control 0x04 (fun c s =>
    if condHolds (cCOND c.w) (sreg s c.k (cSA c.w)) (sreg s c.k (cSB c.w)) then jumpTo c (c.pc + cOFFSET c.w) s else s) i s

/-- MILE: lateness becomes the larger of itself and issue cc − expected cc; a predicted finish past the deadline
requests a slip in the next cc (R50, R51; 02, the example at 215,000). -/
def execMile (i : Issue) (s : State) : Res :=
  control 0x05 (fun c s =>
    match (segOf s c.job).bind (fun g => g.milestones[cMile c.w]?) with
    | none => s
    | some e =>
      let late : Int := (c.t : Int) - c.job.segAt - e
      let s := modJob c.slot (fun j => { j with lateness := if j.lateness < late then late else j.lateness }) s
      { s with signals := s.signals ++ [{ at_ := c.t + 1, slot := c.slot, obj := 0, src := c.core, act := .slip }] }) i s

/-- CALL: s63 takes the address of the next instruction; jump by OFFSET. -/
def execCall (i : Issue) (s : State) : Res :=
  control 0x06 (fun c s => jumpTo c (c.pc + cOFFSET c.w) (setSreg c.k 63 (BitVec.ofNat 64 (c.pc + 1)) (c.t + 1) s)) i s

/-- RET: jump to the address in SA. -/
def execRet (i : Issue) (s : State) : Res :=
  control 0x07 (fun c s => jumpTo c (sreg s c.k (cSA c.w)).toNat s) i s

end Sys2Proof.Machine
end

