-- ==== Sys2Proof/Machine/MemClass.lean ====
section
/-! DEFINITION. M-format instructions and the completion of their copies (spec/05 R120, R125, R130 to R134; spec/18
R453). -/

namespace Sys2Proof.Machine

/-! ### Lanes in core store (R65, R125) -/

/-- One lane as its format's bytes; L4 packs two lanes to a byte. -/
def packLanes (fmt : Nat) : List W32 → List Byte
  | [] => []
  | [a] => if fmt = 0 then [a.setWidth 8 &&& 0x0F#8] else if fmt = 1 ∨ fmt = 6 then [a.setWidth 8]
           else if fmt = 2 then leBytes 2 a.toNat else leBytes 4 a.toNat
  | a :: b :: r =>
    if fmt = 0 then ((a.setWidth 8 &&& 0x0F#8) ||| ((b.setWidth 8 &&& 0x0F#8) <<< 4)) :: packLanes fmt r
    else if fmt = 1 ∨ fmt = 6 then a.setWidth 8 :: b.setWidth 8 :: packLanes fmt r
    else if fmt = 2 then leBytes 2 a.toNat ++ leBytes 2 b.toNat ++ packLanes fmt r
    else leBytes 4 a.toNat ++ leBytes 4 b.toNat ++ packLanes fmt r

/-- The lanes that bytes of a format spell, upper bits 0. -/
def unpackLanes (fmt : Nat) (bs : List Byte) : List W32 :=
  if fmt = 0 then (bs.map (fun b => [(b &&& 0x0F#8).setWidth 32, (b >>> 4).setWidth 32])).flatten
  else if fmt = 1 ∨ fmt = 6 then bs.map (fun b => b.setWidth 32)
  else if fmt = 2 then (halves bs).map (BitVec.ofNat 32)
  else words bs

/-- The refetches of one read are issued together, and the read waits once for them: the HBM read count plus 7 cc
and any twilight wait (R43, R453), 0 without a bad block. -/
def refetchWait (s : State) (slot tenant core off n : Nat) : Nat :=
  (badBlocks s core off n).foldl (fun m b => match refetchOf s slot core (b * 1024) with
    | none => m
    | some r => match place s tenant [] (r.va + (b * 1024 - r.lo)) false with
      | .hbm k f => max m (readReady s core [(.hbm k f, 1024)] s.now + 7 - s.now)
      | _ => m) 0

/-- An M-format instruction. -/
def memory (op : Nat) (f : Ctx' → State → State) (i : Issue) (s : State) : Res := .next (issue 3 op i f s)

/-- A local range within the core store (R134). -/
def inStore (r : Nat × Nat) : Bool := decide (r.2 ≤ 0x1800000)

/-- A load of a range of a store for a thread: the bytes and the extra wait, or none where parity stops it. -/
def loadStore (c : Ctx') (core off n : Nat) (s : State) : Option (List Byte × Nat) × State :=
  let extra := refetchWait s c.slot c.tenant core off n
  let (ok, s) := checkStore c.slot c.tenant core off n s c.ecc
  if ok then
    let (bs, s) := threadRead core c.core c.thr c.t off n s
    (some (bs, extra), s)
  else (none, s)

/-- A store of the thread: the bytes land, and the range is in flight until readable (R120, R121). -/
def putStore (c : Ctx') (r : Nat × Nat) (bs : List Byte) (s : State) : State :=
  landStore c r.1 r.2 (c.t + 7) bs s

/-- SIG of a load or a store: its completion, at a cc, adds 1 to OBJ (R125, R140). -/
def sigAt (c : Ctx') (t : Nat) (s : State) : State :=
  if mSIG c.w then
    match absObj s c.job (mOBJ c.w) with
    | some o => { s with signals := s.signals ++ [{ at_ := t, slot := c.slot, obj := o, src := 100 + c.core, act := .add }] }
    | none => s
  else s

/-- MLDV: VR takes 256 values of FMT from the own core store. -/
def execMldv (i : Issue) (s : State) : Res :=
  memory 0x01 (fun c s =>
    let r := localRange s c.k c.w
    if ¬ inStore r then thrFault 0x045 c s r.1 else
    match loadStore c c.core r.1 (r.2 - r.1) s with
    | (some (bs, x), s) => sigAt c (c.t + 9 + x) (setVreg c.k (mVR c.w) (unpackLanes (vFMT c.w) bs) (c.t + 9 + x) s)
    | (none, s) => s) i s

/-- A vector register has bad parity (R145). -/
def vecBad (s : State) (c : Ctx') (v : Nat) : Bool := s.badVec.contains (c.k * 8 + v)

/-- MSTV: 256 values of FMT from VR to the own core store. -/
def execMstv (i : Issue) (s : State) : Res :=
  memory 0x02 (fun c s =>
    let r := localRange s c.k c.w
    if ¬ inStore r then thrFault 0x045 c s r.1
    else if vecBad s c (mVR c.w) then thrFault 0x049 c s
    else sigAt c (c.t + 7) (putStore c r (packLanes (vFMT c.w) (vreg s c.k (mVR c.w))) s)) i s

/-- MLDS: 64 bits from the own core store. -/
def execMlds (i : Issue) (s : State) : Res :=
  memory 0x03 (fun c s =>
    let r := localRange s c.k c.w
    if ¬ inStore r then thrFault 0x045 c s r.1 else
    match loadStore c c.core r.1 8 s with
    | (some (bs, x), s) => sigAt c (c.t + 9 + x) (setSreg c.k (mSB c.w) (BitVec.ofNat 64 (leNat bs)) (c.t + 9 + x) s)
    | (none, s) => s) i s

/-- MSTS: 64 bits to the own core store. -/
def execMsts (i : Issue) (s : State) : Res :=
  memory 0x04 (fun c s =>
    let r := localRange s c.k c.w
    if ¬ inStore r then thrFault 0x045 c s r.1
    else sigAt c (c.t + 7) (putStore c r (leBytes 8 (sreg s c.k (mSB c.w)).toNat) s)) i s

/-- MLDVX: VR takes 256 values of FMT from another core's store on the job's cores, through the window (R133, R134). -/
def execMldvx (i : Issue) (s : State) : Res :=
  memory 0x05 (fun c s =>
    let n := vecBytes (vFMT c.w)
    let a := align (sreg s c.k (mSA c.w)).toNat n
    match placeCore (jobCores s c.slot) a with
    | none => thrFault 0x045 c s a
    | some (core, off) =>
      if 0x1800000 < off + n then thrFault 0x045 c s a else
      match loadStore c core off n s with
      | (some (bs, x), s) =>
        let u := c.t + pathCc c.core (.core (core * 2 ^ 25)) + x
        sigAt c u (setVreg c.k (mVR c.w) (unpackLanes (vFMT c.w) bs) u s)
      | (none, s) => s) i s

/-! ### Copies (R132) -/

/-- The message of a copy that reaches another module leaves: WRITE packets, or READ_REQ packets (R360). -/
def copyFar (slot tenant msg : Nat) (src dst : List (Place × Nat)) (s : State) : State :=
  let s := match src.find? (fun p => isRemote p.1) with
    | some (.remote m peer key off, _) =>
      let n := (src.filter (fun p => isRemote p.1)).foldl (fun a p => a + p.2) 0
      sendMsg slot tenant m peer msg (fun p => readDrafts p key off n false) s
    | _ => s
  match dst.find? (fun p => isRemote p.1) with
  | some (.remote m peer key off, _) =>
    let bs := readPlaces s src []
    sendMsg slot tenant m peer msg (fun p => writeDrafts p key off true false bs) s (sourceCc s src)
  | _ => s

/-- A copy with an end outside the module is unscheduled, and waits for a strip that it would read or write (R203, R211). -/
def copyStrip (s : State) (tenant : Nat) (m : MOp) : Bool :=
  !((m.sp ++ m.dp).all (fun p => planned p.1)) &&
  (stripWaitVa s tenant m.src m.len false || stripWaitVa s tenant m.dst m.len true)

/-- MCOPY: SB bytes from virtual address SA to virtual address SC; it runs on after issue (R132). Addresses outside the
layout, or that the job may not reach, raise their fault and nothing is copied (R133, R134, R248, R249). -/
def execMcopy (i : Issue) (s : State) : Res :=
  memory 0x06 (fun c s =>
    let a := (sreg s c.k (mSA c.w)).toNat
    let n := (sreg s c.k (mSB c.w)).toNat
    let d := (sreg s c.k (mSC c.w)).toNat
    if 2 ^ 57 < a + n ∨ 2 ^ 57 < d + n ∨ 2 ^ 57 ≤ a ∨ 2 ^ 57 ≤ d then thrFault 0x045 c s (if 2 ^ 57 < a + n then a else d)
    else
      let cores := jobCores s c.slot
      let src := placesOf s c.tenant cores a n false
      let w := writeRange s c.tenant d n
      let dst := placesOf s c.tenant cores w.1 w.2 true
      match badOf (src ++ dst) with
      | some f => thrFault f c s a
      | none =>
        let msg := (s.nextWork + 1) * 8
        let s := touchPages (src ++ dst) { s with nextWork := s.nextWork + 1 }
        let (grant, s) := if (src ++ dst).all (fun p => planned p.1) then (c.t, s)
          else outsideGrant (some c.tenant) src dst c.t s
        let m : MOp := { slot := c.slot, thr := c.thr, stream := false, src := a, dst := d, len := n, sig := mSIG c.w,
                         obj := mOBJ c.w, msg, sp := src, dp := dst, dests := [], first := 0, left := 0, side := none,
                         due := copyReady s c.core src dst grant, exact := (src ++ dst).all (fun p => planned p.1) }
        let held := (src ++ dst).any (fun p => isRemote p.1) && (!(waitsOf (src ++ dst)).isEmpty || copyStrip s c.tenant m)
        let m := { m with left := if held then 1 else 0 }
        let s := modCore c.core (fun k => { k with mq := k.mq ++ [m] }) s
        let s := (ownRange c.core d n).foldl (fun s r => addRange c r.1 r.2 (2 ^ 64) false s) s
        if held then s else copyFar c.slot c.tenant msg src dst s) i s

/-- MSTREAM: rows of the own core store into weight stream rings of the same die (R91, R130); the first slot is written once
its row has been read (R59). -/
def execMstream (i : Issue) (s : State) : Res :=
  memory 0x07 (fun c s =>
    let ctl := (sreg s c.k (mSB c.w)).toNat
    let a := (sreg s c.k (mSA c.w)).toNat
    let b := (sreg s c.k (mSC c.w)).toNat
    let n := streamSlots ctl
    let dests := streamDests c.core ctl
    if ¬ (dests.all (fun d => d ∈ jobCores s c.slot)) then thrFault 0x045 c s (ctl % 2 ^ 18)
    else if ¬ inStore (a, a + 256 * n) ∨ (mSC c.w ≠ 0 ∧ ¬ inStore (b, b + 32 * n)) then thrFault 0x045 c s a
    else
      let m : MOp := { slot := c.slot, thr := c.thr, stream := true, src := a, dst := 0, len := 0, sig := mSIG c.w,
                       obj := mOBJ c.w, msg := 0, sp := [], dp := [], dests, first := streamFirst ctl, left := n,
                       side := (if mSC c.w = 0 then none else some b), due := c.t + 9, exact := false }
      let s := dests.foldl (fun s d => passRing d (streamFirst ctl) s) s
      modCore c.core (fun k => { k with mq := k.mq ++ [m] }) s) i s

/-- Bytes of a list of places by tier: HBM, host and flash, for the photometer (R436). -/
def placePj (ps : List (Place × Nat)) : Nat :=
  ps.foldl (fun e p => e + (match p.1 with
    | .hbm _ _ => ceilDiv p.2 64 * 1050 | .host _ => p.2 * 25 | .flash _ => p.2 * 400 | .remote .. => p.2 * 30 | _ => 0)) 0

/-- Parity of the core-store spans of a copy's source (R453). -/
def checkSpans (slot tenant : Nat) (ps : List (Place × Nat)) (ecc : Ecc) (s : State) : Bool × State :=
  ps.foldl (fun a p => match p.1 with
    | .core k =>
      let r := checkStore slot tenant (k / 2 ^ 25) (k % 2 ^ 25) p.2 a.2 ecc
      (a.1 && r.1, r.2)
    | _ => a) (true, s)

/-- The oldest operation of a core leaves its queue, and the next may complete from now on: its range is no longer in flight (R132). -/
def popCopy (core : Nat) (m : MOp) (s : State) : State :=
  let s := modCore core (fun k => { k with mq := match k.mq.tail with
    | [] => []
    | x :: r => { x with due := max x.due s.now } :: r }) s
  { s with ranges := s.ranges.filter (fun r => !(r.core = core && r.thr = m.thr && r.until_ = 2 ^ 64 &&
      (ownRange core m.dst m.len).contains (r.lo, r.hi))) }

/-- The completion signal of an M-format operation (R132, R140). -/
def copySignal (core : Nat) (m : MOp) (s : State) : State :=
  if m.sig then
    match look s.jobs m.slot with
    | some j => match absObj s j m.obj with | some o => signalAdd o 1 (100 + core) s | none => s
    | none => s
  else s

/-- The page of the plate vault at a place, also one that a page on its way comes from. -/
def flashPage (s : State) : Place → Option Nat
  | .flash k => some (k / 65536)
  | .wait h page _ => (look s.objs h).bind (fun o => if o.home = 2 then some (o.homeLoc + page) else none)
  | _ => none

/-- A copy that a lower tier or a stack fails (R215, R264, R271, R360, R393): 1 host memory, 2 the plate vault, 3 a
remote module, 4 an uncorrectable HBM error of the source, 6 one of a value to be added to (R203). HBM_UE stands against the job of
a planned copy, else against the tenant that owns the page, as VAULT_UE does. -/
def copyFails (core : Nat) (m : MOp) (tenant err : Nat) (s : State) : State :=
  let s := popCopy core m s
  let src := if err = 6 then m.dp else m.sp
  match err with
  | 1 => hostMemErr m.slot (tenant + 1) s
  | 2 => match src.findSome? (fun p => flashPage s p.1) with
    | some page => vaultUe page (flashOwner s page) s
    | none => s
  | 3 => raiseJob 0x140 m.slot s
  | _ => match src.findSome? (fun p => match p.1 with | .hbm k _ => some (k / 65536) | _ => none) with
    | some f => if m.exact then hbmUe f (some m.slot) [] s else hbmUe f none (pageOwner s f) s
    | none => s

/-- The places of a copy that waits for pages, with those translated now whose page has arrived; the others keep the location
they translated to (R246, R256). -/
def placesArrived (s : State) (tenant : Nat) (cores : List Nat) (va len : Nat) (write : Bool) (ps : List (Place × Nat)) :
    List (Place × Nat) :=
  List.zipWith (fun x p => match p.1 with
    | .wait .. => (place s tenant cores x.1 write, x.2)
    | _ => p) (spans va len) ps

/-- The oldest copy of a core with its places as they are now; the pages that came make its data readable from now on. -/
def copyArrived (core tenant : Nat) (m : MOp) (s : State) : MOp :=
  if (waitsOf (m.sp ++ m.dp)).isEmpty then m else
  let cores := jobCores s m.slot
  let w := writeRange s tenant m.dst m.len
  let sp := placesArrived s tenant cores m.src m.len false m.sp
  let dp := placesArrived s tenant cores w.1 w.2 true m.dp
  { m with sp, dp, due := max m.due (copyReady s core sp dp s.now) }

/-- The bytes of a copy's source: core stores as a thread of the core reads them (R122), other places as they stand. -/
def copyRead (core thr : Nat) : List (Place × Nat) → List Byte → State → List Byte × State
  | [], _, s => ([], s)
  | (.core k, n) :: r, out, s =>
    let (bs, s) := threadRead (k / 2 ^ 25) core thr s.now (k % 2 ^ 25) n s
    let (cs, s) := copyRead core thr r out s
    (bs ++ cs, s)
  | (.hbm k f, n) :: r, out, s => let (cs, s) := copyRead core thr r out s; (placeRead s (.hbm k f, n) [] ++ cs, s)
  | (.flash k, n) :: r, out, s => let (cs, s) := copyRead core thr r out s; (placeRead s (.flash k, n) [] ++ cs, s)
  | (_, n) :: r, out, s => let (cs, s) := copyRead core thr r (out.drop n) s; (out.take n ++ cs, s)

/-- What the way from a port to HBM takes beyond that to a core store, for data from another module (R365). -/
def farLand (dst : List (Place × Nat)) : Nat := if (stacksIn dst).isEmpty then 0 else 240

/-- M_OP_COMPLETE: the oldest MCOPY or MSTREAM of a core completes (R132): a copy's bytes are readable at its
destination, and SIG adds 1 to OBJ. It completes once its pages are in place, its remote message has every outcome, and
an MSTREAM has written every slot, and not before its data is there (R43, R59); a planned copy completes in the cc that its count
gives, and no other. `data` holds the bytes that arrived from outside the
module; `err` is 0, 5 for a correctable HBM error, 7 for a correctable flash error, or as for `copyFails`; of a copy out of
a core store 4 and 5 are what the refetch of a block with bad parity meets (R453). -/
def execMOpComplete (t : Nat) (core : Core) (data : List Byte) (err : Nat) (s : State) : Res :=
  let s := tick t s
  .next (match (coreOf s core.val).mq with
    | [] => s
    | m :: _ =>
      match look s.jobs m.slot with
      | none => s
      | some j =>
        if m.stream then (if m.left = 0 then checkDone m.slot (copySignal core.val m (popCopy core.val m s)) else s) else
        let m := copyArrived core.val j.tenant m s
        let s := modCore core.val (fun k => { k with mq := m :: k.mq.tail }) s
        let src := m.sp
        let dst := m.dp
        match badOf (src ++ dst) with
        | some f => raiseJob f m.slot (popCopy core.val m s) core.val m.thr
        | none =>
          if err ≠ 0 ∧ err ≠ 5 ∧ err ≠ 7 ∧ ¬ (err = 4 ∧ (stacksIn src).isEmpty) then copyFails core.val m j.tenant err s
          else if ¬ (waitsOf (src ++ dst)).isEmpty then touchPages (src ++ dst) s
          else if copyStrip s j.tenant m then s
          else if m.left = 1 then
            copyFar m.slot j.tenant m.msg src dst (modCore core.val (fun k => { k with mq := { m with left := 0 } :: k.mq.tail }) s)
          else if msgOpen s m.msg ∨ s.now < m.due ∨ (m.exact ∧ s.now ≠ m.due) ∨ s.now < landedBy s m.msg + farLand dst then s
          else
            let far := collected s m.msg
            let s := if err = 5 then ((stacksIn src).take 1).foldl (fun s k => hbmCe k s) s
              else if err = 7 then ((src.filterMap (fun p => match p.1 with | .flash k => some (k / 65536) | _ => none)).take 1).foldl
                (fun s q => vaultCe q s) s
              else s
            let (ok, s) := checkSpans m.slot j.tenant src (if err = 4 then .ue else if err = 5 then .ce else .ok) s
            let s := forget m.msg (popCopy core.val m s)
            if ok then
              let (bs, s) := copyRead core.val m.thr src (if far.isEmpty then data else far) s
              let s := chargeJob m.slot (placePj src + placePj dst) s
              let s := writeOver noFar j.tenant m.dst dst bs s (if src.all (fun p => planned p.1) then 0 else 2)
              checkDone m.slot (copySignal core.val m s)
            else s)

end Sys2Proof.Machine
end

