-- ==== Sys2Proof/Machine/Ope.lean ====
section
/-! DEFINITION. The outer-product engine: MAC, DRAIN, RELEASE, the entry of a K step and the rows of weight streams
(spec/04 R87 to R112). -/

namespace Sys2Proof.Machine

/-! ### Ring slots (R90, R108) -/

def freeSlot (core i : Nat) (s : State) : State :=
  { s with slots := tdel s.slots (slotKey core i), badSlot := s.badSlot.filter (· ≠ slotKey core i) }

/-- RELEASE of one slot: a valid or lost slot becomes free, a free one discard-pending (R98, R108). -/
def releaseSlot (core i : Nat) (s : State) : State :=
  if slotState s core i = 0 then
    { s with slots := tput s.slots (slotKey core i) { state := 2, vals := [], side := [] } }
  else if slotState s core i = 2 then s else freeSlot core i s

/-- A row arrives in a slot: a discard-pending slot drops it and is free (R98). -/
def deliver (core i : Nat) (vals side : List Byte) (s : State) : State :=
  let s := passRing core (i + 1) s
  if slotState s core i = 2 then freeSlot core i s
  else { s with
    slots := tput s.slots (slotKey core i) { state := 1, vals, side }
    badSlot := s.badSlot.filter (· ≠ slotKey core i) }

/-! ### One K step (R87 to R94) -/

/-- Value `m` of packed data in a format. -/
def valueAt (fmt : Nat) (bs : List Byte) (m : Nat) : Nat :=
  if fmt = 0 then (let b := ((bs[m / 2]?).getD 0).toNat; if m % 2 = 0 then b % 16 else b / 16)
  else if fmt = 1 then ((bs[m]?).getD 0).toNat
  else leNat [(bs[2 * m]?).getD 0, (bs[2 * m + 1]?).getD 0]

/-- The block scale of value `m` (R92). -/
def scaleAt (sc : Nat) (bs : List Byte) (m : Nat) : Int :=
  if sc = 0 then 0 else sext 8 ((bs[m / (8 * 2 ^ sc)]?).getD 0).toNat

/-- The 256 logarithmic values of a vector with its block scales. -/
def vecVals (fmt sc : Nat) (bs scales : List Byte) : List LogVal :=
  (List.range 256).map (fun m => logVal (logFmt fmt) (scaleAt sc scales m) (valueAt fmt bs m))

/-- Add the outer product of a column and a row into a bank: accumulator (m, n) takes the product of column value m and
row value n by one X32 addition (R87, R93). -/
def addOuter (core bank : Nat) (col row : List LogVal) (acc : Tab W32) : Tab W32 :=
  let base := (core * 2 + bank) * 65536
  tsplice acc base
    (List.zipWith addX (tread acc base 65536 0) ((col.map (fun a => row.map (fun b => linLog (mulLog a b)))).flatten)) 0

/-- The slots that step `k` reads (R96). -/
def stepSlots (fmt pos k : Nat) : List Nat :=
  if fmt = 0 then [(pos + k / 2) % 256] else if fmt = 1 then [(pos + k) % 256]
  else [(pos + 2 * k) % 256, (pos + 2 * k + 1) % 256]

/-- The row bytes and sideband of step `k` (R90, R92). -/
def stepRow (s : State) (core : Nat) (m : MacRun) (k : Nat) : List Byte × List Byte :=
  let sl := (stepSlots m.fmt m.rowPos k).filterMap (fun i => look s.slots (slotKey core i))
  let vals := (sl.map (·.vals)).flatten
  let side := (sl.head?.map (·.side)).getD []
  if m.fmt = 0 ∧ k % 2 = 1 then (vals.drop 128, side.drop 16) else (vals, side)

/-- The K steps that enter in one cc: a pair in L4 (R88, R101). -/
def stepsNow (m : MacRun) : Nat := if m.fmt = 0 then min 2 (m.total - m.step) else 1

/-- One K step's sum. -/
def stepSum (core : Nat) (m : MacRun) (k : Nat) (s : State) : State :=
  let (col, s) := threadRead core core m.thr s.now (m.col + colBytes m.fmt * k) (colBytes m.fmt) s
  let (cs, s) := if m.sca = 0 then ([], s)
    else threadRead core core m.thr s.now (m.scale + k * scalesPer m.sca) (scalesPer m.sca) s
  let (row, rs) := stepRow s core m k
  { s with acc := addOuter core m.bank (vecVals m.fmt m.sca col cs) (vecVals m.fmt m.scb row rs) s.acc }

/-! ### Tile-ops -/

/-- MAC: the address check of R100; INIT takes the bank as +0; its steps enter from the issue cc, in L16 four cc later
(R94, R96, R101, R103). -/
def execMac (i : Issue) (s : State) : Res :=
  .next (issue 0 0x01 i (fun c s =>
    let rs := macRanges s c.k c.w
    if rs.any (fun r => !inStore r) then raiseJob 0x040 c.slot s c.core else
    let fmt := tFMT c.w
    let k := tK c.w
    let bank := tBANK c.w
    let base := (c.core * 2 + bank) * 65536
    let s := if tINIT c.w then
        { s with acc := tclear s.acc base 65536, badAcc := s.badAcc.filter (fun x => x < base || base + 65536 ≤ x) }
      else s
    let run : MacRun :=
      { slot := c.slot, thr := c.thr, bank, fmt, total := k, col := panelAddr fmt (sreg s c.k (tRA c.w)).toNat,
        scale := align (sreg s c.k (tRSA c.w)).toNat 16, sca := tSCA c.w, scb := tSCB c.w, rowPos := tROWPOS c.w,
        rel := tREL c.w, step := 0, due := if fmt = 2 then c.t + 4 else c.t }
    let occ := if fmt = 0 then ceilDiv k 2 else if fmt = 1 then k else 4 * k
    let s := modCore c.core (fun x => { x with mac := some run, opeFree := c.t + occ }) s
    rs.foldl (fun s r => addRange c r.1 r.2 (2 ^ 64) true s) s) s)

/-- DRAIN: rows of a bank to the own core store, as X32 (R97, R102); a parity error lets nothing leave (R110). Parity is
checked where accumulators are read: with CW below 7, in the columns written (DESIGN CHOICE, log 42: R110 does not say). -/
def execDrain (i : Issue) (s : State) : Res :=
  .next (issue 0 0x02 i (fun c s =>
    let r := drainRange s c.k c.w
    if ¬ inStore r then raiseJob 0x040 c.slot s c.core else
    let bank := tBANK c.w
    let rows := dROWS c.w
    let base := (c.core * 2 + bank) * 65536 + dROW0 c.w * 256
    let n := 32 * (dCW c.w + 1)
    if s.badAcc.any (fun x => base ≤ x && x < base + rows * 256 && x % 256 < n) then
      raiseJob 0x042 c.slot s c.core bank
    else
      let bs := ((List.range rows).map (fun j => ((tread s.acc (base + j * 256) n 0).map (fun w => leBytes 4 w.toNat)).flatten)).flatten
      let s := modCore c.core (fun x => { x with drained := x.drained.set bank (c.t + rows), portFree := c.t + rows + 6 }) s
      landStore c r.1 r.2 (c.t + rows + 6) bs s) s)

/-- RELEASE: COUNTM1 + 1 slots from ROWPOS (R98). -/
def execRelease (i : Issue) (s : State) : Res :=
  .next (issue 0 0x03 i (fun c s =>
    (List.range (rCOUNT c.w)).foldl (fun s n => releaseSlot c.core (rROWPOS c.w + n) s) s) s)

/-! ### Step entry (R101 to R105, R423) -/

/-- A tenant's grant on a core in the frame in progress (R424). -/
def grantFor (c : CoreSt) (tenant : Nat) : Nat := min c.grant (tget c.granted tenant 64)

/-- The grant of the 64-cc frame that a cc lies in: a new frame begins with nothing used (R423). -/
def grantLeft (s : State) (core tenant : Nat) : Bool :=
  let c := coreOf s core
  if c.frame = (s.now - s.mer.at_) / 64 then decide (c.used < grantFor c tenant) else decide (0 < grantFor c tenant)

def useGrant (core : Nat) (s : State) : State :=
  let f := (s.now - s.mer.at_) / 64
  modCore core (fun c => if c.frame = f then { c with used := c.used + 1 } else { c with frame := f, used := 1 }) s

/-- The MAC ends: its bank is readable 16 cc after its last entry, and its panels are no longer in flight (R101, R121). -/
def macDone (core : Nat) (m : MacRun) (s : State) : State :=
  let s := modCore core (fun c => { c with mac := none, readable := c.readable.set m.bank (s.now + 16) }) s
  { s with ranges := s.ranges.filter (fun r => !(r.core = core && r.thr = m.thr && r.panel && r.until_ = 2 ^ 64)) }

/-- Push the engine back by one cc: a row wait or a withheld slot delays every later step (R104, R105). -/
def macWaits (core : Nat) (m : MacRun) (s : State) : State :=
  modCore core (fun c => { c with mac := some { m with due := s.now + 1 }, opeFree := c.opeFree + 1 }) s

/-- Release the slots that no later step of the MAC reads (R96). -/
def relSlots (core : Nat) (m : MacRun) (n : Nat) (s : State) : State :=
  if m.rel then
    let used := ((List.range n).map (fun j => stepSlots m.fmt m.rowPos (m.step + j))).flatten.eraseDups
    let later := if m.step + n < m.total then stepSlots m.fmt m.rowPos (m.step + n) else []
    (used.filter (· ∉ later)).foldl (fun s i => freeSlot core i s) s
  else s

/-- The slots that the steps of this cc read. -/
def slotsNow (m : MacRun) : List Nat :=
  ((List.range (stepsNow m)).map (fun j => stepSlots m.fmt m.rowPos (m.step + j))).flatten.eraseDups

/-- OPE_STEP_ENTRY: the steps due in this cc enter, unless their slot is withheld by the grant, waits for its row, is
discard-pending or lost, or meets a parity error (R104, R105, R108, R110, R423, R453). -/
def execOpeStepEntry (t : Nat) (at_ : Fetch) (s : State) : Res :=
  let s := tick t s
  let core := at_.core.val
  .next (match (coreOf s core).mac with
    | none => s
    | some m =>
      match look s.jobs m.slot with
      | none => s
      | some j =>
        if t < m.due ∨ t ≠ s.now ∨ ¬ live s then s
        else if ¬ grantLeft s core j.tenant then macWaits core m s
        else
          let sl := slotsNow m
          match sl.find? (fun i => slotState s core i = 2 || slotState s core i = 3) with
          | some i => raiseJob 0x041 m.slot (modCore core (fun c => { c with mac := none }) s) core i
          | none =>
            if sl.any (fun i => slotState s core i = 0) then
              bump (0x100000 + 0x10000 * core + 0x3010) 32 1 (macWaits core m s)
            else match sl.find? (fun i => s.badSlot.contains (slotKey core i)) with
              | some i => raiseJob 0x043 m.slot (modCore core (fun c => { c with mac := none }) s) core i
              | none =>
                let n := stepsNow m
                let base := (core * 2 + m.bank) * 65536
                if s.badAcc.any (fun x => base ≤ x && x < base + 65536) then
                  raiseJob 0x042 m.slot (modCore core (fun c => { c with mac := none }) s) core m.bank
                else
                  let (ok, s) := checkStore m.slot j.tenant core (m.col + colBytes m.fmt * m.step) (colBytes m.fmt * n) s at_.ecc
                  let (ok2, s) := if m.sca = 0 then (true, s) else
                    checkStore m.slot j.tenant core (m.scale + m.step * scalesPer m.sca) (n * scalesPer m.sca) s at_.ecc
                  if ¬ (ok && ok2) then modCore core (fun c => { c with mac := none }) s else
                  let s := (List.range n).foldl (fun s q => stepSum core m (m.step + q) s) s
                  let s := relSlots core m n (useGrant core s)
                  let s := bump (0x100000 + 0x10000 * core + 0x3008) 64 n s
                  let s := chargeJob m.slot (if m.fmt = 2 then 9200 else 7080) s
                  let m' := { m with step := m.step + n, due := s.now + (if m.fmt = 2 then 4 else 1) }
                  if m'.step = m.total then macDone core m' s
                  else modCore core (fun c => { c with mac := some m' }) s)

/-! ### Weight stream rows (R91, R106 to R108) -/

/-- Deliver the slots of one row, or of an L4 pair, from a slot on at every destination of one job (R106, R107). -/
def deliverAll (dests : List Nat) (i : Nat) (sl : List (List Byte × List Byte)) (s : State) : State :=
  dests.foldl (fun s c => sl.zipIdx.foldl (fun s x => deliver c (i + x.2) x.1.1 x.1.2 s) s) s

/-- Mark a slot lost: its stream has passed it (R108). -/
def loseSlot (core i : Nat) (s : State) : State :=
  passRing core (i + 1) { s with slots := tmod s.slots (slotKey core i) (fun x => { x with state := 3 }) }

/-- Deliver some rows of a stream shared between jobs at one destination: a slot that is not free drops its part and is
marked lost, and the dropped rows are counted (R108). An L16 row that finds one of its two slots free is delivered in that
half; the row counts as dropped (DESIGN CHOICE, log 42: R108 does not say). -/
def deliverShared (core i rows : Nat) (sl : List (List Byte × List Byte)) (s : State) : State :=
  let lost := (List.range sl.length).any (fun q => slotFull s core (i + q))
  let s := sl.zipIdx.foldl (fun s x =>
    if slotFull s core (i + x.2) then loseSlot core (i + x.2) s else deliver core (i + x.2) x.1.1 x.1.2 s) s
  if lost then bump (0x100000 + 0x10000 * core + 0x3018) 32 rows s else s

end Sys2Proof.Machine
end

