-- ==== Sys2Proof/Machine/StackEngine.lean ====
section
/-! DEFINITION. Stack engines: errors of their data, weight streams, accumulation in place, packing and zeroing (spec/08 R195
to R205, R215, R217; spec/04 R106 to R108). -/

namespace Sys2Proof.Machine

/-! ### Scaled copies (R169, R173, R174) -/

/-- A value to be scaled: logarithmic or exact. -/
inductive Src where
  | log (v : LogVal)
  | lin (v : Val)

def Src.pos : Src → Option Int
  | .log v => amaxLog v
  | .lin v => amaxVal v

/-- Round a value under a scale k into a format. -/
def Src.conv (f : LogFmt) (rm u : Nat) (k : Int) : Src → Rounded
  | .log v => convLog f rm u (shiftLog (-(512 * k)) v)
  | .lin v => convVal f rm u (scaleVal (-k) v)

/-- The draw of a stack engine for element `e` of an operation's target (R159). -/
def engineDraw (j : Job) (stack gen e : Nat) (s : State) : Nat × State :=
  if bitOf j.block.flags 0 then
    (drawU (mix (laneKey j.block.seed (0x100000 + gen))
      (BitVec.ofNat 64 ((j.block.g0 + (j.segs - 1)) % 2 ^ 32 * 2 ^ 32 + e % 2 ^ 32))), s)
  else stackDraw stack s

/-- The draws of consecutive elements, one each where the rounding is stochastic. -/
def engineDraws (sr : Bool) (j : Job) (stack gen e : Nat) : Nat → State → List Nat × State
  | 0, s => ([], s)
  | n + 1, s =>
    if sr then
      let (u, s) := engineDraw j stack gen e s
      let (us, s) := engineDraws sr j stack gen (e + 1) n s
      (u :: us, s)
    else (List.replicate (n + 1) 0, s)

/-- Codes, scales per block and census of values under a tag: one k in MODE 1, a k per block in MODE 2. -/
def scaleBlocks (w : W64) (k : Int) (tgt : Nat) (vals : List Src) (us : List Nat) :
    List Nat × List Int × List Seen :=
  let f := logFmt tgt
  let rm := if tagSr w then 3 else 1
  let b := blkLen (max 1 (tagBlk w))
  let blocks := chunksOf b (ceilDiv vals.length b) (List.zip vals us)
  let done := blocks.map (fun bl =>
    let kb := if tagMode w = 2 then blockScale tgt (bl.foldl (fun m v => maxPos m v.1.pos) none) else k
    (bl.map (fun v => (v.1.conv f rm v.2 kb, v.1.pos)), kb))
  ((done.map (fun d => d.1.map (fun r => r.1.code))).flatten, done.map (·.2),
   (done.map (fun d => d.1.map (fun r => seenLog f r.1.code r.1.sat r.2))).flatten)

/-- Two L4 codes to a byte (R65). -/
def pack4 : List Nat → List Byte
  | a :: b :: r => BitVec.ofNat 8 (a % 16 + b % 16 * 16) :: pack4 r
  | [a] => [BitVec.ofNat 8 (a % 16)]
  | [] => []

/-- The bytes of codes of a target. -/
def codeBytes (tgt : Nat) (cs : List Nat) : List Byte := if tgt = 0 then pack4 cs else cs.map (BitVec.ofNat 8)

/-- The scale a tag has in the job's step (R171). -/
def tagScale (j : Job) (tag : Nat) (w : W64) : Int := tget j.scales tag (tagK0 w)

/-! ### Errors of an operation (R215, R217) -/

/-- What an error does that an operation of a job meets on a stack, and whether the operation goes on. A staging error beside
the strip buffers is one of a stream buffer. -/
def engErr (slot stack : Nat) (err : EngErr) (s : State) : Bool × State :=
  match err with
  | .ok => (true, s)
  | .dram false _ => (true, hbmCe stack s)
  | .dram true key => (false, hbmUe (stack * 2 ^ 20 + key / 65536 % 2 ^ 20) (some slot) [] s)
  | .stage false => (true, raise (stackEv 0x083 stack none []) s)
  | .stage true => (false, raiseJob 0x084 slot s stack)
  | .lane => (false, raiseJob 0x085 slot s stack)

/-! ### Objects by offset -/

/-- Bytes of an object in HBM; a page that is not there reads as nothing written. -/
def objRead (s : State) (h off n : Nat) : List Byte :=
  ((spans off n).map (fun x => match objKey s h x.1 with
    | some (k, _) => hbmRead s k x.2
    | none => List.replicate x.2 0)).flatten

/-- Write bytes of an object in HBM. -/
def objWrite (h off : Nat) (bs : List Byte) (s : State) : State :=
  ((spans off bs.length).foldl (fun (a : List Byte × State) x =>
    (a.1.drop x.2, match objKey a.2 h x.1 with
      | some (k, f) => hbmWrite k f (a.1.take x.2) a.2
      | none => a.2)) (bs, s)).2

/-- A strip of an object is torn or lost for a stream (R201, R208, R210). -/
def objTorn (s : State) (h : Nat) : Bool :=
  s.upds.any (fun u => u.2.master = h && (u.2.status = 3 || u.2.status = 4)) ||
  s.recs.any (fun r => r.2.object = h && r.2.state = 6)

/-- The offset of a tenant's address within its object. -/
def offsetAt (s : State) (tenant va : Nat) : Nat :=
  match hitAt s tenant va with
  | some h => h.page * pageBytes h.obj.psize + h.off
  | none => 0

/-! ### Work of a segment -/

/-- The key under which a segment's pending stream stands in a job's list of unfinished work: streams above 65,536. -/
def busyStream (entry : Nat) : Nat := 65536 + entry

/-- A piece of the segment's work is finished. -/
def workDone (slot key : Nat) (s : State) : State := modJob slot (fun j => { j with busy := tdel j.busy key }) s

/-- An engine works off its plan for a job: the bursts are charged, and those deferred by a slot are counted (R194, R436). -/
def engineWork (slot stack : Nat) (p : Phase) (deferred : Nat) (s : State) : State :=
  let s := chargeJob slot ((groupBursts p).foldl (· + ·) 0 * 1050 + p.lanes * 12) s
  if deferred = 0 then s else bump (0x400050 + 0x10000 * stack) 32 deferred s

/-! ### Streams (R198 to R201, R406) -/

/-- The destinations that receive records of other jobs bind to a base job's stream (R406). -/
def boundDests (s : State) (slot entry : Nat) : List (Nat × Nat × Nat) :=
  match look s.jobs slot with
  | none => []
  | some b =>
    (s.jobs.map (fun e => if e.2.phase = 1 then (match imageOf s e.2, segOf s e.2 with
      | some p, some g => (g.streams.map (fun i => match p.streams[i]? with
          | some x => if x.base = some (b.id, entry) then x.dests.map (fun d => (e.1, d, x.firstSlot)) else []
          | none => [])).flatten
      | _, _ => []) else [])).flatten

/-- A job's roll-forward runs on a stack: until it ends the engine starts nothing else for the job (R209). -/
def rollsOn (s : State) (slot id stack : Nat) : Bool :=
  s.upds.any (fun u => rollingUpd u.2 && u.2.stack = stack && u.2.slot = slot && u.2.job = id)

/-- SE_STREAM: an armed stream begins, unless its master is torn or lost (R201); the rings show its first slot as the next to
be written (R112). -/
def execSeStream (t slot entry : Nat) (s : State) : Res :=
  let s := tick t s
  .next (match look s.jobs slot with
    | none => s
    | some j =>
      match (imageOf s j).bind (fun p => p.streams[entry]?), look j.busy (busyStream entry) with
      | some e, some at_ =>
        let k := stackOf s e.stack
        if k.streams.any (fun r => r.slot = slot && r.entry = entry) ∨ t < at_ + e.armCc ∨ e.base.isSome ∨ ¬ live s then s
        else if rollsOn s slot j.id e.stack ∨ stopped s .stack e.stack then s
        else if objTorn s e.object then raiseJob 0x082 slot s e.stack
        else if 8 ≤ k.streams.length then s
        else
          let bound := boundDests s slot entry
          let s := e.dests.foldl (fun s c => passRing c e.firstSlot s) s
          let s := bound.foldl (fun s b => passRing b.2.1 b.2.2 s) s
          let r : StreamRun := { slot, entry, at_, row := 0, due := at_ + e.d0, buf := [], next := 0, bound }
          modStack e.stack (fun k => { k with streams := k.streams ++ [r] }) s
      | _, _ => s)

/-- One row of a stream from its masters: its slots' contents, and the state with the row counted (R174, R199, R200). -/
def deriveRow (j : Job) (e : StreamEntry) (row : Nat) (bs : List Byte) (s : State) : List Byte × List Byte × State :=
  let vals := (halves bs).map (fun c => logVal fmtL16 0 c)
  if e.mode = 2 then
    (bs, [], censusAdd j.tenant e.tag ((halves bs).map (fun c => seenLog fmtL16 c false (amaxLog (logVal fmtL16 0 c)))) s)
  else
    let w := (tagWord s j e.tag).getD 0
    let (us, s) := engineDraws (tagSr w) j e.stack e.gen (offsetAt s j.tenant (e.va + row * e.stride) / 2) 256 s
    let (cs, ks, seen) := scaleBlocks w (tagScale j e.tag w) e.mode (vals.map .log) us
    (codeBytes e.mode cs, ks.map (BitVec.ofInt 8), censusAdd j.tenant e.tag seen s)

/-- A row's sideband in its slot. -/
def sideBytes (n : Nat) (ks : List Byte) : List Byte := ks ++ List.replicate (n - ks.length) 0

/-- The slot contents of one delivery: (values, sideband) per slot; the second half of an odd last L4 slot is zero (log 23). -/
def deliverySlots (j : Job) (e : StreamEntry) (r : StreamRun) (s : State) : List (List Byte × List Byte) × State :=
  let (a, ka, s) := deriveRow j e r.row ((r.buf[0]?).getD []) s
  if e.mode = 2 then ([(a.take 256, List.replicate 32 0), (a.drop 256, List.replicate 32 0)], s)
  else if e.mode = 1 then ([(a, sideBytes 32 ka)], s)
  else
    let (b, kb, s) := if r.row + 1 < e.rows then deriveRow j e (r.row + 1) ((r.buf[1]?).getD []) s
      else (List.replicate 128 0, [], s)
    ([(a ++ b, sideBytes 16 ka ++ sideBytes 16 kb)], s)

/-- Lane-cycles of a stream's row (R195). -/
def rowLanes (e : StreamEntry) (w : W64) : Nat := if e.mode = 2 then 0 else if tagSr w then 256 else 128

/-- The delivery of an engine's row or pair of rows: not before its cc, nor before it has been read into the stream buffer, and
held while a slot of its destinations is not free (R107, R199). -/
def engineRow (stack idx : Nat) (err : EngErr) (s : State) : State :=
  match (stackOf s stack).streams[idx]? with
  | none => s
  | some r =>
    match streamEntry s r with
    | none => s
    | some (j, e) =>
      let rows := min (rowsPer e) (e.rows - r.row)
      if s.now < r.due ∨ r.next < r.row + rows ∨ ¬ (heldBy s r).isEmpty then s else
      let (ok, s) := engErr r.slot stack err s
      if ¬ ok then s else
      let (sl, s) := deliverySlots j e r s
      let off := r.row / rowsPer e * slotsPer e
      let s := if e.shared || !r.bound.isEmpty then
          (e.dests.map (fun c => (c, e.firstSlot + off)) ++ r.bound.map (fun b => (b.2.1, b.2.2 + off))).foldl
            (fun s d => deliverShared d.1 d.2 rows sl s) s
        else deliverAll e.dests (e.firstSlot + off) sl s
      let s := bump (0x400048 + 0x10000 * stack) 64 rows s
      let s := chargeJob r.slot (rows * (8 * 1050 + rowLanes e ((tagWord s j e.tag).getD 0) * 12)) s
      if e.rows ≤ r.row + rows then
        workDone r.slot (busyStream r.entry) (modStack stack (fun k => { k with streams := k.streams.eraseIdx idx }) s)
      else
        let r' := { r with row := r.row + rows, buf := r.buf.drop rows, due := max (r.due + e.interval) (s.now + 1) }
        modStack stack (fun k => { k with streams := k.streams.set idx r' }) s

/-- The delivery of an MSTREAM's slot, one in a cc at most (R90, R91, R130): the stream in front of its core's queue. That an
MSTREAM's rows flow once it is the oldest operation of its core is DESIGN CHOICE (log 42: R130 and R132 do not order it
against the copies before it). -/
def copyRow (core : Nat) (ecc : Ecc) (s : State) : State :=
  match (coreOf s core).mq with
  | [] => s
  | m :: rest =>
    match look s.jobs m.slot with
    | none => s
    | some j =>
      if ¬ m.stream ∨ m.left = 0 ∨ s.now < m.due ∨ ¬ (copyHeldBy s m).isEmpty then s else
      let (ok, s) := checkStore m.slot j.tenant core m.src 256 s ecc
      let (ok2, s) := match m.side with
        | some b => checkStore m.slot j.tenant core b 32 s ecc
        | none => (true, s)
      if ¬ (ok && ok2) then modCore core (fun k => { k with mq := rest }) s else
      let (vals, s) := threadRead core core m.thr s.now m.src 256 s
      let (side, s) := match m.side with
        | some b => threadRead core core m.thr s.now b 32 s
        | none => (List.replicate 32 0, s)
      let m' := { m with src := m.src + 256, first := m.first + 1, left := m.left - 1, side := m.side.map (· + 32),
                         due := s.now + 1 }
      let s := deliverAll m.dests m.first [(vals, side)] s
      modCore core (fun k => { k with mq := m' :: rest }) s

/-- STREAM_ROW_WRITE: the next row of a stream reaches its destinations, or holds (R106 to R108). -/
def execStreamRowWrite (t : Nat) (src : RowSrc) (s : State) : Res :=
  let s := tick t s
  .next (if ¬ live s then s else match src with
    | .engine k i err => engineRow k.val i err s
    | .copy c => copyRow c.core.val c.ecc s)

/-! ### Entries of a segment (R195) -/

/-- A pending SE entry of a job's segment, from its planned start on, and the cc of its segment's meridian; an engine in
quarantine takes no further work (R195, R196, R449). -/
def seEntry (s : State) (slot entry op : Nat) : Option (Job × SeEntry × Nat) :=
  match look s.jobs slot with
  | none => none
  | some j =>
    match (imageOf s j).bind (fun p => p.se[entry]?), look j.busy entry with
    | some e, some at_ =>
      if e.op = op ∧ at_ + 33 * e.startBp ≤ s.now ∧ ¬ rollsOn s slot j.id e.stack ∧ live s ∧
          ¬ stopped s .stack e.stack then some (j, e, at_) else none
    | _, _ => none

/-- An entry of one phase that touches some places comes to its end: not before its planned burst periods are over, and once
its pages are in HBM; an error of its data lets nothing through (R194 to R196, R215, R257). -/
def seRun (slot entry : Nat) (err : EngErr) (j : Job) (e : SeEntry) (at_ out : Nat) (ps : List (Place × Nat))
    (act : State → State) (s : State) : State :=
  let p := ((entryPhases s ((tagWord s j e.tag).getD 0) out e).head?).getD { ranges := [], lanes := 0 }
  let r := phaseEnd (cfg s 0x10000 0 16) e.startBp p.ranges p.lanes
  if s.now < at_ + 33 * r.1 then s else
  match badOf ps with
  | some f => raiseJob f slot (workDone slot entry s) e.stack
  | none =>
    if ¬ (tiersOff ps).isEmpty then touchPages ps s else
    let (ok, s) := engErr slot e.stack err s
    workDone slot entry (if ok then act (engineWork slot e.stack p r.2 s) else s)

/-- SE_ACCUM: `count` L16 values of the source add into the ACCUMULATE object (R202, R203). -/
def execSeAccum (t slot : Nat) (work : Ended) (s : State) : Res :=
  let s := tick t s
  .next (match seEntry s slot work.item 2 with
    | none => s
    | some (j, e, at_) =>
      let src := placesOf s j.tenant [] e.srcVa (2 * e.count) false
      let dst := placesOf s j.tenant [] (e.va / 2 * 2) (2 * e.count) true
      seRun slot work.item work.err j e at_ 0 (src ++ dst) (fun s => match accAt s j.tenant e.va with
        | some o => accOver o j.tenant 0 noFar dst ((halves (readPlaces s src [])).map lin16) s
        | none => s) s)

/-- The source values of a PACK (R195). -/
def packSrc (fmt : Nat) (bs : List Byte) : List Src :=
  if fmt = 3 then (words bs).map (fun w => .lin (x32Val w))
  else if fmt = 2 then (halves bs).map (fun c => .log (logVal fmtL16 0 c))
  else bs.map (fun b => .log (logVal fmtL8 0 b.toNat))

/-- What a stored form counts under the entry's tag (R165). -/
def packSeen (f : LogFmt) (codes : List Nat) : List Seen :=
  codes.map (fun c => seenLog f c false (amaxLog (logVal f 0 c)))

/-- What a PACK writes and counts, or none where the compressed form exceeds its allocation (R183 to R185, R205). The draws
take an element's index in the target object (R159). Form L16 has an L16 source (PLAN_LOAD; log 23). Forms L8-BS and L4-BS round
into their own format under the tag, also where the tag's TGT names the other one (DESIGN CHOICE, log 23: R173 and R205 do not
say). -/
def packForm (j : Job) (e : SeEntry) (bs : List Byte) (s : State) : Option (List Byte × List Seen) × State :=
  if e.form = 3 then (some (bs, packSeen fmtL16 (halves bs)), s)
  else if e.form = 2 then
    let z := zrlObject bs
    (if e.alloc < z.length then none else some (z, packSeen fmtL8 (bs.map (·.toNat))), s)
  else
    let w := (tagWord s j e.tag).getD 0
    let vals := packSrc e.srcFmt bs
    let off := offsetAt s j.tenant e.va
    let (us, s) := engineDraws (tagSr w) j e.stack e.gen (if e.form = 1 then 2 * off else off) vals.length s
    let (cs, ks, seen) := scaleBlocks w (tagScale j e.tag w) (if e.form = 1 then 0 else 1) vals us
    (some (codeBytes (if e.form = 1 then 0 else 1) cs ++ ks.map (BitVec.ofInt 8), seen), s)

/-- The bytes that an entry writes at its address. -/
def putForm (j : Job) (e : SeEntry) (bs : List Byte) (s : State) : State :=
  writeVa noFar j.tenant [] e.va bs s 0

/-- SE_PACK: a saved-activation form; its bursts are those of the source and those that it writes (R183, R184, R185, R205). -/
def execSePack (t slot : Nat) (work : Ended) (s : State) : Res :=
  let s := tick t s
  .next (match seEntry s slot work.item 4 with
    | none => s
    | some (j, e, at_) =>
      let src := placesOf s j.tenant [] e.srcVa (elemBytes e.srcFmt e.count) false
      let out := ((packForm j e (readPlaces s src []) s).1.map (·.1.length)).getD e.alloc
      seRun slot work.item work.err j e at_ out (src ++ placesOf s j.tenant [] e.va out true) (fun s =>
        match packForm j e (readPlaces s src []) s with
        | (none, s) => raiseJob 0x183 slot s e.stack
        | (some (bs, seen), s) => putForm j e bs (censusAdd j.tenant e.tag seen s)) s)

/-- SE_UNPACK: plain L8 of a ZRL8 object, in the order of the tensor (R205). -/
def execSeUnpack (t slot : Nat) (work : Ended) (s : State) : Res :=
  let s := tick t s
  .next (match seEntry s slot work.item 5 with
    | none => s
    | some (j, e, at_) =>
      let src := placesOf s j.tenant [] e.srcVa e.alloc false
      seRun slot work.item work.err j e at_ 0 (src ++ placesOf s j.tenant [] e.va e.count true) (fun s =>
        putForm j e (unzrl e.count (readPlaces s src [])) s) s)

/-- SE_ZERO: `count` bytes of zeros, and the commit records of the pages FREE (R195, R214). -/
def execSeZero (t slot entry : Nat) (s : State) : Res :=
  let s := tick t s
  .next (match seEntry s slot entry 6 with
    | none => s
    | some (j, e, at_) =>
      let dst := placesOf s j.tenant [] e.va e.count true
      seRun slot entry .ok j e at_ 0 dst (fun s => dst.foldl (fun s p => match p.1 with
        | .hbm k first => { hbmWrite k first (List.replicate p.2 0) s with recs := tdel s.recs (k / 65536) }
        | _ => s) s) s)

end Sys2Proof.Machine
end

