-- ==== Sys2Proof/Machine/Strips.lean ====
section
/-! DEFINITION. UPDATE: pre-passes, strips and their commit records, roll-forward (spec/08 R206 to R212, R217; spec/09 R220 to
R238). -/

namespace Sys2Proof.Machine

/-! ### What a part holds (R222 to R224) -/

/-- Unscaled gradient (R176, R227). -/
def unscale (ls c : Nat) : W32 := roundX32 (scaleVal (-(ls : Int)) (x32Val (lin16 c)))

/-- The gradient codes of a strip: at its place in the gradient's own part (R222). -/
def gradCodes (s : State) (d : Descriptor) (e : SeEntry) (i : Nat) : List Nat :=
  halves (objRead s d.grad (partStart s d.grad e.stack + 65536 * i) (2 * stripVals d e i))

/-- The bytes of an L8-BS strip of `n` values of a moment object: codes, then a scale for each 64 of them (R222). -/
def momentBytes (s : State) (h stack i n : Nat) : List Byte :=
  let b := partStart s h stack + 33280 * i
  objRead s h b n ++ objRead s h (b + 32768) (ceilDiv n 64)

/-- Their linear values. -/
def momentVals (n : Nat) (bs : List Byte) : List W32 :=
  let ks := bs.drop n
  (bs.take n).zipIdx.map (fun x => linLog (logVal fmtL8 (sext 8 ((ks[x.2 / 64]?).getD 0).toNat) x.1.toNat))

/-- Write them back: values beyond the part are not written (R221). -/
def putMoments (h stack i n : Nat) (bs : List Byte) (s : State) : State :=
  let b := partStart s h stack + 33280 * i
  objWrite h (b + 32768) (bs.drop n) (objWrite h b (bs.take n) s)

/-- A pre-pass header: STEP, JOB, STATE, SLOT, OBJECT (R223). -/
structure PrepHdr where
  step : Nat
  job : Nat
  state : Nat
  slot : Nat
  object : Nat
deriving DecidableEq, Repr

/-- The header that bytes spell. -/
def headerOf (b : List Byte) : PrepHdr :=
  { step := leNat (b.take 8), job := leNat ((b.drop 8).take 2), state := leNat ((b.drop 10).take 1),
    slot := leNat ((b.drop 11).take 1) % 2, object := leNat ((b.drop 12).take 4) }

/-- The bytes of a header. -/
def headerBytes (h : PrepHdr) : List Byte :=
  leBytes 8 h.step ++ leBytes 2 h.job ++ leBytes 1 h.state ++ leBytes 1 h.slot ++ leBytes 4 h.object ++ List.replicate 48 0

/-- A part's pre-pass header as it stands. -/
def prepHeader (s : State) (d : Descriptor) (e : SeEntry) : PrepHdr :=
  headerOf (objRead s (headerAt s d e).1 (headerAt s d e).2 16)

/-- A part's header is written. -/
def putHeader (d : Descriptor) (e : SeEntry) (h : PrepHdr) (s : State) : State :=
  objWrite (headerAt s d e).1 (headerAt s d e).2 (headerBytes h) s

/-- A part's header and current sketch slot, as the part buffer takes them (R190, R238). -/
def partBuffer (s : State) (d : Descriptor) (e : SeEntry) : List Byte :=
  let (h, off) := headerAt s d e
  objRead s h off 64 ++ objRead s h (off + 64 + (prepHeader s d e).slot * partSlot d e) (partSlot d e)

/-- The factors of a sketch slot, linear, by rows of r: row factor, then column factor (R222). -/
def sketchOf (d : Descriptor) (e : SeEntry) (slot : List Byte) : List (List W32) × List (List W32) :=
  let r := rankOf d
  let p := partRows d e
  let xs := (halves slot).map lin16
  (chunksOf r p (xs.take (r * p)), chunksOf r d.cols ((xs.drop (r * p)).take (r * d.cols)))

/-- The part's unscaled gradient by rows. -/
def gradRows (s : State) (j : Job) (d : Descriptor) (e : SeEntry) : List (List W32) :=
  let g := ((List.range e.strips).map (fun i => (gradCodes s d e i).map (unscale j.ls))).flatten
  chunksOf (max 1 d.cols) (partRows d e) g

/-- An L16 code that is no finite value. -/
def wild16 (c : Nat) : Bool := match logVal fmtL16 0 c with | .nan => true | .inf _ => true | _ => false

/-- What L16 results count: no conversion saturates into them. -/
def seen16 (cs : List Nat) : List Seen := cs.map (fun c => seenLog fmtL16 c false (amaxLog (logVal fmtL16 0 c)))

/-- A plan lists a GRAD tag (R168). -/
def listsGrad (p : PlanImage) : Bool := p.tags.any (fun t => tagGrad t.2)

/-- The step's verdict is dirty: the combined one where it is known, else the local one; a step of a plan that lists no GRAD tag
counts as clean (R168, R177 to R179). -/
def verdictDirty (s : State) (j : Job) : Bool := (imageOf s j).any listsGrad && j.verdict.getD j.dirty

/-! ### Commit records and counters (R207, R219) -/

/-- Write a strip's commit record (R207). -/
def putRec (u : UpdRun) (d : Descriptor) (p : StripRun) (st : Nat) (s : State) : State :=
  match recKey s u.part.object (u.part.firstStrip + p.idx) with
  | none => s
  | some k =>
    let r : CommitRec :=
      { step := u.step, job := u.job, state := st, buffer := p.buffer, stochastic := !bitOf d.flags 0, object := u.part.object }
    { s with recs := tput s.recs k r }

/-- A strip is left untouched: DONE at this step for this object (R210). -/
def stripDone (s : State) (u : UpdRun) (i : Nat) : Bool :=
  match (recKey s u.part.object (u.part.firstStrip + i)).bind (look s.recs) with
  | some r => r.state = 5 && r.step = u.step && r.object = u.part.object
  | none => false

/-- Per-job counters of a stack (R219). -/
def seJobCtr (stack off slot : Nat) (s : State) : State := bump (rkey (0x400000 + 0x10000 * stack + off) slot) 32 1 s

/-! ### Strips in their turn (R190, R206, R208) -/

/-- The strip buffers of a stack in use (R190). -/
def buffersUsed (s : State) (stack : Nat) : List Nat :=
  ((s.upds.filter (fun u => u.2.stack = stack && u.2.mode ≠ 1)).map (fun u => u.2.strips.map (·.buffer))).flatten

/-- The lowest free strip buffer of a stack (DESIGN CHOICE, log 23: the rules do not say which). -/
def freeBuffer (s : State) (stack : Nat) : Option Nat := (List.range 7).find? (fun b => !(buffersUsed s stack).contains b)

/-- The work of a strip's phase, or of a pre-pass's or a zeroing's. -/
def stripPhaseOf (s : State) (u : UpdRun) (d : Descriptor) (i ph : Nat) : Phase :=
  if u.mode = 2 then ((prepPhases s d u.part)[i]?).getD { ranges := [], lanes := 0 } else stripPhase s d u.part i ph

/-- First cc, end and deferred bursts of a phase: as planned, or, off the plan, from the next burst period from a cc on
(R196, R208, R209). -/
def phaseSpan (s : State) (u : UpdRun) (d : Descriptor) (i ph c : Nat) : Nat × Nat × Nat :=
  match if u.retimed then none else look u.sched (8 * i + ph) with
  | some x => x
  | none => phaseFrom s u.slot u.job u.stack c (stripPhaseOf s u d i ph)

/-- A strip's next phase may start: COMPUTE once no older strip is in READ or COMPUTE, the copy phases and FINISH once no older
strip is in flight (R206). -/
def itsTurn (u : UpdRun) (p : StripRun) : Bool :=
  if p.phase = 1 then !u.strips.any (fun q => q.idx < p.idx && q.phase ≤ 1)
  else if 3 ≤ p.phase then u.mode ≠ 0 || !u.strips.any (·.idx < p.idx)
  else true

/-- Start the phases whose turn has come; a copy phase rewrites the STATE of the strip's record as it starts (R206, R207). -/
def wake (run : Nat) (d : Descriptor) : List StripRun → State → State
  | [], s => s
  | p :: r, s => match look s.upds run with
    | none => s
    | some u =>
      if p.due.isSome ∨ ¬ itsTurn u p then wake run d r s else
      let x := phaseSpan s u d p.idx p.phase (if u.kick = 0 then s.now else u.kick)
      let u' := { u with strips := u.strips.map (fun q => if q.idx = p.idx then
        { q with ready := x.1, due := some x.2.1, deferred := x.2.2 } else q) }
      let s := { s with upds := tput s.upds run u' }
      wake run d r (if u.mode = 0 ∧ 3 ≤ p.phase ∧ p.phase ≤ 5 then putRec u d p (p.phase - 1) s else s)

/-- The next strip of an update enters READ once none is in READ and a strip buffer is free; on a re-run a strip that is DONE at
this step is left untouched and counted (R190, R206, R210). -/
def nextStrip (run : Nat) (d : Descriptor) : Nat → State → State
  | 0, s => s
  | n + 1, s => match look s.upds run with
    | none => s
    | some u =>
      if u.status ≠ 1 ∨ u.n ≤ u.next ∨ u.strips.any (·.phase = 0) then s
      else if u.mode = 0 ∧ u.rerun ∧ stripDone s u u.next then
        nextStrip run d n (seJobCtr u.stack 0x11C u.slot { s with upds := tput s.upds run { u with next := u.next + 1, done := u.done + 1 } })
      else match freeBuffer s u.stack with
        | none => s
        | some b =>
          let c := max s.now u.readAt
          let late := match look u.sched (8 * u.next) with | some x => decide (x.1 + 33 ≤ c) | none => true
          let u := { u with retimed := u.retimed || late }
          let x := phaseSpan s u d u.next 0 c
          let p : StripRun :=
            { idx := u.next, phase := 0, buffer := b, ready := x.1, due := some x.2.1, w := [], g := [], m1 := [], m2 := [], o := []
              deferred := x.2.2, seen := [] }
          { s with upds := tput s.upds run { u with next := u.next + 1, strips := u.strips ++ [p] } }

/-- One update goes on as far as it may now. -/
def pumpUpd (run : Nat) (s : State) : State :=
  match look s.upds run with
  | none => s
  | some u => match descOf s u.master with
    | none => s
    | some d =>
      let s := wake run d u.strips s
      let s := { s with upds := tmod s.upds run (fun u => { u with kick := 0 }) }
      if u.mode = 0 then nextStrip run d (u.n + 1) s else s

/-- The updates of a stack go on: a strip buffer may have become free. -/
def pumpStack (stack : Nat) (s : State) : State :=
  (s.upds.filter (fun u => u.2.stack = stack && u.2.status ≠ 2 && u.2.status ≠ 3 && u.2.status ≠ 0)).foldl (fun s u => pumpUpd u.1 s) s

/-- Replace a strip of an update, or take it out. -/
def setStrip (u : UpdRun) (p : StripRun) : UpdRun :=
  { u with strips := u.strips.map (fun q => if q.idx = p.idx then p else q) }
def dropStrip (u : UpdRun) (p : StripRun) : UpdRun := { u with strips := u.strips.filter (·.idx ≠ p.idx) }

/-- An update is interrupted by a fault of the engine's lanes or strip buffer (R208, R217). -/
def interruptRun (run : Nat) (u : UpdRun) (s : State) : State :=
  let u' := stopUpd s.now u
  let s := workDone u.slot u.entry { s with upds := tput s.upds run u' }
  pumpStack u.stack (if u'.status = 3 then irqSet (0x400184 + 0x10000 * u.stack) 2 s else s)

/-- An update after one of its strips has finished or been lost: complete, torn, or rolled forward (R209, R210). -/
def settleUpd (run : Nat) (s : State) : State :=
  match look s.upds run with
  | none => s
  | some u =>
    if u.mode = 0 ∧ (u.status = 5 ∨ u.status = 4) ∧ u.strips.isEmpty then
      let u := if u.status = 5 then { u with status := settledUpd u } else u
      irqSet (0x400184 + 0x10000 * u.stack) (if u.status = 3 then 10 else 8) { s with upds := tput s.upds run u }
    else if u.status = 1 ∧ u.done = u.n then
      workDone u.slot u.entry { s with upds := if u.mode = 0 then tput s.upds run { u with status := 2 } else tdel s.upds run }
    else s

/-! ### Starting (R212, R226, R233, R234) -/

/-- An earlier update left the same part of the object torn (R210). -/
def tornBefore (e : SeEntry) (u : UpdRun) : Bool :=
  u.mode = 0 && u.status = 3 && u.stack = e.stack && u.master = e.object && u.part.firstStrip = e.firstStrip

/-- An update of a job's entry with nothing done. -/
def freshUpd (slot entry : Nat) (j : Job) (e : SeEntry) (mode n : Nat) (sched : Tab (Nat × Nat × Nat)) (readAt : Nat) : UpdRun :=
  { slot, entry, stack := e.stack, step := j.step, n, status := 1, mode, next := 0, done := 0, strips := [], job := j.id,
    master := e.object, rerun := false, torn := false, part := e, sketch := [], sched, retimed := false, readAt
    tenant := j.tenant, kick := 0 }

/-- Put an update on its stack. -/
def addUpd (u : UpdRun) (s : State) : State := { s with upds := tput s.upds s.nextUpd u, nextUpd := s.nextUpd + 1 }

/-- A work item of a pre-pass or a zeroing. -/
def soleStrip (idx phase buffer : Nat) : StripRun :=
  { idx, phase, buffer, ready := 0, due := none, w := [], g := [], m1 := [], m2 := [], o := [], deferred := 0, seen := [] }

/-- A zeroing of the gradient in the burst periods planned for ZERO_G (R212). -/
def startZero (slot entry : Nat) (j : Job) (d : Descriptor) (e : SeEntry) (at_ : Nat) (s : State) : State :=
  let u := freshUpd slot entry j e 1 e.strips (passTimes s d e at_) at_
  pumpUpd s.nextUpd (addUpd { u with next := e.strips, strips := [soleStrip 0 5 7] } s)

/-- A pre-pass, in one strip buffer, unless its header is complete for this step, job and object (R233, R234). -/
def startPrep (slot entry : Nat) (j : Job) (d : Descriptor) (e : SeEntry) (at_ : Nat) (s : State) : State :=
  let h := prepHeader s d e
  if h.state = 1 ∧ h.step = j.step ∧ h.job = j.id ∧ h.object = e.object then
    workDone slot entry (bump (rkey 0x22028 slot) 32 1 s)
  else match freeBuffer s e.stack with
    | none => s
    | some b =>
      let ps := prepPhases s d e
      let u := freshUpd slot entry j e 2 ps.length (phaseTimes s ps e.startBp at_) at_
      let u := { u with
        next := ps.length, retimed := decide (at_ + 33 * (e.startBp + 1) ≤ s.now), strips := [soleStrip 0 0 b]
        sketch := if hasSketch d.rule then partBuffer s d e else [] }
      pumpUpd s.nextUpd (addUpd u s)

/-- A strip of the part is LOST: its object stays unusable until its pages are mapped afresh (R208, R210). -/
def partLost (s : State) (e : SeEntry) : Bool :=
  s.recs.any (fun r => r.2.object = e.object && r.2.state = 6) || s.upds.any (fun u => u.2.master = e.object && u.2.status = 4)

/-- A strip pass, unless its header is not complete for this step (R206, R210, R234). -/
def startPass (slot entry : Nat) (j : Job) (d : Descriptor) (e : SeEntry) (at_ : Nat) (s : State) : State :=
  let h := prepHeader s d e
  if (hasSketch d.rule || hasX0 d.rule) ∧ ¬ (h.state = 1 ∧ h.step = j.step) then
    raiseJob 0x185 slot (workDone slot entry (bump (rkey 0x2202E slot) 16 1 s)) e.stack
  else
    let late := decide (at_ + 33 * (e.startBp + 1) ≤ s.now)
    let sketch := sketchPhase s d e
    let readAt := if late then sketch.foldl (fun c p => (phaseFrom s slot j.id e.stack c p).2.1) s.now else 0
    let u := freshUpd slot entry j e 0 e.strips (passTimes s d e at_) readAt
    let u := { u with
      rerun := (List.range e.strips).any (stripDone s u), torn := s.upds.any (fun x => tornBefore e x.2), retimed := late
      sketch := if hasSketch d.rule then partBuffer s d e else [] }
    let s := { s with upds := s.upds.filter (fun x => !(tornBefore e x.2 ||
      (x.2.slot = slot && x.2.stack = e.stack && x.2.mode = 0 && (x.2.status = 0 || x.2.status = 2)))) }
    settleUpd s.nextUpd (pumpUpd s.nextUpd (addUpd u s))

/-- SE_UPDATE: a pre-pass, or the strips' first READ, or after a dirty verdict the zeroing of the gradient alone (R206,
R212, R233, R234); it waits for the VERDICT operation it names (R178), and for its pages (R257). An error is met as the header
is read. An object with a LOST strip is not updated: SE_TORN against the job, as for a stream (R210; DEDUCED, log 23, that this
is the source). -/
def execSeUpdate (t slot : Nat) (work : Ended) (s : State) : Res :=
  let entry := work.item
  let s := tick t s
  .next (match seEntry s slot entry 3 with
    | none => s
    | some (j, e, at_) =>
      match descOf s e.object with
      | none => s
      | some d =>
        let held := match e.waitOp with
          | some op => !j.cor.any (fun c => c.op = op && c.phase = 2)
          | none => false
        if held || s.upds.any (fun u => u.2.slot = slot && u.2.entry = entry && u.2.status = 1) then s
        else if ¬ (partWaits s d e).isEmpty then (partWaits s d e).foldl (fun s x => startMove x.1 x.2 s) s
        else
          let (ok, s) := engErr slot e.stack work.err s
          if ¬ ok then workDone slot entry s
          else if partLost s e then raiseJob 0x082 slot (workDone slot entry s) e.stack
          else if verdictDirty s j then (if e.prep then workDone slot entry s else startZero slot entry j d e at_ s)
          else if e.prep then startPrep slot entry j d e at_ s
          else startPass slot entry j d e at_ s)

/-! ### Pre-passes (R230 to R236) -/

/-- The X0 values of a strip (R236). -/
def x0Strip (s : State) (j : Job) (d : Descriptor) (e : SeEntry) (h : Hyp) (i : Nat) : List Nat :=
  let g := (gradCodes s d e i).map (unscale j.ls)
  if d.rule = 0x10 then
    let m := momentVals g.length (momentBytes s d.mom1 e.stack i g.length)
    List.zipWith (fun g m8 => toL16 (fmaX h.b1 (fmaX h.b1 m8 g) g)) g m
  else g.map toL16

/-- The new sketch of a part, in X32 (R230, R231). -/
def newSketch (s : State) (j : Job) (d : Descriptor) (e : SeEntry) (h : Hyp) (slot : List Byte) : List W32 :=
  let (a, b) := sketchOf d e slot
  let g := gradRows s j d e
  let one := fun (m : List (List W32)) => m.map (fun r => (r.head?).getD 0)
  let (a', b') := if d.rule = 3 then
      (let (x, y) := sketch3 h (partRows d e) d.cols (one a) (one b) g; (x.map ([·]), y.map ([·])))
    else sketch4 h (partRows d e) (rankOf d) a b g
  (a' ++ b').flatten

/-- What rounding X32 values to L16 counts: AMAX on the source (R165). -/
def seenRound (xs : List W32) : List Seen :=
  xs.map (fun x => let r := convVal fmtL16 1 0 (x32Val x); seenLog fmtL16 r.code r.sat (amaxVal (x32Val x)))

/-- A phase of a pre-pass is done: X0 is marked WRITING, written strip by strip, and committed; a sketch is written to the
other slot and committed with its header. A sketch value that is not finite is not committed and aborts the job as R229 has
it; the census counts sketch values under the descriptor's tag (R220, R229, R233). -/
def prepPhase (slot : Nat) (j : Job) (d : Descriptor) (u : UpdRun) (k : Nat) (s : State) : State :=
  let e := u.part
  let h := hypAt j.hyps d.hyp
  let done : PrepHdr := { step := u.step, job := j.id, state := 1, slot := 0, object := e.object }
  if hasSketch d.rule then
    if k + 1 < u.n then s else
    let xs := newSketch s j d e h (u.sketch.drop 64)
    let codes := xs.map toL16
    if codes.any wild16 then raiseJob 0x184 slot (bump (rkey 0x2202C slot) 16 1 s) e.stack else
    let s := if bitOf d.mtag 15 then censusAdd j.tenant (d.mtag % 1024) (seenRound xs) s else s
    let nw := 1 - (headerOf u.sketch).slot
    let s := objWrite d.mom2 ((headerAt s d e).2 + 64 + nw * partSlot d e) ((codes.map (leBytes 2)).flatten) s
    putHeader d e { done with slot := nw } s
  else if k = 0 then putHeader d e { prepHeader s d e with state := 2, slot := 0 } s
  else if k + 1 < u.n then
    objWrite d.x0 (partStart s d.x0 e.stack + 65536 * (k - 1)) (((x0Strip s j d e h (k - 1)).map (leBytes 2)).flatten) s
  else putHeader d e done s

/-! ### The phases of a strip (R206, R227 to R229, R236) -/

/-- What READ brings into the strip buffer (R190, R206). -/
def readStrip (s : State) (d : Descriptor) (e : SeEntry) (p : StripRun) : StripRun :=
  let n := stripVals d e p.idx
  { p with
    w := halves (objRead s e.object (65536 * (e.firstStrip + p.idx)) (2 * n))
    g := if d.rule = 0x11 then [] else gradCodes s d e p.idx
    m1 := if hasM1 d.rule then momentBytes s d.mom1 e.stack p.idx n else []
    m2 := if hasM2 d.rule then momentBytes s d.mom2 e.stack p.idx n else []
    o := if hasX0 d.rule then halves (objRead s d.out (partStart s d.out e.stack + 65536 * p.idx) (2 * n)) else [] }

/-- The v̂ of every value of a strip, from the part buffer (R230, R231). -/
def stripVhat (d : Descriptor) (e : SeEntry) (sketch : List Byte) (i n : Nat) : List W32 :=
  if hasSketch d.rule then
    let (a, b) := sketchOf d e (sketch.drop 64)
    let p := partRows d e
    let nc := max 1 d.cols
    if d.rule = 3 then
      let a := a.map (fun r => (r.head?).getD 0)
      let b := b.map (fun r => (r.head?).getD 0)
      let mu := mulX (sumX a) (recipX (intToX p))
      (List.range n).map (fun q => vhat3 mu a b ((32768 * i + q) / nc) ((32768 * i + q) % nc))
    else
      let cols := (List.range (rankOf d)).map (colSums p a b)
      (List.range n).map (fun q => vhat4 cols a b ((32768 * i + q) / nc) ((32768 * i + q) % nc))
  else List.replicate n 0

/-- New moments in blocks of 64 under their own scales (R228): codes, then scales, and what the census sees. -/
def packMoments (sr : Bool) (vals : List W32) (us : List Nat) : List Byte × List Seen :=
  let enc := (chunksOf 64 512 (List.zip vals us)).map (fun b =>
    let vs := b.map (fun x => x32Val x.1)
    let k := blockScale 1 (blockPos vs)
    (b.map (fun x => (convVal fmtL8 (if sr then 3 else 1) x.2 (scaleVal (-k) (x32Val x.1)), amaxVal (x32Val x.1))), k))
  ((enc.map (fun x => x.1.map (fun r => (BitVec.ofNat 8 r.1.code : Byte)))).flatten ++ enc.map (fun x => (BitVec.ofInt 8 x.2 : Byte)),
   (enc.map (fun x => x.1.map (fun r => seenLog fmtL8 r.1.code r.1.sat r.2))).flatten)

/-- New moments of a strip with their draws, where the rule keeps them. -/
def roundMoments (has : Bool) (j : Job) (d : Descriptor) (e : SeEntry) (e0 : Nat) (vals : List W32) (s : State) :
    (List Byte × List Seen) × State :=
  if has then
    let srs := bitOf d.flags 1
    let (us, s) := engineDraws srs j e.stack e.gen e0 vals.length s
    (packMoments srs vals us, s)
  else (([], []), s)

/-- COMPUTE of a strip: new masters and moments over the inputs in its buffer, with what they will count (R165, R206, R227 to
R229, R236); not where one is an infinity or a NaN. -/
def computeStrip (j : Job) (d : Descriptor) (u : UpdRun) (p : StripRun) (s : State) : Option StripRun × State :=
  let e := u.part
  let n := stripVals d e p.idx
  let h := hypAt j.hyps d.hyp
  let gs := p.g.map (unscale j.ls)
  let ms := momentVals n p.m1
  let rs := momentVals n p.m2
  let vs := stripVhat d e u.sketch p.idx n
  let res := (List.range n).map (fun q =>
    elemRule d.rule (j.optStep + 1) h { w := lin16 ((p.w[q]?).getD 0), g := (gs[q]?).getD 0, m := (ms[q]?).getD 0,
                                        r := (rs[q]?).getD 0, v := (vs[q]?).getD 0, o := lin16 ((p.o[q]?).getD 0) })
  let e0 := 32768 * (e.firstStrip + p.idx)
  let rn := bitOf d.flags 0
  let (us, s) := engineDraws (!rn) j e.stack e.gen e0 n s
  let new := (List.range n).map (fun q =>
    combine16 ((p.w[q]?).getD 0) ((res[q]?).elim 0 (·.delta)) d.e rn ((us[q]?).getD 0))
  let ((m1, seen1), s) := roundMoments (hasM1 d.rule) j d e e0 (res.map (·.m)) s
  let ((m2, seen2), s) := roundMoments (hasM2 d.rule) j d e e0 (res.map (·.r)) s
  if new.any wild16 || (seen1 ++ seen2).any (fun x => x.nan || x.inf) then (none, s) else
  (some { p with w := new, m1, m2
                 seen := (e.tag, seen16 new) :: (if bitOf d.mtag 15 then [(d.mtag % 1024, seen1 ++ seen2)] else []) }, s)

/-- An object's tenants. -/
def tenantsOf (s : State) (h : Nat) : List Nat := match look s.objs h with | some o => o.maps.map (·.tenant) | none => []

/-- A phase of a strip ends and its next one waits for its turn. -/
def phaseOver (run : Nat) (u : UpdRun) (p : StripRun) (s : State) : State :=
  { s with upds := tput s.upds run (setStrip u { p with phase := p.phase + 1, due := none }) }

/-- The bursts and lane-cycles of a phase that is over (R194, R436). -/
def phaseWork (u : UpdRun) (d : Descriptor) (p : StripRun) (s : State) : State :=
  engineWork u.slot u.stack (stripPhaseOf s u d p.idx p.phase) p.deferred s

/-- A strip before STAGE: READ checks the gradient (R180, R208), COMPUTE runs the rule and checks its values (R229). An error of
the strip buffer is an interruption, and so is one of the lanes, which aborts the job too (R208, R217). -/
def earlyPhase (run : Nat) (u : UpdRun) (j : Job) (d : Descriptor) (p : StripRun) (err : EngErr) (s : State) : State :=
  if err = .stage true then interruptRun run u s else
  if err = .lane then raiseJob 0x085 u.slot (interruptRun run u s) u.stack else
  let (ok, s) := engErr u.slot u.stack err s
  if ¬ ok then s
  else if p.phase = 0 then
    let q := readStrip s d u.part p
    if q.g.any wild16 then
      let tag := ((look s.objs d.grad).map (·.tag)).getD 0
      raiseJob 0x182 u.slot s (tag % 256) (tag / 256)
    else pumpStack u.stack (phaseOver run u q (phaseWork u d p s))
  else
    match computeStrip j d u p s with
    | (some q, s) => pumpStack u.stack (phaseOver run u q (phaseWork u d p s))
    | (none, s) =>
      raiseJob 0x184 u.slot (bump (rkey 0x2202C u.slot) 16 1 { s with upds := tput s.upds run (dropStrip u p) }) u.stack

/-- A strip from STAGE on: each phase writes from the buffer, and FINISH makes the new values readable, which counts them (R165,
R206 to R208, R211). An uncorrectable error of the buffer loses the
strip; a lane error runs the current phase again (R208, R217). -/
def latePhase (run : Nat) (u : UpdRun) (d : Descriptor) (p : StripRun) (err : EngErr) (s : State) : State :=
  let e := u.part
  let n := stripVals d e p.idx
  match err with
  | .stage true =>
    let u' := { u with status := 4, next := u.n, strips := (dropStrip u p).strips.filter (fun q => 2 ≤ q.phase) }
    let s := putRec u d p 6 { s with upds := tput s.upds run u' }
    let s := raise { src := 0x084, tenants := tenantsOf s e.object, unit := u.stack, sub := p.buffer } s
    settleUpd run (pumpStack u.stack s)
  | .lane => raiseJob 0x085 u.slot (interruptRun run u s) u.stack
  | _ =>
    let s := phaseWork u d p (engErr u.slot u.stack err s).2
    let s := match p.phase with
      | 2 => putRec u d p 1 (if u.rerun then seJobCtr u.stack 0x114 u.slot s else s)
      | 3 =>
        let s := if hasM1 d.rule then putMoments d.mom1 e.stack p.idx n p.m1 s else s
        if hasM2 d.rule then putMoments d.mom2 e.stack p.idx n p.m2 s else s
      | 4 => objWrite e.object (65536 * (e.firstStrip + p.idx)) ((p.w.map (leBytes 2)).flatten) s
      | 5 => objWrite d.grad (partStart s d.grad e.stack + 65536 * p.idx) (List.replicate (2 * n) 0) s
      | _ =>
        let s := p.seen.foldl (fun s x => censusAdd u.tenant x.1 x.2 s) (seJobCtr u.stack 0x110 u.slot (putRec u d p 5 s))
        if rollingUpd u then seJobCtr u.stack 0x118 u.slot s else s
    if p.phase < 6 then pumpStack u.stack (phaseOver run u p s)
    else
      let s := { s with upds := tput s.upds run { dropStrip u p with done := u.done + 1 } }
      settleUpd run (pumpStack u.stack s)

/-- A work item of a pre-pass or a zeroing is over, and the next one begins (R212, R233). An uncorrectable error of a pre-pass's
strip buffer is an interruption, before its header is written: what it wrote stays uncommitted, and it ends (R217, R233). -/
def solePhase (run : Nat) (u : UpdRun) (d : Descriptor) (p : StripRun) (err : EngErr) (s : State) : State :=
  match look s.jobs u.slot with
  | none => s
  | some j =>
    if u.mode = 2 ∧ err = .stage true then workDone u.slot u.entry { s with upds := tdel s.upds run } else
    let (ok, s) := engErr u.slot u.stack err s
    if ¬ ok then s else
    let s := phaseWork u d p s
    let s := if u.mode = 2 then prepPhase u.slot j d u p.idx s
      else objWrite d.grad (partStart s d.grad u.stack + 65536 * p.idx) (List.replicate (2 * stripVals d u.part p.idx) 0) s
    let strips := if p.idx + 1 < u.n then [soleStrip (p.idx + 1) p.phase p.buffer] else []
    settleUpd run (pumpStack u.stack { s with upds := tput s.upds run { u with done := u.done + 1, strips } })

/-- STRIP_PHASE_COMPLETE: the current phase of a strip in flight completes, not before its burst periods are over (R196, R206 to
R210). Before STAGE it needs its job; from STAGE on it rolls forward without it. -/
def execStripPhaseComplete (t run strip : Nat) (err : EngErr) (s : State) : Res :=
  let s := tick t s
  .next (if s.flt.c4.isSome then s else
    let s := if (look s.upds run).any (fun u => u.kick ≠ 0) then pumpUpd run s else s
    match look s.upds run with
    | none => s
    | some u =>
      match u.strips.find? (·.idx = strip), descOf s u.master with
      | some p, some d =>
        match p.due with
        | none => s
        | some c =>
          if s.now < c then s
          else if u.mode ≠ 0 then solePhase run u d p err s
          else if 2 ≤ p.phase then latePhase run u d p err s
          else match look s.jobs u.slot with
            | some j => earlyPhase run u j d p err s
            | none => s
      | _, _ => s)

end Sys2Proof.Machine
end

