-- ==== Sys2Proof/Machine/Tiers.lean ====
section
/-! DEFINITION. Movement of pages between tiers, the ephemeris and the plate vault (spec/10 R252 to R271), with the fill
engine, the scrubber and arriving sums of a stack (spec/08 R202, R203, R214 to R216). -/

namespace Sys2Proof.Machine

/-! ### Pins and votes (R253) -/

/-- Change a tenant's mapping of an object. -/
def modMap (h tenant : Nat) (f : Mapping → Mapping) (s : State) : State :=
  { s with objs := tmod s.objs h (fun o => { o with maps := o.maps.map (fun m => if m.tenant = tenant then f m else m) }) }

/-- A tenant holds at most one pin on a page. -/
def setPin (h tenant page : Nat) (s : State) : State :=
  modMap h tenant (fun m => { m with
    pins := if page ∈ m.pins then m.pins else m.pins ++ [page], pinAt := tput m.pinAt page s.now }) s

/-- The frame record of a page, wherever it stands between tiers. -/
def frameOf (s : State) (h page : Nat) : Option Nat :=
  match look s.objs h with
  | some o => match look o.loc page with | some f => some f | none => promoting s h page
  | none => none

/-- A release vote: the tenant's pin clears, unless it arrived together with the vote, and VOTE sets; a vote on a page that
stays pinned is counted for the tenant's jobs (R253, R254, R272). -/
def castVote (h tenant page : Nat) (s : State) : State :=
  let s := modMap h tenant (fun m =>
    if look m.pinAt page = some s.now then m else { m with pins := m.pins.filter (· ≠ page) }) s
  let s := match frameOf s h page with
    | some f => modFrame f (fun r => { r with voters := if tenant ∈ r.voters then r.voters else r.voters ++ [tenant] }) s
    | none => s
  if (look s.objs h).any (fun o => decide (0 < pinsOf o page)) then
    (slotsOf s [tenant]).foldl (fun s k => bump (rkey 0x500218 k) 32 1 s) s
  else s

/-! ### Entries of the ephemeris (R259 to R265) -/

/-- The ephemeris entry of a job's run. -/
def ephEntry (s : State) (j : Job) (entry : Nat) : Option EphEntry := (look s.plans j.plan).bind (fun p => p.eph[entry]?)

/-- The tier a page lies in (R241). -/
def tierOf (o : Obj) (page : Nat) : Nat := if (look o.loc page).isSome then 0 else o.home

def modEph (slot entry : Nat) (f : EphRun → EphRun) (s : State) : State :=
  modJob slot (fun j => { j with eph := j.eph.map (fun r => if r.entry = entry then f r else r) }) s

/-- cc from the start of an entry's deadline segment. Where that segment has not started, the rule states no value: a
free one stands in the record (log 3). -/
def doneCc (j : Job) (e : EphEntry) (s : State) : Nat × State :=
  if e.dlSegs = 0 then (s.now - j.segAt, s)
  else (Config.choice s.free % 2 ^ 32, { s with free := s.free + 1 })

/-- The deadline of an entry has passed at a cc of its arming segment (R262). -/
def pastDeadline (s : State) (j : Job) (e : EphEntry) : Bool := e.dlSegs = 0 && decide (j.segAt + e.dlCc < s.now)

/-- The record of an execution in the status array; it waits for a page that is on its way (R256, R265). -/
def writeStatus (slot entry outcome : Nat) (failed : Bool) (tier : Nat) (r : EphRun) (e : EphEntry) (s : State) : State :=
  match look s.jobs slot with
  | none => s
  | some j =>
    let (cc, s) := doneCc j e s
    let (l, f) := tget s.ephCnt (slot * 65536 + entry) (0, 0)
    let bs := leBytes 8 (toField 64 r.armM) ++ leBytes 1 (outcome + if failed then 8 else 0) ++
      leBytes 1 (tier + if r.mismatch then 8 else 0) ++ leBytes 2 0 ++ leBytes 4 r.done ++ leBytes 4 cc ++
      leBytes 4 l ++ leBytes 4 f ++ leBytes 4 0
    match (look s.plans j.plan) with
    | some p => writeHeld { tenant := some j.tenant, slot, va := p.status + 32 * entry, data := bs, ecc := .ok, src := none } s
    | none => s

/-- An execution ends with an outcome: 1 in time, 2 LATE, 3 FALLBACK, 4 FAILED (R261 to R265, R272). -/
def endEph (slot entry outcome : Nat) (failed : Bool) (tier : Nat) (s : State) : State :=
  match look s.jobs slot with
  | none => s
  | some j =>
    match j.eph.find? (·.entry = entry), ephEntry s j entry with
    | some r, some e =>
      let k := slot * 65536 + entry
      let (l, f) := tget s.ephCnt k (0, 0)
      let cnt := (if outcome = 2 then satAdd 32 l 1 else l, if outcome = 3 then satAdd 32 f 1 else f)
      let s := { s with ephCnt := tset s.ephCnt k cnt (0, 0) }
      let s := bump (rkey 0x500204 slot) 32 1 s
      let s := if 2 ≤ outcome then
          irqSet 0x500384 (2 ^ (outcome - 2))
            (bump (rkey (0x500208 + 4 * (outcome - 2)) slot) 32 1 (bump (rkey (0x500108 + 4 * (outcome - 2)) tier) 32 1 s))
        else s
      let s := writeStatus slot entry outcome failed tier r e s
      let s := modEph slot entry (fun r => { r with ended := true, going := false, left := [] }) s
      let s := if outcome ≤ 2 then (if e.sig then unitSignal slot e.sync 1 s else s)
        else if outcome = 3 then unitSignal slot e.sync (2 ^ 32) s else s
      checkDone slot s
    | _, _ => s

/-- A page of an entry is in HBM: it is counted, its pin stands, and with the last one the entry completes (R261). -/
def ephPage (slot entry page tier : Nat) (s : State) : State :=
  match look s.jobs slot with
  | none => s
  | some j =>
    match j.eph.find? (·.entry = entry), ephEntry s j entry with
    | some r, some e =>
      if r.ended ∨ ¬ r.armed ∨ ¬ page ∈ r.left then s else
      let left := r.left.filter (· ≠ page)
      let s := modEph slot entry (fun r => { r with left, done := r.done + 1 }) s
      let s := if e.pin then setPin e.object j.tenant page s else s
      if left.isEmpty then endEph slot entry (if pastDeadline s j e then 2 else 1) false tier s else s
    | _, _ => s

/-- Armed promotion entries that still run: (arming cc, slot, entry). -/
def ephRuns (s : State) (going : Bool) : List (Nat × Nat × Nat) :=
  (s.jobs.map (fun e => (e.2.eph.filter (fun r => r.armed && !r.ended && r.going = going)).map
    (fun r => (r.armAt, e.1, r.entry)))).flatten

/-- Queue order: arming cc, then job slot, then entry index (R261). -/
def ephLess (a b : Nat × Nat × Nat) : Bool :=
  decide (a.1 < b.1) || (a.1 = b.1 && (decide (a.2.1 < b.2.1) || (a.2.1 = b.2.1 && decide (a.2.2 < b.2.2))))

def ephInsert (x : Nat × Nat × Nat) : List (Nat × Nat × Nat) → List (Nat × Nat × Nat)
  | [] => [x]
  | y :: r => if ephLess x y then x :: y :: r else y :: ephInsert x r

/-- Start an entry's pages in ascending order; pages already in HBM complete at once (R261). -/
def startPages (slot entry : Nat) (s : State) : State :=
  match look s.jobs slot with
  | none => s
  | some j =>
    match j.eph.find? (·.entry = entry), ephEntry s j entry with
    | some r, some e =>
      r.left.foldl (fun s p =>
        if (look s.objs e.object).any (fun o => (look o.loc p).isSome) then ephPage slot entry p 0 s
        else startMove e.object p s) s
    | _, _ => s

/-- A command that waited for pages has them all (R252, R258, R382): OBJ_MAP answers its handle, OBJ_PLACE its pages. -/
def waitOver (cmd : Nat) (x : Exec) (s : State) : State :=
  if x.hdr.opcode = 0x0302 ∨ x.hdr.opcode = 0x0304 then done cmd (x.echo.getD 0) s
  else s

/-- A page has reached HBM for the commands that wait for it; PIN of OBJ_PLACE holds from here. -/
def cmdPage (h page : Nat) (s : State) : State :=
  s.cmds.foldl (fun s c =>
    if c.2.obj = h ∧ page ∈ c.2.left then
      let left := c.2.left.filter (· ≠ page)
      let s := if c.2.hdr.opcode = 0x0304 ∧ bitOf c.2.hdr.p2 40 then setPin h c.2.tenant page s else s
      if left.isEmpty then waitOver c.1 c.2 s else { s with cmds := tput s.cmds c.1 { c.2 with left } }
    else s) s

/-- Movements that can begin now: queued entries while fewer than 256 are in flight, and pages that wait for a frame
(R252, R261). -/
def pumpMoves (s : State) : State :=
  let run := (ephRuns s true).length
  let next := ((ephRuns s false).foldl (fun l x => ephInsert x l) []).take (256 - run)
  let s := next.foldl (fun s x => modEph x.2.1 x.2.2 (fun r => { r with going := true }) s) s
  let s := (ephRuns s true).foldl (fun s x => startPages x.2.1 x.2.2 s) s
  s.cmds.foldl (fun s c => if c.2.hdr.opcode = 0x0304 then c.2.left.foldl (fun s p => startMove c.2.obj p s) s else s) s

/-- A running segment lists a page (R257). -/
def pageListed (s : State) (h page : Nat) : Bool :=
  s.jobs.any (fun e => e.2.phase = 1 && (imageOf s e.2).any (fun p =>
    (p.pages.filter (·.segment = e.2.seg)).any (fun l => l.pages.any (fun va =>
      (hitAt s e.2.tenant va).any (fun x => x.handle = h && x.page = page)))))

/-- The page of a frame is RESIDENT: its translation takes the frame (R246, R256), it is locked where a running segment
lists it (R257), and whatever waited for it goes on. -/
def arrive (h page first tier : Nat) (s : State) : State :=
  match look s.objs h with
  | none => s
  | some o =>
    let s := { s with objs := tput s.objs h { o with loc := tput o.loc page first } }
    let s := modFrame first (fun f => { f with state := 2, dirty := false, written := false, copied := false, lock := pageListed s h page }) s
    let runs := (s.jobs.map (fun e => (e.2.eph.filter (fun r => (ephEntry s e.2 r.entry).any (·.object = h))).map
      (fun r => (e.1, r.entry)))).flatten
    let s := runs.foldl (fun s x => ephPage x.1 x.2 page tier s) s
    pumpMoves (cmdPage h page s)

/-- PROMOTION_COMPLETE: the last byte of a page's copy is in its new frame (R256). Flash pages come from the vault; the
bytes of host pages come with the command, those of remote pages in READ_RESP packets or with the command. `ce` is a
correctable error of a flash page (R271). -/
def execPromotionComplete (t obj page : Nat) (data : Arrival) (s : State) : Res :=
  let s := tick t s
  .next (match look s.objs obj, promoting s obj page with
    | some o, some f =>
      if (look s.frames f).any (fun r => r.state = 3 && decide (r.touched ≤ s.now)) ∧ ¬ msgOpen s (8 * f + 4) ∧
          ¬ o.lost.contains page then
        let n := pageBytes o.psize
        let s := if data.ce ∧ o.home = 2 then vaultCe (o.homeLoc + page) s else s
        let far := collected s (8 * f + 4)
        let bs := if o.home = 2 then tread s.flash ((o.homeLoc + page) * 65536) n 0 else if far.isEmpty then data.bytes else far
        let s := forget (8 * f + 4) (hbmPut (f * 65536) ((bs ++ List.replicate (n - bs.length) 0).take n) s)
        arrive obj page f o.home (bump (rkey 0x500114 o.home) 32 1 s)
      else s
    | _, _ => s)

/-- Copy a page's contents to its home tier, in open slots (R255, R268). -/
def copyHome (o : Obj) (page first : Nat) (s : State) : State :=
  let n := pageBytes o.psize
  let s := goNow none [(.hbm (first * 65536) first, n)] [(lowerPlace o page 0, n)] s
  writePlace (ownerOf o + 1) (farWrite 4096 (ownerOf o) 5) (lowerPlace o page 0) (hbmRead s (first * 65536) n) true s

/-- What the ECC of the reads of a page outside the plans reports: HBM_UE stands against the page's owner (R215). -/
def pageErr (ecc : Ecc) (first : Nat) (s : State) : State :=
  match ecc with
  | .ok => s
  | .ce => hbmCe (first / 2 ^ 20) s
  | .ue => hbmUe first none (pageOwner s first) s

/-- The page of a frame is in a flush (R268). -/
def flushing (s : State) (f : Nat) : Bool := s.vault.flushing.any (fun x => x.2.2 = f)

/-- The ends of a copy of a page to its home tier. -/
def homeEnds (o : Obj) (page first : Nat) : List (Place × Nat) × List (Place × Nat) :=
  ([(.hbm (first * 65536) first, pageBytes o.psize)], [(lowerPlace o page 0, pageBytes o.psize)])

/-- A copy of a page to its home tier waits: for an erased superblock of the vault, for a strip of the page under update, or for
open slots (R211, R255, R269). -/
def homeWaits (o : Obj) (page first : Nat) (s : State) : Bool :=
  let x := homeEnds o page first
  (o.home = 2 && (!s.vault.ready || (openBlock s).isNone)) ||
  stripWaitKey s (first * 65536) (pageBytes o.psize) false || !openNow s none x.1 x.2

/-- DEMOTION_COPY_COMPLETE: the copy of a dirty page has reached its home tier; the next meridian decides (R255). A copy to the
vault waits for an erased superblock; in a read-only vault it does not take place and the page stays in HBM (R269, R270); nor does it
where a read of the page is uncorrectable (R215). -/
def execDemotionCopyComplete (t obj : Nat) (read : PageRead) (s : State) : Res :=
  let page := read.page
  let s := tick t s
  .next (match look s.objs obj with
    | none => s
    | some o =>
      match look o.loc page with
      | none => s
      | some f =>
        if ¬ (look s.frames f).any (fun r => r.state = 4 && !r.copied) ∨ flushing s f then s
        else if o.home = 2 ∧ s.vault.readOnly then modFrame f (fun r => { r with state := 2 }) s
        else if homeWaits o page f s then s
        else if read.ecc = .ue then modFrame f (fun r => { r with state := 2 }) (pageErr .ue f s)
        else modFrame f (fun r => { r with copied := true }) (copyHome o page f (pageErr read.ecc f s)))

/-- EPH_ENTRY_ARM: at ARM_CC of its segment a demotion entry casts the tenant's votes and is complete; a promotion entry
begins or queues (R261). -/
def execEphEntryArm (t slot entry : Nat) (s : State) : Res :=
  let s := tick t s
  .next (match look s.jobs slot with
    | none => s
    | some j =>
      match j.eph.find? (·.entry = entry), ephEntry s j entry with
      | some r, some e =>
        if r.armed ∨ j.phase ≠ 1 ∨ j.aborted.isSome ∨ s.now < j.segAt + e.armCc then s else
        let off := (look s.objs e.object).any (fun o => r.left.any (fun p => tierOf o p ≠ e.src))
        let s := modEph slot entry (fun r => { r with armed := true, armAt := s.now, armM := s.mer.count, mismatch := off }) s
        if e.dst ≠ 0 then
          let s := r.left.foldl (fun s p => castVote e.object j.tenant p s) s
          let s := modEph slot entry (fun r => { r with done := r.left.length }) s
          endEph slot entry (if pastDeadline s j e then 2 else 1) false e.src s
        else pumpMoves s
      | _, _ => s)

/-- An access waits for a page: a copy, a packet held for paging, or a read of BAR4. -/
def awaited (s : State) (h page : Nat) : Bool :=
  s.cores.any (fun c => c.2.mq.any (fun m => (waitsOf (m.sp ++ m.dp)).any (fun w => w.1 = h && w.2.1 = page))) ||
  s.holds.any (fun x => x.2.pages.contains (h, page)) ||
  s.pcie.reads.any (fun r => r.2.1 ≠ 0 &&
    (waitsOf (placesOf s (r.2.1 - 1) [] r.2.2.1 r.2.2.2.1 false)).any (fun w => w.1 = h && w.2.1 = page))

/-- A page is wanted by something other than one entry. -/
def wanted (s : State) (h page slot entry : Nat) : Bool :=
  s.jobs.any (fun x => x.2.eph.any (fun r => r.armed && !r.ended && r.left.contains page && !(x.1 = slot && r.entry = entry) &&
    (ephEntry s x.2 r.entry).any (·.object = h))) ||
  s.cmds.any (fun c => c.2.obj = h && c.2.left.contains page) || awaited s h page

/-- Cancel an entry's remaining pages: data still arriving is discarded and translations stay (R263). -/
def cancelPages (slot entry h : Nat) (r : EphRun) (s : State) : State :=
  r.left.foldl (fun s p =>
    if wanted s h p slot entry then s else
    match promoting s h p, look s.objs h with
    | some f, some o =>
      if (look s.frames f).any (·.state = 3) then releaseFrame f (pageFrames o.psize) (abandon (8 * f + 4) s) else s
    | _, _ => s) s

/-- The tier of the last page of an entry that is not in HBM. -/
def leftTier (s : State) (h : Nat) : Nat := ((look s.objs h).map (·.home)).getD 0

/-- EPH_DEADLINE_FALLBACK: cc DL_CC + 1 of a privileged entry that has not completed (R263). -/
def execEphDeadlineFallback (t slot entry : Nat) (s : State) : Res :=
  let s := tick t s
  .next (match look s.jobs slot with
    | none => s
    | some j =>
      match j.eph.find? (·.entry = entry), ephEntry s j entry with
      | some r, some e =>
        if e.priv ∧ r.armed ∧ ¬ r.ended ∧ pastDeadline s j e then
          pumpMoves (endEph slot entry 3 false (leftTier s e.object) (cancelPages slot entry e.object r s))
        else s
      | _, _ => s)

/-- A lower tier fails a page of an entry: TIER_FETCH_FAIL against the job, or for a privileged entry the cheaper path at
once (R264); a flash page is lost (R271). -/
def entryFails (slot entry page : Nat) (s : State) : State :=
  match look s.jobs slot with
    | none => s
    | some j =>
      match j.eph.find? (·.entry = entry), ephEntry s j entry with
      | some r, some e =>
        if ¬ r.armed ∨ r.ended ∨ ¬ page ∈ r.left then s else
        let tier := leftTier s e.object
        let s := match look s.objs e.object with
          | some o => if o.home = 2 then vaultUe (o.homeLoc + page) (ownerOf o) s else s
          | none => s
        let s := cancelPages slot entry e.object r s
        if e.priv then pumpMoves (endEph slot entry 3 true tier s)
        else pumpMoves (raiseJob 0x0C4 slot (endEph slot entry 4 true tier s) tier)
      | _, _ => s

/-- EPH_PAGE_FAIL: a host-link completion error, a Barfeos error completion or an uncorrectable flash error on a page of
an entry (R264). -/
def execEphPageFail (t slot entry page : Nat) (s : State) : Res := .next (entryFails slot entry page (tick t s))

/-- The message that promotes a page of remote memory into frame f completes with an error: every entry that waits for
the page fails, and the page keeps its former location (R264, R360). -/
def farFails (f : Nat) (s : State) : State :=
  match look s.frames f with
  | none => s
  | some r =>
    if r.state ≠ 3 then s else
    let es := (s.jobs.map (fun e => (e.2.eph.filter (fun x => x.armed && !x.ended && x.left.contains r.page &&
      (ephEntry s e.2 x.entry).any (·.object = r.obj))).map (fun x => (e.1, x.entry)))).flatten
    let s := es.foldl (fun s x => entryFails x.1 x.2 r.page s) s
    match promoting s r.obj r.page, look s.objs r.obj with
    | some g, some o => if g = f then releaseFrame f (pageFrames o.psize) (abandon (8 * f + 4) s) else s
    | _, _ => s

/-! ### The plate vault (R266 to R271) -/

/-- Superblocks of the module: raw capacity over 64 MiB (R266; DEDUCED, log 9). -/
def superblocks (s : State) : Nat := s.alm.flashTb * 10 ^ 12 / 2 ^ 26

/-- A superblock, its erase count as its own spare area keeps it (R269). -/
def blockOf (s : State) (b : Nat) : Superblock :=
  tget s.vault.blocks b { erases := tget s.alm.erases b 0, erased := false, retired := s.alm.dead.contains b, used := 0 }

/-- The spare pool after a superblock has failed: VAULT_SPARE_LOW once below 1 %, VAULT_WORN and read-only below 0.25 %
(R270). -/
def vaultSpare (s : State) : State :=
  let total := superblocks s
  let s := if 100 * s.vault.spare < total ∧ ¬ s.vault.lowRaised then
      irqSet 0x500384 8 (note { src := 0x0CA } { s with vault := { s.vault with lowRaised := true } })
    else s
  if 400 * s.vault.spare < total ∧ ¬ s.vault.readOnly then
    irqSet 0x500384 16 (raise { src := 0x0CB } { s with vault := { s.vault with readOnly := true } })
  else s

/-- A superblock that fails erase or program is retired into the spare pool (R270). -/
def retireBlock (b : Nat) (s : State) : State :=
  vaultSpare { s with
    vault := { s.vault with blocks := tput s.vault.blocks b { blockOf s b with retired := true }, spare := s.vault.spare - 1 }
    alm := { s.alm with dead := s.alm.dead ++ [b] } }

/-- The lowest and the highest erase count of the superblocks in service: one never erased has count 0 (R270, R272). -/
def wearSpan (s : State) : Nat × Nat :=
  let live := s.alm.erases.filter (fun e => !s.alm.dead.contains e.1)
  let hi := live.foldl (fun m e => max m e.2) 0
  if live.length + s.alm.dead.length < superblocks s then (0, hi) else (live.foldl (fun m e => min m e.2) hi, hi)

/-- VAULT_ERASE: one superblock that is marked for erasure is erased, and VAULT_READY sets at 1 %; one that fails its erase is
retired into the spare pool (R269, R270). -/
def execVaultErase (t : Nat) (work : Erasure) (s : State) : Res :=
  let block := work.block
  let s := tick t s
  .next (
    let b := blockOf s block
    if ¬ hasVault s ∨ ¬ live s ∨ superblocks s ≤ block ∨ b.erased ∨ b.retired ∨
       s.vault.map.any (fun m => m.2 / 1024 = block) then s
    else if work.failed then retireBlock block s
    else
      let n := s.vault.erased + 1
      { s with
        vault := { s.vault with
          blocks := tput s.vault.blocks block { b with erases := b.erases + 1, erased := true, used := 0 }
          erased := n, ready := s.vault.ready || decide (superblocks s ≤ 100 * n) }
        alm := { s.alm with erases := tput s.alm.erases block (b.erases + 1) } })

/-- The dirty shelf page with the oldest write that flash has not seen: object, page, first frame (R268). -/
def oldestDirty (s : State) : Option (Nat × Nat × Nat) :=
  ((s.objs.map (fun e => if e.2.policy = 3 then e.2.loc.filterMap (fun p => match look s.frames p.2 with
      | some f => if f.state = 2 ∧ f.dirty then some (f.dirtyAt, e.1, p.1, p.2) else none
      | none => none) else [])).flatten.foldl (fun m e => match m with
        | none => some e
        | some x => if e.1 < x.1 then some e else some x) none).map (·.2)

/-- VAULT_RO against the tenants of an object whose page a read-only vault cannot take (R270). -/
def vaultRefuses (h : Nat) (s : State) : State :=
  raise { src := 0x0CC, tenants := ((look s.objs h).map (fun o => o.maps.map (·.tenant))).getD [] } s

/-- A flush ends: the page is RESIDENT again; DIRTY clears where the copy was made and nothing has written the page since it
began (R268). -/
def endFlush (f : Nat) (copied : Bool) (s : State) : State :=
  modFrame f (fun r => { r with state := 2, dirty := r.dirty && (!copied || r.written) })
    { s with vault := { s.vault with flushing := none } }

/-- VAULT_FLUSH: with no flush under way, that of the oldest dirty shelf page begins, by R255 step 2: its state is DEMOTING. It
waits for an erased superblock, and a read-only vault raises VAULT_RO. With one under way, its copy in open slots is complete: DIRTY
clears unless the page was written since it began, and the page stays in the shelf; a vault that has become read-only meanwhile
raises VAULT_RO, and the page stays dirty (R268 to R270). -/
def execVaultFlush (w : Flush) (s : State) : Res :=
  let s := tick w.t s
  .next (match s.vault.flushing with
    | some (h, page, f) =>
      match look s.objs h, look s.frames f with
      | some o, some r =>
        if r.state ≠ 4 ∨ r.obj ≠ h ∨ r.page ≠ page then { s with vault := { s.vault with flushing := none } }
        else if s.vault.readOnly then vaultRefuses h (endFlush f false s)
        else if homeWaits o page f s then s
        else if w.ecc = .ue then endFlush f false (pageErr .ue f s)
        else endFlush f true (copyHome o page f (pageErr w.ecc f s))
      | _, _ => { s with vault := { s.vault with flushing := none } }
    | none => match oldestDirty s with
      | none => s
      | some (h, page, f) =>
        if s.vault.readOnly then vaultRefuses h s
        else if ¬ s.vault.ready ∨ openBlock s = none then s
        else modFrame f (fun r => { r with state := 4, written := false, copied := false })
          { s with vault := { s.vault with flushing := some (h, page, f) } })

/-- No other erased superblock with room has a lower erase count (R270). -/
def leastWorn (s : State) (src dst : Nat) : Bool :=
  s.vault.blocks.all (fun x => x.1 = src || !x.2.erased || x.2.retired || decide (1024 ≤ x.2.used) ||
    decide ((blockOf s dst).erases ≤ x.2.erases))

/-- WEAR_LEVEL_MOVE: the valid pages of the superblock with the lowest erase count move to an erased one where the spread
exceeds WL_DELTA; a superblock that fails its program is retired into the spare pool (R270). -/
def execWearLevelMove (t src dst : Nat) (failed : Bool) (s : State) : Res :=
  let s := tick t s
  .next (
    let a := blockOf s src
    let b := blockOf s dst
    let (lo, hi) := wearSpan s
    if ¬ hasVault s ∨ ¬ live s ∨ s.vault.readOnly ∨ a.retired ∨ b.retired ∨ src = dst ∨ ¬ b.erased ∨
       superblocks s ≤ src ∨ superblocks s ≤ dst then s
    else if failed then retireBlock dst s
    else if hi ≤ a.erases + cfg s 0x500300 0 10 ∨ lo < a.erases then s
    else
      let mine := s.vault.map.filter (fun m => m.2 / 1024 = src)
      if 1024 < b.used + mine.length ∨ ¬ leastWorn s src dst then s else
      let moved := mine.foldl (fun (x : Tab Nat × Nat) m => (tput x.1 m.1 (dst * 1024 + x.2), x.2 + 1)) (s.vault.map, b.used)
      bump 0x500310 64 mine.length { s with vault := { s.vault with
        map := moved.1
        blocks := tput (tput s.vault.blocks dst { b with used := moved.2 }) src { a with erased := false, used := 0 }
        weak := s.vault.weak.filter (fun p => !mine.any (·.1 = p)) } })

/-! ### Fill, scrub and arriving sums (R202, R203, R211, R214 to R216) -/

/-- Pages reserved at mapping whose frames are all filled become RESIDENT; those of their frames that were free at mapping are as
clear as the others (R223, R252). -/
def settleFills (stack : Nat) (s : State) : State :=
  let runs := (stackOf s stack).fill.map (fun f => (f.1 % 2 ^ 20, f.2))
  (s.frames.filter (fun f => f.1 / 2 ^ 20 = stack && f.2.state = 1)).foldl (fun s f =>
    let n := match look s.objs f.2.obj with | some o => pageFrames o.psize | none => 1
    if runs.any (fun r => meets (f.1 % 2 ^ 20) n r.1 r.2) then s
    else arrive f.2.obj f.2.page f.1 0
      { s with hbm := tclear s.hbm (f.1 * 65536) (n * 65536), recs := tclear s.recs f.1 n }) s

/-- PAGE_FILL_COMPLETE: the zero fill of the page released first on a stack completes: its bytes and commit records are
zero, it is counted, and its frames are offered again; retired frames among them are repaired (R214, R252, R471). -/
def execPageFillComplete (t : Nat) (stack : Stack) (s : State) : Res :=
  let s := tick t s
  let k := stack.val
  .next (match (stackOf s k).fill with
    | [] => s
    | (first, n) :: rest =>
      if ¬ live s ∨ ¬ openSlot s none (2 + k) 0 s.now then s else
      let s := (takeOpen none (2 + k) 0 (1024 * n) s.now s).2
      let s := { s with
        hbm := tclear s.hbm (first * 65536) (n * 65536)
        recs := tclear s.recs first n }
      let s := bump (0x400034 + 0x10000 * k) 32 1 (modStack k (fun st => { st with fill := rest }) s)
      let mine := (stackOf s k).retired.filter (fun r => decide (first % 2 ^ 20 ≤ r.1) && decide (r.1 < first % 2 ^ 20 + n))
      let s := mine.foldl (fun s r => repairFrame k r.1 s) s
      pumpMoves (settleFills k s))

/-- Frames of strips under UPDATE, which the scrubber leaves to the end of its pass (R216). -/
def underUpdate (s : State) (key : Nat) : Bool :=
  match frameOwner s key with
  | some (h, o, page, first) => stripWait s h (page * pageBytes o.psize + (key - first) * 65536) 65536 true
  | none => false

/-- The scrubber's next frame, and whether the pass ends with this one (R216). -/
def scrubNext (k : StackSt) : StackSt × Bool :=
  let again := fun (k : StackSt) => match k.skipped with
    | [] => ({ k with scrub := 0, back := false }, true)
    | f :: r => ({ k with scrub := f * 1024, back := true, skipped := r }, false)
  if k.back then again k
  else if k.scrub / 1024 + 1 < 2 ^ 20 then ({ k with scrub := (k.scrub / 1024 + 1) * 1024 }, false)
  else again k

/-- cc of a scrub pass: SE_SCRUB_CTRL.HOURS (R216). -/
def scrubCc (s : State) (stack : Nat) : Nat := cfg s (0x400010 + 0x10000 * stack) 8 8 * msCc 3600000

/-- The scrubber moves on within a frame, or to the next; a pass that ends is counted, and BEHIND stands from a pass that has
lasted longer than HOURS until one ends on time (R216). -/
def scrubStep (stack : Nat) (whole : Bool) (s : State) : State :=
  let k := stackOf s stack
  let late := decide (k.passAt + scrubCc s stack < s.now)
  if ¬ whole ∧ k.scrub % 1024 ≠ 1023 then modStack stack (fun k => { k with scrub := k.scrub + 1, behind := k.behind || late }) s
  else
    let (k', ended) := scrubNext k
    let s := modStack stack (fun _ => { k' with
      behind := if ended then late else k.behind || late, passAt := if ended then s.now else k.passAt }) s
    if ended then bump (0x400018 + 0x10000 * stack) 16 1 s else s

/-- A half of a burst that the scrubber has read (R215, R216). -/
def scrubErr (stack frame : Nat) (ecc : Ecc) (s : State) : State :=
  match ecc with
  | .ok => s
  | .ce => hbmCe stack s
  | .ue => match frameOwner s frame with
    | some (_, o, _, _) => hbmUe frame none [ownerOf o] s
    | none => repairFrame stack (frame % 2 ^ 20) (hbmUe frame none [] s)

/-- PATROL_SCRUB_READ: the scrubber reads its next burst, two halves with ECC each, in an open slot (R215, R216). -/
def execPatrolScrubRead (t : Nat) (stack : Stack) (ecc ecc2 : Ecc) (s : State) : Res :=
  let s := tick t s
  let n := stack.val
  .next (
    let k := stackOf s n
    let frame := n * 2 ^ 20 + k.scrub / 1024
    let burst : List (Place × Nat) := [(.hbm (n * 2 ^ 36 + k.scrub * 64) 0, 64)]
    if ¬ live s ∨ ¬ hasStack s n ∨ ¬ k.ready ∨ cfg s (0x400010 + 0x10000 * n) 0 1 = 0 ∨ ¬ openNow s none burst [] then s
    else if underUpdate s frame then
      scrubStep n true (modStack n (fun k => { k with skipped := k.skipped ++ [k.scrub / 1024] }) s)
    else scrubStep n false (scrubErr n frame ecc2 (scrubErr n frame ecc (goNow none burst [] s))))

/-- ACCUMULATE_WRITE: data of a writer reaches an ACCUMULATE object and adds to it (R202, R203); a sum that meets an
uncorrectable error does not take place, and HBM_UE is raised against the writing job or the page's owner. -/
def execAccumulateWrite (t : Nat) (who : Writer) (va : Nat) (data : List Byte) (ecc : Ecc) (s : State) : Res :=
  let s := tick t s
  .next (
    let (slot, cls) := match who with | .planned k => (some k, 0) | .correlator k => (some k, 1) | .outside _ => (none, 2)
    let tenant := match who with
      | .outside n => some n
      | _ => (slot.bind (look s.jobs)).map (·.tenant)
    match tenant with
    | none => s
    | some tenant =>
      match hitAt s tenant va with
      | none => s
      | some h =>
        if ¬ h.map.acc ∨ ¬ h.map.w then s else
        match look h.obj.loc h.page with
        | none => s
        | some f =>
          let ps := placesOf s tenant [] (writeRange s tenant va data.length).1 (writeRange s tenant va data.length).2 true
          if slot.isNone ∧ (stripWaitVa s tenant va data.length true ∨ ¬ openNow s (some tenant) [] ps) then s else
          let s := if slot.isNone then goNow (some tenant) [] ps s else s
          match ecc with
          | .ue => hbmUe (f + h.off / 65536) slot (if slot.isSome then [] else [ownerOf h.obj]) s
          | .ce => writeVa (farWrite 4096 tenant 5) tenant [] va data (hbmCe (f / 2 ^ 20) s) cls
          | .ok => writeVa (farWrite 4096 tenant 5) tenant [] va data s cls)

end Sys2Proof.Machine
end

