-- ==== Sys2Proof/Machine/Barfeos.lean ====
section
/-! DEFINITION. Barfeos (spec/13): connections, the receiver's tests, admitted and held packets, acknowledgements and
timers, triggers and work requests. -/

namespace Sys2Proof.Machine

/-! ### Work requests (R362, R363) -/

/-- TRIGGER_FIRE: a trigger whose threshold is met leaves its object and its work request is issued, in the cc of an operation
on the object, or in the cc after it was armed where its threshold was met then (R137, R138, R363). `data` are LOCAL bytes from outside the
module, and what the read of LOCAL meets (R215, R271). -/
def execTriggerFire (t obj idx : Nat) (data : Data) (s : State) : Res :=
  let s := tick t s
  .next (match look s.sync obj with
    | none => s
    | some o =>
      match o.trigs[idx]? with
      | none => s
      | some g =>
        if o.value < g.threshold ∨ s.now ≤ g.armedAt ∨ (s.now ≠ o.stamp ∧ s.now ≠ g.armedAt + 1) then s else
        match look s.jobs g.slot with
        | none => s
        | some j =>
          let s := bftCount 21 { s with sync := tput s.sync obj { o with trigs := o.trigs.eraseIdx idx } }
          let bs := readVa s j.tenant [] (j.block.wrt + 64 * g.handle) 64
          issueWork g.slot g.handle j bs data s)

/-- WORK_REQUEST_COMPLETE: every packet of the request has its outcome; a READ's bytes land at LOCAL, where a page, a strip or an
open slot may still hold them, STATUS is written and SIG adds 1 to DONE_OBJ; `err` is a local failure's error code (R46, R211, R360,
R362, R363). -/
def execWorkRequestComplete (t id err : Nat) (data : Data) (s : State) : Res :=
  let s := tick t s
  .next (match look s.works id with
    | none => s
    | some w =>
      match look s.jobs w.slot with
      | none => s
      | some j =>
        let far := collected s (8 * id + 1)
        let x : HeldWrite := { tenant := some j.tenant, slot := w.slot, va := w.local_, ecc := data.ecc, src := some (.remote w.peer 0 0 0),
                               data := (if far.isEmpty then data.bytes else far).take w.len }
        if msgOpen s (8 * id + 1) ∨ w.held.isSome ∨ (w.kind = 2 ∧ s.now < landedBy s (8 * id + 1)) then s
        else if err ≠ 0 then msgError (8 * id + 1) err w.peer s
        else if w.kind = 2 ∧ heldWaits s x then moveHeld x s
        else
          let s := forget (8 * id + 1) { s with works := tdel s.works id }
          let s := if w.kind = 2 then landHeld x s else s
          let s := wrStatus w.slot w.handle 3 0 s
          if bitOf w.flags 2 then
            match absObj s j w.done with | some o => signalAdd o 1 200 s | none => s
          else s)

/-! ### Messages that end with an error (R337, R360) -/

/-- A message completes with an error: a promotion's fails its page (R264), any other as its source says. -/
def endMsg (msg code peer : Nat) (s : State) : State :=
  if msg % 8 = 4 then farFails (msg / 8) s else msgError msg code peer s

/-- A context moves to ERROR: every outstanding message completes with an error, of the first code seen in it, or of the code
that ends the context (R337, R360). Its users see that in this cc, and in the next it is FREE (DEDUCED, log 36). -/
def ctxError (i code : Nat) (s : State) : State :=
  match look s.ctxs i with
  | none => s
  | some c =>
    let ms := (c.unacked.map (·.msg)).eraseDups
    let s := { s with
      ctxs := tput s.ctxs i { c with state := 3, unacked := [], errs := [] }
      signals := s.signals ++ [{ at_ := s.now + 1, slot := 4096, obj := 0, src := 300, act := .freed (ctxName i c) }] }
    ms.foldl (fun s m => endMsg m ((look c.errs m).getD code) c.peer s) (irqSet 0x800384 1 s)

/-! ### Connections (R335 to R339) -/

/-- REFUSE to a module (R336). -/
def sendRefuse (p : Connect) (cause : Nat) (s : State) : State :=
  originateBft p.hdr.src (controlFrame s (express (bftLen 8 0) (.bft 0x22 0 p.body.ctx 0 0 0 [cause] none []) (bftPort s))) s

/-- The context that answers a CONNECT (R336). -/
def answerCtx (p : Connect) (own : Bool) : Ctx :=
  let b := p.body
  { freshCtx with
    state := 2, job := b.job, bigP := b.bigP && own, offer := own, peer := p.hdr.src, lTenant := b.dTenant, pTenant := b.sTenant,
    jobId := if b.job then b.jobId else 0, peerCtx := b.ctx, incarnation := b.incarnation }

/-- ACCEPT from a context, as it was first sent (R336). -/
def sendAccept (i : Nat) (s : State) : State :=
  match look s.ctxs i with
  | some c => originateBft c.peer (handshake 0x21 i c s) s
  | none => s

/-- A context is allocated and answered ACCEPT, or REFUSE where none is free (R336). -/
def answerNew (p : Connect) (s : State) : State :=
  match allocCtx (answerCtx p (offersBig s p.hdr.src)) s with
  | (some i, s) => sendAccept i s
  | (none, s) => sendRefuse p 2 s

/-- The open context that an earlier CONNECT of the same sender context and incarnation has opened (R336). -/
def answered (s : State) (p : Connect) : Option Nat :=
  (s.ctxs.find? (fun e => e.2.state = 2 && e.2.peer = p.hdr.src && e.2.peerCtx = p.body.ctx &&
    e.2.incarnation = p.body.incarnation)).map (·.1)

/-- Packets queued while a connection was opening take the payload that both ends offer: a READ_REQ uses fewer PSNs at
P = 8,192 (R340, R343). -/
def repack (c : Ctx) : Ctx :=
  enqueue { c with unacked := if c.bigP then
      c.unacked.filter (fun p => p.sent || p.opcode ≠ 2 || decide (p.field 3 * 8192 < p.field 2))
    else c.unacked } []

/-- A connecting context is OPEN, with what the other end has said (R336). -/
def openWith (i : Nat) (c : Ctx) (b : ConnBody) (s : State) : State :=
  { s with ctxs := tput s.ctxs i (repack { c with
      state := 2, peerCtx := b.ctx, incarnation := b.incarnation, bigP := c.offer && b.bigP, lastUse := s.now }) }

/-- CONNECT: a context is allocated and answered ACCEPT, or REFUSE; a second CONNECT of the same sender context and
incarnation is answered with the earlier ACCEPT and allocates nothing; one that crosses an own CONNECT opens that context (R335,
R336, R339). -/
def execConnect (t : Nat) (p : Connect) (s : State) : Res :=
  let s := tick t s
  let b := p.body
  .next (
    if ¬ ready s then s
    else if p.hdr.version ≠ 1 ∨ p.hdr.flags ≠ 0 then bftCount 7 (bftCount 1 s)
    else
      let s := bftCount 1 s
      match answered s p with
      | some i => sendAccept i s
      | none =>
        if (look s.tenants b.dTenant).isNone then sendRefuse p 1 s
        else if b.job ∧ ¬ s.jobs.any (fun e => e.2.id = b.jobId && e.2.tenant = b.dTenant && e.2.aborted.isNone) then sendRefuse p 3 s
        else match findCtx s b.dTenant p.hdr.src b.sTenant (if b.job then some b.jobId else none) with
          | some i =>
            let c := (look s.ctxs i).getD freshCtx
            -- a restarted or reopened peer: the old context fails, and a new one is allocated
            if c.state = 2 then answerNew p (ctxError i 0 s)
            else pump i (sendAccept i (openWith i c b s))
          | none => answerNew p s)

/-! ### The receiver's tests (R347) -/

/-- What a region test needs of a packet: WRITE 1, READ_REQ 2, ATOMIC 4, SYNC 6. -/
def flagsOk (op flags : Nat) : Bool :=
  decide (flags < 32) &&
  (if op = 1 then !bitOf flags 4 else if op = 2 ∨ op = 4 then !bitOf flags 0 && !bitOf flags 1
   else !bitOf flags 0 && !bitOf flags 1 && !bitOf flags 4)

/-- Step 6: fields and flags are consistent with the opcode (R342, R343). -/
def fieldsOk (c : Ctx) (p : HeldPkt) : Bool :=
  flagsOk p.opcode p.hdr.flags &&
  (match p.opcode with
   | 1 => decide (1 ≤ p.len) && decide (p.len ≤ payload c) && p.data.length = p.len
   | 2 => decide (1 ≤ p.len) && decide (p.len ≤ 256 * payload c)
   | 4 => decide (1 ≤ p.len) && decide (p.len ≤ 3)
   | _ => decide (1 ≤ p.len) && decide (p.len ≤ 3))

/-- Step 12 for one address: mapped, not lost, writable, not ACCUMULATE for ATOMIC. -/
def pageOk (s : State) (tenant va op : Nat) : Bool :=
  match hitAt s tenant va with
  | none => false
  | some h => !h.obj.lost.contains h.page && (op = 2 || h.map.w) && (op ≠ 4 || !h.map.acc)

/-- Pages of a packet's range that are not in HBM: (object, page, tier, below). -/
def lowPages (s : State) (tenant : Nat) (r : Nat × Nat) : List (Nat × Nat × Nat) :=
  (spans r.1 r.2).filterMap (fun x => match hitAt s tenant x.1 with
    | some h => if (look h.obj.loc h.page).isSome then none else some (h.handle, h.page, h.obj.home)
    | none => none)

/-- Steps 7 to 12: the code that refuses, or none. -/
def regionTest (s : State) (c : Ctx) (p : HeldPkt) : Option Nat :=
  match regionOf s p.key with
  | none => some 2
  | some r =>
    let b := r.block
    if ¬ r.valid then some 2
    else if r.gen ≠ p.key % 256 then some 3
    else if r.tenant ≠ c.lTenant ∨ ¬ (b.anyModule || b.peer = c.peer) ∨ ¬ (b.anyTenant || b.peerTenant = c.pTenant) then some 2
    else if (p.opcode = 1 ∧ (¬ b.w ∨ b.sync)) ∨ (p.opcode = 2 ∧ (¬ b.r ∨ b.sync)) ∨ (p.opcode = 4 ∧ (¬ b.a ∨ b.sync)) ∨
        (p.opcode = 6 ∧ ¬ (b.sync ∧ b.trig)) ∨ (p.opcode = 1 ∧ bitOf p.hdr.flags 0 ∧ bitOf p.hdr.flags 1 ∧ ¬ b.trig) then some 4
    else if p.opcode = 6 then
      if b.base ≤ p.off ∧ p.off < b.base + b.length ∧
          (look s.sync p.off).any (fun o => o.tenant = r.tenant && (look s.jobs o.owner).isSome) then none else some 4
    else
      let n := if p.opcode = 4 then 8 else (pktRange s r p).2
      if 2 ^ 64 ≤ p.off + n ∨ b.length < p.off + n ∨ (p.opcode = 4 ∧ p.off % 8 ≠ 0) then some 5
      else if (spans (pktRange s r p).1 (max 1 (pktRange s r p).2)).all (fun x => pageOk s r.tenant x.1 p.opcode) then none
      else some 4

/-- KiB of hold-buffer use: a held packet takes its own bytes (R352; DEDUCED, log 14). -/
def heldBytes (p : HeldPkt) : Nat := 24 + hdrLen p.opcode + p.data.length

/-- Room in a die's hold buffer for one more packet of a tenant (R352, R399). -/
def holdRoom (s : State) (p : HeldPkt) : Bool :=
  let use := fun (f : HeldPkt → Bool) => ((s.holds.filter (fun h => h.2.die = p.die && f h.2)).map (fun h => heldBytes h.2)).sum
  let shareOf := fun (n : Nat) => match look s.tenants n with | some t => if t.strict then some t.share else none | none => none
  match shareOf p.tenant with
  | some sh => decide (use (fun h => h.tenant = p.tenant) + heldBytes p ≤ 2048 * sh / 64 * 1024)
  | none =>
    let strict := (s.tenants.map (fun t => if t.2.strict then 2048 * t.2.share / 64 else 0)).sum
    decide (use (fun h => (shareOf h.tenant).isNone) + heldBytes p ≤ (2048 - strict) * 1024)

/-- Hold a packet, or answer NOT_READY where there is no room (R351, R352). -/
def hold (p : HeldPkt) (s : State) : State :=
  if holdRoom s p then
    bftCount (if p.fetch then 17 else 16) { s with holds := tput s.holds s.nextHold p, nextHold := s.nextHold + 1 }
  else sendNak p.ctx p.hdr.psn 1 (cfg s 0x800020 0 16) (irqSet 0x800384 4 s)

/-- Count an admitted access of a region, and one that has ended (R350). -/
def regionUse (key : Nat) (s : State) : State :=
  { s with regions := tmod s.regions (key / 256) (fun r => { r with inflight := r.inflight + 1 }) }

/-- A revocation completes in the cc after every admitted access has ended, and its command is answered (R350); one that no command
asked for leaves at once. -/
def revokeNext (idx : Nat) (s : State) : State :=
  if (look s.regions idx).any (fun r => r.revoking && r.inflight = 0) then
    if (look s.regions idx).any (fun r => r.cmd.isNone) then revokeDone idx s else
    { s with signals := s.signals ++ [{ at_ := s.now + 1, slot := 4096, obj := idx, src := 300, act := .revoked }] }
  else s

def regionEnd (key : Nat) (s : State) : State :=
  revokeNext (key / 256) { s with regions := tmod s.regions (key / 256) (fun r => { r with inflight := r.inflight - 1 }) }

/-- Key of an admitted packet on its way: the DCID it names, generation included, and its PSN. -/
def landKey (dcid psn : Nat) : Nat := dcid * 2 ^ 24 + psn

/-- PSNs that a packet of a context uses: as many as a READ_REQ's answer has packets (R343). -/
def psnsOf (c : Ctx) (p : HeldPkt) : Nat := if p.opcode = 2 then max 1 (ceilDiv p.len (payload c)) else 1

/-- Answer a READ_REQ with its READ_RESP packets, whose first bit is at the pin a count after its service; its PSNs gain their
outcome when the last has left (R343, R355, R365). -/
def serveRead (p : HeldPkt) (c : Ctx) (wait : Nat) (bs : List Byte) (s : State) : State :=
  let q := payload c
  let n := max 1 (ceilDiv p.len q)
  (List.range n).foldl (fun s i =>
    let d := (bs.drop (i * q)).take q
    let f : TxFrame := classP2 s c.lTenant c.port (bftLen 8 d.length) (.bft 3 0 c.peerCtx (psnAdd p.hdr.psn i) c.sbase (ctxSeg s c) [d.length, i * q] none d)
    let ends := if i + 1 = n then some (p.hdr.dcid, p.hdr.psn, n, bitOf p.hdr.flags 2) else none
    originateBft c.peer { f with readyAt := s.now + egressCc + wait, ends } s) s

/-- The answer to an ATOMIC: its PSN gains its outcome as it leaves (R343, R355, R365). -/
def atomicResp (p : HeldPkt) (c : Ctx) (wait old : Nat) (s : State) : State :=
  let f : TxFrame := classP2 s c.lTenant c.port (bftLen 8 0) (.bft 5 0 c.peerCtx p.hdr.psn c.sbase (ctxSeg s c) [old] none [])
  originateBft c.peer { f with
    readyAt := s.now + 1500 + wait, ends := some (p.hdr.dcid, p.hdr.psn, 1, bitOf p.hdr.flags 2) } s

/-- Execute an ATOMIC on 8 bytes of HBM and answer with the old value, which the context keeps (R343, R354). -/
def serveAtomic (p : HeldPkt) (c : Ctx) (key : Nat) (first wait : Nat) (s : State) : State :=
  let old := leNat (hbmRead s key 8)
  let new := if p.len = 1 then (old + p.op1) % 2 ^ 64 else if p.len = 2 then (if old = p.op1 then p.op2 else old) else p.op1
  let s := hbmWrite key first (leBytes 8 new) s
  let s := modCtx p.ctx (fun c => { c with atomics := ((p.hdr.psn, old) :: c.atomics).take 64 }) s
  atomicResp p c wait old s

/-- The other module's end of an access that a packet makes. -/
def pktEnd (n : Nat) : List (Place × Nat) := [(.remote 0 0 0 0, n)]

/-- An admitted access can take place now: FENCE and FINAL wait for every lower PSN (R342, R359), a DEMAND page for its
promotion (R351), a strip under UPDATE for its FINISH (R211), and every resource on its way for an open slot, and the end of a
twilight slot (R43, R46, R196). -/
def fenced (p : HeldPkt) : Bool := if p.opcode = 1 then bitOf p.hdr.flags 0 else bitOf p.hdr.flags 4
def canServe (s : State) (r : Region) (p : HeldPkt) : Bool :=
  let x := pktRange s r p
  (!fenced p || (ctxNamed s p.hdr.dcid).any (fun c => p.hdr.psn = c.2.cum)) &&
  !(stripWaitVa s r.tenant x.1 x.2 (p.opcode ≠ 2)) &&
  (let ps := placesOf s r.tenant [] x.1 x.2 (p.opcode ≠ 2)
   (waitsOf ps).isEmpty && (if p.opcode = 2 then openNow s (some r.tenant) ps (pktEnd x.2) p.hdr.die
    else openNow s (some r.tenant) (pktEnd x.2) ps p.hdr.die))

/-- An access that reads lower tiers outside the module needs their bytes. -/
def needsOutside (s : State) (r : Region) (p : HeldPkt) : Bool :=
  p.opcode = 2 && (placesOf s r.tenant [] (pktRange s r p).1 (pktRange s r p).2 false).any (fun x => match x.1 with
    | .host _ => true | .remote .. => true | _ => false)

/-- Serve an admitted READ_REQ or ATOMIC, or land an admitted WRITE with the trigger of its region (R359, R361, R363); a WRITE
reads HBM where its page is ACCUMULATE. It takes the open slots that it found (R46). An uncorrectable error refuses it with ACCESS,
as for a lost page (DESIGN CHOICE, log 36). A WRITE lands though its context has closed since; an answer then has nowhere to go (R350). -/
def serve (p : HeldPkt) (data : List Byte) (ecc : Ecc) (s : State) : State :=
  match regionOf s p.key with
  | none => s
  | some r =>
    let c := ctxNamed s p.hdr.dcid
    let x := pktRange s r p
    let ps := placesOf s r.tenant [] x.1 x.2 (p.opcode ≠ 2)
    let refuse := fun s => outcomeOf p.hdr.dcid p.hdr.psn (c.elim 1 (fun c => psnsOf c.2 p)) 4 true (regionEnd p.key s)
    let (ok, s) := eccOf (if p.opcode = 1 ∧ (accAt s r.tenant x.1).isNone then .ok else ecc) ps s
    let s := if p.opcode = 2 then goNow (some r.tenant) ps (pktEnd x.2) s p.hdr.die else goNow (some r.tenant) (pktEnd x.2) ps s p.hdr.die
    if ¬ ok then refuse s
    else match p.opcode, c with
    | 1, _ =>
      let s := writeVa (farWrite 4096 r.tenant 5) r.tenant [] (r.block.base + p.off) p.data s
      let s := if bitOf p.hdr.flags 0 ∧ bitOf p.hdr.flags 1 then
          (match r.block.trigObj with | some o => signalAdd o 1 300 s | none => s) else s
      outcomeOf p.hdr.dcid p.hdr.psn 1 0 (bitOf p.hdr.flags 2) (regionEnd p.key s)
    | 2, some (_, c) => serveRead p c (sourceCc s ps) (readVa s r.tenant [] x.1 x.2 data) (regionEnd p.key s)
    | _, some (_, c) =>
      match place s r.tenant [] x.1 true with
      | .hbm k f => serveAtomic p c k f (placesFree s ps s.now - s.now) (regionEnd p.key s)
      | _ => refuse s
    | _, none => regionEnd p.key s

/-- The cc in which an admitted WRITE lands: 1,560 after its last bit at the pin where it lies in HBM, more for a long frame, and
its twilight wait; 0 where no count is promised, after a hold or in a lower tier (R60, R365). -/
def landAt (s : State) (p : HeldPkt) (ps : List (Place × Nat)) : Nat :=
  if s.now = p.hdr.bit + 400 ∧ ps.all (fun x => match x.1 with | .hbm .. => true | _ => false) then
    placesFree s ps (p.hdr.bit + ingressCc (bftLen 16 p.data.length) + 240)
  else 0

/-- Steps 7 to 13, and the admission (R347, R351). A SYNC reaches its object 420 cc after its last bit at the pin (R365). -/
def letIn (p : HeldPkt) (ecc : Ecc) (s : State) : State :=
  match ctxNamed s p.hdr.dcid with
  | none => s
  | some (_, c) =>
    match regionTest s c p with
    | some code => outcome p.ctx p.hdr.psn (psnsOf c p) code true s
    | none =>
      if p.opcode = 6 then
        { s with signals := s.signals ++ [{ at_ := s.now + 20, slot := 4096, obj := p.off, src := 300, act := .remote p }] }
      else
      match regionOf s p.key with
      | none => s
      | some r =>
        let low := lowPages s r.tenant (pktRange s r p)
        if ¬ low.isEmpty ∧ r.block.dp then
          let tier := low.foldl (fun m x => max m x.2.2) 0
          let tier := if low.any (·.2.2 = 2) then 2 else tier
          hold { p with pages := low.map (fun x => (x.1, x.2.1)), tier } (low.foldl (fun s x => startMove x.1 x.2.1 s) s)
        else if low.any (fun x => p.opcode = 4 || x.2.2 = 0) then outcome p.ctx p.hdr.psn (psnsOf c p) 4 true s
        else
          let s := regionUse p.key s
          let ps := placesOf s r.tenant [] (pktRange s r p).1 (pktRange s r p).2 (p.opcode ≠ 2)
          if p.opcode = 1 ∨ ¬ canServe s r p ∨ needsOutside s r p then
            let due := if p.opcode = 1 then landAt s p ps else 0
            touchPages ps { s with landing := tput s.landing (landKey p.hdr.dcid p.hdr.psn) { p with due } }
          else serve p [] ecc s

/-- BAD_CONTEXT to the module a packet came from; where no context names the peer's, the field is free (R339; log 3). -/
def badContext (h : Bth) (s : State) : State :=
  match ctxNamed s h.dcid with
  | some (i, _) => sendNak i h.psn 6 0 s
  | none =>
    let d := Config.choice s.free % 2 ^ 32
    originateBft h.src (controlFrame s (express (bftLen 8 0) (.bft 0x11 0 d h.psn 0 0 [6, 0] none []) (bftPort s)))
      (bftCount 8 { s with free := s.free + 1 })

/-- A packet is held or on its way already, without an outcome yet. -/
def inHand (s : State) (dcid psn : Nat) : Bool :=
  (look s.landing (landKey dcid psn)).isSome || s.holds.any (fun h => h.2.hdr.dcid = dcid && h.2.hdr.psn = psn && h.2.opcode < 7) ||
  s.signals.any (fun x => match x.act with
    | .remote p => p.hdr.dcid = dcid && p.hdr.psn = psn
    | .left _ d q n _ => d = dcid && decide (psnSub psn q < n)
    | _ => false) ||
  s.ports.any (fun p => p.2.queue.any (fun f => f.ends.any (fun e => e.1 = dcid && decide (psnSub psn e.2.1 < e.2.2.1))))

/-- A duplicate is answered with an ACK and never applied again; a READ_REQ that was not refused is executed again, an ATOMIC
answered with its saved value (R346, R354). -/
def duplicate (p : HeldPkt) (c : Ctx) (ecc : Ecc) (s : State) : State :=
  let s := sendAck p.ctx (bftCount 4 s)
  if inHand s p.hdr.dcid p.hdr.psn then s else
  match p.opcode with
  | 2 =>
    -- its fence, once met, is met
    if (regionTest s c p).isNone ∧ tget c.outcomes p.hdr.psn 0 = 0 then
      letIn { p with hdr := { p.hdr with flags := p.hdr.flags % 16 } } ecc s
    else s
  | 4 =>
    match c.atomics.find? (·.1 = p.hdr.psn) with
    | some (_, old) => atomicResp p c 0 old s
    | none => s
  | _ => s

/-- Step 4 (R347, R354): a packet within the window is new, or a duplicate. -/
def window (p : HeldPkt) (c : Ctx) (ecc : Ecc) (k : State → State) (s : State) : State :=
  let d := psnSub p.hdr.psn c.cum
  let begun := p.opcode = 4 ∧ c.atomics.any (·.1 = p.hdr.psn)
  if (d < 1024 ∧ ((look c.outcomes p.hdr.psn).isSome ∨ begun ∨ inHand s p.hdr.dcid p.hdr.psn)) ∨ 2 ^ 23 ≤ d then duplicate p c ecc s
  else if 1024 ≤ d then bftCount 5 s
  else k s

/-- Steps 4 and 5 and 6 for a data packet of an on-die context, then the region tests. -/
def receive (p : HeldPkt) (ecc : Ecc) (s : State) : State :=
  match look s.ctxs p.ctx with
  | none => s
  | some c => window p c ecc (fun s =>
      let n := psnsOf c p
      let job := if c.job then (ctxJob s c).filter (fun e => e.2.aborted.isNone) else none
      if c.job ∧ job.isNone then outcome p.ctx p.hdr.psn n 7 true s
      else match job.filter (fun e => !(p.hdr.seg = e.2.segs - 1 || p.hdr.seg + 1 = e.2.segs - 1)) with
        | some (slot, _) => mismatch slot (outcome p.ctx p.hdr.psn n 7 true s)
        | none =>
          let s := match job with | some (slot, _) => chargeJob slot (30 * bftLen 16 p.data.length) s | none => s
          if ¬ fieldsOk c p then outcome p.ctx p.hdr.psn n 8 true s
          else if p.opcode = 1 ∧ bitOf p.hdr.flags 1 ∧ ¬ bitOf p.hdr.flags 0 then
            letIn { p with hdr := { p.hdr with flags := p.hdr.flags - 2 } } ecc (bftCount 7 s)
          else letIn p ecc s) s

/-- What every packet of a context says: the lowest PSN that its sender awaits, and a congestion mark (R341, R345, R355). -/
def heard (i : Nat) (h : Bth) (s : State) : State :=
  let s := modCtx i (fun c => { c with rxSbase := h.sbase, lastUse := s.now, ceRx := c.ceRx + (if h.ce then 1 else 0) }) s
  if h.ce then bftCount 19 s else s

/-- Steps 1 to 3 (R347), `also` naming states that pass beside OPEN: VERSION, the context, fetched from host memory where it lies there, and the source address. -/
def rxContext (also : Nat → Bool) (p : HeldPkt) (k : Ctx → State → State) (s : State) : State :=
  let s := bftCount 1 s
  if p.hdr.version ≠ 1 then bftCount 7 s else
  match ctxNamed s p.hdr.dcid with
  | none => badContext p.hdr s
  | some (i, c) =>
    if c.state ≠ 2 ∧ ¬ also c.state then badContext p.hdr s
    else if c.host then hold { p with ctx := i, fetch := true, tenant := c.lTenant, at_ := s.now } s
    else if p.hdr.src ≠ c.peer then bftCount 6 s
    else k c (heard i p.hdr s)

/-- A packet as it arrives. -/
def mkPkt (s : State) (h : Bth) (opcode key off len : Nat) (data : List Byte) (op1 op2 : Nat) : HeldPkt :=
  { ctx := h.dcid % 2 ^ 24, hdr := h, opcode, key, off, data, len, op1, op2, at_ := s.now, fetch := false,
    tenant := ((look s.ctxs (h.dcid % 2 ^ 24)).map (·.lTenant)).getD 0, die := h.die, pages := [], tier := 0, due := 0 }

/-- A data packet goes through every test, 400 cc after its last bit at the pin (R347, R365). -/
def rxData (t : Nat) (mk : State → HeldPkt) (ecc : Ecc) (s : State) : Res :=
  let s := tick t s
  let p := mk s
  .next (if ¬ ready s ∨ s.now ≠ p.hdr.bit + 400 then s
    else rxContext (fun _ => false) p (fun _ s => receive p ecc s) s)

/-- WRITE (R347, R351). -/
def execWrite (t : Nat) (h : Bth) (key : Nat) (rgn : RgnBytes) (data : List Byte) (s : State) : Res :=
  rxData t (fun s => mkPkt s h 1 key rgn.off rgn.len data 0 0) .ok s

/-- READ_REQ (R347); `ecc` is what its read of HBM finds (R215). -/
def execReadReq (t : Nat) (h : Bth) (key : Nat) (rgn : RgnBytes) (ecc : Ecc) (s : State) : Res :=
  rxData t (fun s => mkPkt s h 2 key rgn.off rgn.len [] 0 0) ecc s

/-- ATOMIC (R347): AOP 1 FETCH_ADD, 2 CMP_SWAP, 3 SWAP. -/
def execAtomic (t : Nat) (h : Bth) (key off aop : Nat) (ops : AtomicOps) (ecc : Ecc) (s : State) : Res :=
  rxData t (fun s => mkPkt s h 4 key off aop [] ops.op1.toNat ops.op2.toNat) ecc s

/-- SYNC (R364): SOP 1 ADD, 2 RESET, 3 ARM. -/
def execSync (t : Nat) (h : Bth) (key obj sop value wrh : Nat) (s : State) : Res :=
  rxData t (fun s => mkPkt s h 6 key obj sop [] value wrh) .ok s

/-- A packet whose opcode R343 does not list is discarded and counted; where its DCID names an OPEN context it is answered
MALFORMED (R343, R347). -/
def strayPkt (h : Bth) (s : State) : State :=
  let s := bftCount 1 s
  match ctxNamed s h.dcid with
  | some (i, c) =>
    let p := mkPkt s h 0x7F 0 0 0 [] 0 0
    if c.state = 2 ∧ ¬ c.host then window p c .ok (fun s => outcome i h.psn 1 8 true s) (heard i h s) else bftCount 7 s
  | none => bftCount 7 s

/-- BFT_WRITE_LAND: an admitted WRITE lands, a FINAL only once every lower PSN has an outcome; an admitted read that
waited for its fence or for bytes of an outside tier is served (R359, R361, R363). A WRITE into HBM lands in its own cc; one that
must wait then lands later, in an open slot (R43, R46, R365). What waits for lower PSNs of a context that has ended is dropped. The
packet is named by the DCID that it carried. -/
def execBftWriteLand (t : Nat) (pkt : PktName) (data : List Byte) (ecc : Ecc) (s : State) : Res :=
  let key := landKey pkt.ctx pkt.psn
  let s := tick t s
  .next (match look s.landing key with
    | none => s
    | some p =>
      let gone := { s with landing := tdel s.landing key }
      match regionOf s p.key with
      | none => gone
      | some r =>
        let c := ctxNamed s p.hdr.dcid
        let x := pktRange s r p
        let ps := placesOf s r.tenant [] x.1 x.2 (p.opcode ≠ 2)
        if ¬ ready s ∨ (p.due ≠ 0 ∧ s.now ≠ p.due) then s
        else if (badOf ps).isSome then
          regionEnd p.key (outcomeOf p.hdr.dcid p.hdr.psn (c.elim 1 (fun c => psnsOf c.2 p)) 4 true gone)
        else if c.isNone ∧ fenced p then regionEnd p.key gone
        else if canServe s r p then serve p data ecc gone
        else touchPages ps { s with landing := tput s.landing key { p with due := 0 } })

/-- BFT_HOLD_RELEASE: the pages of a held packet are RESIDENT, and steps 7 to 13 are taken again (R351). -/
def execBftHoldRelease (t : Nat) (r : Release) (s : State) : Res :=
  let s := tick t s
  .next (if ¬ ready s then s else match look s.holds r.hold with
    | none => s
    | some p =>
      let here := p.pages.all (fun x => (look s.objs x.1).all (fun o => (look o.loc x.2).isSome))
      if p.fetch ∨ ¬ here then s else letIn { p with pages := [] } r.ecc { s with holds := tdel s.holds r.hold })

/-- BFT_HOLD_EXPIRY: HOLD_US after it arrived a held packet is discarded with NOT_READY; its promotion goes on (R351). -/
def execBftHoldExpiry (t hold : Nat) (s : State) : Res :=
  let s := tick t s
  .next (if ¬ ready s then s else match look s.holds hold with
    | none => s
    | some p =>
      if p.fetch ∨ s.now < p.at_ + usCc (cfg s 0x800008 0 10) then s
      else
        let s := { s with holds := tdel s.holds hold }
        if (ctxNamed s p.hdr.dcid).isSome then sendNak p.ctx p.hdr.psn 1 (cfg s (0x800020 + 4 * (p.tier % 4)) 0 16) s else s)

/-! ### The sender's side (R353 to R358) -/

/-- Packets of a context that gained their outcome leave: SBASE advances, and messages without packets left that met an
error complete with their first code (R357, R360); a PERMUTE whose block has landed goes on (R290). -/
def settleMsgs (i : Nat) (s : State) : State :=
  match look s.ctxs i with
  | none => s
  | some c =>
    let base := match c.unacked with | p :: _ => p.psn | [] => c.nextPsn
    let ended := c.errs.filter (fun e => !c.unacked.any (fun p => p.msg = e.1))
    let c' := { c with sbase := base, errs := c.errs.filter (fun e => c.unacked.any (fun p => p.msg = e.1)) }
    let s := { s with ctxs := if c'.state = 4 ∧ c'.unacked.isEmpty then tdel s.ctxs i else tput s.ctxs i c' }
    let s := pump i (ended.foldl (fun s e => endMsg e.1 e.2 c.peer s) s)
    match ctxJob s c with
    | some (slot, _) => permOn slot s
    | none => s

/-- A round-trip sample, by the method of RFC 6298 (R356): ns. -/
def rttSample (s : State) (r : Nat) (c : Ctx) : Ctx :=
  let d := if c.srtt < r then r - c.srtt else c.srtt - r
  let v := if c.srtt = 0 then r / 2 else (3 * c.rttvar + d) / 4
  let m := if c.srtt = 0 then r else (7 * c.srtt + r) / 8
  { c with srtt := m, rttvar := v,
           rtoUs := min (max (cfg s 0x80000C 0 8) (ceilDiv (m + 4 * v) 1000)) (1000 * cfg s 0x800010 0 14) }

/-- Flags that a packet without data may carry: none (R342). -/
def plain (h : Bth) : Bool := h.flags = 0

/-- ACK: outcomes, errors, congestion, and packets that a later one overtook are sent again (R345, R355 to R358). Where all eight
records are used, a PSN above them may have been refused too and has no outcome yet (R345, R357). -/
def takeAck (i : Nat) (h : Bth) (b : AckBody) (s : State) : State :=
  match look s.ctxs i with
  | none => s
  | some c =>
    let err := fun (p : TxPkt) => b.errors.find? (fun e => e.1 = p.psn && e.2 ≠ 0)
    let known := fun (p : TxPkt) => decide (b.errors.length < 8) || b.errors.any (fun e => decide (psnSub p.psn c.sbase ≤ psnSub e.1 c.sbase))
    let has := fun (p : TxPkt) => p.sent && known p && (decide (2 ^ 23 ≤ psnSub p.psn h.psn) ||
      b.sack.any (fun k => psnAdd h.psn (1 + k) = p.psn))
    let gone := fun (p : TxPkt) => has p && ((err p).isSome || (p.opcode ≠ 2 && p.opcode ≠ 4))
    let acked := c.unacked.filter gone
    let c := acked.foldl (fun (c : Ctx) p => match err p with
      | some e => if (look c.errs p.msg).isSome then c else { c with errs := tput c.errs p.msg e.2 }
      | none => c) c
    let c := match (acked.filter (fun p => !p.retx)).getLast? with
      | some p => rttSample s ((s.now - p.sentAt) * 10 / 33) c
      | none => c
    let cut := 0 < b.ce ∧ c.lastCut + c.srtt * 33 / 10 ≤ s.now
    let c := if 0 < b.ce then { c with cwndAt := s.now } else c
    let c := if cut then { c with cwnd := max 16 (c.cwnd / 2), lastCut := s.now } else c
    let s := if cut then bftCount 20 s else s
    let newest := ((c.unacked.filter (fun p => has p && (err p).isNone)).map (·.sentAt)).foldl max 0
    let left := c.unacked.filter (fun p => !gone p)
    let late := (left.filter (fun p => p.sent && p.rnr.all (fun x => x.2 = 2 ^ 64) &&
      decide (p.sentAt + usCc (cfg s 0x80000C 20 8) ≤ newest))).map (·.psn)
    let s := { s with ctxs := tput s.ctxs i { c with unacked := left, lastUse := s.now } }
    settleMsgs i (late.foldl (fun s psn =>
      if (look s.ctxs i).any (fun c => c.unacked.any (fun p => p.psn = psn && p.sentAt ≠ s.now)) then sendPkt i psn s else s) s)

/-- NAK: NOT_READY delays the resend of the packet that the PSN led, BAD_CONTEXT moves the context to ERROR (R339, R346, R353). -/
def takeNak (i : Nat) (h : Bth) (code retryAfter : Nat) (s : State) : State :=
  match look s.ctxs i with
  | none => s
  | some c =>
    if code = 6 then ctxError i 6 s
    else if code = 1 then
      let s := bftCount 15 s
      let mine := fun (q : TxPkt) => q.sent && q.lead = h.psn
      match c.unacked.find? mine with
      | none => s
      | some p =>
        let first := match p.rnr with | some (f, _) => f | none => s.now
        if first + msCc (cfg s 0x800014 0 14) < s.now then ctxError i 1 s
        else modCtx i (fun c => { c with unacked := c.unacked.map (fun q =>
          if mine q then { q with rnr := some (first, s.now + usCc retryAfter) } else q) }) s
    else s

/-- CLOSE: the connection ends once outstanding packets finish (R337). -/
def takeClose (i : Nat) (s : State) : State :=
  match look s.ctxs i with
  | none => s
  | some c => { s with ctxs := if c.unacked.isEmpty then tdel s.ctxs i else tput s.ctxs i { c with state := 4 } }

/-- A packet without data on a context that is OPEN or CLOSING: steps 1 to 3, then its flags (R342, R347). -/
def rxControl (t : Nat) (h : Bth) (opcode : Nat) (op1 op2 : Nat) (k : Nat → State → State) (s : State) : Res :=
  let s := tick t s
  .next (if ¬ ready s then s else rxContext (· = 4) (mkPkt s h opcode 0 0 0 [] op1 op2)
    (fun _ s => if plain h then k (h.dcid % 2 ^ 24) s else bftCount 7 s) s)

/-- ACK (R345, R355 to R358). -/
def execAck (t : Nat) (h : Bth) (b : AckBody) (s : State) : Res := rxControl t h 0x10 b.ce 0 (fun i s => takeAck i h b s) s

/-- NAK (R339, R346, R353). -/
def execNak (t : Nat) (h : Bth) (code retryAfter : Nat) (s : State) : Res :=
  rxControl t h 0x11 code retryAfter (fun i s => takeNak i h code retryAfter s) s

/-- CLOSE (R337). -/
def execClose (t : Nat) (h : Bth) (s : State) : Res := rxControl t h 0x23 0 0 (fun i s => takeClose i s) s

/-- An answer to a CONNECT: steps 1 to 3, for a context that is CONNECTING; on an OPEN one it is a second answer (R336, R339,
R347). -/
def rxAnswer (t : Nat) (h : Bth) (k : Nat → Ctx → State → State) (s : State) : Res :=
  let s := tick t s
  .next (if ¬ ready s then s else rxContext (· = 1) (mkPkt s h 0x21 0 0 0 [] 0 0) (fun c s =>
    if ¬ plain h then bftCount 7 s else if c.state = 1 then k (h.dcid % 2 ^ 24) c s else s) s)

/-- ACCEPT: the connecting context is OPEN and sends what waits (R336). -/
def execAccept (t : Nat) (h : Bth) (b : ConnBody) (s : State) : Res :=
  rxAnswer t h (fun i c s => pump i (openWith i ((look s.ctxs i).getD c) b s)) s

/-- REFUSE: the attempt fails, and what waited on it completes with an error (R336, R337); its cause has no further effect. -/
def execRefuse (t : Nat) (h : Bth) (cause : Nat) (s : State) : Res :=
  let _ := cause
  rxAnswer t h (fun i _ s => ctxError i 0 s) s

/-- A response for a request's PSN is its outcome, 400 cc after its last bit at the pin (R357, R365); a CLOSING context still waits
for those it asked for (R337). One whose flags or fields do not agree with it is discarded (R342, R347). -/
def response (t : Nat) (h : Bth) (op : Nat) (keep : TxPkt → Ctx → Option Ctx) (s : State) : Res :=
  let s := tick t s
  .next (if ¬ ready s ∨ s.now ≠ h.bit + 400 then s
    else rxContext (· = 4) (mkPkt s h (op + 1) 0 0 0 [] 0 0) (fun _ s =>
      let i := h.dcid % 2 ^ 24
      match look s.ctxs i with
      | none => s
      | some c => match c.unacked.find? (fun p => p.psn = h.psn && p.opcode = op) with
        | none => bftCount 4 s
        | some p => match (if flagsOk 6 h.flags then keep p c else none) with
          | none => bftCount 7 s
          | some c => settleMsgs i { s with ctxs := tput s.ctxs i { c with unacked := c.unacked.filter (fun q => q.psn ≠ h.psn) } }) s)

/-- READ_RESP: the bytes of one packet of a request come in, and land locally a count after their last bit at the pin (R59, R60), at their offset from the start of the READ_REQ that they answer:
the first one, or the one last sent for the PSN (R343, R356, R357). -/
def execReadResp (t : Nat) (h : Bth) (off : Nat) (data : List Byte) (s : State) : Res :=
  response t h 2 (fun p c =>
    let at_ := p.field 3 * payload c
    if (off ≠ at_ ∧ off ≠ psnSub p.psn p.lead * payload c) ∨ data.length ≠ min (payload c) (p.field 2 - at_) then none
    else if p.msg = 5 then some c
    else some { c with resps := c.resps ++ [(p.msg, p.field 1 + at_, data, h.bit + ingressCc (bftLen 8 data.length))] }) s

/-- ATOMIC_RESP: the old value, and the outcome of its PSN (R357). -/
def execAtomicResp (t : Nat) (h : Bth) (old : W64) (s : State) : Res :=
  response t h 4 (fun p c => some { c with resps := c.resps ++ [(p.msg, 0, leBytes 8 old.toNat, h.bit + ingressCc 0)] }) s

/-- A packet that was held for its context goes on; no response is awaited by a context that was not pinned, and no packet of it
awaits an outcome (R338). -/
def resume (p : HeldPkt) (s : State) : State :=
  match p.opcode with
  | 3 | 5 => bftCount 4 s
  | 0x10 => takeAck p.ctx p.hdr { ce := p.op1, sack := [], errors := [] } s
  | 0x11 => takeNak p.ctx p.hdr p.op1 p.op2 s
  | 0x23 => takeClose p.ctx s
  | 0x21 => s
  | _ => receive { p with fetch := false } .ok s

/-- BFT_CONTEXT_FETCH: a context arrives from host memory, where there is room for it, and what waits for it goes on, or it becomes
ERROR (R338). -/
def execBftContextFetch (t ctx : Nat) (ok : Bool) (s : State) : Res :=
  let s := tick t s
  .next (match look s.ctxs ctx with
    | none => s
    | some c =>
      let s' := evictCtx s
      if ¬ ready s ∨ ¬ c.host ∨ (ok ∧ 16384 ≤ ctxCached s') then s else
      let mine := s.holds.filter (fun h => h.2.ctx = ctx && h.2.fetch)
      let drop := fun (s : State) => { s with holds := s.holds.filter (fun h => !(h.2.ctx = ctx && h.2.fetch)) }
      if ok then
        pump ctx (mine.foldl (fun s h =>
          if h.2.hdr.src ≠ c.peer then bftCount 6 s
          else if (h.2.opcode = 0x10 ∨ h.2.opcode = 0x11 ∨ h.2.opcode = 0x23) ∧ ¬ plain h.2.hdr then bftCount 7 s
          else resume h.2 (heard ctx h.2.hdr s))
          (modCtx ctx (fun c => { c with host := false, lastUse := s.now }) (drop s')))
      else ctxError ctx 0 (modCtx ctx (fun c => { c with host := false }) (drop s)))

/-- BFT_RETRY_AFTER_EXPIRY: a packet that was NOT_READY is sent again (R353). -/
def execBftRetryAfterExpiry (t ctx psn : Nat) (s : State) : Res :=
  let s := tick t s
  .next (match (look s.ctxs ctx).bind (fun c => c.unacked.find? (·.psn = psn)) with
    | some p =>
      match p.rnr with
      | some (f, at_) =>
        if s.now < at_ ∨ at_ = 2 ^ 64 ∨ ¬ ready s then s
        else if f + msCc (cfg s 0x800014 0 14) < s.now then ctxError ctx 1 s
        else sendPkt ctx p.lead s
      | none => s
    | none => s)

/-- BFT_RTO_EXPIRY: a timeout of a packet, or of a CONNECT: it is sent again with the timeout doubled, and after RETRIES
expiries in a row the context moves to ERROR (R336, R356, R358). -/
def execBftRtoExpiry (t ctx psn : Nat) (s : State) : Res :=
  let s := tick t s
  .next (if ¬ ready s then s else match look s.ctxs ctx with
    | none => s
    | some c =>
      let rto := usCc c.rtoUs
      let retries := cfg s 0x80000C 16 4
      let slower := fun (c : Ctx) => { c with rtoUs := min (2 * c.rtoUs) (1000 * cfg s 0x800010 0 14), cwnd := 16 }
      if c.state = 1 then
        if s.now < c.lastUse + rto then s
        else if retries ≤ c.tries then ctxError ctx 0 (bftCount 3 s)
        else
          let c := { slower c with tries := c.tries + 1, lastUse := s.now, cwnd := c.cwnd }
          originateBft c.peer (handshake 0x20 ctx c s) (bftCount 3 { s with ctxs := tput s.ctxs ctx c })
      else if c.state = 2 ∨ c.state = 4 then
        match c.unacked.find? (·.psn = psn) with
        | none => s
        | some p =>
          let waits : Bool := match p.rnr with | some (_, a) => decide (a ≠ 2 ^ 64) | none => false
          if ¬ p.sent ∨ waits ∨ s.now < p.sentAt + rto then s else
          let s := bftCount 3 s
          if retries ≤ p.expiries + 1 then ctxError ctx 0 s
          else
            let run := (runOf c p).map (·.psn)
            let c := slower { c with unacked := c.unacked.map (fun q => if q.psn ∈ run then { q with expiries := q.expiries + 1 } else q) }
            sendPkt ctx psn { s with ctxs := tput s.ctxs ctx c }
      else s)

/-- BFT_ACK_TIMER: 2 µs after the first outcome not yet reported (R355). -/
def execBftAckTimer (t ctx : Nat) (s : State) : Res :=
  let s := tick t s
  .next (if ¬ ready s then s else match look s.ctxs ctx with
    | some c => if 0 < c.unreported ∧ c.ackAt + usCc 2 ≤ s.now then sendAck ctx s else s
    | none => s)

/-- BFT_IDLE_CLOSE: a plain connection without traffic for IDLE_S closes (R335). -/
def execBftIdleClose (t ctx : Nat) (s : State) : Res :=
  let s := tick t s
  .next (if ¬ ready s then s else match look s.ctxs ctx with
    | some c =>
      if c.state = 2 ∧ ¬ c.job ∧ c.unacked.isEmpty ∧ c.lastUse + msCc (1000 * c.idle) ≤ s.now then closeCtx ctx s else s
    | none => s)

/-- BFT_CWND_INCREASE: a round-trip time without CE (R358). -/
def execBftCwndIncrease (t ctx : Nat) (s : State) : Res :=
  let s := tick t s
  .next (if ¬ ready s then s else match look s.ctxs ctx with
    | some c =>
      if c.state = 2 ∧ c.cwndAt + c.srtt * 33 / 10 ≤ s.now then
        pump ctx (modCtx ctx (fun c => { c with cwnd := min (c.cwnd + 1) (cfg s 0x800018 0 11), cwndAt := s.now }) s)
      else s
    | none => s)

end Sys2Proof.Machine
end

