-- ==== Sys2Proof/Machine/Views.lean ====
section
/-! DEFINITION. The module's own records as the owner view and OBJ_QUERY show them: frame records, commit records,
translation entries and the module tables (spec/10 R243, R245, R253; spec/08 R207; spec/14 R374; spec/18 R455). -/

namespace Sys2Proof.Machine

/-- Logical vault pages of the module (R266). -/
def vaultPages (s : State) : Nat :=
  if s.alm.flashTb = 16 then 222167968 else if s.alm.flashTb = 8 then 111083984 else 0

/-- The populated stacks in ascending order. -/
def stackList (s : State) : List Nat := (List.range 12).filter (hasStack s)

/-- The frame record of a frame, by key stack × 2^20 + frame (R253). -/
def frameWord (s : State) (key : Nat) : Nat :=
  match s.frames.find? (fun f => decide (f.1 ≤ key) && decide (key < f.1 + (match look s.objs f.2.obj with
    | some o => pageFrames o.psize | none => 1))) with
  | some f =>
    let pins := match look s.objs f.2.obj with | some o => pinsOf o f.2.page | none => 0
    f.2.state + pins * 2 ^ 4 + (if f.2.dirty then 2 ^ 17 else 0) + (if f.2.vote then 2 ^ 18 else 0) +
      (if f.2.lock then 2 ^ 19 else 0) + f.2.obj % 2 ^ 32 * 2 ^ 32
  | none =>
    if (stackOf s (key / 2 ^ 20)).fill.any (fun f => decide (f.1 ≤ key) && decide (key < f.1 + f.2)) then 1 else 0

/-- The commit record of a strip, by its frame's key (R207). -/
def recWord (s : State) (key : Nat) : List Byte :=
  match look s.recs key with
  | none => List.replicate 16 0
  | some r => leBytes 8 r.step ++ leBytes 2 r.job ++ leBytes 1 (r.state + r.buffer * 16) ++
      leBytes 1 (if r.stochastic then 1 else 0) ++ leBytes 4 r.object

/-- A tenant's translation entry of a page of an object (R245). The place of a remote page's aperture in the table pool is not
stated: a free value of its own for each page (log 3). -/
def transEntry (tenant h : Nat) (o : Obj) (page : Nat) : Nat :=
  match mapOf o tenant with
  | none => 0
  | some m =>
    let sz := pageBytes o.psize
    let (tier, loc) := match look o.loc page with
      | some f => (0, f / 2 ^ 20 + f % 2 ^ 20 * 16)
      | none => match o.home with
        | 1 => (1, (o.homeLoc + page * sz) / 2 ^ 16 * 16)
        | 2 => (2, (o.homeLoc + page) * 16)
        | 3 => (3, Config.aperture h page % 2 ^ 24 * 16)
        | _ => (7, 0)
    3 + o.psize * 4 + tier * 16 + (if m.w then 2 ^ 7 else 0) + (if m.acc then 2 ^ 8 else 0) +
      (if page ∈ m.pins then 2 ^ 9 else 0) + (if 1 < o.maps.length then 2 ^ 10 else 0) + loc * 2 ^ 12

/-- Bytes of the frame table and of the vault map (R243). -/
def frameTableBytes (s : State) : Nat := 8 * frameLimit * (stackList s).length
def vaultMapBytes (s : State) : Nat := 4 * vaultPages s

/-- Byte `i` of a byte string. -/
def byteAt (bs : List Byte) (i : Nat) : Byte := (bs[i]?).getD 0

/-- A byte of the module tables by its offset in the object: the frame table in stack and frame order, the vault map
and the table pool, whose layouts are not stated and are free values, but for the night-log ring (R243, R455; log 3). -/
def tableByte (s : State) (free o : Nat) : Byte :=
  let f := frameTableBytes s
  let v := vaultMapBytes s
  if o < f then
    let n := o / 8
    match (stackList s)[n / frameLimit]? with
    | some st => byteAt (leBytes 8 (frameWord s (st * 2 ^ 20 + n % frameLimit))) (o % 8)
    | none => 0
  else if o < f + v then Config.freeByte free
  else if o < f + v + 4 * 2 ^ 20 then
    let p := o - f - v
    match s.flt.ring.find? (fun e => decide (e.seq % 65536 = p / 64)) with
    | some e => byteAt (entryBytes e) (p % 64)
    | none => 0
  else Config.freeByte free

/-- A byte of the owner view (R374). -/
def ownerByte (s : State) (free k : Nat) : Byte :=
  if ¬ hasStack s (k / 2 ^ 36) then 0
  else if inReserve k then
    let r := k % 2 ^ 36 - frameLimit * 65536
    byteAt (recWord s (k / 2 ^ 36 * 2 ^ 20 + r / 16)) (r % 16)
  else match tableOff s k with
    | some o => tableByte s free o
    | none => tget s.hbm k 0

/-- A run of the owner view, and the state past the free values it may have drawn. -/
def ownerRead (k n : Nat) (s : State) : List Byte × State :=
  ((List.range n).map (fun i => ownerByte s (s.free + i) (k + i)), { s with free := s.free + n })

end Sys2Proof.Machine
end

