-- ==== Sys2Proof/Machine/NightLog.lean ====
section
/-! DEFINITION. Acknowledgement windows, the night-log ring and fault frames (spec/18 R450, R455, R457, R460). -/

namespace Sys2Proof.Machine

/-- ACK_WINDOW_EXPIRY: a record whose window ends unacknowledged raises FLT_ACK_TIMEOUT (R450). -/
def execAckWindowExpiry (t record : Nat) (s : State) : Res :=
  let s := tick t s
  .next (match look s.flt.quars record with
    | some q =>
      if (live s ∨ s.pwr.phase = 4) ∧ q.state = 1 ∧ q.until_ ≤ s.now then
        raise { src := 0x001, unit := record } { s with flt := { s.flt with quars := tput s.flt.quars record { q with state := 3 } } }
      else s
    | none => s)

/-- An acknowledgement closes a window and frees its record; it undoes nothing (R450). -/
def acknowledge (record : Nat) (s : State) : State :=
  match look s.flt.quars record with
  | some q => if q.state = 1 then { s with flt := { s.flt with quars := tput s.flt.quars record { q with state := 2 } } } else s
  | none => s

/-- FLT_ACK: a write of a record's index (R450). -/
def execFltAck (t record : Nat) (s : State) : Res :=
  let s := tick t s
  .next (if barServed s then acknowledge (record % 64) s else s)

/-- The owner's read pointer, a SEQ (R455). -/
def readPointer (s : State) : Nat := regA s 0xB00010 + regA s 0xB00014 * 2 ^ 32

/-- An entry whose beacon has not been queued yet (R460). -/
def needsBeacon (s : State) (e : Entry) : Bool :=
  decide (s.flt.beacons ≤ e.seq) && (e.cls % 8 = 3 || (e.cls % 8 = 2 && cfg s 0xB00034 0 1 = 1))

/-- An entry enters the ring, which overwrites its oldest one when full; one not yet read is counted (R455). -/
def ringPush (e : Entry) (s : State) : State :=
  let s := match s.flt.ring with
    | o :: r =>
      if s.flt.ring.length < 65536 then s
      else
        let s' := { s with flt := { s.flt with ring := r } }
        if readPointer s ≤ o.seq then irqSet 0xB00384 8 (bump 0xB00024 32 1 s') else s'
    | [] => s
  { s with flt := { s.flt with ring := s.flt.ring ++ [e] } }

/-- The place of an entry in the ring, which begins the table pool (R243, R455). -/
def ringPlace (s : State) (e : Entry) : List (Place × Nat) :=
  match s.tables with
  | none => []
  | some (_, mask) =>
    let o := frameTableBytes s + vaultMapBytes s + 64 * (e.seq % 65536)
    let run := 65536 * (maskStacks mask).foldl (fun m k => max m (tableRun s k)) 1
    match (maskStacks mask)[o / run]? with
    | some k => [(.hbm (k * 2 ^ 36 + o % run) 0, 64)]
    | none => []

/-- An entry may drain: 33 cc after the one before it, and in an open slot of the stack that holds its place (R455). -/
def drainOpen (s : State) (e : Entry) : Bool :=
  s.flt.drainAt.all (fun a => decide (a + 33 ≤ s.now)) && openNow s none [] (ringPlace s e)

/-- NIGHT_LOG_DRAIN: the FIFO's first entry goes to the ring once the ring exists and its beacon, where it needs one, has
been queued (R455, R460). The drain goes on in the halted state (R461). -/
def execNightLogDrain (t : Nat) (s : State) : Res :=
  let s := tick t s
  .next (match s.flt.fifo with
    | [] => s
    | e :: r =>
      if ¬ s.flt.ringSet ∨ (needsBeacon s e ∧ s.flt.c4.isNone) ∨ ¬ drainOpen s e then s else
      let s := goNow none [] (ringPlace s e) s
      let s := ringPush e { s with flt := { s.flt with fifo := r, drainAt := some s.now } }
      if e.cls % 8 = 2 then irqSet 0xB00384 1 s else s)

/-- BEACON_GENERATE: the next entry that needs a beacon gets one while the queue has room (R332, R460). -/
def execBeaconGenerate (t : Nat) (s : State) : Res :=
  let s := tick t s
  .next (match s.flt.fifo.find? (needsBeacon s) with
    | some e =>
      if ¬ live s ∨ 32 ≤ s.mgt.q1.length then s
      else queueMgt 1 (.beacon 1 e) { s with flt := { s.flt with beacons := e.seq + 1 } }
    | none => s)

end Sys2Proof.Machine
end

