-- ==== Sys2Proof/Machine/SelfTest.lean ====
section
/-! DEFINITION. Self-test slices, retirement and spares, and the field part of the almanac (spec/19 R463 to R474). -/

namespace Sys2Proof.Machine

/-! ### Blocks and slices -/

/-- A slice that runs in service (R463). -/
def inService (slice : Nat) : Bool := slice ∈ [0x01, 0x02, 0x03, 0x04, 0x10, 0x20, 0x22, 0x30, 0x40, 0x41]

/-- A slice takes its block out of service, but for REF and PHASE (R473). -/
def holdsBlock (slice : Nat) : Bool := slice ≠ 0x40 && slice ≠ 0x41

/-- The budget of a slice in cc (R463). -/
def sliceBudget (slice : Nat) : Nat :=
  msCc (match slice with
    | 0x01 => 20 | 0x02 => 2 | 0x03 => 5 | 0x04 => 2 | 0x08 => 10 | 0x10 => 10 | 0x11 => 150 | 0x20 => 30 | 0x21 => 20
    | 0x22 => 5 | 0x30 => 5 | 0x40 => 5 | 0x41 => 2 | _ => 5)

/-- Where only one slice may run at once: compute dies, I/O dies, stacks; none for the module's own (R473). -/
def sliceDomain (slice inst : Nat) : Option Nat :=
  match sliceKind slice with
  | some .core => some (inst % 256 / 18)
  | some .stack => some (16 + inst % 256)
  | some .port => some (32 + inst % 256 / 48)
  | some .half => some (32 + inst % 256)
  | some .channel => some 32
  | _ => none

/-- Segments that a job runs now or will run (R473). -/
def laterSegs (s : State) (j : Job) : List Segment :=
  match imageOf s j with
  | some p =>
    let first := if bitOf j.block.flags 1 then min j.block.loopSeg j.seg else j.seg
    p.segments.drop first
  | none => []

/-- Planned slots of a segment on a port's egress: resource 32 + port code of its uses (log 19). A block of kind port is
named by the code of one of its sub-ports (R456). -/
def usesPort (g : Segment) (code : Nat) : Bool :=
  g.uses.any (fun u => decide (32 ≤ u.resource ∧ u.resource < 128) && (u.resource - 32) / 4 = code / 4)

/-- A job uses a block, or will in a later segment (R473). -/
def jobUses (s : State) (j : Job) (k : Unit') (unit : Nat) : Bool :=
  (laterSegs s j).any (fun g => match k with
    | .core | .bank | .row | .col => g.launches.any (·.core = unit)
    | .stack => (match imageOf s j with
      | some p => g.entries.any (fun i => (p.se[i]?).any (·.stack = unit)) || g.streams.any (fun i => (p.streams[i]?).any (·.stack = unit))
      | none => false)
    | .port => usesPort g unit
    | .half => (match imageOf s j with
      | some p => g.ops.any (fun i => (p.cor[i]?).any (fun x => entryHalf s p x = unit))
      | none => false)
    | _ => false)

/-- A block in use by some job (R473). -/
def blockBusy (s : State) (k : Unit') (unit : Nat) : Bool := s.jobs.any (fun e => jobUses s e.2 k unit)

/-- A started slice holds a block from job starts (R473). -/
def blockHeld (s : State) (k : Unit') (unit : Nat) : Bool :=
  s.boot.slices.any (fun x => x.at_.isSome && holdsBlock x.slice && sliceKind x.slice == some k && sameUnit k x.inst unit) ||
  s.boot.returning.any (fun x => holdsBlock x.slice && sliceKind x.slice == some k && sameUnit k x.inst unit)

/-- A block that is retired or marked unusable (R468, R473). -/
def blockRetired (s : State) (slice inst : Nat) : Bool :=
  let u := inst % 256
  match sliceKind slice with
  | some .core => (coreOf s u).retired
  | some .stack => (stackOf s u).unusable
  | some .port => (portOf s u).failed
  | some .meter => false
  | some k => s.flt.blocks.contains (k, inst)
  | none => false

/-! ### Spares (R470, R471) -/

/-- Spares built for a unit of a category (R470). -/
def spareTotal (cat : Nat) : Nat :=
  match cat with
  | 0 => 2 | 1 => 8 | 2 => 8 | 3 => 2 | 4 => 32 | 5 => 512 | 6 => 1 | 9 => 2 | 10 => 1 | _ => 0

/-- The unit of a category that an instance lies in. -/
def spareUnit (cat inst : Nat) : Nat :=
  match cat with
  | 0 => inst % 256 / 18
  | 9 => 0
  | 10 => inst % 256 - 24
  | _ => inst % 256

/-- Physical index of spare `i` of a category (R470). -/
def spareIndex (cat i : Nat) : Nat :=
  match cat with
  | 1 => 256 + i | 2 => 256 + i | 3 => 24 + i | 4 => 1024 + i | 6 => 16 | 9 => 22 + i | _ => i

/-- Spares of a unit that are in service or retired. -/
def spareMask (s : State) (cat unit : Nat) : Nat := tget s.boot.field.spares (cat * 256 + unit) 0

/-- The free spares of a category and unit by physical index: for cores the die's cores that are neither enabled nor
retired. -/
def freeSpares (s : State) (cat inst : Nat) : List Nat :=
  let u := spareUnit cat inst
  if cat = 0 then
    ((List.range 18).map (fun i => 18 * u + i)).filter (fun c =>
      !(coreOf s c).enabled && !(coreOf s c).retired && !(coreOf s c).quarantined && (look s.cores c).isSome)
  else ((List.range (spareTotal cat)).filter (fun i => !bitOf (spareMask s cat u) i)).map (spareIndex cat)

/-- The kind of block of a spare category (R470). -/
def catKind (cat : Nat) : Unit' :=
  match cat with
  | 0 => .core | 1 => .row | 2 => .col | 3 => .bank | 4 => .stack | 5 => .stack | 6 => .stack | _ => .phase

/-- The spare that a repair takes: the one asked for, or the lowest free one. -/
def pickSpare (s : State) (cat inst want : Nat) : Option Nat :=
  (freeSpares s cat inst).find? (fun p => want = 0xFF || p = want || (cat = 0 && p % 18 = want))

/-- The field part takes a change; the next write carries it (R472). -/
def changeField (f : FieldPart → FieldPart) (s : State) : State :=
  { s with boot := { s.boot with field := f s.boot.field, almPending := true } }

/-- Mark a spare used. -/
def useSpare (cat unit p : Nat) (s : State) : State :=
  let i := if cat = 0 then p % 18 else (List.range (spareTotal cat)).foldl (fun m i => if spareIndex cat i = p then i else m) 0
  let m := spareMask s cat unit
  changeField (fun f => { f with spares := tput f.spares (cat * 256 + unit) (if bitOf m i then m else m + 2 ^ i) }) s

/-- The logical index that a physical index of a category and unit serves: its own, unless it is a spare in service (R111, R470). -/
def logicalOf (s : State) (cat unit p : Nat) : Nat := tget s.boot.field.served (servedKey cat unit p) p

/-- A spare comes into service for a failed block, which leaves it (R470, R471). -/
def putInService (cat unit old new : Nat) (s : State) : State :=
  let lg := logicalOf s cat unit old
  changeField (fun f => { f with served := tput (tdel f.served (servedKey cat unit old)) (servedKey cat unit new) lg }) s

/-- A failed block leaves service, and no spare takes its place (R469). -/
def outOfService (cat unit old : Nat) (s : State) : State :=
  changeField (fun f => { f with served := tdel f.served (servedKey cat unit old) }) s

/-- Clear a core's contexts and engine (R109, R115). -/
def clearContexts (core : Nat) (s : State) : State :=
  { s with
    threads := tclear s.threads (core * 128) 128
    sregs := tclear s.sregs (core * 128 * 64) (128 * 64)
    vregs := tclear s.vregs (core * 128 * 8 * 256) (128 * 8 * 256)
    sbusy := tclear s.sbusy (core * 128 * 64) (128 * 64)
    vbusy := tclear s.vbusy (core * 128 * 8) (128 * 8)
    badVec := s.badVec.filter (fun k => k / 1024 ≠ core)
    ranges := s.ranges.filter (fun r => r.core ≠ core)
    acc := tclear s.acc (core * 131072) 131072
    badAcc := s.badAcc.filter (fun k => k / 131072 ≠ core)
    slots := tclear s.slots (core * 256) 256
    badSlot := s.badSlot.filter (fun k => k / 256 ≠ core)
    cores := tmod s.cores core (fun c => { c with
      mac := none, opeFree := 0, readable := [0, 0], drained := [0, 0], portFree := 0, ringWr := 0, abortClear := false }) }

/-- Zero a core store, with valid parity (R400). -/
def clearStore (core off n : Nat) (s : State) : State :=
  let b := core * 2 ^ 25 + off
  { s with store := tclear s.store b n, badStore := s.badStore.filter (fun k => k < b || b + n ≤ k) }

/-- A stack whose spares are exhausted: unusable, its frames retired, pages in it lost (R469). -/
def stackLost (k : Nat) (s : State) : State :=
  let gone := fun (o : Obj) => (o.loc.filter (fun p => p.2 / 2 ^ 20 = k)).map (·.1)
  let objs := tmap s.objs (fun _ o => { o with
    lost := o.lost ++ (gone o).filter (· ∉ o.lost), loc := o.loc.filter (fun p => p.2 / 2 ^ 20 ≠ k) })
  modStack k (fun st => { st with unusable := true, ready := false, streams := [], fill := [] })
    { s with objs, frames := s.frames.filter (fun f => f.1 / 2 ^ 20 ≠ k) }

/-- The failed core leaves every partition, and its spare takes the logical index but joins none (R471). -/
def swapCore (old new : Nat) (s : State) : State :=
  let lg := (coreOf s old).logical
  let off := fun m => if bitOf m old then m - 2 ^ old else m
  let s := clearStore new 0 0x1800000 (clearContexts new s)
  let s := modCore old (fun c => { c with enabled := false, retired := true, quarantined := false, jobs := [], imap := [] }) s
  let s := modCore new (fun c => { c with enabled := true, logical := lg, tenants := [] }) s
  let s := { s with tenants := tmap s.tenants (fun _ x => { x with
    cores := off x.cores, nextPart := x.nextPart.map (fun p => (off p.1, p.2)) }) }
  changeField (fun f => { f with
    cores := off f.cores + (if bitOf f.cores new then 0 else 2 ^ new)
    logical := tput (tdel f.logical old) new lg
    retired := if bitOf f.retired old then f.retired else f.retired + 2 ^ old }) s

/-- A failed block with no spare left (R469). -/
def unspared (cat inst : Nat) (s : State) : State :=
  match cat with
  | 0 =>
    let c := inst % 256
    let off := fun m => if bitOf m c then m - 2 ^ c else m
    let s := modCore c (fun x => { x with enabled := false, retired := true, quarantined := false }) s
    changeField (fun f => { f with cores := off f.cores, logical := tdel f.logical c, retired := if bitOf f.retired c then f.retired else f.retired + 2 ^ c })
      { s with tenants := tmap s.tenants (fun _ x => { x with cores := off x.cores, nextPart := x.nextPart.map (fun p => (off p.1, p.2)) }) }
  | 4 => stackLost (inst % 256) s
  | 6 => stackLost (inst % 256) s
  | _ => s

/-! ### Dark frames (R464, R466) -/

/-- The reference of a check: the dark frame taken on the mapping in use, else the factory's. A signature is common to every
instance of its kind. -/
def darkOf (s : State) (slice inst check : Nat) : Int :=
  match (s.boot.field.dark.filter (fun d => d.slice = slice && d.inst = inst && d.check = check)).getLast? with
  | some d => d.value
  | none => Config.dark slice inst check

/-- Two values agree to a number of ten-thousandths of the second. -/
def agree (v ref : Int) (tol : Nat) : Bool := decide (10000 * (v - ref).natAbs ≤ tol * ref.natAbs)

/-- The references of a slice by check, where the record of R466 numbers none (DESIGN CHOICE, log 28): 0 the signature or the
current of a phase, 1 jitter, 2 voltage, 3 meter, 16 + lane an eye margin, 64 + number a diode. -/
def eyeCheck (lane : Nat) : Nat := 16 + lane
def diodeCheck (i : Nat) : Nat := 64 + i

/-- The module measures an instance on its new mapping and takes the dark frame where it lies within the factory tolerance of
R464: an eye at 70 % of the factory record or more, a phase's share within 15 % of it. The measurement is a free value (R466;
log 3). -/
def remeasure (slice inst mapping check : Nat) (s : State) : Bool × State :=
  let v : Int := Config.choice s.free
  let ref := Config.dark slice inst check
  let ok := if slice = 0x41 then agree v ref 1500 else decide (7 * ref ≤ 10 * v)
  let s := { s with free := s.free + 1 }
  (ok, if ok then changeField (fun f => { f with
    dark := f.dark ++ [{ slice, inst, mapping, check, value := v, taken := ptpNs s }] }) s else s)

/-- PLLs of a slice: lock within 50 µs, jitter at most 1.2 times the dark frame (R464). -/
def pllOk (s : State) (slice inst : Nat) (r : SliceRes) : Bool :=
  decide (r.lockNs ≤ 50000) && decide (10 * (r.jitter : Int) ≤ 12 * darkOf s slice inst 1)

/-- The diodes that lie further than 3 K from the mean of their die's, after the dark frame's offset (R464). -/
def diodesOff (s : State) (inst : Nat) (r : SliceRes) : List Nat :=
  let at_ := r.diodes.map (fun d => (d.1, d.2 - darkOf s 0x40 inst (diodeCheck d.1)))
  (at_.filter (fun d =>
    let die := at_.filter (fun x => x.1 / 18 = d.1 / 18)
    let sum := die.foldl (fun n x => n + x.2) (0 : Int)
    decide (3000 * die.length < ((die.length : Int) * d.2 - sum).natAbs))).map (·.1)

/-- Lane pairs of a port with a bit error or an eye below 70 % of the lane's dark frame (R464). -/
def lanesOff (s : State) (inst : Nat) (r : SliceRes) : List Nat :=
  let bad := (List.range 4).filter (fun (i : Nat) => 0 < (r.errors[i]?).getD 0 ||
    (r.eyes[i]?).any (fun e => decide (100 * (e : Int) < 70 * darkOf s 0x20 inst (eyeCheck i))))
  (bad.map (· / 2)).eraseDups

/-- A signature equals the dark frame exactly (R464). -/
def sigOk (s : State) (slice : Nat) (r : SliceRes) : Bool := decide ((r.sig : Int) = darkOf s slice 0xFFFF 0)

/-- The failures of a slice by sub-unit: none where every check of R464 holds. The meter is sub-unit 0 of REF, the reference 1
and a diode 2 and its number; the PLL is sub-unit 0 of CLOCK and the oscillator 1 (DESIGN CHOICE, log 18). -/
def sliceFails (s : State) (slice inst : Nat) (r : SliceRes) : List Nat :=
  let orWhole := fun (ok : Bool) (l : List Nat) => if l.isEmpty && !ok then [0] else l
  match slice with
  | 0x01 | 0x04 | 0x08 => orWhole (sigOk s slice r) []
  | 0x02 | 0x03 | 0x11 => r.bad
  | 0x10 | 0x30 => orWhole (sigOk s slice r) r.bad
  | 0x20 => orWhole (pllOk s slice inst r) (lanesOff s inst r)
  | 0x21 | 0x22 => orWhole (pllOk s slice inst r && r.errors.all (· = 0)) []
  | 0x40 => (if agree r.meter (darkOf s slice inst 3) 25 then [] else [0]) ++
      (if agree r.volt (darkOf s slice inst 2) 30 then [] else [1]) ++ (diodesOff s inst r).map (· + 2)
  | 0x41 => orWhole (agree r.share r.mean 1500) []
  | 0x48 => (if pllOk s slice inst r then [] else [0]) ++ (if r.ppm.natAbs ≤ 20 then [] else [1])
  | _ => []

/-- A spare takes the failed block's logical index; a row, column or bank is zeroed as it comes in (R471). -/
def spareIn (cat inst p : Nat) (s : State) : State :=
  let u := inst % 256
  let s := useSpare cat (spareUnit cat inst) p s
  let sub := logicalOf s cat (spareUnit cat inst) (inst / 256)
  let s := if cat = 0 then s else putInService cat (spareUnit cat inst) (inst / 256) p s
  match cat with
  | 0 => swapCore u p s
  | 1 => modCore u (fun c => { c with spareRows := sparesServing s.boot.field 1 u })
      { s with acc := tclear (tclear s.acc (u * 131072 + sub * 256) 256) (u * 131072 + 65536 + sub * 256) 256 }
  | 2 => modCore u (fun c => { c with spareCols := sparesServing s.boot.field 2 u })
      { s with acc := s.acc.filter (fun e => !(e.1 / 131072 = u && e.1 % 256 = sub)) }
  | 3 => if sub < 24 then clearStore u (sub * 2 ^ 20) (2 ^ 20) s else s
  | 4 => modStack u (fun k => { k with laneSpares := sparesServing s.boot.field 4 u }) s
  | 5 => modStack u (fun k => { k with rowRepairs := k.rowRepairs + 1 }) (bump 0xB1020C 32 1 s)
  | 6 => modStack u (fun k => { k with chSpare := true, chCopy := none }) s
  | 9 | 10 => (remeasure 0x41 inst 1 0 s).2
  | _ => s

/-- A repair may be served at this meridian: lanes wait for roll-forward, a channel pair for its copy (R209, R218,
R471). -/
def repairReady (s : State) (r : Repair) : Bool :=
  let k := r.inst % 256
  let rolling := s.upds.any (fun u => u.2.stack = k && u.2.strips.any (fun p => decide (2 ≤ p.phase)))
  match r.cat with
  | 4 => !rolling
  | 6 => !rolling && ((freeSpares s 6 r.inst).isEmpty || (stackOf s k).chCopy.any (·.2))
  | _ => true

/-- The category that a repair falls back on: a core whose rows, columns or banks have no spare left is retired itself
(R474). -/
def effCat (s : State) (r : Repair) : Nat :=
  if (r.cat = 1 ∨ r.cat = 2 ∨ r.cat = 3) ∧ (freeSpares s r.cat r.inst).isEmpty then 0 else r.cat

/-- A repair is that of a block which a slice has failed. -/
def repairs (r : Repair) (slice inst : Nat) : Bool :=
  (r.src = 0x1D0 || r.src = 0x1A7 || r.src = 0x1C0) && inst % 256 = r.inst % 256 && (match sliceKind slice with
    | some .core => decide (r.cat ≤ 3)
    | some .stack => decide (4 ≤ r.cat ∧ r.cat ≤ 6) || r.cat = 15
    | some .phase => r.cat = 9 || r.cat = 10
    | _ => r.cat = 15)

/-- The SELFTESTs that wait for a repair learn its result, and so does BST_LAST_RESULT (R473, R475). -/
def decideWaits (r : Repair) (res idx : Nat) (s : State) : State :=
  let hit := fun (w : SliceWait) => (w.res = 0xFF || (w.res = 1 && res = 2)) && repairs r w.slice w.inst
  { s with boot := { s.boot with
      lastResult := if s.boot.returning.any (fun w => hit w && w.slice = s.boot.lastSlice && w.inst = s.boot.lastInst) then res
        else s.boot.lastResult
      returning := s.boot.returning.map (fun w => if hit w then { w with res, idx } else w) } }

/-- The final reply of a SPARE_ACTION (R474). -/
def answerSpare (r : Repair) (idx : Nat) (s : State) : State :=
  match r.cmd with
  | some c => done c idx s
  | none => s

/-- Bring in the spare of a retirement, and its number; 0xFFFF where none is left, or where what the module measures on the new
mapping lies outside the factory tolerance (R466, R469, R471). -/
def bringSpare (r : Repair) (s : State) : Nat × State :=
  let cat := effCat s r
  let fits := !(cat = 9 || cat = 10) || (remeasure 0x41 r.inst 1 0 s).1
  match pickSpare s cat r.inst r.want with
  | some p =>
    if fits then
      let s := irqSet 0xB10184 4 (bump 0xB10208 32 1 (spareIn cat r.inst p s))
      let s := { s with flt := { s.flt with served := s.flt.served ++ [(catKind cat, r.inst)] } }
      (p, if (freeSpares s cat r.inst).isEmpty then irqSet 0xB10184 8 s else s)
    else (0xFFFF, useSpare cat (spareUnit cat r.inst) p s)
  | none =>
    let s := unspared cat r.inst (outOfService cat (spareUnit cat r.inst) (r.inst / 256) s)
    (0xFFFF, if r.src = 0x0C9 then channelLost (r.inst % 256) s else s)

/-- SPARE_IN_SERVICE: serve one retirement at a meridian: the spare-in entry or the entry that no spare came, and the
replies that wait (R458, R471, R473, R474). -/
def serveRepair (r : Repair) (s : State) : State :=
  let (p, s) := bringSpare r s
  let s := spareEntry r.src r.inst (p + r.seq % 65536 * 65536) (p ≠ 0xFFFF) s
  answerSpare r p (decideWaits r (if p = 0xFFFF then 2 else 1) p s)

/-- Retirements in the order of detection cc and then of instance (R471). -/
def repairInsert (r : Repair) : List Repair → List Repair
  | [] => [r]
  | x :: l => if r.at_ < x.at_ ∨ (r.at_ = x.at_ ∧ r.inst < x.inst) then r :: x :: l else x :: repairInsert r l

/-- A retirement at a meridian: served now, or, found and served at power-on, recorded now (R458, R471, R479). -/
def serveDue (r : Repair) (s : State) : State :=
  match r.got with
  | some p => spareEntry r.src r.inst (p + r.seq % 65536 * 65536) (p ≠ 0xFFFF) s
  | none => serveRepair r s

/-- The retirements that this meridian serves (R471). -/
def serveRepairs (s : State) : State :=
  let go := s.flt.repairs.filter (repairReady s)
  let stay := s.flt.repairs.filter (fun r => !repairReady s r)
  (go.foldl (fun l r => repairInsert r l) []).foldl (fun s r => serveDue r s) { s with flt := { s.flt with repairs := stay } }

/-- Start the write of a new field part where changes wait and none is in progress (R472). -/
def startField (s : State) : State :=
  if s.boot.almPending ∧ s.boot.writing.isNone then
    { s with boot := { s.boot with
        writing := some { s.boot.field with seq := s.alm.field.seq + 1 }, writeAt := s.now, almPending := false } }
  else s

/-- ALMANAC_WRITE_COMPLETE: the new field part becomes current 80 ms or more after its write began, and waiting
changes start the next write (R410, R472). -/
def execAlmanacWriteComplete (t : Nat) (s : State) : Res :=
  let s := tick t s
  .next (match s.boot.writing with
    | some f =>
      if s.pwr.phase < 2 ∨ s.now < s.boot.writeAt + msCc 80 then s else
      let s := { s with
        alm := { s.alm with field := f }
        boot := { s.boot with writing := none, fieldOk := true, field := { s.boot.field with seq := f.seq } } }
      startField (bump 0xB10210 32 1 s)
    | none => s)

/-- CHANNEL_PAIR_COPY_COMPLETE: the failing pair's contents are in the spare pair, which switches at the next meridian
(R471). -/
def execChannelPairCopyComplete (t : Nat) (stack : Stack) (s : State) : Res :=
  let s := tick t s
  .next (modStack stack.val (fun k => { k with chCopy := k.chCopy.map (fun c => (c.1, true)) }) s)

/-! ### Slices in service (R463 to R467, R473) -/

/-- The event of a failed slice: its source, block and spare category. The sub-unit names a row below 512 and a column
from 512 on for OPE; for SE_LANES 0xFFF names the staging SRAM, which has no spare. -/
def sliceEv (slice inst sub : Nat) : Ev :=
  let u := inst % 256
  match slice with
  | 0x01 => { src := 0x1D0, unit := u, kind := some .core, cat := some 0 }
  | 0x04 => { src := 0x1D0, unit := u, kind := some .core, cat := some 0 }
  | 0x02 => { src := 0x1D0, unit := u, sub := sub, kind := some .bank, cat := some 3 }
  | 0x03 =>
    if sub < 512 then { src := 0x1D0, unit := u, sub := sub, kind := some .row, cat := some 1 }
    else { src := 0x1D0, unit := u, sub := sub - 512, kind := some .col, cat := some 2 }
  | 0x10 => { src := 0x1D0, unit := u, sub := sub, kind := some .stack, cat := some (if sub = 0xFFF then 15 else 4) }
  | 0x11 => { src := 0x1D0, unit := u, sub := sub, kind := some .stack, cat := some 6 }
  | 0x20 => { src := 0x1D0, unit := u, sub := sub, kind := some .port, cat := some 15 }
  | 0x22 => { src := 0x1D0, unit := u, kind := some .channel, cat := some 15 }
  | 0x30 => { src := 0x1D0, unit := u, kind := some .half, cat := some 15 }
  | 0x41 => { src := 0x1A7, unit := u }
  | 0x40 => if sub = 0 then { src := 0x1C0 } else { src := 0x1D0, unit := u, sub := sub, kind := some .module, cat := some 15 }
  | _ => { src := 0x1D0, unit := u, sub := sub, kind := some .module, cat := some 15 }

/-- A port that runs on one lane pair measures both lanes on the new mapping; outside the factory tolerance the repair fails
(R302, R466). -/
def remeasurePair (u pair : Nat) (s : State) : Bool × State :=
  let (a, s) := remeasure 0x20 u pair (eyeCheck (2 * pair)) s
  let (b, s) := remeasure 0x20 u pair (eyeCheck (2 * pair + 1)) s
  (a && b, s)

/-- A port whose slice finds a bad lane pair runs on the other one; with both bad, or outside the tolerance on its new mapping,
it stays down (R302, R466). -/
def degradePort (u pair : Nat) (s : State) : State :=
  let off := leaveSpray u (fun p => { p with failed := true, up := false })
  if (portOf s u).degraded = some (pair % 2) then off s
  else
    let (ok, s) := remeasurePair u (1 - pair % 2) s
    if ok then modPort u (fun p => { p with degraded := some (1 - pair % 2), failed := false }) s else off s

/-- A failed slice of a block in service raises its source for each failure, and what has no spare reacts at once (R467,
R469). -/
def sliceFailed (slice instn sub : Nat) (s : State) : State :=
  let s := raise (sliceEv slice instn sub) s
  if slice = 0x40 ∧ sub = 0 then irqSet 0xA10184 1 s
  else if slice = 0x20 then degradePort (instn % 256) sub s
  else if slice = 0x10 ∧ sub = 0xFFF then stackLost (instn % 256) s
  else if slice = 0x22 then channelLost (instn % 256) s
  else s

/-- A slice ends: a pass, or its failures in service. On a block that is retired or in quarantine the result is 3, and a failure
of one in quarantine is recorded only (R449, R464, R465, R467, R473). -/
def endSlice (slice instn : Nat) (late : Bool) (fails : List Nat) (s : State) : State :=
  match s.boot.slices.find? (fun x => x.slice = slice && x.inst = instn && x.at_.isSome) with
  | none => s
  | some x =>
    let passed := x.at_.any (fun a => decide (a + sliceBudget slice < s.now))
    let due := x.at_.any (fun a => decide (a + sliceBudget slice ≤ s.now))
    if late ∧ ¬ due then s else
    let fails := if (late || passed) && fails.isEmpty then [0] else fails
    let pass := fails.isEmpty
    let dead := blockRetired s slice instn
    let old := dead || fails.any (fun k => inQuarantine (sliceEv slice instn k) s)
    let s := { s with boot := { s.boot with slices := s.boot.slices.filter (fun y => !(y.slice = slice && y.inst = instn)) } }
    let s := irqSet 0xB10184 1 (bump 0xB10200 32 1 s)
    let s := if pass then s else irqSet 0xB10184 2 (bump 0xB10204 32 1 s)
    let res := if old then 3 else if pass then 0 else 1
    let s := { s with boot := { s.boot with
      lastSlice := slice, lastResult := res, lastInst := instn
      returning := s.boot.returning ++
        [{ cmd := x.cmd, slice, inst := instn, res := if res = 1 then 0xFF else res, idx := 0xFFFF }] } }
    if dead then s
    else if old then fails.foldl (fun s k => raise (sliceEv slice instn k) s) s
    else fails.foldl (fun s k => sliceFailed slice instn k s) s

/-- SLICE_COMPLETE: a slice compares its results with the dark frame; one that ends beyond its budget is failed (R463, R464). -/
def execSliceComplete (t slice inst sig : Nat) (res : Measured) (s : State) : Res :=
  let s := tick t s
  .next (endSlice slice inst false (sliceFails s slice inst { toMeasured := res, sig }) s)

/-- SLICE_BUDGET_EXPIRY: a slice that has not finished within its budget is failed (R463). -/
def execSliceBudgetExpiry (t slice inst : Nat) (s : State) : Res := .next (endSlice slice inst true [] (tick t s))

/-- SLICE_START: requested slices start at a meridian, one per die, I/O die and stack; a port under test leaves the
spraying set (R473). -/
def startSlices (s : State) : State :=
  s.boot.slices.foldl (fun s x =>
    if x.at_.isSome then s else
    let taken := s.boot.slices.any (fun y => y.at_.isSome && (sliceDomain x.slice x.inst).isSome &&
      sliceDomain y.slice y.inst == sliceDomain x.slice x.inst)
    if taken then s else
    let slices := s.boot.slices.map (fun y => if y = x then { x with at_ := some s.now } else y)
    let s := { s with boot := { s.boot with slices } }
    if x.slice = 0x20 then (List.range 4).foldl (fun s i =>
      leaveSpray (x.inst % 256 / 4 * 4 + i) id s) s else s) s

/-- Blocks return at a meridian, and their SELFTESTs are answered (R473). -/
def returnBlocks (s : State) : State :=
  let back := s.boot.returning.filter (fun w => w.res ≠ 0xFF)
  let s := { s with boot := { s.boot with returning := s.boot.returning.filter (fun w => w.res = 0xFF) } }
  back.foldl (fun s w => done w.cmd (w.res + w.slice * 2 ^ 8 + w.idx % 65536 * 2 ^ 16) s) s

/-! ### The commands -/

/-- A number clamped to the nearest populated stack of the same compute die, the lower on a tie (R385). -/
def nearStack (s : State) (n : Nat) : Nat :=
  let n := min n 11
  if hasStack s n then n else
  ((List.range 12).filter (fun k => hasStack s k && k / 6 = n / 6)).foldl (fun b k =>
    let d := fun a => (a - n) + (n - a)
    if d k < d b then k else b) (n / 6 * 6)

/-- The instance of a block after the clamp of R385. -/
def nearBlock (s : State) (k : Unit') (instn : Nat) : Nat :=
  let u := instn % 256
  let hi := instn / 256 % 256 * 256
  match k with
  | .core | .bank | .row | .col => min u 35 + hi
  | .stack => nearStack s u + hi
  | .port => min u (4 * nPorts s - 1) + hi
  | .half => min u (iods s - 1) + hi
  | .channel => min u 15 + hi
  | _ => u + hi

/-- SELFTEST: refused for a slice that does not run in service, BUSY while the block or a slice on it is in use, else the
slice runs from the next meridian on (R473). -/
def execSelftest (t cmd : Nat) (s : State) : Res :=
  let s := tick t s
  .next (runCmd cmd 0x0D01 (fun x s =>
      let slice := x.hdr.p1
      match sliceKind slice with
      | none => refuseWith cmd 0x1C s
      | some k =>
        if ¬ inService slice then refuseWith cmd 0x1C s else
        let b := nearBlock s k (x.hdr.p0 % 65536)
        if (holdsBlock slice && blockBusy s k (b % 256)) ||
           s.boot.slices.any (fun y => sliceKind y.slice == some k && sameUnit k y.inst b) then fail cmd 0x15 s
        else { s with boot := { s.boot with slices := s.boot.slices ++ [{ slice, inst := b, cmd, at_ := none }] } }) s)

/-- Retire a block before it fails (R474): the repair is served at the next meridian, a channel pair is copied first. -/
def retire (cmd cat instn want : Nat) (s : State) : State :=
  let s := if cat = 0 then modCore (instn % 256) (fun c => { c with quarantined := true }) s
    else if cat = 6 then modStack (instn % 256) (fun k => { k with chCopy := some (instn / 256, false) }) s else s
  { s with flt := { s.flt with repairs := s.flt.repairs ++
      [{ src := 0x1D0, inst := instn, cat, want, seq := s.flt.nextSeq, at_ := s.now, cmd := some cmd }] } }

/-- SPARE_ACTION: both actions (R474). A reserved action is refused as a reserved category is. -/
def spareAction (cmd action : Nat) (s : State) : State :=
  if (look s.cmds cmd).any (fun x => x.hdr.p0 ≠ action && (action = 2 || x.hdr.p0 = 2)) then s else
  runCmd cmd 0x0E01 (fun x s =>
    if x.hdr.p0 ≠ action then refuseWith cmd 0x1D s else
    let cat := bits x.hdr.p1 16 4
    if cat = 7 ∨ cat = 8 ∨ 10 < cat then refuseWith cmd 0x1D s else
    let k := catKind cat
    let b := nearBlock s k (x.hdr.p1 % 65536)
    let busy := blockBusy s k (b % 256) || s.boot.slices.any (fun y => y.inst % 256 = b % 256 &&
      (sliceKind y.slice).any (fun z => z == k || (z == .core && (k == .bank || k == .row || k == .col))))
    if action = 1 then (if busy then fail cmd 0x15 s else retire cmd cat b (x.hdr.p2 % 65536) s)
    else
      let slots := (s.jobs.filter (fun e => jobUses s e.2 k (b % 256))).map (·.1)
      retire cmd cat b (x.hdr.p2 % 65536) (abortAll slots 0x1D0 s)) s

/-- SPARE_ACTION with RETIRE. -/
def execSpareRetire (t cmd : Nat) (s : State) : Res := .next (spareAction cmd 1 (tick t s))

/-- SPARE_ACTION with RETIRE and FORCE. -/
def execSpareRetireForce (t cmd : Nat) (s : State) : Res := .next (spareAction cmd 2 (tick t s))

end Sys2Proof.Machine
end

