-- ==== Sys2Proof/Machine/Link.lean ====
section
/-! DEFINITION. Ports, frames and transit, the finder, PTP and the management segment (spec/12 R298 to R334), and the
states of the timebase (spec/02 R36). -/

namespace Sys2Proof.Machine

/-! ### Ports -/

/-- A flag as a bit of a word. -/
def flagBit (b : Bool) (i : Nat) : Nat := if b then 2 ^ i else 0

/-- Counters of a port window, in the order of R334. -/
def portCount (code i n : Nat) (s : State) : State := bump (portWin code + 0x30 + 4 * i) 32 n s

/-- The rate of a sub-port in Gb/s (R298, R302). -/
def portRate (s : State) (code : Nat) : Nat :=
  match portMode s code with
  | 2 => 400 | 3 => 200 | _ => if (portOf s code).degraded.isSome then 400 else 800

/-- cc that a frame takes on a sub-port's wire, its preamble and the gap after it included, 20 bytes: those at 800 Gb/s, and twice
or four times as many at 400 and 200 Gb/s (R298, R302, R313; DEDUCED, log 44, from the times of their tables). -/
def wireCc (s : State) (code bytes : Nat) : Nat := ceilDiv ((bytes + 20) * 8 * 33) 8000 * (800 / portRate s code)

/-- Ports may train: the power-on slices are over (R478), and no C4 event has stopped them (R304). -/
def portsOn (s : State) : Bool := live s && decide (6 ≤ s.boot.stage) && s.flt.c4.isNone

/-! ### The best master (R327, R328) -/

/-- A sub-port that takes part in PTP (R328). -/
def ptpPort (s : State) (code : Nat) : Bool := cfg s 0x719000 0 2 ≠ 0 && bitOf (regA s 0x719004) (code / 4) && (portOf s code).up

/-- The clockClass that the module advertises (R328). -/
def clockClass (s : State) : Nat :=
  if cfg s 0x719000 0 2 = 2 ∧ s.ptp.inPresent ∧ s.ptp.todSet ∧ cfg s 0x719040 0 2 = 1 then 6 else 248

/-- The first of two lists of numbers is the lesser, number by number. -/
def lexLess : List Nat → List Nat → Bool
  | a :: x, b :: y => decide (a < b) || (a = b && lexLess x y)
  | _, _ => false

/-- The default best master clock algorithm prefers an announce to another: by its grandmaster's fields in their order, of one
grandmaster by the way to it (R327; PRESUMED, log 44: the order of IEEE 1588). -/
def better (a b : Announce) : Bool :=
  if a.identity = b.identity then lexLess [a.steps, a.sender] [b.steps, b.sender]
  else lexLess [a.prio1, a.cls, a.accuracy, a.variance, a.prio2, a.identity] [b.prio1, b.cls, b.accuracy, b.variance, b.prio2, b.identity]

/-- What the module says of itself as a grandmaster: LNK_PTP_PRIO and its class; accuracy and variance unknown (R327, R328;
PRESUMED, log 44). -/
def ownAnnounce (s : State) : Announce :=
  { prio1 := cfg s 0x719008 0 8, cls := clockClass s, accuracy := 0xFE, variance := 0xFFFF, prio2 := cfg s 0x719008 8 8,
    identity := s.alm.macBase, steps := 0, sender := s.alm.macBase }

/-- The best master heard on an enabled sub-port. -/
def bestHeard (s : State) : Option (Nat × Announce) :=
  (s.ptp.heard.filter (fun e => ptpPort s e.1)).foldl (fun m e => match m with
    | none => some (e.1, e.2.1)
    | some x => if better e.2.1 x.2 then some (e.1, e.2.1) else m) none

/-- The phase reference by ROLE and IN_MODE: SYNC_IN from its first edge on while IN_MODE is 1, else in ROLE 1 the sub-port of the
best master that is better than the module itself (R328, R330). -/
def ptpSelect (s : State) : State :=
  let slave := if cfg s 0x719040 0 2 = 1 then (if s.ptp.slave = 0xFE then 0xFE else 0xFF)
    else if cfg s 0x719000 0 2 ≠ 1 then 0xFF
    else match bestHeard s with
      | some (c, a) => if better a (ownAnnounce s) then c else 0xFF
      | none => 0xFF
  if slave = s.ptp.slave then s else { s with ptp := { s.ptp with slave, t1 := 0, t2 := 0, path := 0 } }

/-- A sub-port is a master: every enabled one in ROLE 2; in ROLE 1 those but the slave and the passive ones, on which the slave's
grandmaster is heard too (R328). -/
def isMaster (s : State) (code : Nat) : Bool :=
  let who := fun (c : Nat) => (look s.ptp.heard c).map (fun x => x.1.identity)
  ptpPort s code && (cfg s 0x719000 0 2 = 2 ||
    (cfg s 0x719000 0 2 = 1 && code ≠ s.ptp.slave && (who code = none || who code ≠ who s.ptp.slave)))

/-- LINK_UP: auto-negotiation and training complete, or the mode is forced (R300). -/
def execLinkUp (t code : Nat) (s : State) : Res :=
  let s := tick t s
  .next (
    let p := portOf s code
    if ¬ portsOn s ∨ ¬ hasSub s code ∨ p.up ∨ p.failed then s
    else irqSet (portWin code + 0x184) 1 (modPort code (fun p => { p with
      up := true, upAt := s.now, freeAt := s.now, exFree := s.now, wireAt := s.now, onWire := false, finderAt := none, xoff := [], ingress := [] }) s))

/-- A sub-port leaves the spraying set and its queued frames are discarded (R303); as a PTP port it is gone (R328). -/
def dropLink (code : Nat) (s : State) : State :=
  let p := portOf s code
  if ¬ p.up then s else
  let s := portCount code 10 p.queue.length s
  let s := modSpray code (fun p => { p with up := false, inSpray := false, preempt := false, paused := [], queue := [] }) s
  let s := ptpSelect s
  raise { src := 0x100, unit := code } (irqSet (portWin code + 0x184) 1 s)

/-- LINK_DOWN: the PCS reports loss of alignment, local fault or remote fault (R303). -/
def execLinkDown (t code : Nat) (s : State) : Res := .next (dropLink code (tick t s))

/-- LANE_FAIL: in mode 1 the port renegotiates on lanes 0–1 if both are healthy and on lanes 2–3 otherwise, and the failed
pair is quarantined; with no healthy pair or no agreement it stays down, and so it does where AN is clear, since a port that is
forced to its mode does not renegotiate (R300; DEDUCED, log 44). In modes 2 and 3 the lane's sub-port goes down (R302). -/
def execLaneFail (t port lane : Nat) (healthy0 healthy1 accepted : Bool) (s : State) : Res :=
  let s := tick t s
  .next (
    let code := 4 * port
    if ¬ portsOn s ∨ ¬ decide (port < nPorts s) ∨ 4 ≤ lane then s
    else match portMode s code with
      | 1 =>
        let s := dropLink code s
        let s := irqSet (portWin code + 0x184) 4 (raise { src := 0x101, unit := code, sub := lane / 2 } s)
        if (healthy0 || healthy1) && accepted && cfg s (portWin code) 3 1 = 1 then
          modPort code (fun p => { p with degraded := some (if healthy0 then 0 else 1) }) s
        else modPort code (fun p => { p with failed := true }) s
      | 2 => dropLink (code + lane / 2) s
      | 3 => dropLink (code + lane) s
      | _ => s)

/-- SPRAY_REJOIN: the link has been up without interruption for LNK_HOLDUP, and no loop or slice holds it (R303, R325,
R473). -/
def execSprayRejoin (t code : Nat) (s : State) : Res :=
  let s := tick t s
  .next (
    let p := portOf s code
    if p.up ∧ ¬ p.inSpray ∧ ¬ p.loop ∧ p.upAt + msCc (cfg s (portWin code + 8) 0 16) ≤ s.now ∧
       ¬ blockHeld s .port code then
      modSpray code (fun p => { p with inSpray := true, reload := false }) s
    else s)

/-- Frame preemption is active on a sub-port (R313). -/
def preempting (s : State) (code : Nat) : Bool := (portOf s code).preempt && cfg s (portWin code) 4 1 == 1

/-- PREEMPT_VERIFY: 802.3br verification with the peer completes or times out (R313). -/
def execPreemptVerify (t port : Nat) (ok : Bool) (s : State) : Res :=
  let s := tick t s
  .next (
    if (portOf s port).up ∧ cfg s (portWin port) 4 1 = 1 then modPort port (fun p => { p with preempt := ok }) s else s)

/-! ### Reception (R305 to R311, R321, R322) -/

/-- Slots of a host ring of the fabric window. -/
def ringSlots (s : State) (a : Nat) : Nat := max 64 (cfg s a 0 16)

/-- A frame goes to the pass-up ring, or is discarded where the ring is full or off (R309). -/
def passUp (code : Nat) (f : RxFrame) (trunc : Bool) (s : State) : State :=
  let n := ringSlots s 0x718210
  let tail := regA s 0x718218 % n
  if cfg s 0x718200 0 1 = 0 ∨ (s.puHead + 1) % n = tail then bump 0x71821C 32 1 s
  else
    let ts := ((ptpNs s : Int) + clampInt (-2) 2 f.err).toNat
    let flags := (if trunc then 1 else 0) + (if f.vid.isSome then 2 else 0) +
      (if trunc then 3 else f.ipCsum % 4) * 4 + (if trunc then 3 else f.udpCsum % 4) * 16 + (if f.ecn = 3 then 64 else 0)
    let max_ := cfg s (portWin code + 4) 0 14
    let len := if trunc then max_ else f.len - 4
    let base := regA s 0x718208 + regA s 0x71820C * 2 ^ 32 + 16384 * s.puHead
    let desc := leBytes 2 len ++ leBytes 2 (min f.len 65535) ++ leBytes 1 code ++ leBytes 1 flags ++ leBytes 2 0 ++
      leBytes 8 ts ++ leBytes 16 0
    emit (.passUp code f flags len) (emit (.hostWrite 0 base desc) { s with puHead := (s.puHead + 1) % n })

/-- Bytes in a sub-port's preemptable queue. -/
def preBytes (p : Port) : Nat := (p.queue.filter (·.group ≠ 0)).foldl (fun n f => n + f.len) 0

/-- Bytes of transit frames that an I/O die holds (R315). -/
def transitHeld (s : State) (die : Nat) : Nat :=
  s.ports.foldl (fun n p => n + (p.2.queue.filter (fun f => match f.msg with
    | .transit i _ => i / 48 = die | _ => false)).foldl (fun m f => m + f.len) 0) 0

/-- The frame's bytes are lost to the host where its FCS fails; a truncated frame has none. -/
def upOrBad (code : Nat) (f : RxFrame) (trunc : Bool) (s : State) : State :=
  if f.fcsBad ∧ ¬ trunc then portCount code 2 1 s else passUp code f trunc s

/-- cc that a transit frame's first bit at the ingress pin is behind the cc from which its path begins: none where it cuts
through, its wire time where it is stored and forwarded (R321). -/
def storeCc (s : State) (code c : Nat) (f : RxFrame) (len : Nat) : Nat :=
  if portRate s code ≤ portRate s c ∧ (f.pcp = 7 ∨ preempting s c) then 0 else wireCc s code len

/-- A link-local or multicast address of IPv6: not for the transit switch (R322). -/
def localDst (a : Nat) : Bool := a / 2 ^ 118 = 0x3FA || a / 2 ^ 120 = 0xFF

/-- The module that a fabric address names: the prefix, and a port code or 0xFF with zeros above it (R316). -/
def fabricModule (s : State) (a : Nat) : Option Nat :=
  let d := a / 2 ^ 20 % 2 ^ 12
  if (a % 256 < 96 ∨ a % 256 = 0xFF) ∧ a = fabricAddr s d (a % 256) then some d else none

/-- TRANSIT_FORWARD: a frame for another module goes on by R320, or is passed up or discarded (R315, R317, R318, R321, R322). It
leaves with the neighbour's MAC address and that of the egress sub-port. The command happens as the frame's first bit is at the
ingress pin (log 44). -/
def transit (code d : Nat) (f : RxFrame) (trunc : Bool) (s : State) : State :=
  if cfg s (portWin code) 6 1 = 0 ∨ f.udpPort = some 319 ∨ f.udpPort = some 320 then upOrBad code f trunc s
  else if ¬ moduleValid s then s
  else if f.hop ≤ 1 then portCount code 13 1 s
  else if 48 * 2 ^ 20 < transitHeld s (code / 48) + f.len then portCount code 7 1 s
  else match pickHop d (1 + code / 48) s with
    | (none, s) => noRoute d s
    | (some (c, nb), s) =>
      if noIp4 s d c then noRoute d s else
      let len := if trunc then cfg s (portWin code + 4) 0 14 else f.len
      let mark := (f.ecn = 1 || f.ecn = 2) && decide (cfg s (portWin c + 0x10) 0 16 * 1024 < preBytes (portOf s c))
      let s := portCount code 11 1 s
      let s := if f.fcsBad ∨ trunc then portCount code 12 1 s else s
      let s := if mark then portCount c 14 1 s else s
      let (at_, s) := if code / 48 = c / 48 then (s.now, s) else takeOpen none 19 (code / 48) len s.now s
      queueTx c { group := if f.pcp = 7 then 0 else 2, pcp := f.pcp, dscp := 0, udp := 0, len := len,
                  ecn := if mark then 3 else f.ecn, planCc := 0, readyAt := at_ + storeCc s code c f len + transitCc, tenant := none,
                  msg := .transit code (f.fcsBad || trunc), hops := f.hop - 1, mac := neighbourMac s c nb, vid := f.vid,
                  ipDst := f.ipDst, csum := false } s

/-- A priority's pause ends (R311). -/
def endPause (code prio : Nat) (s : State) : State :=
  modPort code (fun p => { p with paused := p.paused.filter (·.1 ≠ prio) }) s

/-- MAC control: PAUSE is discarded, PFC pauses the enabled priorities for their quanta of 512 bit times (R311). -/
def macControl (code : Nat) (f : RxFrame) (s : State) : State :=
  if f.opcode = 1 then portCount code 18 1 s
  else if f.opcode ≠ 0x0101 then s
  else
    let en := cfg s (portWin code + 0xC) 0 7
    let s := f.quanta.foldl (fun s q =>
      if q.1 < 7 ∧ bitOf en q.1 then
        let s := endPause code q.1 s
        if q.2 = 0 then s
        else modPort code (fun p => { p with paused := p.paused ++ [(q.1, s.now + ceilDiv (q.2 * 512 * 33) (portRate s code * 10))] }) s
      else s) s
    irqSet (portWin code + 0x184) 16 s

/-- A VLAN tag that the sub-port accepts (R308). -/
def vlanOk (s : State) (code : Nat) (f : RxFrame) : Bool :=
  match f.vid with
  | none => true
  | some v => v = 0 || (cfg s (portWin code) 5 1 = 1 && v = cfg s (portWin code) 8 12)

/-- A UDP port of the module's own protocols, the port of a connection opened under an earlier one among them (R306, R368). -/
def ownPort (s : State) (p : Nat) : Bool :=
  s.ctxs.any (fun c => c.2.port = p) ||
  p = cfg s 0x800000 0 16 || p = cfg s 0x10038 0 16 || p = 319 || p = 320

/-- The checksums of a frame for the module's own protocols are bad (R310): 0 absent, 1 good, 2 bad. -/
def csumBad (f : RxFrame) : Bool := if f.ipv6 then f.udpCsum ≠ 1 else f.ipCsum = 2 || f.udpCsum = 2

/-- A frame comes into the ingress buffer of its priority, for as long as it states: XOFF as an enabled priority passes 192 KiB
(R311). -/
def ingressFlow (code : Nat) (f : RxFrame) (s : State) : State :=
  let held := tget (portOf s code).ingress f.pcp 0 + f.len
  let s := modPort code (fun p => { p with ingress := tset p.ingress f.pcp held 0 })
    { s with signals := s.signals ++ [{ at_ := s.now + max 1 f.stay, slot := 4096, obj := 0, src := 300, act := .drained code f.pcp f.len }] }
  if f.pcp < 7 ∧ bitOf (cfg s (portWin code + 0xC) 0 7) f.pcp ∧ 196608 < held ∧ ¬ (portOf s code).xoff.contains f.pcp then
    queueTx code (pfcFrame f.pcp 65535) (modPort code (fun p => { p with xoff := p.xoff ++ [f.pcp] }) s)
  else s

/-- Without PFC, a frame finds the ingress buffer of its priority full (R311). -/
def ingressFull (s : State) (code : Nat) (f : RxFrame) : Bool :=
  !(decide (f.pcp < 7) && bitOf (cfg s (portWin code + 0xC) 0 7) f.pcp) &&
  decide (262144 < tget (portOf s code).ingress f.pcp 0 + f.len)

/-- The destination MAC addresses that a sub-port takes: its own, broadcast, the groups of PTP, finder and IPv6 (R306). -/
def macOk (s : State) (code mac : Nat) : Bool :=
  mac = portMac s code || mac = 2 ^ 48 - 1 || mac / 2 ^ 32 = 0x3333 ||
  [0x0180C200000E, 0x011B19000000, 0x01005E000181, 0x01005E00006B].contains mac

/-- Step 7 of R306: an IP destination is the module's own: a port address of it, its module address, the sub-port's IPv4 address, or
a multicast address of PTP (R316; PRESUMED, log 44: the numbers of IEEE 1588). -/
def ownIp (s : State) (code : Nat) (f : RxFrame) : Bool :=
  if f.ipv6 then
    fabricModule s f.ipDst = some (moduleId s) || f.ipDst % 2 ^ 112 = 0x6B && f.ipDst / 2 ^ 112 = 0xFF02 ||
      (f.ipDst / 2 ^ 120 = 0xFF && f.ipDst % 2 ^ 112 = 0x181)
  else (f.ipDst = portIp4 s code && portIp4 s code ≠ 0) || f.ipDst = 0xE0000181 || f.ipDst = 0xE000006B

/-- A frame of the module's own protocols with a good FCS and good checksums takes effect by the command of its own that follows;
a Barfeos packet without one is discarded here (R307, R310, R343). -/
def ownDatagram (code : Nat) (f : RxFrame) (trunc : Bool) (s : State) : State :=
  if trunc then s else if f.fcsBad then portCount code 2 1 s
  else if csumBad f then portCount code 9 1 s
  else match f.stray with | some h => strayPkt h s | none => s

/-- Steps 7 and 8 of R306. -/
def ipFrame (code : Nat) (f : RxFrame) (trunc : Bool) (s : State) : State :=
  if ownIp s code f then
    match f.udpPort with
    | some p => if ownPort s p then ownDatagram code f trunc s else upOrBad code f trunc s
    | none => upOrBad code f trunc s
  else match (if f.ipv6 && !localDst f.ipDst then fabricModule s f.ipDst else none) with
    | some d => transit code d f trunc s
    | none => upOrBad code f trunc s

/-- FRAME_RECEIVE: the ingress buffer, then the checks of R306 in their order, as the frame's first bit is at the pin. -/
def execFrameReceive (t code : Nat) (f : RxFrame) (s : State) : Res :=
  let s := tick t s
  .next (
    if ¬ (portOf s code).up ∨ ¬ portsOn s then s else
    let s := portCount code 4 f.fecUncorr (portCount code 3 f.fecCorr (portCount code 0 1 s))
    if ingressFull s code f then portCount code 7 1 s else
    let s := ingressFlow code f s
    let trunc := decide (cfg s (portWin code + 4) 0 14 < f.len)
    if f.fecUncorr ≠ 0 then s
    else if f.fragBad then portCount code 16 1 s
    else if f.len < 64 then portCount code 5 1 s
    else
      let s := if trunc then portCount code 6 1 s else s
      if ¬ macOk s code f.mac ∨ ¬ vlanOk s code f then portCount code 8 1 s
      else if f.etherType = 0x88B5 ∨ f.etherType = 0x88F7 then
        if trunc then s else if f.fcsBad then portCount code 2 1 s else s
      else if f.etherType = 0x8808 then
        if trunc then s else if f.fcsBad then portCount code 2 1 s else macControl code f s
      else if f.etherType = 0x86DD ∨ f.etherType = 0x0800 then ipFrame code f trunc s
      else upOrBad code f trunc s)

/-- PFC_PAUSE_EXPIRE: the quanta of a priority have run out (R311). -/
def execPfcPauseExpire (t code prio : Nat) (s : State) : Res :=
  let s := tick t s
  .next (if (portOf s code).paused.any (fun x => x.1 = prio && decide (x.2 ≤ s.now)) then endPause code prio s else s)

/-! ### Egress (R313, R314) -/

/-- The starts of the planned frames of a sub-port from a cc on: those queued, and those that running plans declare (R314). -/
def plannedFrom (s : State) (code c : Nat) : Option Nat :=
  let cs := ((portOf s code).queue.filter (·.group = 1)).map (·.planCc) ++ (plannedUses s (32 + code)).map (fun x => x.1 + x.2.cc)
  (cs.filter (fun x => decide (c ≤ x))).foldl (fun m x => some (m.elim x (min x))) none

/-- The next frame that the egress grants at a cc: express, then planned frames at their cc, then others by PCP and arrival, where
their wire time ends before the next planned frame (R314). -/
def nextFrame (s : State) (code c : Nat) : Option TxFrame :=
  let p := portOf s code
  let q := p.queue.filter (fun f => decide (f.readyAt ≤ c) && slotMine s f.tenant (c - s.mer.at_))
  match q.find? (·.group = 0) with
  | some f => if s.boot.stage == 0xFF || (match f.msg with | .finder .. => true | _ => false) then some f else none
  | none =>
    if s.boot.stage ≠ 0xFF then none else
    let paused := fun (f : TxFrame) => p.paused.any (fun x => x.1 = f.pcp && decide (c < x.2))
    match q.find? (fun f => f.group = 1 && decide (f.planCc ≤ c) && !paused f) with
    | some f => some f
    | none =>
      let open_ := q.filter (fun f => f.group = 2 && !paused f &&
        (plannedFrom s code c).all (fun x => decide (c + wireCc s code f.len ≤ x)))
      open_.foldl (fun b f => match b with
        | none => some f
        | some x => if x.pcp < f.pcp then some f else some x) none

/-- cc of a fragment of 64 bytes, the least that a frame may be cut into (R313). -/
def fragCc (s : State) (code : Nat) : Nat := wireCc s code 64

/-- The egress can start a frame at a cc: it is idle; or an express frame finds a preemptable one in progress, at a legal point with
64 bytes sent and 64 bytes left, or behind the express frame that interrupted it (R313). -/
def egressFree (s : State) (code c : Nat) (f : TxFrame) : Bool :=
  let p := portOf s code
  decide (p.freeAt ≤ c) ||
  (f.group = 0 && p.onWire && preempting s code && decide (p.exFree ≤ c) &&
    ((p.cutOff && c = p.exFree) || (decide (p.wireAt + fragCc s code ≤ c) && decide (c + fragCc s code ≤ p.freeAt))))

/-- The first cc from one on that is a tenant's own slot of a port (R398). -/
def slotFrom (s : State) (tenant : Option Nat) (c : Nat) : Nat :=
  (((List.range 64).map (c + ·)).find? (fun x => slotMine s tenant (x - s.mer.at_))).getD c

/-- The first cc at which the egress grants a frame, none after now, and the frame: the cc of its first bit at the pin (R59, R314). -/
def grantAt (s : State) (code : Nat) : Option (Nat × TxFrame) :=
  let p := portOf s code
  let base := [p.freeAt, p.exFree, p.wireAt + fragCc s code, s.now] ++ p.queue.map (·.readyAt) ++ p.paused.map (·.2) ++
    (plannedUses s (32 + code)).map (fun x => x.1 + x.2.cc + 1)
  let cs := base ++ (p.queue.map (fun f => base.map (slotFrom s f.tenant))).flatten
  cs.foldl (fun m c => if s.now < c ∨ m.any (fun x => decide (x.1 ≤ c)) then m else
    match nextFrame s code c with
    | some f => if egressFree s code c f then some (c, f) else m
    | none => m) none

/-- Remove the first occurrence of a frame. -/
def dropFrame (f : TxFrame) : List TxFrame → List TxFrame
  | [] => []
  | x :: r => if x = f then r else x :: dropFrame f r

/-- A frame's port bytes belong to its job (R436); correlator data was counted as it was sent. -/
def chargeFrame (f : TxFrame) (s : State) : State :=
  match s.jobs.find? (fun e => frameOfJob s e.2 f) with
  | some e => match f.msg with
    | .bft _ _ _ _ _ _ _ none _ => chargeJob e.1 (30 * f.len) s
    | _ => s
  | none => s

/-- The frame that a host's descriptor asked to time has left: the module writes its timestamp (R309). -/
def stampTx (f : TxFrame) (c : Nat) (s : State) : State :=
  match f.msg with
  | .host slot true =>
    emit (.hostWrite 0 (regA s 0x718220 + regA s 0x718224 * 2 ^ 32 + 16384 * slot + 8) (leBytes 8 (ptpNs { s with now := c }))) s
  | _ => s

/-- A frame's wire time begins: an express frame that finds a preemptable one in progress interrupts it, and the interrupted
frame resumes behind it (R313). -/
def startWire (w : Nat) (f : TxFrame) (c : Nat) (p : Port) : Port :=
  let cut := decide (c < p.freeAt)
  { p with
    freeAt := (if cut then p.freeAt else c) + w
    exFree := if f.group = 0 then c + w else p.exFree
    wireAt := if cut then c + w else c
    onWire := if cut then p.onWire else f.group ≠ 0
    cutOff := cut }

/-- The outcome of a request is recorded once its last response has left, and later where an express frame has interrupted that
response (R313, R355). -/
def leaveLater (code c w : Nat) (f : TxFrame) (cut : Bool) (s : State) : State :=
  let moved := if cut then s.signals.map (fun x => match x.act with
      | .left k .. => if k = code ∧ c < x.at_ then { x with at_ := x.at_ + w } else x
      | _ => x) else s.signals
  { s with signals := moved ++ (f.ends.map (fun e =>
      { at_ := c + w, slot := 4096, obj := 0, src := 300, act := .left code e.1 e.2.1 e.2.2.1 e.2.2.2 : Signal })).toList }

/-- What a PTP message leaves behind at its sub-port: the cc of the last of its kind, and the time of a delay request (R327). -/
def ptpLeft (c : Nat) (f : TxFrame) (s : State) : State :=
  match f.msg with
  | .ptp 2 _ _ => { s with ptp := { s.ptp with t3 := ptpNs { s with now := c } } }
  | _ => s

/-- The cc for which a frame outside the plans waited on an idle egress for a planned one (R46, R314): the TIER block counts them at
the bridge between CD0 and the port's I/O die (DESIGN CHOICE, log 44: R272 numbers no port). -/
def portWait (code c : Nat) (f : TxFrame) (s : State) : State :=
  let n := c - max f.readyAt (portOf s code).freeAt
  if f.group = 2 ∧ 0 < n then bump (rkey 0x500184 (15 + code / 48)) 32 n s else s

/-- FRAME_TRANSMIT: a sub-port's egress grants a frame at the first cc at which it can, and the frame starts at that cc. An express
frame interrupts a preemptable one in progress where preemption is active, and the interrupted frame is counted once; a frame longer
than LNK_MAXFRAME is never sent (R305, R313, R314). -/
def execFrameTransmit (t code : Nat) (s : State) : Res :=
  let s := tick t s
  .next (match grantAt s code with
    | none => s
    | some (c, f) =>
      let p := portOf s code
      if ¬ p.up ∨ ¬ portsOn s then s else
      let cut := decide (c < p.freeAt)
      let slots := (s.jobs.filter (fun e => frameWrites s e.1 f)).map (·.1)
      let long := decide (cfg s (portWin code + 4) 0 14 < f.len)
      let w := wireCc s code f.len
      let s1 := chargeFrame f s
      let s1 := modPort code (fun p => { p with queue := dropFrame f p.queue }) s1
      let s1 := if long then portCount code 10 1 s1 else
        let s1 := leaveLater code c w f cut (ptpLeft c f (stampTx f c (portWait code c f s1)))
        let s1 := portCount code 1 1 (modPort code (startWire w f c) s1)
        let s1 := if f.group = 0 then portCount code 19 1 s1 else s1
        emit (.frame code c f) (if cut ∧ ¬ p.cutOff then portCount code 15 1 s1 else s1)
      slots.foldl (fun s k => checkDone k s) s1)

/-! ### Finder (R324 to R326) -/

/-- The MODULE field of finder frames (R324). -/
def moduleField (s : State) : Nat := moduleId s + (if moduleValid s then 2 ^ 15 else 0)

/-- The MODE and CAPS bytes of a sub-port (R324). -/
def finderMode (s : State) (code : Nat) : Nat :=
  portMode s code + flagBit (portOf s (code / 4 * 4)).degraded.isSome 2 + cfg s (portWin code) 2 1 * 8
def finderCaps (s : State) (code : Nat) : Nat :=
  1 + flagBit (cfg s 0x719000 0 2 ≠ 0 && bitOf (regA s 0x719004) (code / 4)) 1 + cfg s (portWin code) 6 1 * 4

/-- The 64-byte finder payload (R324). -/
def finderBytes (s : State) (type code mode caps seq : Nat) : List Byte :=
  [0x50, 0x58, 0x46, 0x44, 1] ++ leBytes 1 type ++ leBytes 2 (4 * cfg s 0x718004 0 8) ++ leBytes 16 s.alm.serial ++
    leBytes 2 (moduleField s) ++ leBytes 1 code ++ leBytes 1 s.alm.variant ++ leBytes 1 mode ++ leBytes 1 caps ++ leBytes 2 seq ++
    leBytes 16 (portAddress s code) ++ leBytes 16 0

/-- A finder announce or withdraw of a sub-port: its frame, to the address that bridges do not forward (R324). -/
def finderFrame (s : State) (type code : Nat) : TxFrame :=
  { express 82 (.finder (finderBytes s type code (finderMode s code) (finderCaps s code) (portOf s code).seq)) with
    ether := 0x88B5, mac := 0x0180C200000E, srcMac := portMac s code, csum := false }

/-- A sub-port's sequence number counts on (R324). -/
def nextSeq (code : Nat) (s : State) : State := modPort code (fun p => { p with seq := (p.seq + 1) % 65536 }) s

/-- The owner disables a sub-port: a withdraw leaves it before it goes down (R324). -/
def withdraw (code : Nat) (s : State) : State :=
  nextSeq code (emit (.frame code s.now (finderFrame s 2 code)) (portCount code 19 1 (portCount code 1 1 s)))

/-- An announce is queued (R324). -/
def sendFinder (code : Nat) (s : State) : State :=
  queueTx code (finderFrame s 1 code) (nextSeq code (modPort code (fun p => { p with finderAt := some s.now }) s))

/-- An announce is due: the first since link up, or LNK_FINDER seconds after the last (R324). -/
def finderDue (s : State) : Option Nat → Bool
  | none => true
  | some at_ => decide (at_ + msCc (1000 * cfg s 0x718004 0 8) ≤ s.now)

/-- FINDER_SEND: within 1 ms of link up and every LNK_FINDER seconds (R324). -/
def execFinderSend (t code : Nat) (s : State) : Res :=
  let s := tick t s
  .next (if (portOf s code).up ∧ portsOn s ∧ finderDue s (portOf s code).finderAt then sendFinder code s else s)

/-- FINDER_RECEIVE: a record is stored, a withdraw clears the neighbour, the module's own serial marks a loop (R325). -/
def execFinderReceive (t code : Nat) (r : FinderRec) (s : State) : Res :=
  let s := tick t s
  .next (
    let p := portOf s code
    if ¬ p.up then s
    else if r.type = 2 then
      if p.nbrOk then
        raise { src := 0x103, unit := code } (irqSet (portWin code + 0x184) 2 (modPort code (fun p => { p with nbrOk := false }) s))
      else s
    else if r.type ≠ 1 then s
    else
      let fresh := !(p.nbrOk && p.nbr.any (fun x => x.1 = r))
      let s := modSpray code (fun p => { p with nbr := some (r, s.now), nbrOk := true }) s
      let s := if fresh then irqSet (portWin code + 0x184) 2 s else s
      if r.serial = s.alm.serial then
        if p.loop then s
        else raise { src := 0x104, unit := code }
          (irqSet (portWin code + 0x184) 8 (modSpray code (fun p => { p with loop := true, inSpray := false }) s))
      else modPort code (fun p => { p with loop := false }) s)

/-- FINDER_HOLD_EXPIRY: a record older than its HOLD is lost (R325). -/
def execFinderHoldExpiry (t code : Nat) (s : State) : Res :=
  let s := tick t s
  .next (match (portOf s code).nbr with
    | some (r, at_) =>
      if (portOf s code).nbrOk ∧ at_ + msCc (1000 * r.hold) < s.now then
        raise { src := 0x103, unit := code } (irqSet (portWin code + 0x184) 2 (modPort code (fun p => { p with nbrOk := false }) s))
      else s
    | none => s)

/-- The neighbour report: the payload with TYPE 0x03, and a record for each sub-port with NBR_VALID (R326). -/
def reportBytes (s : State) (mode caps seq : Nat) : List Byte :=
  finderBytes s 3 0xFF mode caps seq ++ (s.ports.map (fun e => match e.2.nbr with
    | some (r, _) => if e.2.nbrOk then
        leBytes 1 e.1 ++ leBytes 1 r.port ++ leBytes 2 r.module ++ leBytes 16 r.serial ++ leBytes 4 0 else []
    | none => [])).flatten

/-- MGT_FINDER_SEND: every LNK_FINDER seconds the announce and a neighbour report go to the management segment; they replace
finder frames still queued (R326, R332). The spec gives no MODE and CAPS there: they are free (log 44). -/
def execMgtFinderSend (t : Nat) (s : State) : Res :=
  let s := tick t s
  .next (
    if ¬ live s ∨ s.mgt.gasp.isSome ∨ ¬ finderDue s s.mgt.finderAt then s else
    let mode := Config.choice s.free % 16
    let caps := Config.choice (s.free + 1) % 8
    { s with
      free := s.free + 2
      mgt := { s.mgt with
        q3 := [.finder (finderBytes s 1 0xFF mode caps s.mgt.seq), .neighbours (reportBytes s mode caps ((s.mgt.seq + 1) % 65536))]
        finderAt := some s.now
        seq := (s.mgt.seq + 2) % 65536 } })

/-! ### PTP and the time pins (R36, R327 to R330) -/

/-- Jobs whose group has more than one member. -/
def multiJobs (s : State) : List Nat := (s.jobs.filter (fun e => multi s e.2)).map (·.1)

/-- The timebase changes state: MER_SKEW at entry into DRIFT, MER_UNLOCK against every multi-member job in UNLOCKED
(R36). A job that still waits for its START_M counts as running here (DESIGN CHOICE, log 7: the spec does not say). -/
def setLock (l : Nat) (s : State) : State :=
  if s.ptp.lock = l then s else
  let s := irqSet 0x10044 4 { s with ptp := { s.ptp with lock := l } }
  if l = 1 then raise { src := 0x020 } s
  else if l = 2 then (multiJobs s).foldl (fun s k => raiseJob 0x021 k s) s
  else s

/-- The active period and epoch in ns. -/
def periodNs (s : State) : Nat := cfg s 0x10000 0 16 * 3840
def epochNs (s : State) : Nat := regA s 0x10008 + regA s 0x1000C * 2 ^ 32

/-- The first meridian instant at or after a time (R32, R37). -/
def instantFrom (s : State) (ns : Nat) : Int := ns + ((epochNs s : Int) - ns) % (periodNs s : Int)

/-- The next meridian is placed by the timebase: the first instant from its time on, and the cc edge nearest to it
(R32). -/
def placeNext (s : State) : State :=
  let next := instantFrom s (ptpNs s + (if ptpFine s % 100000 = 0 then 0 else 1))
  let gap := (next * 100000 - ptpFine s).toNat
  { s with mer := { s.mer with next, due := s.now + (2 * gap * s.ptp.rateCc + s.ptp.rate) / (2 * s.ptp.rate) } }

/-- The time is set: it steps, and with it the next meridian (R32, R329). -/
def stepTime (ns : Nat) (s : State) : State :=
  let d := (ns : Int) - ptpNs s
  let s := { s with ptp := { s.ptp with
      ns, nsAt := s.now, frac := 0, rate := 1000000, rateCc := 33, owed := 0, slewAt := s.now, t2 := s.ptp.t2 + d, t3 := s.ptp.t3 + d } }
  if s.mer.placing then placeNext s else s

/-- An offset is made good by slewing from now on (R36). -/
def slewTime (offset : Int) (s : State) : State :=
  { s with ptp := { s.ptp with
      frac := s.ptp.frac + slewBy s.ptp.owed (s.now - s.ptp.slewAt), owed := -offset * 100000, slewAt := s.now } }

/-- A measured offset steers the timebase: it steps only while no job runs and |offset| exceeds 1 µs, and slews in every
other case (R36, R329). -/
def servo (offset : Int) (s : State) : State :=
  let a := offset.natAbs
  let s := { s with ptp := { s.ptp with offset, lastMsg := s.now } }
  let s := if 1000 < a ∧ s.jobs.isEmpty then stepTime ((ptpNs s : Int) - offset).toNat s else slewTime offset s
  setLock (if 2 * a ≤ 25 then 0 else if a ≤ 1000 then 1 else 2) s

/-- The time at which a PTP message arrived, as the module stamps it: within 2 ns, with the sub-port's asymmetry taken off (R327;
DESIGN CHOICE, log 44: the sign of LNK_PTP_ASYM). -/
def ptpStamp (s : State) (m : PtpMsg) : Int :=
  (ptpNs s : Int) + clampInt (-2) 2 m.err - sext 32 (regA s (portWin m.port + 0x14)) / 1000

/-- PTP_MESSAGE_RECEIVE, for a message of the module's domain: an announce takes part in the choice of the master; on the slave
sub-port a sync gives the offset, and the answer to a delay request the mean path delay, end to end or peer to peer (R327 to R329).
Where SYNC_IN is the phase reference it stands in place of a slave sub-port (R330). -/
def execPtpMessageReceive (t : Nat) (m : PtpMsg) (s : State) : Res :=
  let s := tick t s
  .next (
    if ¬ live s ∨ ¬ ptpPort s m.port ∨ cfg s 0x719000 0 2 ≠ 1 ∨ m.domain ≠ cfg s 0x719000 6 7 ∨ m.ann.sender = s.alm.macBase then s
    else if m.kind = 0 then ptpSelect { s with ptp := { s.ptp with heard := tput s.ptp.heard m.port (m.ann, s.now) } }
    else if s.ptp.slave ≠ m.port then s
    else
      let at_ := ptpStamp s m
      if m.kind = 1 then servo (at_ - m.sent - s.ptp.path) { s with ptp := { s.ptp with t1 := m.sent, t2 := at_ } }
      else
        let twice := if cfg s 0x719000 3 1 = 1 then at_ - s.ptp.t3 - m.sent else (s.ptp.t2 - s.ptp.t1) + (m.sent - s.ptp.t3)
        { s with ptp := { s.ptp with path := twice / 2, lastMsg := s.now } })

/-- A PTP message on its transport: announce and follow-up are general messages, sync and delay requests event messages
(R312, R327; the lengths and group addresses are those of IEEE 1588 and IEEE 802.3, log 44). An announce names the grandmaster: the
slave's, one step farther, or the module itself. -/
def ptpFrame (s : State) (kind : Nat) : TxFrame :=
  let tr := cfg s 0x719000 4 2
  let p2p := kind = 2 ∧ cfg s 0x719000 3 1 = 1
  let body := if kind = 0 then 64 else if p2p then 54 else 44
  let ann := match look s.ptp.heard s.ptp.slave with
    | some (a, _) => { a with steps := a.steps + 1, sender := s.alm.macBase }
    | none => ownAnnounce s
  let f := express (max 64 (18 + body + (if tr = 1 then 28 else if tr = 2 then 48 else 0))) (.ptp kind (cfg s 0x719000 6 7) ann)
    (if tr = 1 ∨ tr = 2 then (if kind = 0 ∨ kind = 3 then 320 else 319) else 0)
  if tr = 1 then { f with
    ether := 0x0800, hops := cfg s 0x718008 0 8, mac := if p2p then 0x01005E00006B else 0x01005E000181,
    ipDst := if p2p then 0xE000006B else 0xE0000181 }
  else if tr = 2 then { f with
    hops := cfg s 0x718008 0 8, mac := if p2p then 0x33330000006B else 0x333300000181,
    ipDst := if p2p then 0xFF02 * 2 ^ 112 + 0x6B else 0xFF0E * 2 ^ 112 + 0x181 }
  else { f with ether := 0x88F7, mac := if p2p then 0x0180C200000E else 0x011B19000000, csum := false }

/-- cc between two messages of a kind: an announce each second, sync and delay requests by SYNC_LOG and DREQ_LOG (R327). -/
def ptpEvery (s : State) (kind : Nat) : Nat :=
  if kind = 1 then msCc 1000 / 2 ^ cfg s 0x719000 13 3 else if kind = 2 then msCc 1000 / 2 ^ cfg s 0x719000 16 3 else msCc 1000

/-- PTP_MESSAGE_SEND: announce and sync from masters, delay requests from the slave, at their intervals; in two-step
transmission a follow-up goes after a sync (R327). -/
def execPtpMessageSend (t port kind : Nat) (s : State) : Res :=
  let s := tick t s
  .next (
    let may := if kind = 2 then s.ptp.slave = port else kind < 2 ∧ isMaster s port
    let due := (look s.ptp.sentAt (4 * port + kind)).all (fun c => decide (c + ptpEvery s kind ≤ s.now))
    if portsOn s ∧ ptpPort s port ∧ may ∧ due then
      let s := queueTx port (ptpFrame s kind) { s with ptp := { s.ptp with sentAt := tput s.ptp.sentAt (4 * port + kind) s.now } }
      if kind = 1 ∧ cfg s 0x719000 2 1 = 0 then queueTx port (ptpFrame s 3) s else s
    else s)

/-- PTP_ANNOUNCE_TIMEOUT: three announce intervals without an announce of a master: the choice runs again without it (R327); while
messages of the reference are absent a locked timebase drifts (R36). -/
def execPtpAnnounceTimeout (t port : Nat) (master : Option Nat) (s : State) : Res :=
  let s := tick t s
  .next (match look s.ptp.heard port with
    | none => s
    | some (a, at_) =>
      if ¬ live s ∨ s.now < at_ + msCc 3000 ∨ master.any (fun m => decide (m ≠ a.sender)) then s else
      let was := s.ptp.slave
      let s := ptpSelect { s with ptp := { s.ptp with heard := tdel s.ptp.heard port } }
      if was = port ∧ s.ptp.lock = 0 then setLock 1 s else s)

/-- MER_HOLDOVER_EXPIRY: PTP messages have been absent for MER_HOLDOVER (R36). -/
def execMerHoldoverExpiry (t : Nat) (s : State) : Res :=
  let s := tick t s
  .next (if live s ∧ s.ptp.lastMsg + msCc (cfg s 0x10034 0 16) ≤ s.now then setLock 2 s else s)

/-- SYNC_IN_EDGE: with IN_MODE 1 the edge marks a whole second and is the phase reference (R330). -/
def execSyncInEdge (t ns : Nat) (offset : Int) (s : State) : Res :=
  let s := tick t s
  .next (
    if ¬ live s ∨ cfg s 0x719040 0 2 ≠ 1 then s else
    let step := decide (1000 < offset.natAbs) && s.jobs.isEmpty
    let s := servo offset { s with ptp := { s.ptp with slave := 0xFE, inPresent := true, lastEdge := s.now } }
    if step then stepTime ns s else s)

/-- SYNC_IN_ABSENT: no edge within 1.1 s; missing edges count toward MER_HOLDOVER (R330, R334). -/
def execSyncInAbsent (t : Nat) (s : State) : Res :=
  let s := tick t s
  .next (
    if s.ptp.inPresent ∧ s.ptp.lastEdge + msCc 1100 ≤ s.now then
      let s := { s with ptp := { s.ptp with inPresent := false } }
      if s.ptp.slave = 0xFE ∧ s.ptp.lock = 0 then setLock 1 s else s
    else s)

/-- SYNC_OUT_PULSE: a 1 µs pulse at each whole second within ±2 ns, or at each meridian (R330). -/
def execSyncOutPulse (t : Nat) (s : State) : Res :=
  let s := tick t s
  .next (
    let sub := ptpNs s % 10 ^ 9
    let m := cfg s 0x719040 2 2
    if live s ∧ ((m = 1 ∧ (sub ≤ 2 ∨ 10 ^ 9 - 2 ≤ sub)) ∨ (m = 2 ∧ s.now = s.mer.at_)) then emit (.pulse (ptpNs s)) s else s)

/-- PTP_TIME_SET: a write of SET_NS sets the time of day, with the seconds held by SET_SEC, while no job runs and no master is
selected (R329, R334). -/
def execPtpTimeSet (t ns : Nat) (s : State) : Res :=
  let s := tick t s
  .next (
    if barServed s ∧ s.jobs.isEmpty ∧ 96 ≤ s.ptp.slave then
      let s := stepTime (s.ptp.setSec * 10 ^ 9 + ns) s
      { s with ptp := { s.ptp with todSet := true } }
    else s)

/-! ### Host rings of the fabric window (R309) -/

/-- Send a frame of the transmit ring: to its sub-port, or routed by its IPv6 destination; as the host wrote it, its checksums
computed where FLAGS ask for them (R309, R310, R312). -/
def sendHost (slot : Nat) (h : HostTx) (s : State) : State :=
  let f : TxFrame := { group := 2, pcp := h.pcp, dscp := h.dscp, udp := 0, len := h.length + 4, ecn := h.ecn, planCc := 0, readyAt := 0,
                       tenant := none, msg := .host slot (bitOf h.flags 1), hops := h.hop, mac := h.mac, srcMac := h.srcMac, vid := h.vid,
                       ether := h.etherType, ipSrc := h.ipSrc, ipDst := h.ipDst, csum := bitOf h.flags 0 }
  if h.length < 60 ∨ 9596 < h.length then s
  else if h.port = 0xFF then
    match (if h.etherType = 0x86DD then fabricModule s h.ipDst else none) with
    | some d => route d f s
    | none => s
  else if (portOf s h.port).up then queueTx h.port f s else portCount h.port 10 1 s

/-- Send the frames of consecutive slots. -/
def sendHosts (n : Nat) : Nat → List HostTx → State → State
  | _, [], s => s
  | i, h :: r, s => sendHosts n ((i + 1) % n) r (sendHost i h s)

/-- TX_RING_DOORBELL: the owner advances TX_TAIL and the module sends the slots up to it (R309). -/
def execTxRingDoorbell (t tail : Nat) (frames : List HostTx) (s : State) : Res :=
  let s := tick t s
  .next (
    if ¬ barServed s then s else
    let s := liveWrite 0x718230 tail s
    if cfg s 0x718200 1 1 = 0 then s else
    let n := ringSlots s 0x718228
    let k := (tail % n + n - s.txHead % n) % n
    sendHosts n (s.txHead % n) (frames.take k) { s with txHead := tail % n })

/-- PU_TAIL_WRITE: the host returns slots of the pass-up ring (R309). -/
def execPuTailWrite (t tail : Nat) (s : State) : Res :=
  let s := tick t s
  .next (if barServed s then liveWrite 0x718218 tail s else s)

/-! ### The management MAC (R331 to R333) -/

/-- The next frame of the queues, in strict priority (R332). -/
def mgtNext (m : Mgt) : Option (Nat × Msg) :=
  match m.q1, m.q2, m.q3, m.q4 with
  | x :: _, _, _, _ => some (1, x)
  | [], x :: _, _, _ => some (2, x)
  | [], [], x :: _, _ => some (3, x)
  | [], [], [], x :: _ => some (4, x)
  | [], [], [], [] => none

/-- A queue loses its first frame. -/
def mgtPop (q : Nat) (m : Mgt) : Mgt :=
  match q with
  | 1 => { m with q1 := m.q1.drop 1 }
  | 2 => { m with q2 := m.q2.drop 1 }
  | 3 => { m with q3 := m.q3.drop 1 }
  | _ => { m with q4 := m.q4.drop 1 }

/-- The MAC takes a frame in hand, which it keeps until it has left or is given up: the last gasp once a C4 event has come, then the
queues (R331 to R333). -/
def mgtTake (s : State) : Option (Nat × Msg) × State :=
  match s.mgt.hand, s.mgt.gasp with
  | some x, _ => (some x, s)
  | none, some true => (none, s)
  | none, some false => match s.flt.c4 with
    | some e => (some (0, .beacon 2 e), { s with mgt := { s.mgt with hand := some (0, .beacon 2 e) } })
    | none => (none, s)
  | none, none => match mgtNext s.mgt with
    | some x => (some x, { s with mgt := { mgtPop x.1 s.mgt with hand := some x } })
    | none => (none, s)

/-- The frame in hand is done with; the last gasp silences the MAC (R333). -/
def mgtDone (q : Nat) (s : State) : State :=
  { s with mgt := { s.mgt with hand := none, tries := 0, backoff := false, gasp := if q = 0 then some true else s.mgt.gasp } }

/-- Where a datagram goes: LNK_MGT_PEER, or ff02::1, and the UDP port of its priority (R332). -/
def mgtDest (s : State) : Nat :=
  let a := regA s 0x71A010 + regA s 0x71A014 * 2 ^ 32 + regA s 0x71A018 * 2 ^ 64 + regA s 0x71A01C * 2 ^ 96
  if a = 0 then 0xFF02 * 2 ^ 112 + 1 else a
def mgtPort (q : Nat) : Nat := if q ≤ 1 then 46581 else if q = 2 then 46580 else if q = 3 then 46579 else 46582

/-- The frame in hand leaves. -/
def mgtSend (q : Nat) (m : Msg) (s : State) : State := emit (.mgt (mgtDest s) (mgtPort q) m) (bump 0x71A040 32 1 (mgtDone q s))

/-- The slot time of back-off: 512 bit times at 10 Mb/s (R331). -/
def backSlotCc : Nat := 168960

/-- A node of PLCA: mode 1, with a node ID within the node count (R331; DEDUCED, log 44, for an ID beyond the count). -/
def inPlca (s : State) : Bool := cfg s 0x71A000 0 2 = 1 && decide (cfg s 0x71A000 2 8 < cfg s 0x71A000 10 8)

/-- Send frames in one transmit opportunity: one, and as many more as the burst count gives (R331). -/
def mgtBurst : Nat → State → State
  | 0, s => s
  | n + 1, s => match mgtTake s with
    | (some (q, m), s) => mgtBurst n (mgtSend q m s)
    | (none, s) => s

/-- A transmit opportunity of PLCA: node 0 begins the cycle with the beacon, and no opportunity follows another sooner than the
timers of all nodes run (R331; DEDUCED, log 44). -/
def mgtOpportunity (s : State) : State :=
  let cycle := cfg s 0x71A000 10 8 * cfg s 0x71A000 18 8 * 330
  if s.mgt.opAt.any (fun c => decide (s.now < c + cycle)) then s else
  let s := { s with mgt := { s.mgt with opAt := some s.now } }
  mgtBurst (1 + cfg s 0x71A000 26 4) (if cfg s 0x71A000 2 8 = 0 then emit .plca s else s)

/-- An attempt at the frame in hand. In mode 0, and where a node of mode 1 is not in PLCA, a busy medium defers it and a collision
backs it off for a number of slots below 2 to the attempts, at most 2^10, that is free; after 16 attempts it is given up and
queued again at the tail (R331). -/
def mgtAttempt (busy collision : Bool) (s : State) : State :=
  let half := decide (cfg s 0x71A000 0 2 = 0 ∨ (cfg s 0x71A000 0 2 = 1 ∧ ¬ inPlca s))
  if inPlca s then mgtOpportunity s
  else if half ∧ busy then s
  else match mgtTake s with
  | (none, s) => s
  | (some (q, m), s) =>
    if half ∧ collision then
      let s := bump 0x71A048 32 1 s
      if 15 ≤ s.mgt.tries then
        let s := bump 0x71A04C 32 1 (mgtDone q s)
        if q = 0 then s else queueMgt q m s
      else
        let n := s.mgt.tries + 1
        let slots := Config.choice s.free % 2 ^ min n 10
        { s with
          free := s.free + 1
          mgt := { s.mgt with tries := n, backoff := true, backUntil := s.now + slots * backSlotCc } }
    else mgtSend q m s

/-- MGT_TRANSMIT: the MAC attempts a frame by the method of LNK_MGT_CFG.MODE (R331). -/
def execMgtTransmit (t : Nat) (busy collision : Bool) (s : State) : Res :=
  let s := tick t s
  .next (if s.pwr.phase < 2 ∨ s.mgt.backoff then s else mgtAttempt busy collision s)

/-- MGT_BACKOFF_EXPIRY: a back-off ends and the frame is attempted again (R331). -/
def execMgtBackoffExpiry (t : Nat) (busy collision : Bool) (s : State) : Res :=
  let s := tick t s
  .next (if s.pwr.phase < 2 ∨ ¬ s.mgt.backoff ∨ s.now < s.mgt.backUntil then s
    else mgtAttempt busy collision { s with mgt := { s.mgt with backoff := false } })

end Sys2Proof.Machine
end

