-- ==== Sys2Proof/Machine/Power.lean ====
section
/-! DEFINITION. The power input, capping and cooling (spec/16 R414 to R430, spec/22 R509), the meter's failure (spec/17
R435) and the twilight slots of the stacks (spec/02 R42, R43; spec/08 R193). -/

namespace Sys2Proof.Machine

/-! ### Supply -/

/-- The supply is gone: all volatile state is lost, the almanac and the boot NOR survive (R30, R31). -/
def supplyOff (latched : Bool) (s : State) : State :=
  let c := State.cold s.alm s.pending s.now s.free s.out
  { c with pwr := { c.pwr with latched } }

/-- The lockout engages while the input stays powered: the volatile state is lost, the input stage keeps its charge and
what it knows of the voltage (R415, R416, R419). -/
def lockOut (latched : Bool) (s : State) : State :=
  let p := s.pwr
  let c := supplyOff latched s
  { c with pwr := { c.pwr with charged := p.charged, volts := p.volts } }

/-- The conditions on the input voltage, in mV, by the key under which they are kept. -/
def voltTests (mv : Nat) : List (Nat × Bool) :=
  [(0, decide (80000 < mv)), (1, decide (72000 < mv)), (2, decide (mv < 54000)), (3, decide (mv < 42000)),
   (4, decide (mv < 40000)), (5, decide (50000 ≤ mv)), (6, decide (54000 ≤ mv)), (7, decide (55000 ≤ mv))]

/-- The conditions after a sample at a cc. -/
def nextVolts (mv now : Nat) (v : Tab (Nat × Nat)) : Tab (Nat × Nat) :=
  (voltTests mv).foldl (fun m x =>
    if x.2 then tput m x.1 (match look m x.1 with | some (a, n) => (a, n + 1) | none => (now, 1)) else tdel m x.1) v

/-- A crossing counts with the second consecutive sample (R414). -/
def crossed (s : State) (k : Nat) : Bool := (look s.pwr.volts k).any (fun x => x.2 = 2)

/-- A condition has held for a number of cc. -/
def heldFor (s : State) (k cc : Nat) : Bool := (look s.pwr.volts k).any (fun x => decide (x.1 + cc ≤ s.now))

/-- The module is beyond the start of stage Rails and its converters stay on: the regions of R414 apply. In the halted
state a further C4 event is recorded only (R451). -/
def regions (s : State) : Bool := s.pwr.phase = 2 || s.pwr.phase = 4 || s.pwr.phase = 5

/-- The meter takes a sample of 1 µs: mV × mA is power in µW and energy in pJ (R434, R446). -/
def meter (mv ma : Nat) (s : State) : State :=
  let p := s.pho
  let sum := p.winSum + mv * ma / 1000
  let p := { p with volt := mv, curr := ma, energy := p.energy + mv * ma }
  if p.winN + 1 = 1000 then
    { s with pho := { p with power := sum / 1000000, winSum := 0, winN := 0 } }
  else { s with pho := { p with winSum := sum, winN := p.winN + 1 } }

/-- Raise a source of R414 that needs no block. -/
def powerEvent (src : Nat) (s : State) : State := raise { src } s

/-- The reaction of the running module to a sample (R414). -/
def regionStep (s : State) : State :=
  let s := if crossed s 1 ∧ ¬ s.pwr.surge then
      powerEvent 0x1A0 { s with pwr := { s.pwr with surge := true } } else s
  let s := if (look s.pwr.volts 1).isNone then { s with pwr := { s.pwr with surge := false } } else s
  let s := if crossed s 2 then
      powerEvent 0x1A2 { s with pwr := { s.pwr with sag := true } } else s
  if crossed s 0 then powerEvent 0x1A1 s
  else if crossed s 3 then powerEvent 0x1A3 s else s

/-- The level of the pin PRESENT_N: it is tied to ground on the module, so it reads low powered or not (R2, R505). -/
def presentN (_ : State) : Bool := false

/-- VOLTAGE_SAMPLE: a 1 MHz sample of the input in mV and mA (R414 to R416). While the lockout is engaged the module is
wholly off: only the lockout's own circuit sees the sample, and the meter measures nothing (R2). -/
def execVoltageSample (t mv ma : Nat) (s : State) : Res :=
  let s := tick t s
  let s := { s with pwr := { s.pwr with volts := nextVolts mv s.now s.pwr.volts } }
  .next (
    if s.pwr.phase = 4 ∧ crossed s 4 then lockOut false s
    else if regions s then regionStep (meter mv ma s)
    else if s.pwr.phase = 1 then
      if (look s.pwr.volts 0).any (fun x => decide (2 ≤ x.2)) then lockOut true s else if crossed s 4 then lockOut false s else meter mv ma s
    else if s.pwr.phase = 0 then s
    else meter mv ma s)

/-- SURGE_TIMEOUT: V above 72 V for more than 100 ms (R414). -/
def execSurgeTimeout (t : Nat) (s : State) : Res :=
  let s := tick t s
  .next (if regions s ∧ heldFor s 1 (msCc 100 + 1) then powerEvent 0x1A1 s else s)

/-- SAG_TIMEOUT: V below 54 V for more than 20 ms (R414). -/
def execSagTimeout (t : Nat) (s : State) : Res :=
  let s := tick t s
  .next (if regions s ∧ heldFor s 2 (msCc 20 + 1) then powerEvent 0x1A3 s else s)

/-- SAG_RELEASE: V at or above 55 V for 1 ms releases the sag limit (R418). -/
def execSagRelease (t : Nat) (s : State) : Res :=
  let s := tick t s
  .next (if s.pwr.sag ∧ heldFor s 7 (msCc 1) then { s with pwr := { s.pwr with sag := false } } else s)

/-- INRUSH_CHARGED: the input capacitance is charged (R417). -/
def execInrushCharged (t : Nat) (s : State) : Res :=
  let s := tick t s
  .next (if s.pwr.charged.isNone then { s with pwr := { s.pwr with charged := some s.now } } else s)

/-- UVLO_RELEASE: V at or above 50 V for 100 ms, counted from the end of charging, releases a lockout that is not latched
(R415, R417). -/
def execUvloRelease (t : Nat) (s : State) : Res :=
  let s := tick t s
  .next (
    if s.pwr.phase = 0 ∧ ¬ s.pwr.latched ∧ heldFor s 5 (msCc 100) ∧
       s.pwr.charged.any (fun c => decide (c + msCc 100 ≤ s.now)) then
      { s with pwr := { s.pwr with phase := 1 } }
    else s)

/-- UVLO_LATCH_CLEAR: V below 40 V for 10 ms clears the latch (R415). -/
def execUvloLatchClear (t : Nat) (s : State) : Res :=
  let s := tick t s
  .next (if s.pwr.latched ∧ heldFor s 4 (msCc 10) then { s with pwr := { s.pwr with latched := false } } else s)

/-- BRINGUP_START: with the lockout released and V at or above 54 V for 10 ms, bring-up begins with stage Rails (R416,
R476). -/
def execBringupStart (t : Nat) (s : State) : Res :=
  let s := tick t s
  .next (
    if s.pwr.phase = 1 ∧ heldFor s 6 (msCc 10) then
      { s with
        -- the regions of R414 count from here
        pwr := { s.pwr with phase := 2, volts := s.pwr.volts.filter (fun e => decide (4 ≤ e.1)) }
        boot := { s.boot with stage := 1, startAt := s.now, cause := none } }
    else s)

/-- CURRENT_LIMIT_TRIP: the electronic current limit opens the input, which is a loss of supply (R509). -/
def execCurrentLimitTrip (t : Nat) (s : State) : Res :=
  let s := tick t s
  .next (supplyOff s.pwr.latched s)

/-- SUPPLY_LOSS: the 64 V bus is removed (R30). A latched lockout stays latched until V has been below 40 V for 10 ms. -/
def execSupplyLoss (t : Nat) (s : State) : Res :=
  let s := tick t s
  .next (supplyOff s.pwr.latched s)

/-- SAFE_N_ASSERT: PWR_SAFE_N starts a safe stop, from the release of the lockout on and at any stage of bring-up (R419, R480, R511). -/
def execSafeNAssert (t : Nat) (s : State) : Res :=
  let s := tick t s
  .next (if regions s ∨ s.pwr.phase = 1 then powerEvent 0x1A6 s else s)

/-- SAFE_STOP_CONVERTERS_OFF: 2 ms into a safe stop the converters turn off and the lockout latches (R419). -/
def execSafeStopConvertersOff (t : Nat) (s : State) : Res :=
  let s := tick t s
  .next (if s.pwr.phase = 3 ∧ s.pwr.stopAt + msCc 2 ≤ s.now then lockOut true s else s)

/-! ### Grants (R418, R423 to R428) -/

/-- GRANT_FRAME: at a 64-cc boundary from the meridian every core's grant takes the least of sag limit, thermal ceiling
and allocation (R423, R424). -/
def execGrantFrame (t : Nat) (s : State) : Res :=
  let s := tick t s
  .next (
    if ¬ live s ∨ (s.now - s.mer.at_) % 64 ≠ 0 then s
    else
      let sag := s.pwr.sag
      { s with cores := tmap s.cores (fun _ c => { c with
          frame := (s.now - s.mer.at_) / 64, used := 0
          grant := min c.ceiling (if sag then 16 else 64), granted := c.alloc }) })

/-- Grant units that a number of W converts into (R425). -/
def wattUnits (w : Nat) : Nat := w * 5824 / 2125

/-- Grant units of a number of tenths of a watt. -/
def tenthUnits (w : Nat) : Nat := w * 5824 / 21250

/-- The sum of strict tenants' power shares (R425). -/
def strictSum (s : State) : Nat := s.tenants.foldl (fun n e => if e.2.strict then n + e.2.power else n) 0

/-- PWR_BASE of the variant and its flash (R421). -/
def pwrBase (s : State) : Nat :=
  let f := s.alm.flashTb
  let pick := fun a b c => if f = 16 then a else if f = 8 then b else c
  if variant s = 6 then pick 691 675 647 else if variant s = 8 then pick 906 891 862 else pick 1073 1058 1029

/-- The phase ID that a job's segment is in at a cc (R44, R427). -/
def phaseOf (s : State) (j : Job) : Nat :=
  match segOf s j with
  | some g => ((g.phases.filter (fun p => decide (p.1 ≤ s.now - j.segAt))).getLast?.map (·.2)).getD 0
  | none => 0

/-- Units that a core of a job wants (R428), and whether the core is on the critical path of the job's phase. -/
def wantOf (s : State) (tenant core : Nat) : Nat × Bool :=
  match s.jobs.find? (fun e => e.2.tenant = tenant && (jobCores s e.1).contains core) with
  | some (_, j) =>
    let p := phaseOf s j
    (min 64 (ceilDiv (64 * tget j.demand (p * 64 + core) 4096) 4096 + 2),
     ((segOf s j).any (fun g => g.critical.contains (p * 64 + core))))
  | none => (64, false)

/-- Give the cores of a list what they want, in order, while units last. -/
def giveFirst : List (Nat × Nat) → Nat → List (Nat × Nat) × Nat
  | [], u => ([], u)
  | (c, w) :: r, u =>
    let g := min w u
    let (l, left) := giveFirst r (u - g)
    ((c, g) :: l, left)

/-- One unit more to each core that still wants one, in order, while units last. -/
def giveOne : List (Nat × Nat × Nat) → Nat → List (Nat × Nat)
  | [], _ => []
  | (c, w, g) :: r, u => if 0 < u ∧ g < w then (c, g + 1) :: giveOne r (u - 1) else (c, g) :: giveOne r u

/-- A tenant's units divided among cores in ascending order (R428). -/
def divideUnits (s : State) (tenant units : Nat) (cores : List Nat) : List (Nat × Nat) :=
  let ws := cores.map (fun c => (c, wantOf s tenant c))
  let (crit, left) := giveFirst ((ws.filter (·.2.2)).map (fun x => (x.1, x.2.1))) units
  let rest := (ws.filter (fun x => !x.2.2)).map (fun x => (x.1, x.2.1))
  let sum := rest.foldl (fun n x => n + x.2) 0
  let base := rest.map (fun x => (x.1, x.2, min x.2 (left * x.2 / max 1 sum)))
  crit ++ giveOne base (left - base.foldl (fun n x => n + x.2.2) 0)

/-- Cores of a mask, in ascending order. -/
def maskCores (m : Nat) : List Nat := (List.range 36).filter (fun c => bitOf m c)

/-- The cores that a tenant's units go to: a strict tenant's partition, otherwise the cores of its running jobs. -/
def unitCores (s : State) (tenant : Nat) (x : Tenant) : List Nat :=
  if x.strict then maskCores x.cores
  else (List.range 36).filter (fun c => s.jobs.any (fun e => e.2.tenant = tenant && (jobCores s e.1).contains c))

/-- A tenant of the common pool is running. -/
def inPool (s : State) (n : Nat) (x : Tenant) : Bool :=
  (!x.strict || x.power = 0) && s.jobs.any (fun e => e.2.tenant = n && e.2.phase ≠ 0)

/-- The common pool in tenths of a watt: the limit less the draw that is independent of issue, less every strict share,
held to the ramp limit, which is 2.5 W for a period of 1 µs (R420, R422, R426; DEDUCED, log 17). With no meter PWR_BASE
and the grants themselves stand for the input (R435). -/
def commonPool (s : State) (fixedW : Nat) : Nat :=
  let fixedW := if s.pho.meterOk then fixedW else pwrBase s
  let p := 10 * (cfg s 0xA00000 0 12 - fixedW - strictSum s)
  match s.pwr.pool with
  | some old => clampNat (old - 25) (old + 25) p
  | none => p

/-- What a period leaves as the value the next one ramps from: in sag no more than every core draws at 16/64, so that
grants rise under the ramp limit after it (R418). -/
def poolKept (s : State) (pool : Nat) : Option Nat :=
  some (if s.pwr.sag then min pool (((List.range 36).filter (fun c => (coreOf s c).enabled && !(coreOf s c).retired)).length * 53125 / 910) else pool)

/-- Allocate a tenant's units. -/
def allot (tenant units : Nat) (cores : List Nat) (s : State) : State :=
  (divideUnits s tenant units cores).foldl (fun s x =>
    modCore x.1 (fun c => { c with alloc := tput c.alloc tenant (min 64 x.2) }) s) s

/-- A periodic action is due: none has been taken yet, or its period has elapsed since the last. -/
def spaced (last : Option Nat) (period now : Nat) : Bool := last.all (fun a => decide (a + period ≤ now))

/-- POWER_CONTROL_PERIOD: each 1 µs the pool is divided among tenants, and each tenant's units among its cores (R425,
R426, R428). `fixedW` is the measured input that is independent of issue. -/
def execPowerControlPeriod (t fixedW : Nat) (s : State) : Res :=
  let s := tick t s
  .next (
    if ¬ live s ∨ ¬ spaced s.pwr.ctlAt 3300 s.now then s else
    let pool := commonPool s fixedW
    let s := { s with pwr := { s.pwr with pool := poolKept s pool, ctlAt := some s.now } }
    let weight := fun (x : Tenant) => max 1 x.power
    let sum := s.tenants.foldl (fun n e => if inPool s e.1 e.2 then n + weight e.2 else n) 0
    s.tenants.foldl (fun s e =>
      if e.2.strict ∧ 0 < e.2.power then allot e.1 (wattUnits e.2.power) (unitCores s e.1 e.2) s
      else if inPool s e.1 e.2 then
        let w := pool * weight e.2 / max 1 sum
        allot e.1 (tenthUnits (if e.2.power = 0 then w else min w (10 * e.2.power))) (unitCores s e.1 e.2) s
      else s) s)

/-- PHASE_DEMAND_UPDATE: at the end of an occurrence of a phase, d ← d + (x − d)/8 for each core, in 4,096ths (R427). -/
def execPhaseDemandUpdate (t slot phase : Nat) (x : List (Nat × Nat)) (s : State) : Res :=
  let s := tick t s
  .next (modJob slot (fun j => { j with demand := x.foldl (fun m e =>
    let k := phase % 256 * 64 + e.1 % 64
    let d : Int := (tget m k 4096 : Nat)
    tput m k (d + ((min 4096 e.2 : Nat) - d) / 8).toNat) j.demand }) s)

/-! ### Heat (R430) -/

/-- Sensors, numbered core diodes 0 to 35, stacks 36 to 47, I/O dies 48 to 55, phase groups 56 to 63, flash channels 64 to
79 (DESIGN CHOICE, log 18): throttle, release and shutdown points in 0.1 °C. -/
def sensorPoints (n : Nat) : Int × Int × Int :=
  if n < 36 then (950, 920, 1100) else if n < 48 then (900, 870, 1000) else if n < 56 then (950, 920, 1100)
  else if n < 64 then (1150, 1100, 1250) else (700, 670, 850)

/-- A sensor of the variant. -/
def hasSensor (s : State) (n : Nat) : Bool :=
  if n < 36 then true else if n < 48 then hasStack s (n - 36) else if n < 56 then decide ((n - 48) / 4 < iods s)
  else if n < 64 then true else n < 80 && hasVault s

/-- The sensors that act on a core. -/
def sensorActs (core n : Nat) : Bool :=
  if n < 36 then n / 18 = core / 18 else if n < 48 then (n - 36) / 6 = core / 18 else true

/-- A sensor list with one sensor's membership set. -/
def member (l : List Nat) (n : Nat) (b : Bool) : List Nat := if b then (if n ∈ l then l else l ++ [n]) else l.filter (· ≠ n)

/-- THERMAL_SAMPLE: a sensor's temperature in 0.1 °C; upward crossings raise PWR_TEMP_HIGH and PWR_TEMP_CRIT. -/
def execThermalSample (t sensor : Nat) (deciC : Int) (s : State) : Res :=
  let s := tick t s
  .next (
    if ¬ regions s ∨ ¬ hasSensor s sensor then s else
    let (hi, lo, top) := sensorPoints sensor
    let rise := decide (hi ≤ deciC) && !(s.pwr.hot.contains sensor)
    let crit := decide (top ≤ deciC) && !(s.pwr.critical.contains sensor)
    let s := { s with pwr := { s.pwr with
      hot := member s.pwr.hot sensor (decide (hi ≤ deciC))
      warm := member s.pwr.warm sensor (decide (lo ≤ deciC))
      critical := member s.pwr.critical sensor (decide (top ≤ deciC)) } }
    let s := if rise then raise { src := 0x1A4, unit := sensor } s else s
    if crit then raise { src := 0x1A5, unit := sensor } s else s)

/-- THERMAL_CEILING_STEP: every 100 µs the ceilings of affected cores fall or rise by 1/64. -/
def execThermalCeilingStep (t : Nat) (s : State) : Res :=
  let s := tick t s
  let p := s.pwr
  .next (if ¬ live s ∨ ¬ spaced p.ceilAt 330000 s.now then s else
    { s with
      pwr := { p with ceilAt := some s.now }
      cores := tmap s.cores (fun core c =>
        if p.hot.any (sensorActs core) then { c with ceiling := max 1 (c.ceiling - 1) }
        else if p.warm.any (sensorActs core) then c
        else { c with ceiling := min 64 (c.ceiling + 1) }) })

/-- METER_OUT_OF_RANGE: samples out of range for more than 10 µs raise PHO_METER (R435). -/
def execMeterOutOfRange (t : Nat) (s : State) : Res :=
  let s := tick t s
  .next (if live s then raise { src := 0x1C0 } (irqSet 0xA10184 1 s) else s)

/-! ### Twilight slots (R42, R43, R193) -/

/-- TWILIGHT_SLOT_START: group j mod 4 begins its refresh on every stack. -/
def execTwilightSlotStart (t : Nat) (s : State) : Res :=
  let s := tick t s
  .next (match slotAt s with
    | some (j, c) =>
      if s.now = s.mer.at_ + c then
        { s with stks := tmap s.stks (fun _ k => { k with group := j % 4, inSlot := true }) }
      else s
    | none => s)

/-- TWILIGHT_SLOT_END: the slot has lasted 1,056 cc and waiting accesses go on. -/
def execTwilightSlotEnd (t : Nat) (s : State) : Res :=
  let s := tick t s
  .next (match slotAt { s with now := s.now - 1056 } with
    | some (_, c) =>
      if s.now = s.mer.at_ + c + 1056 then { s with stks := tmap s.stks (fun _ k => { k with inSlot := false }) } else s
    | none => s)

end Sys2Proof.Machine
end

