-- ==== Sys2Proof/Machine/Receipts.lean ====
section
/-! DEFINITION. The apportionment of each exposure's energy and the signed receipts (spec/17 R436 to R445). -/

namespace Sys2Proof.Machine

/-- The bytes of a number, most significant first. -/
def beBytes (n x : Nat) : List Byte := (leBytes n x).reverse

/-- FWM, the measurement of the four active images together (R408). -/
def fwm (s : State) : Nat :=
  Config.sha384 ((List.range 4).flatMap (fun i => beBytes 48 (tget s.boot.digests (i + 1) 0)))

/-! ### Apportionment (R437, R438) -/

/-- A number divided along cumulative weights: the parts add up to it. -/
def shareOut (total sum : Nat) : Nat → List Nat → List Nat
  | _, [] => []
  | acc, w :: r => (total * (acc + w) / max 1 sum - total * acc / max 1 sum) :: shareOut total sum (acc + w) r

/-- Energy in nJ of a power in W over a number of cc, in a number of 64ths. -/
def wattCc (w cc n : Nat) : Nat := w * cc * 10 * n / (33 * 64)

/-- An account has an open request other than its standing one. -/
def openReqs (s : State) (account : Nat) : Bool := s.pho.reqs.any (fun r => r.account = account && r.id ≠ standingId)

/-- An account's shared and idle energy goes to its requests (R437 step 5). -/
def spread (account shared idle : Nat) (s : State) : State :=
  if shared = 0 ∧ idle = 0 then s else
  let s := if s.pho.reqs.any (fun r => r.account = account) then s else addReq account standingId s
  let any := openReqs s account
  let mine := fun (r : EReq) => r.account = account && (!any || r.id ≠ standingId)
  let ws := (s.pho.reqs.filter mine).map (·.now)
  let ws := if ws.foldl (· + ·) 0 = 0 then ws.map (fun _ => 1) else ws
  let sum := ws.foldl (· + ·) 0
  let give := (shareOut shared sum 0 ws).zip (shareOut idle sum 0 ws)
  let reqs := (s.pho.reqs.foldl (fun (x : List EReq × List (Nat × Nat)) r =>
    if mine r then
      match x.2 with
      | g :: gs => (x.1 ++ [{ r with shared := r.shared + g.1, idle := r.idle + g.2 }], gs)
      | [] => (x.1 ++ [r], [])
    else (x.1 ++ [r], x.2)) ([], give)).1
  { s with pho := { s.pho with reqs } }

/-- Strict tenants with a share: number and share (R437 step 1). -/
def strictShares (s : State) : List (Nat × Nat) :=
  s.tenants.filterMap (fun e => if e.2.strict && 0 < e.2.share then some (e.1, e.2.share) else none)

/-- The account is a strict tenant's with a share. -/
def fixedAccount (s : State) (account : Nat) : Bool := (strictShares s).any (·.1 = account)

/-- The shared and idle pools and what goes to PHO_RESIDUAL (R437 steps 2 and 3). With no meter the energy is what makes
the remainder the sum of both nominal pools. -/
def pools (s : State) (cc : Nat) : Nat × Nat × Int :=
  let strict : Nat := (strictShares s).foldl (fun n x => n + x.2) 0
  let fixed : Nat := (strictShares s).foldl (fun n x => n + wattCc s.alm.rateS cc x.2 + wattCc s.alm.rateI cc x.2) 0
  let direct : Nat := s.pho.reqs.foldl (fun n r => n + r.now / 1000) 0
  let idle := wattCc s.alm.rateI cc (64 - strict)
  let shared := wattCc s.alm.rateS cc (64 - strict)
  if ¬ s.pho.meterOk then (shared, idle, 0) else
  let e := s.pho.energy / 1000 - s.pho.mark / 1000
  let rem : Int := (e : Int) - direct - fixed
  if rem < 0 then (0, 0, rem)
  else
    let i := min rem.toNat idle
    (rem.toNat - i, i, 0)

/-- Every job's activity of the exposure is flushed to its request. -/
def flushJobs (s : State) : State := (s.jobs.map (·.1)).foldl (fun s k => flushJob k s) s

/-- EXPOSURE_APPORTIONMENT: the energy of the exposure that ends is divided per account and request (R437). -/
def apportion (s : State) : State :=
  let s := flushJobs s
  let cc := s.now - s.mer.at_
  let (shared, idle, res) := pools s cc
  let low := s.pho.meterOk && decide ((s.pho.energy - s.pho.mark) * 33 < 200 * 1000 * cc * 10)
  let s := (strictShares s).foldl (fun s x =>
    spread x.1 (wattCc s.alm.rateS cc x.2) (wattCc s.alm.rateI cc x.2) s) s
  let common := s.pho.reqs.filter (fun r => r.account < 4096 && !fixedAccount s r.account && 0 < r.held)
  let accounts := (common.map (·.account)).eraseDups
  let ws := accounts.map (fun a => (common.filter (·.account = a)).foldl (fun n r => n + r.held) 0)
  let sum := ws.foldl (· + ·) 0
  let s := if accounts.isEmpty then spread 4096 shared idle s
    else (accounts.zip ((shareOut shared sum 0 ws).zip (shareOut idle sum 0 ws))).foldl
      (fun s x => spread x.1 x.2.1 x.2.2 s) s
  { s with pho := { s.pho with
      residual := s.pho.residual + res
      mark := s.pho.energy
      reqs := s.pho.reqs.map (fun r => { r with
        direct := r.direct + r.now / 1000, now := r.now % 1000, held := 0
        lowNs := if low then r.lowNs + cc * 10 / 33 else r.lowNs
        modelled := r.modelled || !s.pho.meterOk }) } }

/-! ### Receipts (R439 to R445) -/

/-- The receipt of a request for what earlier ones have not reported, and the request after it (R440, R441). -/
def cutReceipt (r : EReq) (seq tEnd : Nat) (interim : Bool) (s : State) : Receipt × EReq :=
  let part := fun tot rep => tot / 10 ^ 6 - rep
  let d := part r.direct r.repDirect
  let h := part r.shared r.repShared
  let i := part r.idle r.repIdle
  let unc := if r.modelled then ceilDiv (d + h + i) 10 else ceilDiv (5000 * (d + h + i) + r.lowNs) (10 ^ 6)
  let meta_ := (if r.account < 4096 then r.account else 4096) + (if interim then 2 ^ 13 else 0) +
    (if fixedAccount s r.account then 2 ^ 14 else 0) + (if r.fault then 2 ^ 15 else 0) +
    s.alm.calEpoch % 4096 * 2 ^ 16 + (if r.modelled then 2 ^ 28 else 0)
  ({ account := r.account, seq, meta_, unc, id := r.id, tStart := r.tStart, tEnd, eDirect := d, eShared := h, eIdle := i,
     fwm := fwm s, prev := 0, sig := 0 },
   { r with repDirect := r.repDirect + d, repShared := r.repShared + h, repIdle := r.repIdle + i, tStart := tEnd,
            lowNs := 0, fault := false, modelled := false })

/-- A fresh account (R443). -/
def freshAccount : Account := { seq := 0, issued := 0, prev := 0, restart := false }

/-- A receipt joins the queue for its signature. -/
def queueReceipt (x : Receipt) (s : State) : State :=
  let p := s.pho
  let s' := { s with pho := { p with queue := p.queue ++ [x] } }
  if p.queue.length = 61440 then irqSet 0xA10184 2 s' else s'

/-- Requests in the order of the SEQ reserved for their final receipts. -/
def bySeq (r : EReq) : List EReq → List EReq
  | [] => [r]
  | x :: l => if r.closing.getD 0 < x.closing.getD 0 then r :: x :: l else x :: bySeq r l

/-- The final receipts of requests whose final reply fell in the exposure that ends, in SEQ order (R439, R442). -/
def finalReceipts (tEnd : Nat) (s : State) : State :=
  let done := (s.pho.reqs.filter (·.closing.isSome)).foldl (fun l r => bySeq r l) []
  let s := { s with pho := { s.pho with reqs := s.pho.reqs.filter (·.closing.isNone) } }
  done.foldl (fun s r => queueReceipt (cutReceipt r (r.closing.getD 0) tEnd false s).1 s) s

/-- A standing request has energy that no receipt has reported. -/
def gathered? (r : EReq) : Bool := r.repDirect * 10 ^ 6 < r.direct || r.repShared * 10 ^ 6 < r.shared || r.repIdle * 10 ^ 6 < r.idle

/-- INTERIM_RECEIPT: interim receipts of open requests, and standing receipts (R439). -/
def interimReceipts (tEnd : Nat) (s : State) : State :=
  let due := s.pho.reqs.filter (fun r => r.id ≠ standingId || gathered? r)
  due.foldl (fun s r =>
    let a := tget s.pho.accounts r.account freshAccount
    let (x, r') := cutReceipt r a.seq tEnd true s
    let accounts := tput s.pho.accounts r.account { a with seq := a.seq + 1 }
    let reqs := s.pho.reqs.map (fun o => if o.account = r.account ∧ o.id = r.id then r' else o)
    bump 0xA10204 32 1 (queueReceipt x { s with pho := { s.pho with accounts, reqs } })) s

/-- The receipts of a meridian at a PTP time: final ones, and interim ones at the first meridian at or after each whole
multiple of the interval. -/
def receiptsAt (ns : Nat) (s : State) : State :=
  let i := cfg s 0xA10020 0 12 * 10 ^ 9
  let s := finalReceipts ns s
  let s := if s.pho.lastNs / max 1 i < ns / max 1 i then interimReceipts ns s else s
  { s with pho := { s.pho with lastNs := ns } }

/-- Bytes 159:0 of a receipt (R440). -/
def receiptHead (r : Receipt) : List Byte :=
  leBytes 8 r.seq ++ leBytes 4 r.meta_ ++ leBytes 4 r.unc ++ leBytes 8 r.id ++ leBytes 8 r.tStart ++ leBytes 8 r.tEnd ++
  leBytes 8 r.eDirect ++ leBytes 8 r.eShared ++ leBytes 8 r.eIdle ++ beBytes 48 r.fwm ++ beBytes 48 r.prev

/-- The 256 bytes of a receipt. -/
def receiptBytes (r : Receipt) : List Byte := receiptHead r ++ beBytes 96 r.sig

/-- Write an account's checkpoint to the boot NOR (R443, R444). -/
def checkpoint (account seq : Nat) (s : State) : State :=
  let a := tget s.pho.accounts account freshAccount
  { s with alm := { s.alm with checks := tput s.alm.checks account (seq, a.prev) } }

/-- Deliver a signed receipt to the buffer, the log and the management segment (R445). -/
def deliverReceipt (r : Receipt) (s : State) : State :=
  let s := { s with pho := { s.pho with buffer := (r :: s.pho.buffer).take 4096 } }
  let base := regA s 0xA10030 + regA s 0xA10034 * 2 ^ 32
  let slots := 2 ^ cfg s 0xA10038 0 5
  let s := if base = 0 then s else
    let head := s.pho.logHead % slots
    let s := emit (.receiptLog head r) (emit (.hostWrite 0 (base + 256 * head) (receiptBytes r)) s)
    let s := { s with pho := { s.pho with logHead := (head + 1) % slots } }
    if head + 1 = slots then irqSet 0xA10184 4 s else s
  if cfg s 0xA10020 12 1 = 1 then queueMgt 2 (.receipt r) s else s

/-- The management segment's queue of receipts has room, or takes none (R332). -/
def receiptRoom (s : State) : Bool := cfg s 0xA10020 12 1 = 0 || decide (s.mgt.q2.length < 32)

/-- RECEIPT_SIGNED: the secure element signs the receipt first in the queue, which takes its place in the account's chain
(R442 to R445). -/
def execReceiptSigned (t : Nat) (s : State) : Res :=
  let s := tick t s
  .next (match s.pho.queue with
    | [] => s
    | q :: rest =>
      if ¬ live s ∨ ¬ receiptRoom s then s else
      let s := { s with pho := { s.pho with queue := rest } }
      let s := if q.seq % 65536 = 0 then checkpoint q.account q.seq s else s
      let a := tget s.pho.accounts q.account freshAccount
      let q := { q with prev := a.prev, meta_ := if a.restart then q.meta_ + 2 ^ 29 else q.meta_ }
      let q := { q with sig := Config.ecdsa 1 (Config.sha384 (receiptHead q)) }
      let a' := { a with issued := q.seq, prev := Config.sha384 (receiptBytes q), restart := false }
      let s := { s with pho := { s.pho with accounts := tput s.pho.accounts q.account a' } }
      let s := if a.restart then bump 0xA10208 32 1 s else s
      bump 0xA10200 32 1 (deliverReceipt q s))

/-- RECEIPT_CHECKPOINT: every 10 minutes an account's SEQ and last hash are written to boot NOR (R443). -/
def execReceiptCheckpoint (t account : Nat) (s : State) : Res :=
  let s := tick t s
  .next (match look s.pho.accounts account with
    | some a =>
      if ¬ live s ∨ ¬ spaced a.checkAt (msCc 600000) s.now then s
      else
        let s := checkpoint account a.issued s
        { s with pho := { s.pho with accounts := tput s.pho.accounts account { a with checkAt := some s.now } } }
    | none => s)

end Sys2Proof.Machine
end

