-- ==== Sys2Proof/Machine/Update.lean ====
section
/-! DEFINITION. Staging and activating firmware images, by command and over the management segment (spec/20 R482 to R488;
spec/15 R407, R408). -/

namespace Sys2Proof.Machine

/-- A fresh session: idle, the active image in copy A (R483, R489). -/
def freshSession : Session :=
  { state := 0, bytes := 0, aCurrent := true, targets := 0, done := 0, img := none, cmd := none, commit := false,
    mgt := none, writing := 0, pendBytes := 0 }

def sessionOf (s : State) (type : Nat) : Session := tget s.fw type freshSession

def modSession (type : Nat) (f : Session → Session) (s : State) : State :=
  { s with fw := tput s.fw type (f (sessionOf s type)) }

/-- Who asked for a step of a session: a command, or a management datagram by its SEQ and image ID. -/
inductive Asker where
  | cmd (c : Nat)
  | mgt (op seq image : Nat)
deriving DecidableEq, Repr

/-- Answer an asker: a command's reply, or a datagram with the session's length (R485). -/
def answer (who : Asker) (type status reason echo : Nat) (s : State) : State :=
  match who with
  | .cmd c => if status = 0x17 then refuseWith c reason s else if status = 0 then done c echo s else fail c status s
  | .mgt op seq image => queueMgt 4 (.fwReply (op + 0x80) seq image status (sessionOf s type).bytes) s

/-- The asker that a session remembers. -/
def askerOf (x : Session) : Option Asker :=
  match x.cmd, x.mgt with
  | some c, _ => some (.cmd c)
  | none, some (op, seq, image) => some (.mgt op seq image)
  | none, none => none

/-- Remember an asker. -/
def keepAsker (who : Asker) (x : Session) : Session :=
  match who with
  | .cmd c => { x with cmd := some c, mgt := none }
  | .mgt op seq image => { x with cmd := none, mgt := some (op, seq, image) }

/-- TYPE of an image ID, and its reserved bits (R482). -/
def imageType (id : Nat) : Nat := id % 16
def imageRsv (id : Nat) : Bool := bits id 4 4 ≠ 0 || bits id 9 7 ≠ 0 || bits id 40 24 ≠ 0

/-- Stage image bytes at an offset (R483). A write still in progress when a new session begins is answered with the reason
of R483, since its session has ended. -/
def stage (who : Asker) (id off n : Nat) (s : State) : State :=
  let type := imageType id
  if type = 0 ∨ 4 < type then answer who type 0x14 0 0 s
  else if imageRsv id then answer who type 0x11 0 0 s
  else
    let x := sessionOf s type
    if x.state = 2 then answer who type 0x15 0 0 s
    else if off ≠ 0 ∧ (off ≠ x.bytes ∨ x.writing ≠ 0) then answer who type 0x17 0x1E 0 s
    else
      let s := if off = 0 ∧ x.writing = 1 then
          match askerOf x with | some w => answer w type 0x17 0x1E 0 s | none => s
        else s
      let s := if off = 0 then { s with alm := { s.alm with images := tdel s.alm.images (type * 2 + 1) } } else s
      modSession type (fun x => keepAsker who { x with
        state := 1, bytes := if off = 0 then 0 else x.bytes, writing := 1, pendBytes := n }) s

/-- MIN_SVN of a type as the current field part holds it. -/
def minSvn (s : State) (type : Nat) : Nat := tget s.alm.field.minSvn type 0

/-- An image is accepted (R407). -/
def accepted (s : State) (type : Nat) (i : Image) : Bool :=
  i.type = type && (match i.keySlot with | some k => k < 4 && !(s.alm.revoked.contains k) | none => false) &&
  i.sigOk && i.hashOk && decide (minSvn s type ≤ i.svn)

/-- The targets of an activation after the clamp of R385: populated stacks for type 3, populated ports for type 4. -/
def targetMask (s : State) (type id : Nat) : Nat :=
  let pop := if type = 3 then stackMask s else if type = 4 then 2 ^ nPorts s - 1 else 1
  let m := if type = 3 ∨ type = 4 then bits id 16 24 &&& pop else 1
  if m = 0 then pop else m

/-- The rewrite of copy A from copy B begins: until it is complete, copy A does not verify (R484). -/
def eraseA (type : Nat) (s : State) : State := { s with alm := { s.alm with images := tdel s.alm.images (type * 2) } }

/-- Every target has changed over: the request is answered and copy A is rewritten from copy B (R484). -/
def activated (type : Nat) (s : State) : State :=
  let x := sessionOf s type
  let s := match askerOf x with | some w => answer w type 0 0 0 s | none => s
  let s := eraseA type s
  modSession type (fun x => { x with cmd := none, mgt := none, writing := 2 }) s

/-- A target has changed over. -/
def changedOver (type : Nat) (bit digest : Nat) (s : State) : State :=
  let s := modSession type (fun x => { x with
    targets := if bitOf x.targets bit then x.targets - 2 ^ bit else x.targets
    done := if bitOf x.done bit then x.done else x.done + 2 ^ bit }) s
  let s := { s with boot := { s.boot with digests := tput s.boot.digests type digest } }
  if (sessionOf s type).targets = 0 then activated type s else s

/-- Activate the image in copy B (R484). A security-processor image changes nothing in service; the command processor
changes over at a meridian; stacks and ports each by themselves. -/
def activate (who : Asker) (id : Nat) (img : Image) (s : State) : State :=
  let type := imageType id
  if type = 0 ∨ 4 < type then answer who type 0x14 0 0 s
  else if imageRsv id then answer who type 0x11 0 0 s
  else
    let x := sessionOf s type
    if x.state = 2 then answer who type 0x15 0 0 s
    else if x.state = 0 ∨ x.writing ≠ 0 ∨ x.bytes < 256 + img.bodyLen then answer who type 0x17 0x1E 0 s
    else if ¬ accepted s type img then answer who type 0x1A 0 0 s
    else
      let s := { s with alm := { s.alm with images := tput s.alm.images (type * 2 + 1) img } }
      let s := modSession type (fun x => keepAsker who { x with
        state := 2, aCurrent := false, targets := targetMask s type id, done := 0, img := some img, commit := bitOf id 8 }) s
      match type with
      | 1 => activated 1 (modSession 1 (fun x => { x with targets := 0, done := 1 }) s)
      | 2 => { s with boot := { s.boot with cpPending := true } }
      | _ => s

/-- FW_STAGE (R483). -/
def execFwStage (t cmd : Nat) (data : List Byte) (s : State) : Res :=
  let s := tick t s
  .next (runCmd cmd 0x0C01 (fun x s =>
    if blockOk s x then stage (.cmd cmd) x.hdr.p0 x.hdr.p1 (clampNat 1 (2 ^ 20) data.length) s else fail cmd 0x18 s) s)

/-- FW_ACTIVATE (R484). `img` states what the bytes of copy B are. -/
def execFwActivate (t cmd : Nat) (img : Image) (s : State) : Res :=
  let s := tick t s
  .next (runCmd cmd 0x0C02 (fun x s => activate (.cmd cmd) x.hdr.p0 img s) s)

/-- The types that recovery accepts: the missing image's (R481). -/
def recovery (s : State) (type : Nat) : Bool :=
  s.pwr.phase = 5 && ((s.boot.cause = some 0x83 && type = 1) || (s.boot.cause = some 0x85 && type = 2))

/-- The management segment may deliver images: CMD_FW_CTRL.MGT = 1 on a running module, or recovery (R481, R485). -/
def mgtOpen (s : State) (type : Nat) : Bool := (ready s && cfg s 0x23000 0 1 = 1) || recovery s type

/-- A datagram of the firmware port arrives: one in error is counted and discarded, a good one counted (R334); those of other
modules and states are not handled (R481, R485). -/
def mgtReceive (h : MgtHead) (type : Nat) (f : State → State) (s : State) : State :=
  if s.pwr.phase ≠ 2 ∧ s.pwr.phase ≠ 5 then s
  else if h.bad then bump 0x71A050 32 1 s
  else
    let s := bump 0x71A044 32 1 s
    if mgtOpen s type then f s else s

/-- MGT_FW_STAGE: handled as FW_STAGE; the reply comes once the data is written (R485). -/
def execMgtFwStage (t : Nat) (h : MgtHead) (image offset : Nat) (data : List Byte) (s : State) : Res :=
  let s := tick t s
  .next (mgtReceive h (imageType image) (fun s =>
    if data.length = 0 ∨ 1024 < data.length then s else stage (.mgt 1 h.seq image) image offset data.length s) s)

/-- MGT_FW_ACTIVATE: handled as FW_ACTIVATE; in recovery an accepted image restarts bring-up at stage Boot ROM (R481,
R485). -/
def execMgtFwActivate (t : Nat) (h : MgtHead) (image : Nat) (img : Image) (s : State) : Res :=
  let s := tick t s
  let type := imageType image
  .next (mgtReceive h type (fun s =>
      let seq := h.seq
      if recovery s type then
        let x := sessionOf s type
        if x.state = 0 ∨ x.writing ≠ 0 ∨ x.bytes < 256 + img.bodyLen then answer (.mgt 2 seq image) type 0x17 0x1E 0 s
        else if ¬ accepted s type img then answer (.mgt 2 seq image) type 0x1A 0 0 s
        else
          let s := { s with alm := { s.alm with images := tput s.alm.images (type * 2 + 1) img } }
          let s := modSession type (fun x => { x with state := 2, img := some img, writing := 2, aCurrent := false, commit := bitOf image 8 }) s
          let s := eraseA type (answer (.mgt 2 seq image) type 0 0 0 s)
          { s with
            pwr := { s.pwr with phase := 2, faultN := false }
            boot := { s.boot with stage := 2, cause := none, restarts := satAdd 4 s.boot.restarts 1 } }
      else activate (.mgt 2 seq image) image img s) s)

/-- MGT_FW_QUERY: the reply carries the bytes staged so far (R485). -/
def execMgtFwQuery (t : Nat) (h : MgtHead) (image : Nat) (s : State) : Res :=
  let s := tick t s
  let type := imageType image
  .next (mgtReceive h type (answer (.mgt 3 h.seq image) type (if type = 0 ∨ 4 < type then 0x14 else 0) 0 0) s)

/-- IMAGE_WRITE_COMPLETE: staged bytes are written and their request answered, or copy A has been rewritten, after which
MIN_SVN goes into the next field part where COMMIT_SVN asked for it; a write of a field part goes first (R483, R484). -/
def execImageWriteComplete (t type : Nat) (s : State) : Res :=
  let s := tick t s
  .next (
    let x := sessionOf s type
    if s.pwr.phase ≠ 2 ∧ s.pwr.phase ≠ 5 then s
    else if s.boot.writing.isSome then s
    else if x.writing = 1 then
      let s := modSession type (fun x => { x with bytes := x.bytes + x.pendBytes, writing := 0, cmd := none, mgt := none }) s
      match askerOf x with
      | some w => answer w type 0 0 x.pendBytes s
      | none => s
    else if x.writing = 2 then
      let s := match x.img with
        | some i => { s with alm := { s.alm with images := tput s.alm.images (type * 2) i } }
        | none => s
      let s := modSession type (fun _ => freshSession) s
      match x.commit, x.img with
      | true, some i => startField (changeField (fun f => { f with minSvn := tput f.minSvn type (max i.svn (tget f.minSvn type 0)) }) s)
      | _, _ => s
    else s)

/-! ### Changeovers at a meridian (R486 to R488) -/

/-- CP_CHANGEOVER: no command is in execution but the FW_ACTIVATE and those that have replied STARTED (R486). -/
def cpChangeover (s : State) : State :=
  if s.boot.cpPending ∧ s.cmds.all (fun c => c.2.started || !c.2.begun || c.2.hdr.opcode = 0x0C02) then
    let d := ((sessionOf s 2).img.map (·.digest)).getD 0
    irqSet 0x20384 1 (changedOver 2 0 d { s with boot := { s.boot with cpPending := false } })
  else s

/-- A stack engine has nothing scheduled, no roll-forward and no slice (R487). -/
def engineIdle (s : State) (k : Nat) : Bool :=
  (stackOf s k).streams.isEmpty && !(s.upds.any (fun u => u.2.stack = k && (u.2.status = 1 || rollingUpd u.2))) &&
  !s.jobs.any (fun e => (imageOf s e.2).any (fun p => e.2.busy.any (fun b => (p.se[b.1]?).any (fun x => x.stack = k)))) &&
  !blockHeld s .stack k && !(s.boot.slices.any (fun x => x.at_.isSome && sliceKind x.slice == some .stack && x.inst % 256 = k))

/-- SE_MICROCODE_SWITCH: the stacks among the targets that are idle now switch (R487). -/
def microSwitch (s : State) : State :=
  let x := sessionOf s 3
  match x.state, x.img with
  | 2, some i =>
    ((List.range 12).filter (fun k => bitOf x.targets k && engineIdle s k)).foldl (fun s k =>
      changedOver 3 k i.digest (modStack k (fun st => { st with micro := i.digest }) s)) s
  | _, _ => s

/-- PORT_FW_CHANGEOVER: the ports among the targets that no running job's plan holds slots on leave the spraying set, load
the firmware and retrain (R488). -/
def portSwitch (s : State) : State :=
  let x := sessionOf s 4
  match x.state, x.img with
  | 2, some i =>
    ((List.range 24).filter (fun p => bitOf x.targets p && !blockBusy s .port (4 * p))).foldl
      (fun s p =>
        let s := (List.range 4).foldl (fun s c =>
          modPort (4 * p + c) (fun q => { q with serdes := i.digest, reload := true }) (dropLink (4 * p + c) s)) s
        changedOver 4 p i.digest s) s
  | _, _ => s

end Sys2Proof.Machine
end

