-- ==== Sys2Proof/Machine/Bringup.lean ====
section
/-! DEFINITION. The stages of bring-up and what stops it (spec/20 R476 to R481; spec/19 R463 to R471; spec/08 R213;
spec/06 R157, R159; spec/17 R444). Each command is the end of a stage's work. -/

namespace Sys2Proof.Machine

/-- A stage of bring-up is in progress. -/
def atStage (s : State) (n : Nat) : Bool := live s && s.boot.stage = n

/-- The next stage. -/
def toStage (n : Nat) (s : State) : State := { s with boot := { s.boot with stage := n } }

/-- Bring-up stops with a cause: FAULT_N asserts, links stay down, and a beacon is due every second (R480). -/
def stopBringup (cause : Nat) (s : State) : State :=
  { s with
    pwr := { s.pwr with phase := 5, faultN := true, stopAt := s.now }
    boot := { s.boot with cause := some cause }
    pcie := { s.pcie with up := false } }

/-- BRINGUP_RAILS: every rail is good, or bring-up stops (R476, R480). -/
def execBringupRails (t : Nat) (good : Bool) (s : State) : Res :=
  let s := tick t s
  .next (if ¬ atStage s 1 then s else if good then toStage 2 s else stopBringup 0x81 s)

/-- The copy of an image type that the ROM takes: A before B (R407). -/
def chosenCopy (s : State) (type : Nat) : Option (Nat × Image) :=
  let ok := fun (c : Nat) => match look s.alm.images (type * 2 + c) with
    | some i => if accepted s type i then some (c, i) else none
    | none => none
  match ok 0 with | some x => some x | none => ok 1

/-- An image is in use: its copy and its measurement (R408, R413). -/
def useImage (type : Nat) (x : Nat × Image) (s : State) : State :=
  { s with boot := { s.boot with
      copyB := setBits s.boot.copyB (type - 1) 1 x.1
      digests := tput s.boot.digests type x.2.digest } }

/-- BRINGUP_BOOT_ROM: the secure element answers and the security processor's image verifies (R407, R476, R480). -/
def execBringupBootRom (t : Nat) (seOk : Bool) (s : State) : Res :=
  let s := tick t s
  .next (
    if ¬ atStage s 2 then s
    else if ¬ seOk then stopBringup 0x82 s
    else
      let s := { s with boot := { s.boot with seOk := true } }
      match chosenCopy s 1 with
      | some x => toStage 3 (useImage 1 x s)
      | none => stopBringup 0x83 s)


/-- A core as bring-up builds it: enabled and retired cores, its logical index and its spares in service from the maps of a field
part (R8, R111, R470, R500). Without a field part the factory's map numbers the cores in ascending physical order (DESIGN CHOICE,
log 4: R8 states no order). -/
def builtCore (f : FieldPart) (c : Nat) : CoreSt :=
  { coreOf State.reset c with
    enabled := bitOf f.cores c, retired := bitOf f.retired c
    logical := tget f.logical c 0
    spareRows := sparesServing f 1 c, spareCols := sparesServing f 2 c }

/-- A stack as bring-up builds it (R470). -/
def builtStack (f : FieldPart) (k : Nat) : StackSt :=
  { emptyStack with laneSpares := sparesServing f 4 k, chSpare := sparesServing f 6 k = 1, rowRepairs := sparesServing f 5 k }

/-- BRINGUP_ALMANAC: the factory part verifies, the field part is chosen or SEC_ALM_FIELD raised, the maps load, and the
incarnation is drawn (R339, R409, R410, R476). Without a field part the enabled cores are the factory part's (R8). -/
def execBringupAlmanac (t : Nat) (factoryOk fieldOk : Bool) (s : State) : Res :=
  let s := tick t s
  .next (
    if ¬ atStage s 3 then s
    else if ¬ factoryOk then stopBringup 0x84 s
    else
      let used := fieldOk && s.alm.field.seq ≠ 0
      let f := if used then s.alm.field else FieldPart.built s.alm.cores
      let (w, s) := drawRandom s
      let s := { s with
        boot := { s.boot with field := f, fieldOk := used, incarnation := w.toNat % 2 ^ 32 }
        cores := (List.range 36).foldl (fun m c => tput m c (builtCore f c)) []
        stks := ((List.range 12).filter (hasStack s)).foldl (fun m k => tput m k (builtStack f k)) [] }
      toStage 4 (if used then s else raise { src := 0x1E0 } s))

/-- BRINGUP_IMAGES: the command processor's image must verify; stacks without valid microcode and ports without valid
firmware are unusable until a bring-up loads a valid image (R407, R408, R476, R480). -/
def execBringupImages (t : Nat) (s : State) : Res :=
  let s := tick t s
  .next (
    if ¬ atStage s 4 then s
    else match chosenCopy s 2 with
      | none => stopBringup 0x85 s
      | some x =>
        let s := useImage 2 x s
        let s := match chosenCopy s 3 with
          | some x => { useImage 3 x s with stks := tmap s.stks (fun _ k => { k with micro := x.2.digest }) }
          | none => { s with stks := tmap s.stks (fun _ k => { k with unusable := true }) }
        let codes := List.range (4 * nPorts s)
        let s := match chosenCopy s 4 with
          | some x => codes.foldl (fun s c => modPort c (fun p => { p with serdes := x.2.digest }) s) (useImage 4 x s)
          | none => codes.foldl (fun s c => modPort c (fun p => { p with failed := true }) s) s
        toStage 5 s)

/-- A failed power-on slice stops bring-up: mesh and die-to-die bridge, core PLL, PCI Express PHY (R469, R480). Sub-unit 0
of CLOCK names the PLL, any other the PTP oscillator (DESIGN CHOICE, log 18). -/
def postStops (slice sub : Nat) : Bool := slice = 0x08 || slice = 0x21 || (slice = 0x48 && sub = 0)

/-- A spare that fails at power-on is retired without entering service (R468); `sub` is its physical index. -/
def spareFailed (cat u sub : Nat) (s : State) : Option State :=
  if cat = 0 then
    if (coreOf s u).enabled ∨ (look s.cores u).isNone then none
    else some (changeField (fun f => { f with retired := if bitOf f.retired u then f.retired else f.retired + 2 ^ u })
      (modCore u (fun c => { c with retired := true }) s))
  else if cat ∈ [1, 2, 3, 4] ∧ (freeSpares s cat u).contains sub then some (useSpare cat u sub s)
  else none

/-- One failure found at power-on: recorded with class C3 and no quarantine, the block repaired at once or unusable; the entry of
what took its place enters at the first meridian (R458, R467 to R471). -/
def postFailure (slice u sub : Nat) (s : State) : State :=
  let e := sliceEv slice u sub
  if blockRetired s slice u then s else
  let (_, p, s) := judge e.src s
  let n := makeEntry e 3 p none 0 s
  let seq := entrySeq n s
  let s := irqSet 0xB10184 2 (bump 0xB10204 32 1 (record n s))
  let cat := if slice = 0x11 ∧ sub = 0xFFF then 5 else e.cat.getD (spareCat e.src e.unit)
  let r : Repair := { src := e.src, inst := inst e, cat, want := 0xFF, seq, at_ := s.now, cmd := none }
  let later := fun (p : Nat) (s : State) => { s with flt := { s.flt with repairs := s.flt.repairs ++ [{ r with got := some p }] } }
  let stop := fun (s : State) => { s with flt := { s.flt with blocks := s.flt.blocks ++ [blockKey e] } }
  if slice = 0x20 then later 0xFFFF (degradePort (u % 256) sub s)
  else if slice = 0x10 ∧ sub = 0xFFF then later 0xFFFF (stackLost (u % 256) s)
  else if slice = 0x22 then later 0xFFFF (stop { s with vault := { s.vault with readOnly := true } })
  else if cat = 15 then later 0xFFFF (stop s)
  else match spareFailed cat (u % 256) (if slice = 0x03 ∧ 512 ≤ sub then sub - 512 else sub) s with
    | some s => s
    | none => let (p, s) := bringSpare r s; later p s

/-- The failures that the results of the power-on slices show: (slice, unit, sub-unit). -/
def postFails (s : State) (results : List (Nat × Nat × SliceRes)) : List (Nat × Nat × Nat) :=
  (results.map (fun x => (sliceFails s x.1 x.2.1 x.2.2).map (fun k => (x.1, x.2.1, k)))).flatten

/-- BRINGUP_SELF_TEST: the power-on slices have run, with the results of (slice, instance); one that is not listed has passed
(R464, R467 to R469, R476, R479). The meter is good unless its own slice failed (R435). -/
def execBringupSelfTest (t : Nat) (results : List (Nat × Nat × SliceRes)) (s : State) : Res :=
  let s := tick t s
  .next (
    if ¬ atStage s 5 then s
    else
      let failed := postFails s results
      let s := failed.foldl (fun s x => postFailure x.1 x.2.1 x.2.2 s) (bump 0xB10200 32 results.length s)
      let meterOk := !failed.any (fun x => x.1 = 0x40 && x.2.2 = 0)
      let s := { s with
        pho := { s.pho with meterOk }
        boot := { s.boot with postDone := true, postClean := failed.isEmpty } }
      if failed.any (fun x => postStops x.1 x.2.2) then stopBringup 0x86 s
      else toStage 6 (startField s))

/-- BRINGUP_FILL: HBM, staging SRAM and core stores are zero, and the vault marks every superblock for erasure (R213, R269,
R270, R476). -/
def execBringupFill (t : Nat) (s : State) : Res :=
  let s := tick t s
  .next (
    if ¬ atStage s 6 then s
    else
      let total := superblocks s
      let fill := s.stks.filter (fun k => !k.2.unusable)
      let s := fill.foldl (fun s k => irqSet (0x400184 + 0x10000 * k.1) 1 s) s
      toStage 7 { s with
        hbm := [], recs := [], store := [], badStore := []
        stks := tmap s.stks (fun _ k => if k.unusable then k else { k with ready := true, passAt := s.now })
        flash := []
        vault := { Vault.reset with
          readOnly := s.vault.readOnly, spare := ceilDiv (total * 9) 100 - s.alm.dead.length } })

/-- Load a free-running seed into a core, or raise RNG_SEED against it (R157). The load of bring-up counts in RESEEDS (DESIGN
CHOICE, log 27: R161 says 'since bring-up'). -/
def seedCore (ok : Bool) (core : Nat) (s : State) : State :=
  if ok then
    let (w, s) := drawRandom s
    modCore core (fun c => { c with seed := w, seeded := true }) (bump (0x105000 + 0x10000 * core) 16 1 s)
  else raise { src := 0x04A, unit := core } s

/-- The same for a stack engine (R159). -/
def seedStack (ok : Bool) (k : Nat) (s : State) : State :=
  if ok then
    let (w, s) := drawRandom s
    modStack k (fun st => { st with seed := w }) s
  else raise { src := 0x04A, unit := k, kind := some .stack, cat := some 15 } s

/-- The account that a checkpoint resumes (R444). -/
def resumed (c : Nat × Nat) : Account :=
  { seq := (c.1 / 65536 + 1) * 65536, issued := c.1, prev := c.2, restart := true }

/-- BRINGUP_RELEASE: contexts INACTIVE, seeds loaded, receipt chains resumed, and meridians are placed from the free-running
timebase (R157, R159, R444, R476, R477). -/
def execBringupRelease (t : Nat) (rngOk : Bool) (s : State) : Res :=
  let s := tick t s
  .next (
    if ¬ atStage s 7 ∨ s.mer.placing then s
    else
      let cores := (s.cores.filter (fun c => c.2.enabled)).map (·.1)
      let stks := s.stks.map (·.1)
      let s := { s with
        threads := [], sregs := [], vregs := []
        boot := { s.boot with rngOk }
        pho := { s.pho with accounts := s.alm.checks.map (fun c => (c.1, resumed c.2)), lastNs := ptpNs s, mark := s.pho.energy }
        mer := { s.mer with placing := true, at_ := s.now } }
      let s := placeNext s
      stks.foldl (fun s k => seedStack rngOk k s) (cores.foldl (fun s c => seedCore rngOk c s) s))

/-- BRINGUP_READY: configuration requests are answered and ports send finder frames; the time taken is kept (R476). -/
def execBringupReady (t : Nat) (s : State) : Res :=
  let s := tick t s
  .next (
    if ¬ atStage s 7 ∨ ¬ s.mer.placing then s
    else { s with boot := { s.boot with stage := 0xFF, bringupMs := min 65535 ((s.now - s.boot.startAt) / msCc 1) } })

/-- BRINGUP_STOP_BEACON: every second after a stop the cause and the stage leave on the management segment (R480). -/
def execBringupStopBeacon (t : Nat) (s : State) : Res :=
  let s := tick t s
  .next (match s.boot.cause with
    | some c =>
      if s.pwr.phase ≠ 5 ∨ s.now < s.pwr.stopAt + msCc 1000 then s
      else queueMgt 1 (.stopBeacon (c + s.boot.stage * 256)) { s with pwr := { s.pwr with stopAt := s.now } }
    | none => s)

end Sys2Proof.Machine
end

