-- ==== Sys2Proof/Machine/Vector.lean ====
section
/-! DEFINITION. V-format instructions (spec/06 R144 to R159; spec/05 R124, R128). -/

namespace Sys2Proof.Machine

/-! ### One lane -/

def l16 (c : Nat) : W32 := BitVec.ofNat 32 (c % 2 ^ 16)
def nan16 : W32 := 0x8000#32

/-- The L16 code of a lane. -/
def code16 (a : W32) : Nat := a.toNat % 2 ^ 16

/-- A lane is a NaN of FMT. -/
def laneNan (fmt : Nat) (a : W32) : Bool := if fmt = 2 then isNan16 (code16 a) else if fmt = 3 then isNanX a else false

/-- The NaN of FMT. -/
def nanOf (fmt : Nat) : W32 := if fmt = 2 then nan16 else x32Nan

/-- The order of a lane's value in FMT. -/
def laneOrd (fmt : Nat) (a : W32) : Int :=
  if fmt = 2 then key16 (code16 a) else if fmt = 3 then keyX a else a.toInt

/-- A lane is a zero of FMT. -/
def laneZero (fmt : Nat) (a : W32) : Bool := laneOrd fmt a == 0 && !laneNan fmt a

/-- A lane written in the module's forms (R149). -/
def formOf (fmt : Nat) (a : W32) : W32 := if fmt = 2 then l16 (code16 a) else if fmt = 3 then canonX a else a

def laneAdd (fmt : Nat) (a b : W32) : W32 :=
  if fmt = 2 then l16 (add16 (code16 a) (code16 b)) else if fmt = 3 then addX a b else a + b
def laneSub (fmt : Nat) (a b : W32) : W32 :=
  if fmt = 2 then l16 (add16 (code16 a) (neg16 (code16 b))) else if fmt = 3 then subX a b else a - b
def laneMul (fmt : Nat) (a b : W32) : W32 :=
  if fmt = 2 then l16 (mul16 (code16 a) (code16 b)) else if fmt = 3 then mulX a b else a * b

/-- Maximum by value; equal values return the first, NaN gives NaN (R146). -/
def laneMax (fmt : Nat) (a b : W32) : W32 :=
  if laneNan fmt a || laneNan fmt b then nanOf fmt
  else formOf fmt (if laneOrd fmt a < laneOrd fmt b then b else a)

def laneMin (fmt : Nat) (a b : W32) : W32 :=
  if laneNan fmt a || laneNan fmt b then nanOf fmt
  else formOf fmt (if laneOrd fmt b < laneOrd fmt a then b else a)

def laneAbs (fmt : Nat) (a : W32) : W32 :=
  if laneNan fmt a then nanOf fmt
  else if fmt = 2 then l16 (code16 a % 2 ^ 15)
  else if fmt = 3 then canonX (a &&& 0x7FFFFFFF#32)
  else if a.slt 0 then -a else a

def laneNeg (fmt : Nat) (a : W32) : W32 :=
  if laneNan fmt a then nanOf fmt
  else if fmt = 2 then l16 (neg16 (code16 a))
  else if fmt = 3 then canonX (a ^^^ 0x80000000#32)
  else -a

/-- VC nonzero selects VA, else VB; any NaN gives NaN (R146). -/
def laneSel (fmt : Nat) (a b c : W32) : W32 :=
  if laneNan fmt a || laneNan fmt b || laneNan fmt c then nanOf fmt
  else formOf fmt (if laneZero fmt c then b else a)

/-- 1 in FMT. -/
def oneOf (fmt : Nat) : W32 := if fmt = 2 then 0x4000#32 else if fmt = 3 then 0x40000000#32 else 1#32

/-- A comparison's result in FMT (R146). -/
def laneCmp (p : Int → Int → Bool) (fmt : Nat) (a b : W32) : W32 :=
  if laneNan fmt a || laneNan fmt b then nanOf fmt
  else if p (laneOrd fmt a) (laneOrd fmt b) then oneOf fmt else 0

def laneExp2 (fmt : Nat) (a : W32) : W32 := if fmt = 2 then l16 (exp2L16 (code16 a)) else exp2X a
def laneLog2 (fmt : Nat) (a : W32) : W32 := if fmt = 2 then l16 (log2L16 (code16 a)) else log2X a
def laneRecip (fmt : Nat) (a : W32) : W32 := if fmt = 2 then l16 (recipL16 (code16 a)) else recipX a
def laneRsqrt (fmt : Nat) (a : W32) : W32 := if fmt = 2 then l16 (rsqrtL16 (code16 a)) else rsqrtX a

/-- VSCALE of one lane by k (R151). -/
def laneScale (fmt : Nat) (k : Int) (a : W32) : W32 :=
  if fmt ≤ 2 then
    let f := logFmt fmt
    BitVec.ofNat 32 (rnLog f false (shiftLog (512 * k) (logVal f 0 (a.toNat % 2 ^ f.width)))).code
  else if fmt = 3 then canonX (roundX32 (scaleVal k (x32Val a)))
  else if 0 ≤ k then (if 32 ≤ k then 0 else a <<< k.toNat)
  else a.sshiftRight (min k.natAbs 31)

/-- VCVT of one lane: its result and what the census sees (R152, R165, R166). Out of L4 the mode decides only whether an
overflow saturates (R81). -/
def laneCvt (fmt tfmt rm : Nat) (k : Int) (u : Nat) (a : W32) : W32 × Seen :=
  if fmt ≤ 2 then
    let f := logFmt fmt
    let v := logVal f (if fmt = 0 then k else 0) (a.toNat % 2 ^ f.width)
    if tfmt ≤ 2 then
      let g := logFmt tfmt
      let r := convLog g (if fmt = 0 then rm % 2 else rm) u (if tfmt = 0 then shiftLog (-(512 * k)) v else v)
      (BitVec.ofNat 32 r.code, seenLog g r.code r.sat (amaxLog v))
    else
      let w := linLog v
      (w, { seenX w with amax := amaxLog v })
  else if fmt = 3 then
    let v := x32Val a
    if tfmt ≤ 2 then
      let g := logFmt tfmt
      let r := convVal g rm u (if tfmt = 0 then scaleVal (-k) v else v)
      (BitVec.ofNat 32 r.code, seenLog g r.code r.sat (amaxVal v))
    else
      let i := xToInt 32 (rm == 1) a
      (BitVec.ofInt 32 i, { zero := i == 0, amax := amaxVal v })
  else
    let w := intToX a.toInt
    (w, { seenX w with amax := if a.toInt = 0 then none else some (ceilPos a.toInt.natAbs 0) })

/-- What the census sees of a result lane in FMT. -/
def seenLane (fmt : Nat) (a : W32) : Seen :=
  if fmt ≤ 2 then
    let f := logFmt fmt
    let c := a.toNat % 2 ^ f.width
    seenLog f c false (amaxLog (logVal f 0 c))
  else if fmt = 3 then seenX a else seenI a.toInt

/-! ### Draws (R154 to R159) -/

/-- The draws of all 256 lanes for one instruction of a thread, and the state with the draw counted (R156). The core's cc count
runs from the start of bring-up (DESIGN CHOICE, log 27: R156 says 'since bring-up'). -/
def draws (c : Ctx') (s : State) : List W32 × State :=
  let s := bump (0x100000 + 0x10000 * c.core + 0x5004) 32 1 s
  let lanes := List.range 256
  if bitOf c.job.block.flags 0 then
    match look s.threads c.k with
    | some th =>
      let n := (c.job.block.g0 + (c.job.segs - 1)) % 2 ^ 32 * 2 ^ 32 + th.draws % 2 ^ 32
      (lanes.map (fun l => mix (laneKey c.job.block.seed (256 * th.stream + l)) (BitVec.ofNat 64 n)),
       modThr c.k (fun th => { th with draws := (th.draws + 1) % 2 ^ 32 }) s)
    | none => ([], s)
  else
    let n := c.t - s.boot.startAt
    (lanes.map (fun l => mix (laneKey (coreOf s c.core).seed (256 * c.core + l)) (BitVec.ofNat 64 n)), s)

/-! ### The frame of a vector instruction -/

/-- A vector instruction: parity of every source first (R145); the result after its latency, and then the census under TAG
where TAGEN asks for it (R153). -/
def vector (op : Nat) (lat : Ctx' → Nat) (tagged : Bool) (f : Ctx' → State → List W32 × List Seen × State)
    (i : Issue) (s : State) : Res :=
  .next (issue 1 op i (fun c s =>
    if (needsV c.w).srcV.any (vecBad s c) then thrFault 0x049 c s else
    let (lanes, seen, s) := f c s
    let s := setVreg c.k (vVD c.w) lanes (c.t + lat c) s
    if tagged && vTAGEN c.w then { s with tallies := s.tallies ++ [(c.t + lat c, c.tenant, vTAG c.w, seen)] } else s) s)

/-- 6 cc, 8 in X32 (R145). -/
def latFmt (c : Ctx') : Nat := if vFMT c.w = 3 then 8 else 6

/-- Latency of VCVT by its pair (R145). -/
def latCvt (c : Ctx') : Nat :=
  if vFMT c.w ≤ 2 ∧ vTFMT c.w ≤ 2 then 6 else if vFMT c.w = 4 ∨ vTFMT c.w = 4 then 8 else 10

/-- A result whose lanes are counted as they stand. -/
def plainRes (c : Ctx') (lanes : List W32) (s : State) : List W32 × List Seen × State :=
  (lanes, if vTAGEN c.w then lanes.map (seenLane (vFMT c.w)) else [], s)

def srcA (c : Ctx') (s : State) : List W32 := vreg s c.k (vVA c.w)
def srcB (c : Ctx') (s : State) : List W32 := vreg s c.k (vVB c.w)
def srcC (c : Ctx') (s : State) : List W32 := vreg s c.k (vVC c.w)

/-- Lane by lane over one source. -/
def lane1 (g : Nat → W32 → W32) (c : Ctx') (s : State) : List W32 × List Seen × State :=
  plainRes c ((srcA c s).map (g (vFMT c.w))) s

/-- Lane by lane over two sources. -/
def lane2 (g : Nat → W32 → W32 → W32) (c : Ctx') (s : State) : List W32 × List Seen × State :=
  plainRes c (List.zipWith (g (vFMT c.w)) (srcA c s) (srcB c s)) s

/-- Lane by lane over three sources. -/
def lane3 (g : Nat → W32 → W32 → W32 → W32) (c : Ctx') (s : State) : List W32 × List Seen × State :=
  plainRes c (List.zipWith (fun ab x => g (vFMT c.w) ab.1 ab.2 x) (List.zip (srcA c s) (srcB c s)) (srcC c s)) s

/-- One level of the reduction tree (R150). -/
def redLevel (g : W32 → W32 → W32) : List W32 → List W32
  | a :: b :: r => g a b :: redLevel g r
  | l => l

/-- The eight levels of the reduction tree, its value in lane 0 (R150). -/
def reduce (g : W32 → W32 → W32) (l : List W32) : List W32 :=
  let r := (List.range 8).foldl (fun l _ => redLevel g l) l
  (r.head?.getD 0) :: List.replicate 255 0

/-- The k of SS[7:0], two's complement. -/
def ssK (c : Ctx') (s : State) : Int := sext 8 ((sreg s c.k (vSS c.w)).toNat % 256)

def execVadd (i : Issue) (s : State) : Res := vector 0x01 latFmt true (lane2 laneAdd) i s
def execVsub (i : Issue) (s : State) : Res := vector 0x02 latFmt true (lane2 laneSub) i s
def execVmul (i : Issue) (s : State) : Res := vector 0x03 latFmt true (lane2 laneMul) i s
def execVfma (i : Issue) (s : State) : Res := vector 0x04 latFmt true (lane3 (fun _ a b x => fmaX a b x)) i s
def execVmax (i : Issue) (s : State) : Res := vector 0x05 latFmt true (lane2 laneMax) i s
def execVmin (i : Issue) (s : State) : Res := vector 0x06 latFmt true (lane2 laneMin) i s
def execVabs (i : Issue) (s : State) : Res := vector 0x07 latFmt true (lane1 laneAbs) i s
def execVneg (i : Issue) (s : State) : Res := vector 0x08 latFmt true (lane1 laneNeg) i s

/-- VCVT from FMT to TFMT under RM; a stochastic one draws for every lane (R152, R155). -/
def execVcvt (i : Issue) (s : State) : Res :=
  vector 0x09 latCvt true (fun c s =>
    let k := ssK c s
    let (us, s) := if bitOf (vRM c.w) 1 then draws c s else (List.replicate 256 0, s)
    let rs := List.zipWith (fun a d => laneCvt (vFMT c.w) (vTFMT c.w) (vRM c.w) k (drawU d) a) (srcA c s) us
    (rs.map (·.1), rs.map (·.2), s)) i s

def execVscale (i : Issue) (s : State) : Res :=
  vector 0x0A latFmt true (fun c s => lane1 (fun fmt => laneScale fmt (ssK c s)) c s) i s

/-- Every lane of VD takes the low bits of SS (R146, R149). -/
def execVbcast (i : Issue) (s : State) : Res :=
  vector 0x0B latFmt true (fun c s =>
    plainRes c (List.replicate 256 (formOf (vFMT c.w) ((sreg s c.k (vSS c.w)).setWidth 32))) s) i s

/-- The register named by SS takes a lane of VA, zero-extended for L16 and X32, sign-extended for I32 (R146). -/
def execVextr (i : Issue) (s : State) : Res :=
  .next (issue 1 0x0C i (fun c s =>
    if vecBad s c (vVA c.w) then thrFault 0x049 c s else
    let a := ((srcA c s)[vLane c.w]?).getD 0
    let v := if vFMT c.w = 4 then a.signExtend 64 else if vFMT c.w = 2 then (l16 (code16 a)).setWidth 64 else a.setWidth 64
    setSreg c.k (vSS c.w) v (c.t + latFmt c) s) s)

def execVsel (i : Issue) (s : State) : Res := vector 0x0D latFmt true (lane3 laneSel) i s
def execVcmplt (i : Issue) (s : State) : Res :=
  vector 0x0E latFmt false (lane2 (laneCmp (fun a b => decide (a < b)))) i s
def execVcmpeq (i : Issue) (s : State) : Res :=
  vector 0x0F latFmt false (lane2 (laneCmp (fun a b => decide (a = b)))) i s

/-- Sum of all lanes in the fixed tree (R150). -/
def execVredsum (i : Issue) (s : State) : Res :=
  vector 0x10 latFmt true (fun c s => plainRes c (reduce (laneAdd (vFMT c.w)) (srcA c s)) s) i s

/-- Maximum of all lanes in the fixed tree (R150). -/
def execVredmax (i : Issue) (s : State) : Res :=
  vector 0x11 latFmt true (fun c s => plainRes c (reduce (laneMax (vFMT c.w)) (srcA c s)) s) i s

def execVexp2 (i : Issue) (s : State) : Res := vector 0x12 latFmt true (lane1 laneExp2) i s
def execVlog2 (i : Issue) (s : State) : Res := vector 0x13 latFmt true (lane1 laneLog2) i s
def execVrecip (i : Issue) (s : State) : Res := vector 0x14 latFmt true (lane1 laneRecip) i s
def execVrsqrt (i : Issue) (s : State) : Res := vector 0x15 latFmt true (lane1 laneRsqrt) i s

/-- Each lane takes one draw of its lane generator (R155). -/
def execVrand (i : Issue) (s : State) : Res :=
  vector 0x16 latFmt false (fun c s =>
    let (ds, s) := draws c s
    (ds, [], s)) i s

/-- VMOV copies VA, in the module's forms (R149). -/
def execVmov (i : Issue) (s : State) : Res := vector 0x17 latFmt true (lane1 formOf) i s

end Sys2Proof.Machine
end

