-- ==== Sys2Proof/Machine/Correlator.lean ====
section
/-! DEFINITION. The correlator (spec/11): reductions and gathers over a group, direct exchanges, permutes, the step verdict
and queue edges. -/

namespace Sys2Proof.Machine

/-! ### Reductions (R280 to R282) -/

/-- Elements of a chunk: first and count (R280); a gather's chunk is one member's whole operand (DEDUCED, log 15). -/
def chunkOf (c : Cor) (k : Nat) : Nat × Nat :=
  if c.e.op = 3 then (k * c.e.count, c.e.count)
  else
    let w := ceilDiv c.e.count c.n
    (k * w, min c.e.count ((k + 1) * w) - k * w)

/-- The format that partials travel in (R281). -/
def partFmt (e : CorEntry) : Nat := if e.red = 0 then (if e.inFmt = 4 then 4 else if e.part16 then 2 else 3) else e.inFmt

/-- Lanes of the input format as partials. -/
def toPart (e : CorEntry) (l : List W32) : List W32 :=
  if e.inFmt = partFmt e then l else l.map (fun a => (laneCvt e.inFmt (partFmt e) 0 0 0 a).1)

/-- ⊕, the partial first (R280, R281). -/
def corReduce (e : CorEntry) (a b : W32) : W32 :=
  let f := partFmt e
  if e.red = 0 then laneAdd f a b else if e.red = 1 then laneMax f a b else laneMin f a b

/-- The local values of elements as partials. -/
def ownPart (c : Cor) (lo n : Nat) (s : State) : List W32 :=
  toPart c.e ((unpackLanes c.e.inFmt (corSrc c (elemBytes c.e.inFmt lo) (elemBytes c.e.inFmt n) s)).take n)

/-- A converted result: X32 to L16 and the rest of R282; an L4 or L8 output is taken with k = 0 and no scales beside it (DESIGN
CHOICE, log 15), an I32 result becomes X32 alone (R77). -/
def toOut (e : CorEntry) (a : W32) : W32 × Seen :=
  let f := partFmt e
  if f = e.outFmt then (a, seenLane f a) else laneCvt f e.outFmt 0 0 0 a

/-- Lanes in a granule of a format. -/
def lanesPer (fmt : Nat) : Nat := if fmt = 0 then 8192 else if fmt = 1 then 4096 else if fmt = 2 then 2048 else 1024

/-- The format that results travel in, and the bytes of a chunk as partials and as a result. -/
def resFmt (e : CorEntry) : Nat := if e.op = 3 then e.inFmt else e.outFmt
def partBytes (c : Cor) (k : Nat) : Nat := elemBytes (partFmt c.e) (chunkOf c k).2
def outBytes (c : Cor) (k : Nat) : Nat := elemBytes (resFmt c.e) (chunkOf c k).2

/-- Where lanes of a chunk land: a REDUCE_SCATTER lands its own chunk alone. -/
def outAt (c : Cor) (k lane : Nat) (s : State) : Nat :=
  landAddr c (resFmt c.e) ((if c.e.op = 2 then 0 else (chunkOf c k).1) + lane) s

/-- A finished granule of this rank's chunk: converted once, landed and counted under TAG as it lands, and in an ALLREDUCE sent on
(R165, R282, R284). `later` on the paths from the pins. -/
def finalGran (c : Cor) (later : Bool) (g : Nat) (lanes : List W32) (s : State) (ecc : Ecc := .ok) : State :=
  let res := lanes.map (toOut c.e)
  let bs := packLanes c.e.outFmt (res.map (·.1))
  let seen := if c.e.tagEn then res.map (·.2) else []
  let va := outAt c c.rank (g * lanesPer c.e.outFmt) s
  let s := if later then corLandLater c va bs s seen ecc else corLand c va bs s seen ecc
  let s := putChunk c 9 c.rank g [] s
  if c.e.op = 1 ∧ 1 < c.n then corSend c ((c.rank + 1) % c.n) [granDraft c 3 c.rank g reduceCc bs] s else s

/-- The granules of the result whose partials are all held and that are not finished yet, among those that a partial granule
reaches. -/
def finalGrans (c : Cor) (k g : Nat) (s : State) (ecc : Ecc := .ok) : State :=
  let f := partFmt c.e
  let n := (chunkOf c k).2
  let per := lanesPer f
  let out := lanesPer c.e.outFmt
  ((List.range ((min n ((g + 1) * per) - 1) / out + 1)).filter (fun h => decide (g * per / out ≤ h))).foldl (fun s h =>
    match corRun s c.slot c.op with
    | none => s
    | some r =>
      let lo := h * out
      let hi := min n (lo + out)
      let gs := (List.range ((hi - 1) / per + 1)).filter (fun i => decide (lo / per ≤ i))
      let held := gs.map (fun i => look r.chunks (granKey 2 k i))
      if (look r.chunks (granKey 9 k h)).isSome ∨ ¬ held.all (·.isSome) then s
      else
        let lanes := unpackLanes f (held.map (·.getD [])).flatten
        finalGran c true h ((lanes.drop (lo - lo / per * per)).take (hi - lo)) s ecc) s

/-- One granule of a partial: reduced with the local values, and sent to the successor, or finished at the chunk's own rank
(R280, R284). -/
def takePartial (c : Cor) (k g : Nat) (bs : List Byte) (s : State) (ecc : Ecc := .ok) : State :=
  let f := partFmt c.e
  let per := lanesPer f
  let n := min per ((chunkOf c k).2 - g * per)
  let own := ownPart c ((chunkOf c k).1 + g * per) n s
  let res := packLanes f (List.zipWith (corReduce c.e) ((unpackLanes f bs).take n) own)
  let s := chargeJob c.slot (4 * n) s
  if k = c.rank then finalGrans c k g (putChunk c 2 k g res s) ecc
  else putChunk c 2 k g [] (corSend c ((c.rank + 1) % c.n) [granDraft c 2 k g reduceCc res] s)

/-- One granule of a gathered chunk: landed, and forwarded unless the successor is its origin (R284). -/
def takeGathered (c : Cor) (kind k g : Nat) (bs : List Byte) (s : State) (ecc : Ecc := .ok) : State :=
  let s := putChunk c kind k g [] (corLandLater c (outAt c k (g * lanesPer (resFmt c.e)) s) bs s [] ecc)
  let next := (c.rank + 1) % c.n
  if next = k then s else corSend c next [granDraft c kind k g forwardCc bs] s

/-- A granule of own values as the first partial of a chunk; its path takes what the source adds where those values stand (R285). -/
def partDraft (c : Cor) (k : Nat) (s : State) (g : Nat) : Draft :=
  let per := lanesPer (partFmt c.e)
  let lo := (chunkOf c k).1 + g * per
  let n := min per ((chunkOf c k).2 - g * per)
  let d : Draft := { opcode := 7, cor := some (c.hdr 1 k g), data := packLanes (partFmt c.e) (ownPart c lo n s) }
  { d with path := d.path + sourceCc s (placesOf s c.job.tenant (jobCores s c.slot) (c.e.src + elemBytes c.e.inFmt lo)
      (elemBytes c.e.inFmt n) false) }

/-- Begin a reduction: the first partial leaves (R284). -/
def beginReduce (c : Cor) (s : State) : State :=
  if c.n = 1 then
    let l := toPart c.e ((unpackLanes c.e.inFmt (corSrc c 0 (elemBytes c.e.inFmt c.e.count) s)).take c.e.count)
    let out := lanesPer c.e.outFmt
    (List.range (ceilDiv c.e.count out)).foldl (fun s g => finalGran c false g ((l.drop (g * out)).take out) s) s
  else
    let k := (c.rank + c.n - 1) % c.n
    corSend c ((c.rank + 1) % c.n) ((List.range (ceilDiv (chunkOf c k).2 (lanesPer (partFmt c.e)))).map (partDraft c k s)) s

/-- Begin a gather: the own chunk is copied and sent. -/
def beginGather (c : Cor) (s : State) : State :=
  let bs := corSrc c 0 (elemBytes c.e.inFmt c.e.count) s
  let s := corLand c (outAt c c.rank 0 s) bs s
  if c.n = 1 then s else corSend c ((c.rank + 1) % c.n) (granDrafts c 1 c.rank c.e.src bs s) s

/-- Bytes of a piece of an ALLTOALL: COUNT / n (R284). -/
def pieceBytes (c : Cor) : Nat := c.e.count / c.n

/-- Begin an ALLTOALL: a piece to every rank, the own one copied. -/
def beginAll (c : Cor) (s : State) : State :=
  let p := pieceBytes c
  let s := corLand c (landOff c (c.rank * p) s) (corSrc c (c.rank * p) p s) s
  ((List.range c.n).filter (· ≠ c.rank)).foldl (fun s k =>
    corSend c k (granDrafts c 1 c.rank (c.e.src + k * p) (corSrc c (k * p) p s) s) s) s

/-- Begin a RING_ROTATE: the block goes to the successor; in a group of one it is copied. -/
def beginRotate (c : Cor) (s : State) : State :=
  let bs := corSrc c 0 c.e.count s
  if c.n = 1 then corLand c c.e.dst bs s else corSend c ((c.rank + 1) % c.n) (granDrafts c 1 0 c.e.src bs s) s

/-- Begin a VERDICT: the frozen local verdict goes to every other rank in an express frame each; the verdict bit stands in
the sub-header's GRANULE (R288; log 16). -/
def beginVerdict (c : Cor) (s : State) : State :=
  let d := verdictDirty s c.job
  ((List.range c.n).filter (· ≠ c.rank)).foldl (fun s k => corSend c k (signDraft c 7 0 (if d then 1 else 0)) s) s

/-! ### Queue edges (R292 to R294) -/

/-- A QSEND of the edge that began before has granules to send: entries keep their order (R292). -/
def qBehind (s : State) (c : Cor) (num : Nat) : Bool :=
  match look s.jobs c.slot with
  | some j => j.cor.any (fun r => r.phase = 1 && decide (0 < r.held) && decide (r.num < num) &&
      ((imageOf s j).bind (fun p => p.cor[r.op]?)).any (fun e => e.op = 8 && e.queue = c.e.queue))
  | none => false

/-- QSEND sends granules while it holds credits, one each (R293). -/
def qPush : Nat → Cor → State → State
  | 0, _, s => s
  | fuel + 1, c, s =>
    match edgeOf s c.job c.e.queue, corRun s c.slot c.op with
    | some q, some r =>
      let x := edgeSt s c.slot c.e.queue q
      if r.held = 0 ∨ x.credits = 0 ∨ qBehind s c r.num then s else
      let g := ceilDiv c.e.count 4096 - r.held
      let n := min 4096 (c.e.count - 4096 * g)
      let d : Draft := { opcode := 7, cor := some (c.hdr 4 r.num g), data := corSrc c (4096 * g) n s }
      let w := sourceCc s (placesOf s c.job.tenant (jobCores s c.slot) (c.e.src + 4096 * g) n false)
      let s := modCor c.slot c.op (fun r => { r with held := r.held - 1 })
        (setEdge c.slot c.e.queue { x with credits := x.credits - 1, sentTotal := x.sentTotal + 1 } s)
      qPush fuel c (corSend c q.down [{ d with path := d.path + w }] s)
    | _, _ => s

/-- ARRIVE of an edge gains 1 once an entry has landed whole (R285, R292). -/
def arriveLater (c : Cor) (q : QEdge) (entry : Nat) (s : State) : State :=
  let due := (edgeSt s c.slot c.e.queue q).lands.foldl (fun m l => if l.1 = entry then max m l.2.2 else m) s.now
  match absObj s c.job q.arrive with
  | none => s
  | some o =>
    if due = s.now then signalAdd o 1 200 s
    else { s with signals := s.signals ++ [{ at_ := due, slot := c.slot, obj := o, src := 200, act := .add }] }

/-- A granule goes into the HBM ring, in which it has landed 1,560 cc after its last bit at the pin, after a twilight slot (R43, R285,
R292). -/
def putRing (c : Cor) (q : QEdge) (entry g : Nat) (bs : List Byte) (s : State) : State :=
  let x := edgeSt s c.slot c.e.queue q
  let va := q.ringVa + 4096 * (x.ringPut % max 1 (q.ringBytes / 4096))
  let due := placesFree s (placesOf s c.job.tenant [] va (max 1 bs.length) true) (s.now + 1160)
  let s := setEdge c.slot c.e.queue { x with
    ring := x.ring ++ [(entry, g, bs)], ringPut := x.ringPut + 1, lands := x.lands ++ [(entry, g, due)] } s
  { writeVa noFar c.job.tenant [] va bs s with
    signals := s.signals ++ [{ at_ := due, slot := c.slot, obj := c.op, src := 200, act := .wake c.e.queue }] }

/-- A queue granule arrives: into the burst queue while it has room, else into the HBM ring; with both full it is
discarded with COR_Q_OVERRUN. A whole entry adds 1 to ARRIVE (R292, R294). -/
def takeQueue (c : Cor) (entry g : Nat) (bs : List Byte) (s : State) : State :=
  match edgeOf s c.job c.e.queue with
  | none => s
  | some q =>
    let x := edgeSt s c.slot c.e.queue q
    let size := q.ringBytes / 4096
    if (x.burst ++ x.ring).any (fun y => y.1 = entry && y.2.1 = g) then s
    else if 64 ≤ x.burst.length ∧ size ≤ x.ring.length then
      raiseJob 0x0E2 c.slot (irqSet 0x600384 1 (bump (rkey 0x60011E c.slot) 16 1 s)) c.e.queue
    else
      let s := if x.burst.length < 64 then setEdge c.slot c.e.queue { x with burst := x.burst ++ [(entry, g, bs)] } s
        else putRing c q entry g bs s
      let x := edgeSt s c.slot c.e.queue q
      let k := rkey 0x600214 (edgeKey c.slot c.e.queue)
      let s := setCtr k (max (ctrOf s k) (x.burst.length + x.ring.length)) s
      let s := if ((x.burst ++ x.ring).filter (fun y => y.1 = entry)).length = ceilDiv c.e.count 4096 then
          arriveLater c q entry s else s
      wakeQueue c.slot c.e.queue s

/-! ### Permutes (R289 to R291) -/

/-- COR_PERM_TABLE against the job. -/
def permBad (slot : Nat) (s : State) : State := raiseJob 0x0E3 slot (irqSet 0x600384 4 s)

/-- Begin a PERMUTE: its table is checked, the log of an interrupted run is resumed, with its staging blocks, and its cycles start; a
cycle whose record a later cycle has taken is over (R289 to R291; log 16). -/
def beginPermute (c : Cor) (s : State) : State :=
  let p := permOf c s
  if ¬ p.ok then permBad c.slot s else
  let s := (ownCycles c p).foldl (fun s l =>
    let rec_ := octets (readBlock c (logVa c p l) 16 s)
    let w := (rec_[0]?).getD 0
    let there := (rec_[1]?).getD 0 = p.digest ∧ p.digest ≠ 0
    if there ∧ w % 2 ^ 32 = l then modCor c.slot c.op (fun r => { r with cyc := tput r.cyc l (w / 2 ^ 32 + 1) }) s
    else if there ∧ cycleIdx c p l < cycleIdx c p (w % 2 ^ 32) ∧ w % 2 ^ 32 ∈ ownCycles c p then
      modCor c.slot c.op (fun r => { r with cyc := tput r.cyc l ((cycleOf p l).length + 1) }) s
    else s) s
  let s := { s with staged := s.staged.filter (fun y => !(y.1 = c.job.tenant && decide (c.e.dst ≤ y.2.2.1) &&
      decide (y.2.2.1 < c.e.dst + 16 * p.b) && movesIn s c y.2.1 = 0)) }
  let blocks := (List.range p.per).filter (fun b => ((corRun s c.slot c.op).any (fun r => (look r.chunks (granKey 5 b 0)).isSome)))
  blocks.foldl (fun s b => takeBlock c p b s) (retryGoes c p s)

/-! ### Begin, arrival and completion (R275, R279) -/

/-- GATE stood at its value 64 cc before a cc (R279). -/
def gateOpen (s : State) (c : Cor) (n : Nat) : Bool :=
  c.e.gateVal = 0 || (match absObj s c.job c.e.gate with
    | some o => (look s.sync o).any (fun x =>
        (x.hist.find? (fun h => decide (h.1 + 64 ≤ n))).any (fun h => decide (c.e.gateVal ≤ h.2.1)))
    | none => false)

/-- An operation begins in this cc: ARM_CC, or the first cc after it that is 64 cc after GATE has reached its value (R279). -/
def beginsNow (s : State) (c : Cor) : Bool :=
  let arm := c.job.segAt + c.e.armCc
  gateOpen s c s.now && (s.now = arm || (decide (arm < s.now) && !gateOpen s c (s.now - 1)))

/-- The granules that arrived before an operation began here are taken once it has. -/
def takeEarly (c : Cor) (s : State) : State :=
  match corRun s c.slot c.op with
  | none => s
  | some r =>
    let early := r.chunks.filter (fun x => 16 ≤ x.1 / 2 ^ 64)
    let s := modCor c.slot c.op (fun r => { r with chunks := r.chunks.filter (fun x => x.1 / 2 ^ 64 < 16) }) s
    early.foldl (fun s x =>
      let kind := x.1 / 2 ^ 64 - 16
      let k := x.1 / 2 ^ 32 % 2 ^ 32
      let g := x.1 % 2 ^ 32
      if c.e.op = 3 then takeGathered c kind k g x.2 s
      else if kind = 3 then takeGathered c 3 k g x.2 s
      else takePartial c k g x.2 s) s

/-- The contributions of an operation are all here (R279, R284). -/
def corLanded (c : Cor) (s : State) : Bool :=
  match corRun s c.slot c.op with
  | none => false
  | some r =>
    let others := (List.range c.n).filter (· ≠ c.rank)
    match c.e.op with
    | 1 => whole r 9 c.rank (outBytes c c.rank) && others.all (fun k => whole r 3 k (outBytes c k))
    | 2 => whole r 9 c.rank (outBytes c c.rank)
    | 3 => others.all (fun k => whole r 1 k (outBytes c k))
    | 4 => others.all (fun k => whole r 1 k (pieceBytes c))
    | 5 => permDone c s
    | 6 => c.n = 1 || whole r 1 0 c.e.count
    | 7 => others.all (fun k => r.verdicts.any (fun v => v.1 = k))
    | 9 => (look r.chunks (granKey 9 0 0)).isSome
    | _ => true

/-- The local result has landed too. -/
def corIn (c : Cor) (s : State) : Bool := corLanded c s && (corRun s c.slot c.op).any (fun r => r.landing = 0)

/-- Frames of an operation, credits apart, that a test on their sub-header picks and that have not left the module. -/
def corQueued (c : Cor) (s : State) (f : CorHdr → Bool) : Bool :=
  let mine := fun (h : CorHdr) => h.jobId = c.job.id && h.op = c.op && h.kind ≠ 8 && f h
  s.ctxs.any (fun x => x.2.job && x.2.jobId = c.job.id && x.2.unacked.any (fun p => !p.sent && p.cor.any mine)) ||
  s.ports.any (fun x => x.2.queue.any (fun g => match g.msg with
    | .bft _ _ _ _ _ _ _ (some h) _ => mine h
    | _ => false))

/-- Chunks that this rank passes on have all passed: partials of a reduction, and results of a gather (R284). -/
def corPassed (c : Cor) (s : State) : Bool :=
  match corRun s c.slot c.op with
  | none => false
  | some r =>
    let others := (List.range c.n).filter (· ≠ c.rank)
    let parts := others.filter (· ≠ (c.rank + c.n - 1) % c.n)
    let onward := others.filter (· ≠ (c.rank + 1) % c.n)
    match c.e.op with
    | 1 => parts.all (fun k => whole r 2 k (partBytes c k)) && whole r 9 c.rank (outBytes c c.rank) &&
        onward.all (fun k => whole r 3 k (outBytes c k))
    | 2 => parts.all (fun k => whole r 2 k (partBytes c k))
    | 3 => onward.all (fun k => whole r 1 k (outBytes c k))
    | 5 => permDone c s
    | _ => r.held = 0

/-- Every byte that an operation sends has left the module (R279). -/
def corSent (c : Cor) (s : State) : Bool := corPassed c s && !corQueued c s (fun _ => true)

/-- The last byte read from SRC has left the module: own values go out in every partial and in the own chunk's result; what a gather
passes on is not read from SRC (R279). -/
def srcLeft (c : Cor) (s : State) : Bool :=
  match corRun s c.slot c.op with
  | none => false
  | some r =>
    let parts := (List.range c.n).filter (fun k => k ≠ c.rank && k ≠ (c.rank + c.n - 1) % c.n)
    (if c.e.op = 1 ∨ c.e.op = 2 then
      parts.all (fun k => whole r 2 k (partBytes c k)) && whole r 9 c.rank (outBytes c c.rank)
     else if c.e.op = 3 then true else corPassed c s) &&
    !corQueued c s (fun h => h.kind ≠ 3 && c.e.op ≠ 3 || h.chunk = c.rank)

/-- Whether an operation waits for a contribution, as its counter takes it (R279). -/
def noteWaits (slot op : Nat) (s : State) : State :=
  match corOf s slot op with
  | some c => modCor slot op (fun r => { r with waits := r.phase = 1 && !corLanded c s }) s
  | none => s

/-- An operation begins at ARM_CC, or 64 cc after its gate (R279). -/
def begin_ (t slot op code : Nat) (f : Cor → State → State) (s : State) : Res :=
  let s := tick t s
  .next (match corOf s slot op, corRun s slot op with
    | some c, some r =>
      if c.e.op ≠ code ∨ r.phase ≠ 0 ∨ c.job.phase ≠ 1 ∨ c.job.aborted.isSome ∨ ¬ beginsNow s c then s
      else noteWaits slot op (takeEarly c (f c (modCor slot op (fun r => { r with phase := 1, at_ := s.now }) s)))
    | _, _ => s)

/-- ALLREDUCE: reduce-scatter, then all-gather of the converted chunks. -/
def execAllreduce (t slot op : Nat) (s : State) : Res := begin_ t slot op 1 beginReduce s
/-- REDUCE_SCATTER: the ring of R284. -/
def execReduceScatter (t slot op : Nat) (s : State) : Res := begin_ t slot op 2 beginReduce s
/-- ALLGATHER: the ring of R284. -/
def execAllgather (t slot op : Nat) (s : State) : Res := begin_ t slot op 3 beginGather s
/-- ALLTOALL: a direct exchange. -/
def execAlltoall (t slot op : Nat) (s : State) : Res := begin_ t slot op 4 beginAll s
/-- PERMUTE: cycles of block moves. -/
def execPermute (t slot op : Nat) (s : State) : Res := begin_ t slot op 5 beginPermute s
/-- RING_ROTATE: the block to the successor. -/
def execRingRotate (t slot op : Nat) (s : State) : Res := begin_ t slot op 6 beginRotate s
/-- VERDICT: the frozen local verdict to every other rank. -/
def execVerdict (t slot op : Nat) (s : State) : Res := begin_ t slot op 7 beginVerdict s
/-- QSEND: an entry of ceil(COUNT / 4,096) granules (R292, R293). -/
def execQsend (t slot op : Nat) (s : State) : Res :=
  begin_ t slot op 8 (fun c s =>
    let n := ceilDiv c.e.count 4096
    match edgeOf s c.job c.e.queue with
    | none => s
    | some q =>
      let x := edgeSt s slot c.e.queue q
      qPush n c (modCor slot op (fun r => { r with held := n, num := x.nextSend })
        (setEdge slot c.e.queue { x with nextSend := x.nextSend + 1 } s))) s
/-- QRECV: the oldest entry to DST (R292). -/
def execQrecv (t slot op : Nat) (s : State) : Res := begin_ t slot op 9 qTake s

/-- What a completed operation leaves: the combined verdict, or word that the PERMUTE is done; its log stands until the segment is over
(R288, R291). -/
def corFinish (c : Cor) (s : State) : State :=
  if c.e.op = 7 then
    let dirty := verdictDirty s c.job || ((corRun s c.slot c.op).any (fun r => r.verdicts.any (·.2)))
    let s := modJob c.slot (fun j => { j with verdict := some dirty }) s
    if dirty then bump (rkey 0x600120 c.slot) 32 1 s else s
  else if c.e.op = 5 then
    irqSet 0x600384 2 s
  else s

/-- What ECC and parity find in an operation's data: COR_PARITY for the half's SRAM, and the errors of a stack, which stand against
the job (R215, R295). -/
def corErr (slot : Nat) (err : EngErr) (s : State) : State :=
  match err with
  | .dram false k => hbmCe (k / 2 ^ 36) s
  | .dram true k => hbmUe (k / 65536) (some slot) [] s
  | .stage true => raiseJob 0x0E1 slot (irqSet 0x600384 1 (bump (rkey 0x60011C slot) 16 1 s))
  | _ => s

/-- An error that stops the job (R215, R295). -/
def corFatal : EngErr → Bool
  | .dram ue _ => ue
  | .stage ue => ue
  | _ => false

/-- COR_OP_COMPLETE: SYNC at the landing of the local result, SYNC_SRC when the last byte of the source has left, and the
operation is complete with the landing and the last byte that it sends (R279). `err` is what its data meets (R215, R295). -/
def execCorOpComplete (t slot : Nat) (work : Ended) (s : State) : Res :=
  let op := work.item
  let s := tick t s
  .next (match corOf s slot op, corRun s slot op with
    | some c, some r =>
      if r.phase ≠ 1 then s
      else if corFatal work.err then corErr slot work.err s else
      let s := corErr slot work.err s
      let l := corIn c s
      let s := if l ∧ ¬ r.landed then
          let s := corFinish c (modCor slot op (fun r => { r with landed := true, waits := false }) s)
          if c.e.sig then unitSignal slot c.e.sync 1 s else s
        else s
      let s := if srcLeft c s ∧ ¬ r.sent then
          let s := modCor slot op (fun r => { r with sent := true }) s
          if c.e.sigSrc then unitSignal slot c.e.syncSrc 1 s else s
        else s
      if (l || r.landed) && corSent c s then
        checkDone slot (bump (rkey 0x600104 slot) 32 1
          (modCor slot op (fun r => { r with phase := 2, chunks := [], goes := [], moving := [] }) s))
      else s
    | _, _ => s)

/-- A correlator frame on a job connection, 400 cc after its last bit at the pin: PSN window, job, and the SEG check of R275; a frame
that passes is applied and has its outcome (R347, R365). -/
def corFrame (t : Nat) (h : Bth) (hdr : CorHdr) (len : Nat) (f : Nat → Job → State → State) (s : State) : Res :=
  let s := tick t s
  .next (if ¬ ready s ∨ s.now ≠ h.bit + 400 then s else rxContext (fun _ => false) (mkPkt s h 7 0 0 len [] 0 0) (fun c s =>
    let i := h.dcid % 2 ^ 24
    let d := psnSub h.psn c.cum
    let fin := fun code s => outcome i h.psn 1 code (bitOf h.flags 2) s
    if (d < 1024 ∧ (look c.outcomes h.psn).isSome) ∨ 2 ^ 23 ≤ d then sendAck i (bftCount 4 s)
    else if 1024 ≤ d then bftCount 5 s
    else match (ctxJob s c).filter (fun e => e.2.aborted.isNone && e.2.id = hdr.jobId) with
      | none => fin 7 s
      | some (slot, j) =>
        let seg := j.segs - 1
        let same := hdr.seg = seg
        let okay := if hdr.kind = 8 then true
          else if hdr.kind = 4 then decide (same ∨ hdr.seg + 1 = seg)
          else if hdr.kind = 7 then decide (same ∧ hdr.step = j.step)
          else decide same
        if ¬ flagsOk 6 h.flags ∨ hdr.kind = 0 ∨ 8 < hdr.kind then fin 8 s
        else if okay then fin 0 (noteWaits slot hdr.op (f slot j (chargeJob slot (30 * len) s)))
        else mismatch slot (fin 7 s)) s)

/-- Hold a granule until its operation begins here. -/
def early (c : Cor) (kind chunk gran : Nat) (bs : List Byte) (s : State) : State := putChunk c (16 + kind) chunk gran bs s

/-- COR_DATA_GRANULE: a granule of an armed operation is placed, reduced, forwarded or queued by its kind (R275, R280 to
R284, R289 to R294). -/
def execCorDataGranule (t : Nat) (h : Bth) (hdr : CorHdr) (digest : Option Nat) (gran : Data) (s : State) : Res :=
  let data := gran.bytes
  corFrame t h hdr data.length (fun slot _ s =>
    match corOf s slot hdr.op with
    | none => s
    | some c =>
      if hdr.kind = 4 then (if c.e.op = 8 ∨ c.e.op = 9 then takeQueue c hdr.chunk hdr.granule data s else s) else
      match corRun s slot hdr.op with
      | none => s
      | some r =>
        if r.phase = 2 then s else
        match c.e.op, hdr.kind with
        | 1, 3 => if r.phase = 0 then early c 3 hdr.chunk hdr.granule data s
                  else if (look r.chunks (granKey 3 hdr.chunk hdr.granule)).isSome then s
                  else takeGathered c 3 hdr.chunk hdr.granule data s gran.ecc
        | 3, 1 => if r.phase = 0 then early c 1 hdr.chunk hdr.granule data s
                  else if (look r.chunks (granKey 1 hdr.chunk hdr.granule)).isSome then s
                  else takeGathered c 1 hdr.chunk hdr.granule data s gran.ecc
        | 4, 1 => putChunk c 1 hdr.srank hdr.granule []
            (corLandLater c (landOff c (hdr.srank * pieceBytes c + 4096 * hdr.granule) s) data s [] gran.ecc)
        | 6, 1 => putChunk c 1 0 hdr.granule [] (corLandLater c (landOff c (4096 * hdr.granule) s) data s [] gran.ecc)
        | 5, 5 =>
          let s := putChunk c 5 hdr.chunk hdr.granule data s
          if r.phase = 0 then s
          else if digest.any (· ≠ (permOf c s).digest) then permBad slot s
          else blockLater c (permOf c s) hdr.chunk s
        | op, kind =>
          if (op = 1 ∨ op = 2) ∧ (kind = 1 ∨ kind = 2) then
            if r.phase = 0 then early c 2 hdr.chunk hdr.granule data s
            else if (look r.chunks (granKey 2 hdr.chunk hdr.granule)).isSome then s
            else takePartial c hdr.chunk hdr.granule data s gran.ecc
          else s) s

/-- COR_VERDICT_FRAME: a member's local verdict (R288). -/
def execCorVerdictFrame (t : Nat) (h : Bth) (hdr : CorHdr) (dirty : Bool) (s : State) : Res :=
  corFrame t h hdr 0 (fun slot _ s =>
    if hdr.kind ≠ 7 then s else
    modCor slot hdr.op (fun r => if r.verdicts.any (fun v => v.1 = hdr.srank) then r
      else { r with verdicts := r.verdicts ++ [(hdr.srank, dirty)] }) s) s

/-- COR_PERMUTE_GO: the next move of a cycle may begin; GRANULE 1 marks the finishing go (R290; log 16). A digest that
differs raises COR_PERM_TABLE (R289). -/
def execCorPermuteGo (t : Nat) (h : Bth) (hdr : CorHdr) (digest : Option Nat) (s : State) : Res :=
  corFrame t h hdr 0 (fun slot _ s =>
    match corOf s slot hdr.op, corRun s slot hdr.op with
    | some c, some r =>
      if c.e.op ≠ 5 ∨ hdr.kind ≠ 6 ∨ r.phase = 2 then s else
      let p := permOf c s
      if digest.any (· ≠ p.digest) then permBad slot s
      else
        let s := modCor slot hdr.op (fun r => { r with goes := r.goes ++ [(c.rank * p.per + hdr.chunk, decide (hdr.granule = 1))] }) s
        if r.phase = 1 then retryGoes c p s else s
    | _, _ => s) s

/-- COR_CREDIT_FRAME: the upstream member takes the largest cumulative count it has seen, and held granules go on
(R293). -/
def execCorCreditFrame (t : Nat) (h : Bth) (hdr : CorHdr) (edge : Nat) (s : State) : Res :=
  corFrame t h hdr 0 (fun slot j s =>
    match edgeOf s j edge with
    | none => s
    | some q =>
      if hdr.kind ≠ 8 then s else
      let x := edgeSt s slot edge q
      let seen := max x.seen (hdr.granule + hdr.chunk * 2 ^ 32)
      let s := setEdge slot edge { x with seen, credits := x.credits + (seen - x.seen) } s
      (j.cor.filter (fun r => r.phase = 1 && decide (0 < r.held))).foldl (fun s r => match corOf s slot r.op with
        | some c => if c.e.op = 8 ∧ c.e.queue = edge then qPush r.held c s else s
        | none => s) s) s

/-- CREDIT_REPEAT: the credit frame again, REPEAT_US after the last, while credits are outstanding (R293). -/
def execCreditRepeat (t slot edge : Nat) (s : State) : Res :=
  let s := tick t s
  .next (match look s.jobs slot with
    | none => s
    | some j =>
      match edgeOf s j edge, look s.edges (edgeKey slot edge) with
      | some q, some x =>
        match (imageOf s j).bind (fun p => (List.range p.cor.length).find? (fun i => (p.cor[i]?).any (fun e => e.op = 9 && e.queue = edge))) with
        | some op => if x.freed = 0 ∨ j.aborted.isSome ∨ s.now < x.creditAt + usCc (cfg s 0x600010 0 16) then s else
          match corOf s slot op with | some c => sendCredit c q x.freed s | none => s
        | none => s
      | _, _ => s)

end Sys2Proof.Machine
end

