-- ==== Sys2Proof/Machine/Pcie.lean ====
section
/-! DEFINITION. The host link, its functions, rings and device-memory window (spec/14 R369 to R386; spec/15 R399). -/

namespace Sys2Proof.Machine

/-! ### The link (R369 to R372, R376, R478) -/

/-! The identity of the functions and the SR-IOV capability of PF0 (R371, R372); PF0's device ID is `deviceId`. -/
def vendorId : Nat := 0x1F5B
def vfDeviceId : Nat := 0x0A80
def classCode : Nat := 0x120000
def revisionId : Nat := 0xB0
def totalVfs : Nat := 4096
def initialVfs : Nat := totalVfs
def firstVfOffset : Nat := 1
def vfStride : Nat := 1

/-- The subsystem IDs of every function: its vendor and the almanac's number (R371). -/
def subsystem (s : State) : Nat × Nat := (vendorId, s.alm.subsystem)

/-- The function of VF n, which serves tenant n − 1 (R372). -/
def vfFunction (n : Nat) : Nat := firstVfOffset + (n - 1) * vfStride

/-- Packets of a function pass the link after bring-up (R370, R376). -/
def linkOk (s : State) (fn : Nat) : Bool := ready s && s.pcie.up && !replyLost s fn

/-- A function answers memory requests (R369, R372). -/
def memOk (s : State) (fn : Nat) : Bool := linkOk s fn && decide (fn ≤ s.pcie.numVfs) && !s.pcie.d3.contains fn

/-- A configuration request of a function: before bring-up completes it is answered with Request Retry Status (R370). -/
def configured (fn : Nat) (f : State → State) (s : State) : State :=
  if ready s then f s
  else if s.pcie.up ∧ ¬ replyLost s fn then emit (.retry fn) s
  else s

/-- The ring pairs of a function (R378). -/
def ringCount (fn : Nat) : Nat := if fn = 0 then 64 else 8

/-- A function's rings are disabled, and its replies not yet written are discarded (R372). -/
def muteFn (fn : Nat) (s : State) : State :=
  { s with
    rings := tmap s.rings (fun k g => if k / 64 = fn then { g with enable := false, held := [], unsignalled := 0 } else g)
    cmds := tmap s.cmds (fun _ x => if x.fn = fn then { x with mute := true } else x) }

/-- A VF reset also aborts its tenant's running jobs as JOB_STOP with ABORT does (R372). -/
def resetVf (fn : Nat) (s : State) : State :=
  muteFn fn { s with jobs := tmap s.jobs (fun _ j => if j.tenant + 1 = fn then { j with abortNext := true } else j) }

/-- Every VF that is enabled. -/
def vfsOf (s : State) : List Nat := (List.range s.pcie.numVfs).map (· + 1)

/-- As a VF reset for every VF; PF0's rings are disabled (R372). The VFs are gone with their power states. -/
def resetPf (s : State) : State :=
  let n := s.pcie.numVfs
  let s := { s with
    jobs := tmap s.jobs (fun _ j => if j.tenant + 1 ≤ n then { j with abortNext := true } else j)
    rings := tmap s.rings (fun _ g => { g with enable := false, held := [], unsignalled := 0 })
    cmds := tmap s.cmds (fun _ x => { x with mute := true }) }
  { s with pcie := { s.pcie with numVfs := 0, d3 := s.pcie.d3.filter (· = 0), pendingV := s.pcie.pendingV.filter (·.1 = 0) } }

/-- PERST_ASSERT: the controller, configuration space, rings and MSI-X tables and HST's interrupt registers return to reset; replies that
fall due are discarded until the host has set up the ring again; jobs keep running (R372, R478, R494). During a safe stop it has no
further effect (R511). -/
def execPerstAssert (t : Nat) (s : State) : Res :=
  let s := tick t s
  .next (
    if s.pwr.phase = 3 then { s with pcie := { s.pcie with perst := true } }
    else
      irqUpdate { s with
        pcie := { Pcie.reset with windows := s.pcie.windows, summary := s.pcie.summary, riseAt := s.pcie.riseAt }
        act := tdel (tdel s.act 0x900180) 0x900184
        rings := [] })

/-- PERST_RELEASE: the controller may train the link (R478). -/
def execPerstRelease (t : Nat) (s : State) : Res :=
  let s := tick t s
  .next { s with pcie := { s.pcie with perst := false } }

/-- PCIE_LINK_UP: the link trains at a rate code of R393 and a width once PERST_N is deasserted and slice 0x21 has passed
(R369, R478), and the host configures the functions (log 46); replies and vectors held while it was down are sent. -/
def execPcieLinkUp (t speed width : Nat) (link : LinkConf) (s : State) : Res :=
  let s := tick t s
  .next (
    if ¬ live s ∨ s.boot.stage < 6 ∨ s.pcie.perst ∨ s.pcie.up ∨ speed = 0 ∨ 7 < speed ∨ ¬ width ∈ [1, 2, 4, 8, 16] then s
    else
      let conf := { link.conf with payload := min 2 link.conf.payload, readReq := min 5 link.conf.readReq }
      let s := sendPending { s with pcie := { s.pcie with up := true, speed, width, flit := link.flit, conf } }
      (s.rings.map (·.1)).foldl (fun s k => flushRing (k / 64) (k % 64) s) s)

/-- PCIE_LINK_DOWN: replies are held, and commands' time does not count, until the link trains again (R382). -/
def execPcieLinkDown (t : Nat) (s : State) : Res :=
  let s := tick t s
  .next { s with pcie := { s.pcie with up := false, speed := 0, width := 0, flit := false } }

/-- VF_FLR (R372). -/
def execVfFlr (t vf : Nat) (s : State) : Res :=
  let s := tick t s
  .next (configured vf (fun s => if 1 ≤ vf ∧ vf ≤ s.pcie.numVfs then
      (let s := resetVf vf s
       { s with pcie := { s.pcie with d3 := s.pcie.d3.filter (· ≠ vf), pendingV := s.pcie.pendingV.filter (·.1 ≠ vf) } })
    else s) s)

/-- PF0_FLR (R372). -/
def execPf0Flr (t : Nat) (s : State) : Res :=
  let s := tick t s
  .next (configured 0 (fun s => let s := resetPf s; { s with pcie := { s.pcie with d3 := [], pendingV := [] } }) s)

/-- VF_ENABLE_CLEAR (R372). -/
def execVfEnableClear (t : Nat) (s : State) : Res :=
  let s := tick t s
  .next (configured 0 resetPf s)

/-- VF_ENABLE_SET: the virtual functions come into being, up to TotalVFs (R372, R393). -/
def execVfEnableSet (t n : Nat) (s : State) : Res :=
  let s := tick t s
  .next (configured 0 (fun s => { s with pcie := { s.pcie with numVfs := min n totalVfs } }) s)

/-- D3HOT_ENTRY (R369). -/
def execD3hotEntry (t fn : Nat) (s : State) : Res :=
  let s := tick t s
  .next (configured fn (fun s =>
    if fn ≤ s.pcie.numVfs ∧ ¬ fn ∈ s.pcie.d3 then { s with pcie := { s.pcie with d3 := s.pcie.d3 ++ [fn] } } else s) s)

/-- D3HOT_EXIT: what the function could not send in D3hot is sent (R369; log 46). -/
def execD3hotExit (t fn : Nat) (s : State) : Res :=
  let s := tick t s
  .next (configured fn (fun s =>
    let s := sendPending { s with pcie := { s.pcie with d3 := s.pcie.d3.filter (· ≠ fn) } }
    ((s.rings.filter (fun e => e.1 / 64 = fn)).map (·.1)).foldl (fun s k => flushRing (k / 64) (k % 64) s) s) s)

/-! ### Rings (R377 to R382) -/

/-- SQ_DOORBELL: new commands become visible; a write while ENABLE = 0 is ignored (R378). -/
def execSqDoorbell (t fn ring tail : Nat) (s : State) : Res :=
  let s := tick t s
  .next (
    let g := ringOf s fn ring
    if ¬ memOk s fn ∨ ringCount fn ≤ ring ∨ ¬ g.enable then s
    else
      let n := 2 ^ g.sqLog
      let more := (tail % n + n - g.sqTail % n) % n
      setRing fn ring { g with
        sqTail := tail % 65536, bells := if more = 0 then g.bells else g.bells ++ [(more, s.now)] } s)

/-- CQ_HEAD_WRITE: slots are free again, and replies held for them are written (R381). -/
def execCqHeadWrite (t fn ring head : Nat) (s : State) : Res :=
  let s := tick t s
  .next (
    if ¬ memOk s fn ∨ ringCount fn ≤ ring then s
    else flushRing fn ring (setRing fn ring { ringOf s fn ring with cqHead := head % 65536 } s))

/-- RING_ENABLE_WRITE: a write of the control word at +0x14 (R378). Setting ENABLE again clears ERROR, and the pair goes
on at its indices (DESIGN CHOICE, log 20). -/
def execRingEnableWrite (t fn ring value : Nat) (s : State) : Res :=
  let s := tick t s
  .next (
    if ¬ memOk s fn ∨ ringCount fn ≤ ring then s
    else
      let g := ringOf s fn ring
      let v := bits value 1 7
      setRing fn ring { g with
        enable := bitOf value 0
        error := g.error && !(bitOf value 0 && !g.enable)
        vector := if fn = 0 then clampNat 1 63 v else min v 7
        coalCount := bits value 8 8
        coalUs := min (bits value 16 16) 1000 } s)

/-- IRQ_COALESCE_EXPIRY: COAL_US after the first reply not yet signalled (R377). -/
def execIrqCoalesceExpiry (t fn ring : Nat) (s : State) : Res :=
  let s := tick t s
  .next (
    let g := ringOf s fn ring
    if g.unsignalled = 0 ∨ s.now < g.firstAt + usCc g.coalUs then s
    else sendMsix fn g.vector (setRing fn ring { g with unsignalled := 0 } s))

/-- The class of a function in the fetch rotation: 0 common, 1 + tenant for a strict tenant's VF (R399). -/
def fetchClass (s : State) (fn : Nat) : Nat :=
  if fn = 0 then 0
  else match look s.tenants (fn - 1) with
    | some x => if x.strict then fn else 0
    | none => 0

/-- Execution places of a class (R379, R399). -/
def execPlaces (s : State) (cls : Nat) : Nat :=
  if cls = 0 then 256 - s.tenants.foldl (fun n e => if e.2.strict then n + 4 * e.2.share else n) 0
  else match look s.tenants (cls - 1) with
    | some x => 4 * x.share
    | none => 0

/-- Commands of a class in execution (R379). -/
def inExecution (s : State) (cls : Nat) : Nat :=
  (s.cmds.filter (fun c => !c.2.started && fetchClass s c.2.fn = cls)).length

/-- A ring pair has a slot to fetch and may be visited (R369, R379, R381). -/
def fetchable (s : State) (key : Nat) (g : Ring) : Bool :=
  let n := 2 ^ g.cqLog
  memOk s (key / 64) && g.enable && !g.error && g.held.isEmpty && (g.cqTail + 1) % n != g.cqHead % n &&
  g.sqHead % 2 ^ g.sqLog != g.sqTail % 2 ^ g.sqLog

/-- The next pair of a class in rotation: pairs in ring order, functions in ascending order (R379). -/
def nextPair (s : State) (cls : Nat) : Option Nat :=
  let ks := (s.rings.filter (fun e => fetchClass s (e.1 / 64) = cls && fetchable s e.1 e.2)).map (·.1)
  match look s.pcie.rot cls with
  | some last => (ks.find? (fun k => decide (last < k))).or ks.head?
  | none => ks.head?

/-- The class that a visit of the 64-visit frame goes to: the strict tenant that owns the slot, else the common ones (R398,
R399). -/
def visitClass (s : State) (i : Nat) : Nat :=
  match s.tenants.find? (fun e => e.2.strict && (let (a, n) := strictSlots s e.1; decide (a ≤ i ∧ i < a + n))) with
  | some e => e.1 + 1
  | none => 0

/-- A class has a command that its visit fetches: it and the module have a place (R379). -/
def classReady (s : State) (cls : Nat) : Bool :=
  (nextPair s cls).isSome && decide (inExecution s cls < execPlaces s cls) && decide ((s.cmds.filter (fun c => !c.2.started)).length < 256)

/-- The visit at which the next command is fetched: those before it find nothing to fetch (R399). -/
def nextVisit (s : State) : Option Nat :=
  ((List.range 64).map (fun i => (s.pcie.visit + i) % 64)).find? (fun i => classReady s (visitClass s i))

/-- The header that 64 bytes hold (R383). -/
def cmdHeader (bs : List Byte) (io : Bool) : Header :=
  let f := fun lo n => leNat ((bs.drop lo).take n)
  { ioOk := io, opcode := f 0 2, flags := f 2 2, tenant := f 4 2, rsv := f 6 2 + f 20 4, requestId := f 8 8,
    length := f 16 4, param := f 24 8, p0 := f 32 8, p1 := f 40 8, p2 := f 48 8, p3 := f 56 8 }

/-- The header in a submission slot: host memory sends it with the command, device memory holds it (R378). -/
def slotHeader (s : State) (fn : Nat) (g : Ring) (h : Option Header) : Option Header :=
  if bitOf g.sqBase 0 then
    (deviceKey s fn (g.sqBase / 64 * 64 + 64 * (g.sqHead % 2 ^ g.sqLog)) false).map (fun k =>
      cmdHeader (hbmRead s k 64) ((h.map (·.ioOk)).getD true))
  else h

/-- One slot that a doorbell made visible is taken. -/
def popBell : List (Nat × Nat) → List (Nat × Nat)
  | [] => []
  | (n, c) :: r => if n ≤ 1 then r else (n - 1, c) :: r

/-- The command of a fetched header enters execution; it is answered at once where its header does so and it may begin (R380). -/
def enterExec (fn ring : Nat) (g : Ring) (h : Header) (s : State) : State :=
  let ten := if fn = 0 then h.tenant % 4096 else fn - 1
  let bell := ((g.bells.head?).map (·.2)).getD s.now
  let x : Exec :=
    { hdr := h, fn, ring, index := g.sqHead % 2 ^ g.sqLog, tenant := ten, bell, started := false, begun := false,
      mute := false, echo := none, at_ := ptpNs s, obj := 0, left := [] }
  let cmd := s.nextCmd
  refuseHeaders { s with cmds := tput s.cmds cmd x, nextCmd := cmd + 1 }

/-- COMMAND_FETCH: the next pair in rotation of the class whose visit it is, while an execution place is free, no changeover waits and the receipt queue
has room (R379, R399, R442, R486); a slot that cannot be read stops the pair. -/
def execCommandFetch (t fn ring : Nat) (h : Option Header) (s : State) : Res :=
  let s := tick t s
  .next (
    let key := fn * 64 + ring
    let cls := fetchClass s fn
    match nextVisit s with
    | none => s
    | some v =>
    if ringCount fn ≤ ring ∨ nextPair s cls ≠ some key ∨ visitClass s v ≠ cls ∨ s.boot.cpPending ∨
       61440 < s.pho.queue.length then s
    else
      let g := ringOf s fn ring
      let s := { s with pcie := { s.pcie with rot := tput s.pcie.rot cls key, visit := (v + 1) % 64 } }
      match slotHeader s fn g h with
      | none => ringError fn ring s
      | some h =>
        let s := setRing fn ring { g with sqHead := (g.sqHead + 1) % 2 ^ g.sqLog, bells := popBell g.bells } s
        enterExec fn ring g h (bump 0x900100 32 1 s))

/-- The word that a command's STARTED reply echoes: known ones as they will stand, a job's slot and sync bases, and a free
value where the work has yet to decide it; bit 45 of a JOB_START is 0 (R382, R387; log 3). -/
def startedEcho (s : State) (cmd : Nat) (x : Exec) : Nat :=
  match s.jobs.find? (fun e => e.2.cmd = some cmd) with
  | some (k, j) => k + j.base0 * 2 ^ 16 + j.base1 * 2 ^ 32
  | none => x.echo.getD (Config.choice s.free % (if x.hdr.opcode = 0x0201 then 2 ^ 45 else 2 ^ 64))

/-- COMMAND_STARTED_TIMEOUT: a command whose work has not ended 1.5 s after its doorbell (R382). -/
def execCommandStartedTimeout (t cmd : Nat) (s : State) : Res :=
  let s := tick t s
  .next (match look s.cmds cmd with
    | none => s
    | some x =>
      if x.started ∨ s.now < x.bell + msCc 1500 then s
      else replyTo cmd 1 (startedEcho s cmd x) false { s with free := s.free + 1 })

/-! ### The device-memory window (R373, R374) -/

/-- Places in HBM of a run of a VF's window: (key, bytes, first frame), none where some page is a miss. -/
def barPlaces (s : State) (tenant va n : Nat) (write : Bool) : Option (List (Nat × Nat × Nat)) :=
  (spans va n).mapM (fun x => match placeUnified s tenant x.1 write with
    | .hbm k first => some (k, x.2, first)
    | _ => none)

/-- The number of a read that is already held, and its removal. -/
def takeRead (fn addr len : Nat) (s : State) : Nat × State :=
  match s.pcie.reads.find? (fun r => r.2.1 = fn && r.2.2.1 = addr && r.2.2.2.1 = len) with
  | some r => (r.1, { s with pcie := { s.pcie with reads := tdel s.pcie.reads r.1 } })
  | none => (s.pcie.nextRead, { s with pcie := { s.pcie with nextRead := s.pcie.nextRead + 1 } })

/-- A read that has to wait is held, once (R374). -/
def holdRead (fn addr len : Nat) (s : State) : State :=
  if s.pcie.reads.any (fun r => r.2.1 = fn && r.2.2.1 = addr && r.2.2.2.1 = len) then s
  else { s with pcie := { s.pcie with
    reads := tput s.pcie.reads s.pcie.nextRead (fn, addr, len, s.now), nextRead := s.pcie.nextRead + 1 } }

/-- A read is answered with its data, or with Completer Abort where its HBM data is uncorrectable (R215, R374). -/
def answerRead (fn addr len frame : Nat) (ecc : Ecc) (data : List Byte) (s : State) : State :=
  let (id, s) := takeRead fn addr len s
  match ecc with
  | .ue => emit (.completion id true []) (hbmUe frame none (pageOwner s frame) s)
  | .ce => emit (.completion id false data) (hbmCe (frame / 2 ^ 20) s)
  | .ok => emit (.completion id false data) s

/-- Bytes of a function's BAR4, as the host has sized it: 2^30 to 2^40, the largest unless it says otherwise (R373; log 46). -/
def barBytes (s : State) (fn : Nat) : Nat := 2 ^ clampNat 30 40 (tget s.pcie.conf.bar4 fn 40)

/-- BAR4_READ: offset `addr` of PF0's owner view or of a tenant's window (R374). A read that waits is held; the same read is
answered when it comes again. -/
def execBar4Read (t fn addr len : Nat) (ecc : Ecc) (s : State) : Res :=
  let s := tick t s
  .next (
    if ¬ memOk s fn ∨ barBytes s fn < addr + len then s
    else if fn = 0 then
      if ownerWaits s addr len false then holdRead fn addr len s
      else
        let s := goNow none (keyPlaces addr len) (hostEnd len) s
        let (data, s) := ownerRead addr len s
        answerRead fn addr len (addr / 65536) (if hasStack s (addr / 2 ^ 36) then ecc else .ok) data s
    else
      let va := tget s.pcie.windows fn 0 + addr
      match barPlaces s (fn - 1) va len false with
      | none =>
        let (id, s) := takeRead fn addr len s
        emit (.completion id true []) (barMiss s)
      | some ps =>
        if tenantWaits s (fn - 1) va len false then holdRead fn addr len s
        else
          let s := goNow (some (fn - 1)) (ps.map (fun p => (.hbm p.1 p.2.2, p.2.1))) (hostEnd len) s
          answerRead fn addr len (((ps.head?).map (·.1)).getD 0 / 65536) ecc
          ((ps.map (fun p => hbmRead s p.1 p.2.1)).flatten) s)

/-- BAR4_WRITE: a write lands in HBM, adds on an ACCUMULATE page, is discarded on a miss, or waits and lands later (R202, R203, R211,
R214, R374). -/
def execBar4Write (t fn addr : Nat) (data : Data) (s : State) : Res :=
  let s := tick t s
  .next (
    if ¬ memOk s fn ∨ barBytes s fn < addr + data.bytes.length then s
    else
      let va := if fn = 0 then addr else tget s.pcie.windows fn 0 + addr
      let w : HeldWrite := { tenant := if fn = 0 then none else some (fn - 1), slot := 4096, va, data := data.bytes, ecc := data.ecc,
                             src := some hostBar }
      if fn ≠ 0 ∧ hostMisses s (fn - 1) w then barMiss s else writeHeld w s)

/-- BAR4_READ_TIMEOUT: a read not served within 1 ms of arrival (R374). -/
def execBar4ReadTimeout (t id : Nat) (s : State) : Res :=
  let s := tick t s
  .next (match look s.pcie.reads id with
    | some r =>
      if s.now < r.2.2.2 + msCc 1 then s
      else emit (.completion id true []) (barMiss { s with pcie := { s.pcie with reads := tdel s.pcie.reads id } })
    | none => s)

/-! ### ATS, IDE and SPDM (R375, R376) -/

/-- Two ranges meet. -/
def rangesMeet (a n b m : Nat) : Bool := decide (a < b + m) && decide (b < a + n)

/-- Some access that translated before still uses host addresses of a range: a copy in flight of the tenant, or a page of
a tenant's host object on its way (R375). -/
def hostInUse (s : State) (fn addr len : Nat) : Bool :=
  s.cores.any (fun c => c.2.mq.any (fun m => match look s.jobs m.slot with
    | some j => j.tenant + 1 = fn && !m.stream &&
        (placesOf s j.tenant [] m.src m.len false ++ placesOf s j.tenant [] m.dst m.len true).any (fun p => match p.1 with
          | .host a => rangesMeet addr len a p.2
          | _ => false)
    | none => false)) ||
  s.frames.any (fun f => (f.2.state = 3 || f.2.state = 4) && match look s.objs f.2.obj with
    | some o => o.home = 1 && ownerOf o + 1 = fn && rangesMeet addr len (o.homeLoc + f.2.page * pageBytes o.psize) (pageBytes o.psize)
    | none => false)

/-- ATS_INVALIDATION: the translations of the range leave the cache; completed only after every access that used the old translation (R375); until then it stands. -/
def execAtsInvalidation (t fn addr len : Nat) (s : State) : Res :=
  let s := tick t s
  .next (if ¬ linkOk s fn ∨ s.pcie.numVfs < fn ∨ hostInUse s fn addr len then s
    else emit (.atsDone fn addr len) (bump 0x90010C 32 1 { s with pcie := { s.pcie with
      atc := s.pcie.atc.filter (fun x => ¬ (x.1 = fn ∧ rangesMeet addr len x.2.1 x.2.2)) } }))

/-- IDE_INTEGRITY_FAIL: a Secure stream enters Insecure and is quarantined (R376). -/
def execIdeIntegrityFail (t stream : Nat) (s : State) : Res :=
  let s := tick t s
  .next (
    if 9 ≤ stream ∨ tget s.pcie.ide stream 0 ≠ 1 then s
    else
      let s := { s with pcie := { s.pcie with ide := tput s.pcie.ide stream 2 } }
      raise { src := 0x161, unit := stream } (irqSet 0x900184 1 (bump 0x900110 32 1 s)))

/-- Re-keying a stream acknowledges its quarantine: the stream itself is whole again (R376, R450). -/
def rekeyed (stream : Nat) (s : State) : State :=
  let qs := (s.flt.quars.filter (fun q => q.2.source = 0x161 && q.2.inst = stream && q.2.state = 1)).map (·.1)
  let s := qs.foldl (fun s q => acknowledge q s) s
  { s with flt := { s.flt with
    blocks := s.flt.blocks.filter (fun b => b ≠ (.ide, stream))
    repairs := s.flt.repairs.filter (fun r => ¬ (r.src = 0x161 ∧ r.inst = stream)) } }

/-- IDE_KEY_LOAD: IDE_KM loads a stream's keys in an SPDM session (R376). -/
def execIdeKeyLoad (t stream : Nat) (s : State) : Res :=
  let s := tick t s
  .next (
    if ¬ ready s ∨ ¬ s.pcie.up ∨ s.pcie.spdm.isNone ∨ 9 ≤ stream then s
    else rekeyed stream { s with pcie := { s.pcie with ide := tput s.pcie.ide stream 1 } })

/-- DOE_SPDM_REQUEST: the module authenticates with its identity key and sets up the session for IDE_KM (R376). -/
def execDoeSpdmRequest (t session : Nat) (s : State) : Res :=
  let s := tick t s
  .next (
    if ¬ ready s ∨ ¬ s.pcie.up ∨ s.pcie.perst then s
    else emit (.spdm session) { s with pcie := { s.pcie with spdm := some session } })

end Sys2Proof.Machine
end

