-- ==== Sys2Proof/Machine/PlanCheck.lean ====
section
/-! DEFINITION. What a plan image may hold: the checks of PLAN_LOAD, item by item, with the refusal reason of each rule
(spec/14 R386, R390, and the rules that R386's reasons name). -/

namespace Sys2Proof.Machine

/-! ### Instruction words (R64, R99, R123 to R131, R137, R146, R152) -/

/-- The T-format encodings that a plan may hold (R96 to R99). -/
def okT (w : W64) : Bool :=
  match opCode w with
  | 1 =>
    tFMT w ≤ 2 && tSCA w ≤ 4 && tSCB w ≤ 4 && fld w 0 9 = 0 && (tFMT w ≠ 0 || (tSCA w ≠ 0 && tSCB w ≠ 0)) &&
    (tREL w || decide (tK w ≤ (if tFMT w = 0 then 512 else if tFMT w = 1 then 256 else 128)))
  | 2 => fld w 50 4 = 0 && fld w 48 1 = 0 && fld w 0 23 = 0 && decide (dROW0 w + dROWS w ≤ 256)
  | 3 => fld w 48 6 = 0 && fld w 0 32 = 0
  | _ => false

/-- Format and rounding that VCVT accepts (R152). -/
def okCvt (f t rm : Nat) : Bool :=
  (f, t) ∈ [(0, 1), (0, 2), (0, 3), (1, 0), (1, 2), (1, 3), (2, 0), (2, 1), (2, 3), (3, 0), (3, 1), (3, 2), (4, 3)] ||
  (f = 3 && t = 4 && decide (rm ≤ 1))

/-- Formats that a V-format opcode accepts (R146). -/
def vFormats (op : Nat) : List Nat :=
  if op = 4 then [3] else if op = 0x10 then [3, 4] else if 0x12 ≤ op ∧ op ≤ 0x15 then [2, 3]
  else if op = 0x16 then [4] else if op = 0x0A then [0, 1, 2, 3, 4] else [2, 3, 4]

/-- The V-format encodings that a plan may hold (R124, R146, R152). -/
def okV (w : W64) : Bool :=
  let op := opCode w
  decide (1 ≤ op ∧ op ≤ 0x17) && fld w 0 7 = 0 && (op = 0x0C || fld w 7 8 = 0) &&
  (if op = 9 then okCvt (vFMT w) (vTFMT w) (vRM w)
   else (vFormats op).contains (vFMT w) && vTFMT w = 0 && vRM w = 0)

/-- The S-format encodings that a plan may hold (R123). -/
def okS (w : W64) : Bool :=
  let op := opCode w
  if 1 ≤ op ∧ op ≤ 0x0E then sRM w = 0 && (sIMM w || sImm32 w = 0) && (op ≠ 4 || sW w)
  else if op = 0x12 then decide (sRM w ≤ 1) && sImm32 w = 0
  else if op = 0x11 then sRM w = 0 && sImm32 w = 0
  else if op = 0x0F ∨ op = 0x10 ∨ op = 0x13 then sRM w = 0
  else false

/-- The M-format encodings that a plan may hold (R125). Any FMT is accepted where the opcode does not use the field (DESIGN CHOICE,
log 42: R131 does not say). -/
def okM (w : W64) : Bool :=
  let op := opCode w
  decide (1 ≤ op ∧ op ≤ 7) && fld w 0 15 = 0 && (op ∉ [1, 2, 5] || vFMT w ≤ 4 || vFMT w = 6)

/-- The Y-format encodings that a plan may hold; `ix` says that the plan marks the instruction indexed (R137, R141). -/
def okY (ix : Bool) (w : W64) : Bool :=
  let op := opCode w
  decide (1 ≤ op ∧ op ≤ 6) && (!yREM w || op ∈ [1, 4, 5]) && (!ix || (op ≠ 5 && (op = 6 || yIMM w)))

/-- The C-format encodings that a plan may hold, at word `i` of a program of `len` words (R127, R131). COND 6 and 7 are refused where
the opcode compares, in BRC alone (DESIGN CHOICE, log 42: R131 does not say). -/
def okC (len i : Nat) (w : W64) : Bool :=
  let op := opCode w
  let upTo := (i : Int) + cOFFSET w
  decide (1 ≤ op ∧ op ≤ 7) && fld w 24 15 = 0 && (op ≠ 4 || decide (cCOND w ≤ 5)) &&
  (op ∉ [3, 4, 6] || decide (0 ≤ upTo ∧ upTo < len))

/-- An instruction names a reserved format code (R64). -/
def reservedFmt (w : W64) : Bool :=
  match opClass w with
  | 0 => opCode w = 1 && decide (6 < tFMT w)
  | 1 => decide (6 < vFMT w) || (opCode w = 9 && decide (6 < vTFMT w))
  | 3 => opCode w ∈ [1, 2, 5] && decide (6 < vFMT w)
  | _ => false

/-- A job-relative object index that the plan does not declare (R131, R136). -/
def badIndex (n : Nat) (ix : Bool) (w : W64) : Bool :=
  match opClass w with
  | 3 => mSIG w && decide (n ≤ mOBJ w)
  | 4 => !yREM w && !ix && decide (n ≤ yOBJ w)
  | _ => false

/-- A core that plans may name: enabled, and not retired without a spare (R45, R469). -/
def coreThere (s : State) (c : Nat) : Bool := decide (c < 36) && (coreOf s c).enabled && !(coreOf s c).retired

/-- A stack that plans may name (R45, R469). -/
def stackThere (s : State) (k : Nat) : Bool := decide (k < 12) && hasStack s k && !(stackOf s k).unusable

/-- A plan with words on a core gives the core no issue map although other plans' maps claim all of its 64 cc: its use of the
core does not fit (R119). -/
def mapShut (s : State) (p : PlanImage) (core : Nat) : Bool :=
  let maps := ((s.plans.map (fun e => e.2.image.maps)).flatten).filter (fun m => m.core = core)
  p.maps.all (fun m => m.core ≠ core) && (List.range 64).all (fun i => maps.any (fun m => (m.mine[i]?).getD false))

/-- The reasons against one instruction word of a core's program. -/
def wordReasons (s : State) (p : PlanImage) (core len i : Nat) (w : W64) : List Nat :=
  let ix := p.indexed.contains (core, i)
  let ok := match opClass w with
    | 0 => okT w | 1 => okV w | 2 => okS w | 3 => okM w | 4 => okY ix w | 5 => okC len i w | _ => false
  (if i = 0 ∧ mapShut s p core then [3] else []) ++
  (if coreThere s core then [] else [4]) ++ (if reservedFmt w then [5] else []) ++ (if ok then [] else [6]) ++
  (if badIndex (p.n0 + p.n1) ix w then [0x0D] else [])

/-! ### Segments (R44, R45, R158, R168, R175, R178, R196, R204, R211, R302, R453) -/

/-- A resource that the module has (R4, R45). -/
def resourceThere (s : State) (r : Nat) : Bool :=
  if 2 ≤ r ∧ r ≤ 13 then stackThere s (r - 2)
  else if 256 ≤ r ∧ r < 268 then stackThere s (r - 256)
  else if r = 16 ∨ r = 18 ∨ r = 19 then iods s = 2
  else if r = 21 then hasVault s
  else if 32 ≤ r ∧ r < 128 then decide ((r - 32) / 4 < nPorts s)
  else if 128 ≤ r ∧ r < 164 then coreThere s (r - 128)
  else if 192 ≤ r ∧ r < 228 then coreThere s (r - 192)
  else r ≤ 20 || r = 288 || r = 289

/-- The cc at which a row of a stream becomes valid, counted from the meridian: two L4 rows together (R199). -/
def rowValid (e : StreamEntry) (i : Nat) : Nat := e.d0 + (if e.mode = 0 then i / 2 else i) * e.interval

/-- A section of the table comes before another. -/
def secBefore (p : PlanImage) (a b : Nat) : Bool :=
  let ts := p.sections.map (·.type)
  decide (ts.idxOf a < ts.idxOf b)

/-- The uses of a segment by items taken before an item, in the order of R390. -/
def takenUses (s : State) (p : PlanImage) (g : Segment) (type idx : Nat) : List Use :=
  let before := fun (ty i : Nat) => (ty = type && decide (i < idx)) || (ty ≠ type && secBefore p ty type)
  (if type ≠ 2 ∧ secBefore p 2 type then g.uses else []) ++
  (((g.entries.filter (before 6)).filterMap (fun i => p.se[i]?)).map (fun e => entryUses s (planTag p e.tag) e)).flatten ++
  ((((g.streams.filter (before 7)).filterMap (fun i => p.streams[i]?)).filter (·.base.isNone)).map (streamUses p)).flatten

/-- The largest use that any segment of the other loaded plans that count makes, by a measure of its uses (R196). -/
def othersAsk (s : State) (tenant : Nat) (ask : List Use → Nat) : Nat :=
  let strict := fun (t : Nat) => (look s.tenants t).any (·.strict)
  (s.plans.filter (fun e => if strict tenant then e.2.tenant = tenant else !strict e.2.tenant)).foldl (fun n e =>
    n + (e.2.image.segments.map (fun g => ask (segUses s e.2.image g))).foldl max 0) 0

/-- One use asks for more than its resource provides, with everything else that is asked of it (R45, R191, R196, R398). A
stack's internal path is judged by channel group and as a whole, and a group that refreshes provides nothing. A stack's
resources are those whose budget all loaded plans share. -/
def useOver (s : State) (tenant : Nat) (us : List Use) (u : Use) : Bool :=
  let all := fun (ask : List Use → Nat) => ask us + (if bothWays u.resource then othersAsk s tenant ask else 0)
  let (cap, k) := provides s u.resource u.dir
  let n := all (fun l => askOf l u.resource u.part u.dir u.cc)
  (if 2 ≤ u.resource ∧ u.resource ≤ 13 then
    decide ((if groupRests (cfg s 0x10000 0 16) u.part u.cc then 0 else 200) < n) ||
    decide (cap < all (fun l => (List.range 4).foldl (fun m q => m + askOf l u.resource q 0 u.cc) 0))
  else decide (cap < k * n)) ||
  (divided u.resource && decide (0 < u.bytes) && !slotMine s (some tenant) u.cc)

/-- An item asks, in some segment, for more of some resource than it provides after what was taken before it (R45, R196, R390,
R398). -/
def itemOver (s : State) (tenant : Nat) (p : PlanImage) (g : Segment) (type idx : Nat) (own : List Use) : Bool :=
  let us := takenUses s p g type idx ++ own
  own.any (fun u => decide (0 < u.bytes) && useOver s tenant us u)

/-- A segment needs more of a degraded port than 400 Gb/s (R302). -/
def overDegraded (s : State) (g : Segment) : Bool :=
  g.uses.any (fun u => decide (32 ≤ u.resource ∧ u.resource < 128) && (portOf s (u.resource - 32)).degraded.isSome &&
    decide (500 < 33 * askOf g.uses u.resource u.part u.dir u.cc))

/-- Objects that an UPDATE entry works on: of a strip pass the master, gradient, moments and sketches, of a pre-pass the
gradient that it reads and the sketches that it writes (R204, R211, R222). -/
def updObjects (s : State) (e : SeEntry) : List Nat :=
  match descOf s e.object with
  | some d => ((if e.prep then [] else [e.object, d.master, d.mom1]) ++ [d.grad, d.mom2]).filter (· ≠ 0)
  | none => [e.object]

/-- The object that a stream reads (R198). -/
def streamObj (s : State) (tenant : Nat) (e : StreamEntry) : Nat := ((hitAt s tenant e.va).map (·.handle)).getD e.object

/-- Objects at addresses of a tenant. -/
def objsAt (s : State) (tenant : Nat) (vas : List Nat) : List Nat := (vas.filterMap (hitAt s tenant)).map (·.handle)

/-- The addresses that a correlator entry names, and the object that a PERMUTE moves (R277, R290). -/
def corVas (e : CorEntry) : List Nat := [e.src, e.dst] ++ (if e.op = 5 then [Config.permuteBase e.src] else [])

/-- Objects that a segment's planned accesses touch: its page lists, which hold the pages of every access of its threads, its
streams, its entries but the updates, and its correlator operations but one (R44, R211, R247, R290). -/
def touchedObjs (s : State) (tenant : Nat) (p : PlanImage) (i : Nat) (g : Segment) (but : Option Nat) : List Nat :=
  (segStreams p g).map (streamObj s tenant) ++
  (((segEntries p g).filter (·.op ≠ 3)).map (fun e =>
    e.object :: objsAt s tenant (e.va :: (if e.op = 2 ∨ e.op = 4 ∨ e.op = 5 then [e.srcVa] else [])))).flatten ++
  objsAt s tenant (((g.ops.filter (fun k => some k ≠ but)).filterMap (fun k => p.cor[k]?)).map corVas).flatten ++
  objsAt s tenant (((p.pages.filter (·.segment = i)).map (·.pages)).flatten ++ g.refetch.map (·.va))

/-- A planned access of a segment touches an object that the same segment updates: it streams from it, accumulates into its
gradient or touches it otherwise (R175, R204, R211). -/
def updateClash (s : State) (tenant : Nat) (p : PlanImage) (i : Nat) (g : Segment) : Bool :=
  let upd := ((segEntries p g).filter (·.op = 3)).map (updObjects s)
  let touched := touchedObjs s tenant p i g none
  upd.any (fun os => os.any (fun o => touched.contains o))

/-- A segment outside its PERMUTE accesses the object that the PERMUTE moves (R290). -/
def permuteClash (s : State) (tenant : Nat) (p : PlanImage) (i : Nat) (g : Segment) : Bool :=
  g.ops.any (fun k => match p.cor[k]? with
    | some e => e.op = 5 && (objsAt s tenant [Config.permuteBase e.src]).any (fun o =>
        (touchedObjs s tenant p i g (some k)).contains o ||
        ((segEntries p g).filter (·.op = 3)).any (fun u => (updObjects s u).contains o))
    | none => false)

/-- The step, counted from 0, that a segment lies in: a step ends with the segment that says so (R168). -/
def stepIndex (p : PlanImage) (i : Nat) : Nat := ((p.segments.take i).filter (·.stepEnd)).length

/-- A segment updates an object in a strip pass. -/
def updatesObj (p : PlanImage) (g : Segment) (o : Nat) : Bool :=
  (segEntries p g).any (fun e => e.op = 3 && !e.prep && e.object = o)

/-- The ALLGATHERs of a segment that write an object: with KEEP or not. -/
def gathers (s : State) (tenant : Nat) (p : PlanImage) (g : Segment) (o : Nat) : List CorEntry :=
  (g.ops.filterMap (fun k => p.cor[k]?)).filter (fun e => e.op = 3 && (objsAt s tenant [e.dst]).contains o)

/-- Objects that a segment reads: those of its streams, of the sources of its entries and correlator operations, and of its page
lists, which hold the pages of its threads' accesses (R287; log 19). -/
def readObjs (s : State) (tenant : Nat) (p : PlanImage) (i : Nat) (g : Segment) : List Nat :=
  (segStreams p g).map (streamObj s tenant) ++
  objsAt s tenant (((segEntries p g).filter (fun e => e.op = 2 || e.op = 4 || e.op = 5)).map (·.srcVa) ++
    (g.ops.filterMap (fun k => p.cor[k]?)).map (·.src) ++
    ((p.pages.filter (·.segment = i)).map (·.pages)).flatten ++ g.refetch.map (·.va))

/-- Segment `i` reads a destination whose last ALLGATHER before it had KEEP although the UPDATE_START segment of a step that
updates the gathered object has passed since (R287). The segments are taken in the plan's order. -/
def staleKept (s : State) (tenant : Nat) (p : PlanImage) (i : Nat) (g : Segment) : Bool :=
  let writes := fun (k o : Nat) => (p.segments[k]?).elim [] (fun gk => gathers s tenant p gk o)
  let updates := fun (u src : Nat) => p.segments.zipIdx.any (fun x => stepIndex p x.2 = stepIndex p u && updatesObj p x.1 src)
  (readObjs s tenant p i g).eraseDups.any (fun o =>
    (gathers s tenant p g o).isEmpty &&
    (List.range i).any (fun k =>
      (List.range i).all (fun l => l ≤ k || (writes l o).isEmpty) &&
      (writes k o).any (fun e => e.keep && (objsAt s tenant [e.src]).any (fun src =>
        (List.range i).any (fun u => decide (k ≤ u) && (p.segments[u]?).any (·.updateStart) && updates u src)))))

/-- The modules of the plan's groups other than this one. -/
def planPeers (s : State) (p : PlanImage) : List Nat :=
  ((p.groups.map (·.members)).flatten.eraseDups).filter (· ≠ moduleId s)

/-- Segments of the step that a segment ends or lies in, up to it. -/
def stepUpTo (p : PlanImage) (i : Nat) : List Segment :=
  (p.segments.take (i + 1)).foldl (fun acc g => if (acc.getLast?).any (·.stepEnd) then [g] else acc ++ [g]) []

/-- A segment breaks the step structure: a step that ends without exactly one UPDATE_START, a second one before the end,
or a group's UPDATE_START segment without its VERDICT and the updates' waits on it (R168, R178). The segments after a plan's last
STEP_END, a step that the plan does not end, may hold no UPDATE_START (DESIGN CHOICE, log 19: R168 does not say). -/
def stepBroken (s : State) (p : PlanImage) (i : Nat) (g : Segment) : Bool :=
  let n := ((stepUpTo p i).filter (·.updateStart)).length
  (listsGrad p && (decide (1 < n) || (g.stepEnd && n ≠ 1))) ||
  (listsGrad p && g.updateStart && !(planPeers s p).isEmpty &&
    match g.ops.head? with
    | some v => !((p.cor[v]?).any (·.op = 7) && (segEntries p g).all (fun e => e.op ≠ 3 || e.waitOp = some v))
    | none => true)

/-- The period for which plans are checked, and the largest finish cc (R45). -/
def maxFinish (s : State) (n : Nat) : Int := (n * 12672 : Nat) - (trimBound n : Int) - cfg s 0x10018 0 18

/-- The reasons against one segment (R44, R45, R158, R168, R175, R178, R204, R211, R287, R290, R302, R453). -/
def segReasons (s : State) (tenant : Nat) (p : PlanImage) (i : Nat) (g : Segment) : List Nat :=
  let cores := (g.refetch.map (·.core)).eraseDups
  (if maxFinish s p.period < g.finish then [2] else []) ++ (if itemOver s tenant p g 2 i g.uses then [3] else []) ++
  (if g.launches.all (fun l => coreThere s l.core) && g.uses.all (fun u => resourceThere s u.resource) && !overDegraded s g
    then [] else [4]) ++
  (if g.launches.all (fun l => decide (l.thread < 128) && decide (l.stream < 4096) &&
      p.words.any (fun w => w.1 = l.core && decide (l.entry < w.2.length))) then [] else [6]) ++
  (if (g.launches.map (·.stream)).eraseDups.length = g.launches.length then [] else [7]) ++
  (if stepBroken s p i g then [8] else []) ++
  (if updateClash s tenant p i g || permuteClash s tenant p i g || staleKept s tenant p i g || cores.any (fun c => decide (16 < (g.refetch.filter (·.core = c)).length)) then [9] else [])

/-! ### Tags, correlator entries, stack-engine entries, streams, page lists -/

/-- The reasons against one tag entry: encodings, the step structure a tag asks for, and tags of running jobs (R162,
R163, R168). -/
def tagReasons (s : State) (tenant : Nat) (p : PlanImage) (t : Nat × W64) : List Nat :=
  let w := t.2
  let bad := tagMode w = 3 || decide (2 ≤ tagTgt w) || decide (5 ≤ tagBlk w) || fld w 27 37 ≠ 0 ||
    ((tagMode w = 1 || tagMode w = 2) && tagBlk w = 0) || decide (1024 ≤ t.1) ||
    ((tagMode w = 1 || tagGrad w) && !(p.segments.any (·.stepEnd)))
  let running := s.jobs.any (fun e => e.2.tenant = tenant && (imageOf s e.2).any (fun q => q.tags.any (·.1 = t.1)))
  (if bad then [8] else []) ++ (if running then [0x0E] else [])

/-- Operations of a segment on a half, among those that a test lets through. -/
def opsHalf (s : State) (p : PlanImage) (g : Segment) (h : Nat) (f : Nat → Bool) : Nat :=
  ((g.ops.filter f).filter (fun k => (p.cor[k]?).any (fun x => entryHalf s p x = h))).length

/-- An entry is the 65th or a later one that some segment, with the other loaded plans at their largest, may hold in flight on
its half (R273, R390). -/
def halfFull (s : State) (p : PlanImage) (i : Nat) (e : CorEntry) : Bool :=
  let h := entryHalf s p e
  let others := s.plans.foldl (fun n q => n + (q.2.image.segments.map (fun g =>
    opsHalf s q.2.image g h (fun _ => true))).foldl max 0) 0
  p.segments.any (fun g => g.ops.contains i && decide (64 ≤ others + opsHalf s p g h (fun k => decide (k < i))))

/-- The half whose burst-queue SRAM serves an edge of a plan: the downstream member's (R273, R292). -/
def edgeHalf (s : State) (p : PlanImage) (q : QEdge) : Option Nat :=
  match p.groups[q.group]? with
  | some g => if g.rank = q.down then some (halfTo s (g.members[q.up]?).toList) else none
  | none => none

/-- Edges of a plan that a half serves. -/
def edgesHalf (s : State) (p : PlanImage) (h : Nat) : Nat := (p.edges.filter (fun q => edgeHalf s p q = some h)).length

/-- An entry is the first to name an edge beyond the 64 that a half serves, the other loaded plans' edges among them (R273,
R390). -/
def edgesFull (s : State) (p : PlanImage) (i : Nat) (e : CorEntry) : Bool :=
  e.op = 9 &&
  match (p.edges[e.queue]?).bind (edgeHalf s p) with
  | none => false
  | some h =>
    let others := s.plans.foldl (fun n q => n + edgesHalf s q.2.image h) 0
    let before := (((p.cor.take i).filter (fun x => x.op = 9)).map (·.queue)).eraseDups.filter (fun q =>
      (p.edges[q]?).bind (edgeHalf s p) = some h)
    !before.contains e.queue && decide (64 ≤ others + before.length)

/-- Output formats of a reducing entry: the conversions of R282 for X32 and L16 partials, and for I32 partials the one that R77
gives integers; I64 and BS8 are formats of no element (R65, R77, R81, R282). -/
def outFits (e : CorEntry) : Bool := if e.inFmt = 4 then decide (e.outFmt = 4 ∨ e.outFmt = 3) else decide (e.outFmt ≤ 3)

/-- Bytes of an object from an address to its end, where a tenant maps it. -/
def roomFrom (s : State) (tenant va : Nat) : Option Nat :=
  (hitAt s tenant va).map (fun h => h.map.base + h.obj.pages * pageBytes h.obj.psize - va)

/-- The reasons against one correlator entry (R81, R136, R273, R278, R282, R287, R290). A sync field that no flag or gate uses
names an object where it is not 0 (DEDUCED, log 19). -/
def corReasons (s : State) (tenant : Nat) (p : PlanImage) (i : Nat) (e : CorEntry) : List Nat :=
  let reduces := e.op = 1 || e.op = 2
  let n := p.n0 + p.n1
  let names := fun (used : Bool) (o : Nat) => (used || o ≠ 0) && decide (n ≤ o)
  let bad := e.op = 0 || decide (9 < e.op) || e.red = 3 || e.rsv ≠ 0 || e.armCc = 0 ||
    (e.op ∈ [3, 4, 5, 6, 8, 9] && e.red ≠ 0) || (reduces && (e.inFmt ∉ [2, 3, 4] || !outFits e)) ||
    (e.part16 && (e.inFmt = 4 || decide (e.outFmt ≤ 1))) || (e.keep && e.op ≠ 3) || decide (p.groups.length ≤ e.group) ||
    ((e.op = 8 || e.op = 9) && decide (p.edges.length ≤ e.queue)) || (!(e.op = 8 || e.op = 9) && e.queue ≠ 0) ||
    names (e.gateVal ≠ 0) e.gate || names e.sig e.sync || names e.sigSrc e.syncSrc
  let arrive := (e.op = 8 || e.op = 9) && (p.edges[e.queue]?).any (fun q => decide (n ≤ q.arrive))
  (if halfFull s p i e || edgesFull s p i e then [3] else []) ++ (if 6 < e.inFmt ∨ 6 < e.outFmt then [5] else []) ++
  (if (e.op = 3 && e.keep && !((hitAt s tenant e.dst).any (·.obj.home = 0))) ||
      (e.op = 5 && decide ((roomFrom s tenant e.dst).getD 0 < 16 * e.count + 4096)) then [9] else []) ++
  (if bad then [0x0C] else []) ++ (if arrive then [0x0D] else [])

/-- The reasons against one group, judged by the queue edges between its members: the ranks, a ring of 2 MiB to 4 GiB in
multiples of 2 MiB, at most 64 edges of the plan, and ARRIVE (R136, R292). That an edge is judged with its group is DESIGN CHOICE
(log 19: R390 lists no item of its own for it). -/
def groupReasons (p : PlanImage) (i : Nat) (g : Group) : List Nat :=
  let mine := p.edges.zipIdx.filter (fun q => q.1.group = i)
  let n := g.members.length
  let bad := mine.any (fun q => decide (64 ≤ q.2) || decide (n ≤ q.1.up) || decide (n ≤ q.1.down) || q.1.up = q.1.down ||
    q.1.ringBytes % 2 ^ 21 ≠ 0 || decide (q.1.ringBytes < 2 ^ 21) || decide (2 ^ 32 < q.1.ringBytes))
  (if bad then [0x0C] else []) ++ (if mine.any (fun q => decide (p.n0 + p.n1 ≤ q.1.arrive)) then [0x0D] else [])

/-- Stacks that the mapped pages of a byte range of an object lie in, or are given to (R197, R252). -/
def rangeStacks (o : Obj) (lo n : Nat) : List Nat :=
  let sz := pageBytes o.psize
  if n = 0 then [] else
  ((List.range ((lo + n - 1) / sz - lo / sz + 1)).map (fun i => stackFor o (lo / sz + i))).eraseDups

/-- A byte range of an object lies on a stack: its pages, all of them mapped where `strict` asks for it (R197). -/
def objOnStack (s : State) (strict : Bool) (h lo n k : Nat) : Bool :=
  match look s.objs h with
  | some o => (!strict || decide (lo + n ≤ o.pages * pageBytes o.psize)) && (rangeStacks o lo n).all (· = k)
  | none => !strict

/-- The same for a byte range of a tenant's address space. -/
def onStack (s : State) (strict : Bool) (tenant va n k : Nat) : Bool :=
  match hitAt s tenant va with
  | some h => n = 0 || objOnStack s strict h.handle (va - h.map.base) n k
  | none => !strict || n = 0

/-- The companions that a rule uses are named, and there, and no others (R221, R227). -/
def companionsOk (s : State) (d : Descriptor) : Bool :=
  let want := fun (need : Bool) (h : Nat) => if need then h ≠ 0 && (look s.objs h).isSome else h = 0
  want (hasM1 d.rule) d.mom1 && want (hasM2 d.rule || hasSketch d.rule) d.mom2 && want (hasX0 d.rule) d.x0 &&
  want (hasX0 d.rule) d.out && want true d.grad

/-- An UPDATE entry's part is as its rule wants it (R221, R227). -/
def partOk (s : State) (d : Descriptor) (e : SeEntry) : Bool :=
  let vals := partVals d e
  knownRule d.rule && companionsOk s d && (look s.objs e.object).all (fun o => (e.firstStrip * 65536) % pageBytes o.psize = 0) &&
  (d.rule ∉ [3, 4, 0x10, 0x11] || (vals % max 1 d.cols = 0 && 32768 * e.firstStrip % max 1 d.cols = 0)) &&
  (!hasSketch d.rule || decide (rankOf d * (vals / max 1 d.cols + d.cols) ≤ 40960)) &&
  (d.rule ≠ 4 || decide (1 ≤ d.rank ∧ d.rank ≤ 16))

/-- Bytes of a part's moments: whole strips, and of a partial one codes and scales of its values (R221, R222). -/
def momBytes (d : Descriptor) (e : SeEntry) : Nat :=
  let last := partVals d e - 32768 * (e.strips - 1)
  33280 * (e.strips - 1) + (if e.strips = 0 ∨ last = 0 then 0 else 32768 + ceilDiv last 64)

/-- Every page that an entry touches lies in its stack: the part and its companions for an UPDATE, else its ranges (R197,
R222). -/
def entryPlaced (s : State) (strict : Bool) (tenant : Nat) (p : PlanImage) (e : SeEntry) : Bool :=
  match e.op with
  | 3 => match descOf s e.object with
    | none => !strict
    | some d =>
      let on := fun (h lo n : Nat) => objOnStack s strict h lo n e.stack
      let at_ := fun (h : Nat) => partStart s h e.stack
      on e.object (65536 * e.firstStrip) (2 * partVals d e) && on d.grad (at_ d.grad) (2 * partVals d e) &&
      (!hasM1 d.rule || on d.mom1 (at_ d.mom1) (momBytes d e)) && (!hasM2 d.rule || on d.mom2 (at_ d.mom2) (momBytes d e)) &&
      (!hasSketch d.rule || on d.mom2 (at_ d.mom2) (64 + 2 * partSlot d e)) &&
      (!hasX0 d.rule || (on d.x0 (at_ d.x0) (65536 * e.strips + 64) && on d.out (at_ d.out) (2 * partVals d e)))
  | 2 => onStack s strict tenant e.va (2 * e.count) e.stack && onStack s strict tenant e.srcVa (2 * e.count) e.stack
  | 4 => onStack s strict tenant e.va (packMax (planTag p e.tag) e) e.stack &&
    onStack s strict tenant e.srcVa (elemBytes e.srcFmt e.count) e.stack
  | 5 => onStack s strict tenant e.va e.count e.stack && onStack s strict tenant e.srcVa e.alloc e.stack
  | _ => onStack s strict tenant e.va e.count e.stack

/-- The rows of a stream lie in its stack (R197, R198). -/
def streamPlaced (s : State) (strict : Bool) (tenant : Nat) (e : StreamEntry) : Bool :=
  (List.range e.rows).all (fun i => onStack s strict tenant (e.va + i * e.stride) 512 e.stack)

/-- The reasons against one stack-engine entry (R183, R195 to R197, R221, R227). A PACK reads L16, X32 or L8 (R195); form L16
stores its data unchanged, so its source is L16 (R66, R205; DEDUCED, log 23). -/
def seReasons (s : State) (tenant : Nat) (p : PlanImage) (i : Nat) (e : SeEntry) : List Nat :=
  let w := planTag p e.tag
  let formBad := decide (3 < e.form) || (e.form = 2 && e.srcFmt ≠ 1) || (decide (e.form ≤ 1) && tagMode w = 0) ||
    (e.form = 3 && e.srcFmt ≠ 2)
  let tips := p.segments.any (fun g => g.entries.contains i && itemOver s tenant p g 6 i (entryUses s w e))
  (if tips || !entryFits s w e then [3] else []) ++ (if stackThere s e.stack then [] else [4]) ++
  (if e.op = 4 ∧ 6 < e.srcFmt then [5] else []) ++
  (if 2 ≤ e.op ∧ e.op ≤ 6 ∧ (e.op ≠ 4 ∨ 6 < e.srcFmt ∨ e.srcFmt ∈ [1, 2, 3]) then [] else [6]) ++
  (if entryPlaced s false tenant p e && (e.op ≠ 3 || (descOf s e.object).all (fun d => partOk s d e)) then [] else [9]) ++
  (if e.op = 4 ∧ formBad then [0x0A] else [])

/-- Streams of a segment on the stack of a stream, taken before it (R198). -/
def streamFull (p : PlanImage) (i : Nat) (e : StreamEntry) : Bool :=
  p.segments.any (fun g => g.streams.contains i &&
    decide (8 ≤ ((g.streams.filter (fun k => decide (k < i))).filter (fun k => (p.streams[k]?).any (fun x => x.stack = e.stack && x.base.isNone))).length))

/-- A stream's deliveries keep R199's bounds, and the burst periods in which the plan reads its rows do: one for each row, in
order, not before A, once the buffer has room, early enough for its valid cc and within the exposure. -/
def streamTimely (s : State) (e : StreamEntry) : Bool :=
  let path := if e.dests.any (fun c => c / 18 ≠ e.stack / 6) then 244 else 216
  decide (e.armCc + path ≤ e.d0) && decide ((if e.mode = 2 then 2 else 1) ≤ e.interval) && decide (e.reads.length = e.rows) &&
  e.reads.zipIdx.all (fun x =>
    decide (e.armCc ≤ 33 * x.1) && (decide (x.2 < 32) || decide (rowValid e (x.2 - 32) ≤ 33 * x.1)) &&
    decide (33 * (x.1 + 1) + path ≤ rowValid e x.2) && decide (x.1 < lastBp (cfg s 0x10000 0 16)) &&
    (decide (x.2 = 0) || decide ((e.reads[x.2 - 1]?).getD 0 ≤ x.1)))

/-- The reasons against one stream, or receive record; its target mode is L4, L8 or L16 (R64, R197 to R199, R406). -/
def streamReasons (s : State) (tenant : Nat) (p : PlanImage) (i : Nat) (e : StreamEntry) : List Nat :=
  let w := planTag p e.tag
  let shape := decide (1 ≤ e.dests.length ∧ e.dests.length ≤ 16) && (e.dests.map (· / 18)).eraseDups.length = 1 &&
    e.stride % 512 = 0 && decide (0 < e.rows)
  let tips := p.segments.any (fun g => g.streams.contains i && itemOver s tenant p g 7 i (streamUses p e))
  if e.base.isSome then (if e.dests.all (coreThere s) then [] else [4])
  else
    (if streamFull p i e || !streamTimely s e || tips then [3] else []) ++
    (if stackThere s e.stack && e.dests.all (coreThere s) then [] else [4]) ++ (if 6 < e.mode then [5] else []) ++
    (if shape && decide (e.mode ≤ 2) then [] else [6]) ++
    (if decide (e.mode ≤ 1) && !((tagMode w = 1 || tagMode w = 2) && tagTgt w = (if e.mode = 0 then 0 else 1)) then [8] else []) ++
    (if streamPlaced s false tenant e then [] else [9])

/-- The reasons against one page list (R247). -/
def pageReasons (p : PlanImage) (i : Nat) (l : PageList) : List Nat :=
  let before := (p.pages.take (i + 1)).filter (fun x => x.segment = l.segment && x.core = l.core)
  if 2048 < (before.map (·.pages.length)).foldl (· + ·) 0 then [0x0B] else []

/-- The reasons against one issue map: each of its 64 cc belongs to one plan's job, and a plan with a program on the core has
some cc of it (R45, R119; log 19). -/
def mapReasons (s : State) (p : PlanImage) (i : Nat) (m : IssueMap) : List Nat :=
  let others := ((s.plans.map (fun e => e.2.image.maps)).flatten ++ p.maps.take i).filter (fun x => x.core = m.core)
  let fits := m.mine.length = 64 && !(m.mine.zipIdx.any (fun x => x.1 && others.any (fun o => (o.mine[x.2]?).getD false))) &&
    (m.mine.any id || !(p.words.any (fun w => w.1 = m.core && !w.2.isEmpty)))
  if coreThere s m.core then (if fits then [] else [3]) else [4]

/-! ### The order of the checks (R390) -/

/-- The lowest reason, if any. -/
def lowest : List Nat → Option Nat
  | [] => none
  | a :: r => some (r.foldl min a)

/-- The first item of a section that breaks a rule: its reason and index. -/
def firstBad (rs : List (List Nat)) : Option (Nat × Nat) :=
  (rs.zipIdx.findSome? (fun x => (lowest x.1).map (fun r => (r, x.2))))

/-- The items of a section with their reasons. -/
def sectionReasons (s : State) (tenant : Nat) (p : PlanImage) (type : Nat) : List (List Nat) :=
  match type with
  | 1 => (p.words.map (fun c => c.2.zipIdx.map (fun w => wordReasons s p c.1 c.2.length w.2 w.1))).flatten
  | 2 => p.segments.zipIdx.map (fun g => segReasons s tenant p g.2 g.1)
  | 3 => p.tags.map (tagReasons s tenant p)
  | 4 => p.groups.zipIdx.map (fun g => groupReasons p g.2 g.1)
  | 5 => p.cor.zipIdx.map (fun e => corReasons s tenant p e.2 e.1)
  | 6 => p.se.zipIdx.map (fun e => seReasons s tenant p e.2 e.1)
  | 7 => p.streams.zipIdx.map (fun e => streamReasons s tenant p e.2 e.1)
  | 8 => p.pages.zipIdx.map (fun l => pageReasons p l.2 l.1)
  | 9 => p.maps.zipIdx.map (fun m => mapReasons s p m.2 m.1)
  | _ => []

/-- The section of the table that is refused with reason 0x20. -/
def badSection (p : PlanImage) : Option Nat :=
  let rec go : List SectionRec → List Nat → Option Nat
    | [], seen => if seen.contains 2 ∧ ¬ p.segments.isEmpty then none else some 2
    | r :: rest, seen =>
      if r.type = 0 ∨ 9 < r.type ∨ seen.contains r.type ∨ p.length < r.offset + r.length then some r.type
      else go rest (r.type :: seen)
  go p.sections []

/-- The refusal of an image: reason, section type and index (R390). -/
def planRefusal (s : State) (tenant : Nat) (p : PlanImage) : Option (Nat × Nat × Nat) :=
  if p.period ≠ cfg s 0x10000 0 16 then some (1, 0, 0xFFFFFFFF)
  else match badSection p with
    | some t => some (0x20, t, 0xFFFFFFFF)
    | none => p.sections.findSome? (fun r => (firstBad (sectionReasons s tenant p r.type)).map (fun x => (x.1, r.type, x.2)))

/-- Words of an image on a core. -/
def wordsOn (p : PlanImage) (core : Nat) : Nat := (p.words.filter (·.1 = core)).foldl (fun n w => n + w.2.length) 0

/-- The image's words fit into the instruction stores beside the loaded plans (R114). -/
def wordsFit (s : State) (p : PlanImage) : Bool :=
  (List.range 36).all (fun c => decide (wordsOn p c + s.plans.foldl (fun n e => n + wordsOn e.2.image c) 0 ≤ 32768))

end Sys2Proof.Machine
end

