-- ==== Sys2Proof/Machine/Objects.lean ====
section
/-! DEFINITION. Commands on memory: tier setup, objects, windows, the ephemeris and regions (spec/14 R385 to R391;
spec/10 R242, R243, R250 to R260; spec/13 R348 to R350; spec/15 R396, R405). -/

namespace Sys2Proof.Machine

/-! ### Parameter blocks and outputs (R383, R385, R386) -/

/-- Write bytes where a command's output or parameter block lies, by the same PDEV flag (DEDUCED, log 21): none where
they cannot be written. The bytes are charged to its request (R436). -/
def putOut (x : Exec) (a : Nat) (bs : List Byte) (s : State) : Option State :=
  let s := chargeReq (accountOf x (ownerOnly x.hdr.opcode)) x.hdr.requestId (25 * bs.length) s
  if bitOf x.hdr.flags 0 then
    if (devicePlaces s x.fn a bs.length true).isNone then none
    else if x.fn = 0 then some (ownerWrite a bs s)
    else some (writeVa (farWrite 4096 (x.fn - 1) 5) (x.fn - 1) [] a bs s)
  else if x.hdr.ioOk then some (emit (.hostWrite x.fn a bs) s) else none

/-- Write an output and answer SUCCESS with an echo, or IO_ERROR (R386, R387). -/
def answerOut (cmd : Nat) (x : Exec) (a : Nat) (bs : List Byte) (echo : Nat) (s : State) : State :=
  match putOut x a bs s with
  | some s => done cmd echo s
  | none => fail cmd 0x18 s

/-- A clamped field goes back into the parameter block at its offset where it changed (R385). -/
def writeBack (x : Exec) (off n old new : Nat) (s : State) : State :=
  if old = new then s else (putOut x (x.hdr.param + off) (leBytes n new) s).getD s

/-- A tenant-scoped command of a tenant that is still ACTIVE (R380, R392). -/
def forTenant (cmd op : Nat) (f : Exec → State → State) (s : State) : State :=
  runCmd cmd op (fun x s => match look s.tenants x.tenant with
    | some t => if t.destroying then fail cmd 0x19 s else f x s
    | none => fail cmd 0x13 s) s

/-- A tenant-scoped command with a parameter block. -/
def withBlock (cmd op : Nat) (f : Exec → State → State) (s : State) : State :=
  forTenant cmd op (fun x s => if blockOk s x then f x s else fail cmd 0x18 s) s

/-- A command on an object that its tenant maps (R386). -/
def mappedObject (cmd : Nat) (x : Exec) (h : Nat) (f : Obj → Mapping → State → State) (s : State) : State :=
  match if h = 0 then none else look s.objs h with
  | none => fail cmd 0x14 s
  | some o => match mapOf o x.tenant with
    | none => fail cmd 0x12 s
    | some m => f o m s

/-- A mask without its unpopulated bits, the whole populated set where none is left (R385). -/
def stacksOf (s : State) (m : Nat) : Nat := let k := m &&& stackMask s; if k = 0 then stackMask s else k

/-! ### TIER_SETUP (R243) -/

/-- Frames offered for objects in the whole module. -/
def offeredFrames (s : State) : Nat := frameLimit * (stackList s).length

/-- TIER_SETUP: the module tables take the first frames of each stack of the mask, once for each bring-up; the night-log
ring begins with them (R243, R388, R455). -/
def execTierSetup (t cmd : Nat) (s : State) : Res :=
  .next (runCmd cmd 0x0301 (fun x s =>
    if s.tables.isSome then fail cmd 0x15 s
    else
      let least := frameTableBytes s + vaultMapBytes s + 64 * 2 ^ 20
      let bytes := clampNat least (max least (offeredFrames s * 65536 / 4)) x.hdr.p0
      let mask := stacksOf s (x.hdr.p1 % 4096)
      let s' := { s with tables := some (bytes, mask), flt := { s.flt with ringSet := true } }
      if (maskStacks mask).any (fun k => decide (frameLimit < tableRun s' k) || (heldFrames s k).any (fun f => decide (f.1 < tableRun s' k)))
      then fail cmd 0x16 s
      else done cmd bytes s') (tick t s))

/-! ### OBJ_MAP (R242, R250 to R252, R266, R391, R396, R405) -/

/-- The ranges that a tenant maps: (base, bytes). -/
def tenantRanges (s : State) (tenant : Nat) : List (Nat × Nat) :=
  s.objs.filterMap (fun e => (mapOf e.2 tenant).map (fun m => (m.base, e.2.pages * pageBytes e.2.psize)))

/-- Page sizes that a home tier holds (R241). -/
def sizeHeld (home page : Nat) : Bool :=
  if home = 0 then decide (page ≤ 2) else if home = 2 then page = 0 else decide (page ≤ 1)

/-- The geometry of a mapping breaks R250. -/
def geometryBad (s : State) (tenant base size page : Nat) : Bool :=
  size = 0 || base % pageBytes page ≠ 0 || size % pageBytes page ≠ 0 || decide (2 ^ 56 < base + size) ||
  (tenantRanges s tenant).any (fun r => rangesMeet base size r.1 r.2)

/-- Ranges in ascending order of base. -/
def rangeInsert (x : Nat × Nat) : List (Nat × Nat) → List (Nat × Nat)
  | [] => [x]
  | y :: r => if x.1 < y.1 then x :: y :: r else y :: rangeInsert x r

/-- Tables of one level that some disjoint ranges touch: a table covers 2^b bytes. -/
def tablesAt (b : Nat) (rs : List (Nat × Nat)) : Nat :=
  ((rs.foldl (fun l x => rangeInsert x l) []).foldl (fun (a : Nat × Option Nat) x =>
    let lo := x.1 / 2 ^ b
    let hi := (x.1 + x.2 - 1) / 2 ^ b
    (a.1 + (hi - lo + 1) - (if a.2 = some lo then 1 else 0), some hi)) (0, none)).1

/-- 4 KiB units of the table pool that a tenant's tree takes: a unit for each table of levels 1 to 4, 16 tables of level 0
to a unit, 256 apertures to a unit (R243 to R245; DEDUCED, log 21). -/
def poolUnits (small mid all : List (Nat × Nat)) (remote : Nat) : Nat :=
  if all.isEmpty then 0
  else 1 + tablesAt 48 all + tablesAt 39 all + tablesAt 30 mid + ceilDiv (tablesAt 21 small) 16 + ceilDiv remote 256

/-- The units of a tenant's tree, with a mapping of `extra` = (base, bytes, page size, remote) more. -/
def tenantUnits (s : State) (tenant : Nat) (extra : Option (Nat × Nat × Nat × Bool)) : Nat :=
  let ms := s.objs.filterMap (fun e => (mapOf e.2 tenant).map (fun m => (m.base, e.2.pages * pageBytes e.2.psize, e.2.psize, e.2.home == 3)))
  let ms := ms ++ extra.toList
  let ranges := fun (f : Nat → Bool) => (ms.filter (fun m => f m.2.2.1)).map (fun m => (m.1, m.2.1))
  poolUnits (ranges (· = 0)) (ranges (· ≤ 1)) (ranges (fun _ => true))
    ((ms.filter (·.2.2.2)).foldl (fun n m => n + m.2.1 / pageBytes m.2.2.1) 0)

/-- The table pool has room for one more mapping (R243). -/
def poolRoom (s : State) (tenant base size page : Nat) (remote : Bool) : Bool :=
  match s.tables with
  | none => false
  | some (bytes, _) =>
    let pool := (bytes - frameTableBytes s - vaultMapBytes s) / 4096 - 1024
    let others := (s.tenants.map (·.1)).filter (· ≠ tenant)
    decide (others.foldl (fun n t => n + tenantUnits s t none) 0 + tenantUnits s tenant (some (base, size, page, remote)) ≤ pool)

/-- A logical range is free again: it joins the free ranges that it touches, and the pages that no range has taken yet (R258,
R266). -/
def vaultFree (r : Nat × Nat) (v : Vault) : Vault :=
  let join := fun (r : Nat × Nat) (l : List (Nat × Nat)) => match l.find? (fun x => x.1 + x.2 = r.1 || r.1 + r.2 = x.1) with
    | some x => ((min x.1 r.1, x.2 + r.2), l.filter (· ≠ x))
    | none => (r, l)
  let a := join r v.free
  let b := join a.1 a.2
  if b.1.1 + b.1.2 = v.nextPage then { v with free := b.2, nextPage := b.1.1 } else { v with free := b.2 ++ [b.1] }

/-- The first free logical range of the vault for a number of pages (R266). -/
def vaultRange (s : State) (n : Nat) : Option (Nat × Vault) :=
  match s.vault.free.find? (fun r => decide (n ≤ r.2)) with
  | some r =>
    let rest := s.vault.free.filter (· ≠ r)
    some (r.1, { s.vault with free := if r.2 = n then rest else (r.1 + n, r.2 - n) :: rest })
  | none =>
    if s.vault.nextPage + n ≤ vaultPages s then some (s.vault.nextPage, { s.vault with nextPage := s.vault.nextPage + n }) else none

/-- Give a frame to one page of an object whose home is HBM: a free run, or one that FILLING frames still hold (R252). A page
mapped afresh holds zeros, so a pre-pass header in it is EMPTY (R214, R223). -/
def homeFrame (o : Obj) (h page : Nat) (s : State) : Option State :=
  let k := stackFor o page
  let n := pageFrames o.psize
  let solid := (0, tableRun s k) :: heldFrames s k ++ (stackOf s k).retired.map (fun f => (f.1, 1))
  if ¬ hasStack s k ∨ (stackOf s k).unusable then none
  else match freeFrame s k n with
    | some f =>
      let key := k * 2 ^ 20 + f
      let o' := (look s.objs h).getD o
      some { s with
        frames := tput s.frames key (freshFrame 2 h page s.now)
        recs := tclear s.recs key n
        hbm := tclear s.hbm (key * 65536) (n * 65536)
        objs := tput s.objs h { o' with loc := tput o'.loc page key } }
    | none => (freeRun solid n).map (fun f =>
        { s with frames := tput s.frames (k * 2 ^ 20 + f) (freshFrame 1 h page s.now) })

/-- Frames for every page of an object, or none (R252). -/
def homeFrames (o : Obj) (h : Nat) : Nat → State → Option State
  | 0, s => some s
  | n + 1, s => (homeFrames o h n s).bind (fun s => homeFrame o h n s)

/-- SHA-384 of an object's contents in page order (R405); contents outside the module are not the model's: a free value
(log 3). -/
def objHash (s : State) (o : Obj) : Nat :=
  if o.home = 1 ∨ o.home = 3 then Config.sha384 [Config.freeByte s.free]
  else Config.sha384 (((List.range o.pages).map (fun p => match look o.loc p with
    | some f => hbmRead s (f * 65536) (pageBytes o.psize)
    | none => tread s.flash ((o.homeLoc + p) * 65536) (pageBytes o.psize) 0)).flatten)

/-- The scale table of a running job of a tenant lies in an object (R172, R387). -/
def holdsScales (s : State) (h : Nat) (only : Option Nat) : Bool :=
  s.jobs.any (fun e => only.all (· = e.2.tenant) && (hitAt s e.2.tenant e.2.block.scale).any (·.handle = h))

/-- Seal an object where its hash is the expected one (R405): its mappings lose W and ACC. -/
def sealObj (cmd h hash : Nat) (k : State → State) (s : State) : State :=
  match look s.objs h with
  | none => fail cmd 0x14 s
  | some o =>
    let s := { s with free := s.free + 1 }
    if objHash s o ≠ hash ∨ holdsScales s h none then refuseWith cmd 0x18 s
    else k { bump 0xC00208 32 1 s with objs := tput s.objs h { o with sealHash := some hash, maps := o.maps.map (fun m => { m with w := false, acc := false }) } }

/-- The block that a mapping of an object needs (R391). -/
def mapLength (b : MapBlock) : Nat := if bitOf b.extra 1 then 176 else if bitOf b.extra 0 then 128 else 64

/-- The least refusal reason of a new object, or none. -/
def mapReason (s : State) (tenant : Nat) (x : Tenant) (b : MapBlock) : Option Nat :=
  let gone := (b.home = 2 && !hasVault s) || (b.home = 1 && x.hostLen = 0)
  let pages := b.size / pageBytes b.page
  if gone then some 0x12
  else if s.tables.isNone ∨ ¬ poolRoom s tenant b.base b.size b.page (b.home == 3) then some 0x13
  else if b.home = 2 ∧ (vaultRange s pages).isNone then some 0x14
  else if b.policy = 3 ∧ b.home ≠ 2 then some 0x15
  else if bitOf b.extra 1 ∧ b.rights % 4 ≠ 0 then some 0x18
  else if stacksOf s (b.stks % 4096) &&& x.stks ≠ stacksOf s (b.stks % 4096) then some 0x1A
  else if geometryBad s tenant b.base b.size b.page ∨ ¬ sizeHeld b.home b.page then some 0x21
  else none

/-- A new object (R250, R391). Its pages are aligned in their tier address, so the bits of HOME_LOC below the page size do not
count (R244; DESIGN CHOICE, log 21). -/
def newObject (tenant : Nat) (b : MapBlock) (stks stripe shelf loc : Nat) : Obj :=
  { pages := b.size / pageBytes b.page, psize := b.page, home := b.home, policy := b.policy, stks, stripe, shelf,
    homeLoc := if b.home = 2 then loc else loc / pageBytes b.page * pageBytes b.page
    key := b.key, module := b.module, peer := b.peer, accSr := bitOf b.rights 2, accX := bitOf b.rights 3
    tag := b.tag % 1024, desc := b.desc, sealHash := none,
    maps := [{ tenant, base := b.base, w := bitOf b.rights 0, acc := bitOf b.rights 1, pins := [] }], lost := [], loc := [] }

/-- An object whose home is HBM is answered once every page is RESIDENT (R252). -/
def finishMap (cmd h : Nat) (s : State) : State :=
  let wait := (s.frames.filter (fun f => f.2.obj = h && f.2.state = 1)).map (·.2.page)
  if wait.isEmpty then done cmd h s
  else modCmd cmd (fun x => { x with obj := h, left := wait, echo := some h }) s

/-- Map a new object. -/
def mapNew (cmd : Nat) (x : Exec) (ten : Tenant) (b : MapBlock) (s : State) : State :=
  match mapReason s x.tenant ten b with
  | some r => refuseWith cmd r s
  | none =>
    let stks := stacksOf s (b.stks % 4096)
    let stripe := clampNat 1 (2 ^ 24) b.stripe
    let shelf := if b.home = 2 then clampNat 1 (2 ^ 20) b.shelf else 0
    let (loc, vault) := if b.home = 2 then (vaultRange s (b.size / pageBytes b.page)).getD (0, s.vault) else (b.homeLoc, s.vault)
    let h := s.nextObj
    let o := newObject x.tenant b stks stripe shelf loc
    let s1 := { s with nextObj := h + 1, vault, objs := tput s.objs h o }
    match if b.home = 0 then homeFrames o h o.pages s1 else some s1 with
    | none => fail cmd 0x16 s
    | some s1 =>
      let s1 := writeBack x 22 2 (b.stks % 4096) stks (writeBack x 24 4 b.stripe stripe (writeBack x 28 4 b.shelf shelf s1))
      if bitOf b.extra 1 then
        let s2 := { s1 with free := s1.free + 1 }
        if objHash s2 o ≠ b.hash then refuseWith cmd 0x18 s
        else finishMap cmd h { bump 0xC00208 32 1 s2 with objs := tmod s2.objs h (fun o => { o with sealHash := some b.hash }) }
      else finishMap cmd h s1

/-- A descriptor's fields that break their ranges or reserved bits (R220). The rules do not say how one outside its range is
answered: as a reserved code (DESIGN CHOICE, log 21). -/
def descBad (d : Descriptor) : Bool :=
  decide (d.e < -64) || decide (63 < d.e) || decide (256 ≤ d.hyp) || decide (4 ≤ d.flags) || bits d.mtag 10 5 ≠ 0 ||
  (if d.rule = 4 then decide (16 < d.rank) else d.rank ≠ 0)

/-- The reserved bits and codes of an OBJ_MAP block (R220, R386, R391). -/
def mapBlockBad (x : Exec) (b : MapBlock) : Bool :=
  b.rsv ≠ 0 || decide (16 ≤ b.rights) || decide (4 ≤ b.extra) || decide (x.hdr.length < mapLength b) ||
  (b.handle = 0 && b.desc.any descBad) || (b.handle = 0 && (decide (3 < b.home) || decide (2 < b.page) || decide (3 < b.policy)))

/-- OBJ_MAP of a new object. -/
def execObjMap (t cmd : Nat) (b : MapBlock) (s : State) : Res :=
  let s := tick t s
  .next (if b.handle ≠ 0 then s else withBlock cmd 0x0302 (fun x s =>
    if mapBlockBad x b then fail cmd 0x11 s
    else match look s.tenants x.tenant with
      | some ten => mapNew cmd x ten b s
      | none => s) s)

/-- The least refusal reason of a further mapping of an object, or none (R250, R396, R405). -/
def remapReason (s : State) (tenant : Nat) (x : Tenant) (o : Obj) (b : MapBlock) : Option Nat :=
  let sealBad := match o.sealHash with
    | some hash => b.rights % 4 ≠ 0 || !bitOf b.extra 1 || hash ≠ b.hash
    | none => bitOf b.extra 1 && b.rights % 4 ≠ 0
  let size := o.pages * pageBytes o.psize
  if s.tables.isNone ∨ ¬ poolRoom s tenant b.base size o.psize (o.home == 3) then some 0x13
  else if sealBad then some 0x18
  else if o.stks &&& x.stks ≠ o.stks then some 0x1A
  else if (mapOf o tenant).isSome ∨ geometryBad s tenant b.base size o.psize then some 0x21
  else none

/-- Map an existing object for one more tenant; its handle is what the command changes (R380). -/
def mapExisting (cmd : Nat) (b : MapBlock) (sealing : Bool) (s : State) : State :=
  let s := modCmd cmd (fun x => if x.begun then x else { x with obj := b.handle }) s
  withBlock cmd 0x0302 (fun x s =>
    if mapBlockBad x b then fail cmd 0x11 s
    else match look s.objs b.handle, look s.tenants x.tenant with
      | some o, some ten =>
        match remapReason s x.tenant ten o b with
        | some r => refuseWith cmd r s
        | none =>
          let add := fun (s : State) => done cmd b.handle { s with objs := tmod s.objs b.handle (fun o => { o with
            maps := o.maps ++ [{ tenant := x.tenant, base := b.base, w := bitOf b.rights 0, acc := bitOf b.rights 1, pins := [] }] }) }
          if sealing then sealObj cmd b.handle b.hash add s else add s
      | _, _ => fail cmd 0x14 s) s

/-- A mapping seals its object: the first one that names it with EXTRA[1] set (R405). -/
def seals (s : State) (b : MapBlock) : Bool :=
  bitOf b.extra 1 && (look s.objs b.handle).any (fun o => o.sealHash.isNone)

/-- OBJ_MAP of an existing object by its handle (R250, R391, R405). -/
def execObjMapExisting (t cmd : Nat) (b : MapBlock) (s : State) : Res :=
  let s := tick t s
  .next (if b.handle = 0 ∨ seals s b then s else mapExisting cmd b false s)

/-- OBJ_MAP with EXTRA[1] of an object not yet sealed: its contents are hashed and it is sealed (R405). -/
def execBaseObjectSeal (t cmd : Nat) (b : MapBlock) (s : State) : Res :=
  let s := tick t s
  .next (if b.handle = 0 ∨ ¬ seals s b then s else mapExisting cmd b true s)

/-! ### OBJ_UNMAP (R258) -/

/-- Pages of an object that are PROMOTING or DEMOTING, or reserved and FILLING. -/
def movingPages (s : State) (h : Nat) : List Nat :=
  (s.frames.filter (fun f => f.2.obj = h && (f.2.state = 1 || f.2.state = 3 || f.2.state = 4))).map (·.2.page)

/-- A running segment lists pages of an object for a tenant (R387). -/
def segmentLists (s : State) (h tenant : Nat) : Bool :=
  s.jobs.any (fun e => e.2.phase = 1 && e.2.tenant = tenant && (imageOf s e.2).any (fun p =>
    (p.pages.filter (·.segment = e.2.seg)).any (fun l => l.pages.any (fun va => (hitAt s tenant va).any (·.handle = h)))))

/-- Take a tenant's mapping away with its pins, and the votes of a tenant that is destroyed; with the last one the object's
frames, vault range and location go (R258, R402). -/
def unmapNow (h tenant : Nat) (s : State) : State :=
  match look s.objs h with
  | none => s
  | some o =>
    let maps := o.maps.filter (·.tenant ≠ tenant)
    let gone := (look s.tenants tenant).all (·.destroying)
    let s := { s with
      objs := tput s.objs h { o with maps }
      frames := if gone then tmap s.frames (fun _ f => if f.obj = h then { f with voters := f.voters.filter (· ≠ tenant) } else f)
        else s.frames }
    if ¬ maps.isEmpty then s
    else
      let s := (o.loc.map (·.1)).foldl (fun s p => dropPage h p s) s
      let s := if o.home = 2 then
          { s with
            flash := tclear s.flash (o.homeLoc * 65536) (o.pages * 65536)
            vault := vaultFree (o.homeLoc, o.pages) { s.vault with map := tclear s.vault.map o.homeLoc o.pages } }
        else s
      { s with objs := tdel s.objs h, upds := s.upds.filter (fun u => u.2.master ≠ h) }

/-- The unmapping waits for every page that moves (R258); meridians and further steps of the command look again. -/
def unmapStep (cmd : Nat) (x : Exec) (s : State) : State :=
  if (movingPages s x.hdr.p0).isEmpty then done cmd 0 (unmapNow x.hdr.p0 x.tenant s) else s

/-- OBJ_UNMAP (R258, R387). -/
def execObjUnmap (t cmd : Nat) (s : State) : Res :=
  let s := tick t s
  .next (match look s.cmds cmd with
    | some x =>
      if x.begun ∧ x.hdr.opcode = 0x0303 then unmapStep cmd x s
      else forTenant cmd 0x0303 (fun x s => mappedObject cmd x x.hdr.p0 (fun _ _ s =>
        if segmentLists s x.hdr.p0 x.tenant || holdsScales s x.hdr.p0 (some x.tenant) then fail cmd 0x15 s
        else unmapStep cmd x (modCmd cmd (fun x => { x with echo := some 0 }) s)) s) s
    | none => s)

/-! ### OBJ_PLACE, OBJ_PIN, OBJ_QUERY, WINDOW (R242, R245, R251, R253, R373) -/

/-- The pages of a command from its first page, clamped to the object's end; none where the first lies beyond it (R388). -/
def pageRun (o : Obj) (first n : Nat) : Option (List Nat) :=
  if o.pages ≤ first then none else some ((List.range (clampNat 1 (o.pages - first) n)).map (· + first))

/-- OBJ_PLACE: pages are promoted, or voted down towards the home tier (R251 to R256). A destination that is neither HBM
nor the home tier, and any placement of a FIXED object, is refused with reason 0x15 (DESIGN CHOICE, log 21). -/
def execObjPlace (t cmd : Nat) (s : State) : Res :=
  .next (forTenant cmd 0x0304 (fun x s => mappedObject cmd x x.hdr.p0 (fun o _ s =>
    let dst := bits x.hdr.p2 32 3
    match pageRun o x.hdr.p1 (bits x.hdr.p2 0 32) with
    | none => refuseWith cmd 0x21 s
    | some ps =>
      if (dst = 2 ∧ ¬ hasVault s) ∨ (dst = 1 ∧ (look s.tenants x.tenant).all (fun t => t.hostLen = 0)) then refuseWith cmd 0x12 s
      else if o.policy = 0 ∨ (dst ≠ 0 ∧ dst ≠ o.home) then refuseWith cmd 0x15 s
      else if dst ≠ 0 then done cmd ps.length (ps.foldl (fun s p => castVote x.hdr.p0 x.tenant p s) s)
      else
        let up := ps.filter (fun p => (look o.loc p).isSome)
        let left := ps.filter (fun p => (look o.loc p).isNone)
        let s := if bitOf x.hdr.p2 40 then up.foldl (fun s p => setPin x.hdr.p0 x.tenant p s) s else s
        if left.isEmpty then done cmd ps.length s
        else pumpMoves (modCmd cmd (fun x => { x with obj := x.hdr.p0, left, echo := some ps.length }) s)) s) (tick t s))

/-- OBJ_PIN with P2[32] = 0 (R253). -/
def pinPages (cmd : Nat) (vote : Bool) (s : State) : State :=
  forTenant cmd 0x0305 (fun x s => mappedObject cmd x x.hdr.p0 (fun o _ s =>
    match pageRun o x.hdr.p1 (bits x.hdr.p2 0 32) with
    | none => refuseWith cmd 0x21 s
    | some ps => done cmd ps.length (ps.foldl (fun s p =>
        if vote then castVote x.hdr.p0 x.tenant p s else setPin x.hdr.p0 x.tenant p s) s)) s) s

/-- The P2[32] of a command says vote. -/
def saysVote (s : State) (cmd : Nat) : Bool := (look s.cmds cmd).any (fun x => bitOf x.hdr.p2 32)

/-- OBJ_PIN: pin pages (R253). -/
def execObjPin (t cmd : Nat) (s : State) : Res :=
  let s := tick t s
  .next (if saysVote s cmd then s else pinPages cmd false s)

/-- OBJ_PIN as a vote: unpin commands act as votes (R253). -/
def execObjVote (t cmd : Nat) (s : State) : Res :=
  let s := tick t s
  .next (if saysVote s cmd then pinPages cmd true s else s)

/-- The 32 bytes that OBJ_QUERY gives for a page. -/
def queryBytes (s : State) (tenant h : Nat) (o : Obj) (page : Nat) : List Byte :=
  let (fr, rec_) := match look o.loc page with
    | some f => (frameWord s f, recWord s f)
    | none => (0, List.replicate 16 0)
  leBytes 8 (transEntry tenant h o page) ++ leBytes 8 fr ++ rec_

/-- OBJ_QUERY. -/
def execObjQuery (t cmd : Nat) (s : State) : Res :=
  .next (forTenant cmd 0x0306 (fun x s => mappedObject cmd x x.hdr.p0 (fun o _ s =>
    match pageRun o x.hdr.p1 x.hdr.p2 with
    | none => refuseWith cmd 0x21 s
    | some ps =>
      answerOut cmd x x.hdr.p3 ((ps.map (queryBytes s x.tenant x.hdr.p0 o)).flatten) ps.length s) s) (tick t s))

/-- WINDOW: the virtual base of the VF's BAR4 (R373, R387). -/
def execWindow (t cmd : Nat) (s : State) : Res :=
  .next (forTenant cmd 0x0307 (fun x s =>
    let fn := x.tenant + 1
    let base := x.hdr.p0 / barBytes s fn * barBytes s fn
    done cmd base { s with pcie := { s.pcie with windows := tput s.pcie.windows fn base } }) (tick t s))

/-! ### EPH_LOAD (R259, R260) -/

/-- The least refusal reason of an ephemeris entry, or none. The lowest code is the answer, as R390 says of plan images, so an
entry that names an absent tier gets 0x11, where R242 alone would give 0x12 (DESIGN CHOICE, log 32). -/
def ephReason (s : State) (tenant n : Nat) (e : EphEntry) : Option Nat :=
  let bad := e.rsv ≠ 0 || e.src ∈ [4, 5, 6, 7] || e.dst ∈ [4, 5, 6, 7] || e.src = e.dst || (e.priv && !e.sig) ||
    (e.dlSegs = 0 && decide (e.dlCc ≤ e.armCc)) || e.pages = 0 || decide (16384 < e.pages) || e.armCc = 0 ||
    match look s.objs e.object with
    | some o => (mapOf o tenant).isNone || o.policy = 0 || decide (o.pages < e.page + e.pages)
    | none => true
  let gone := fun (t : Nat) => (t = 2 && !hasVault s) || (t = 1 && (look s.tenants tenant).all (fun x => x.hostLen = 0))
  -- an index that the plan does not declare (R136)
  if (e.sig || e.sync ≠ 0) && decide (n ≤ e.sync) then some 0x0D
  else if bad || gone e.src || gone e.dst then some 0x11 else none

/-- Some job runs a plan (R387). -/
def planRuns (s : State) (h : Nat) : Bool := s.jobs.any (·.2.plan = h)

/-- A command on a plan of its tenant (R386). -/
def onPlan (cmd : Nat) (x : Exec) (h : Nat) (f : Plan → State → State) (s : State) : State :=
  match look s.plans h with
  | none => fail cmd 0x14 s
  | some p => if p.tenant ≠ x.tenant then fail cmd 0x12 s else f p s

/-- EPH_LOAD (R259, R260, R387, R388). -/
def execEphLoad (t cmd : Nat) (es : List EphEntry) (s : State) : Res :=
  .next (withBlock cmd 0x0401 (fun x s => onPlan cmd x x.hdr.p0 (fun p s =>
    let n := clampNat 1 (min 65536 (x.hdr.length / 32)) x.hdr.p2
    let es := es.take n
    if planRuns s x.hdr.p0 then fail cmd 0x15 s
    else match firstBad (es.map (fun e => (ephReason s x.tenant (p.image.n0 + p.image.n1) e).toList)) with
      | some (r, i) => refuseWith cmd r s 0 i
      | none => done cmd n { s with plans := tput s.plans x.hdr.p0 { p with eph := es, status := x.hdr.p1 } }) s) (tick t s))

/-! ### Regions (R348 to R350) -/

/-- RGN_SETUP: the owner gives the region table its size (R348). It is refused while a region is valid (DESIGN CHOICE,
log 21). -/
def execRgnSetup (t cmd : Nat) (s : State) : Res :=
  .next (runCmd cmd 0x0501 (fun x s =>
    let n := clampNat 1 16777215 x.hdr.p0
    if s.regions.any (·.2.valid) then fail cmd 0x15 s
    else done cmd n { s with regionCap := n }) (tick t s))

/-- An object is allocated to a job of a tenant (R135, R349). -/
def ownSync (s : State) (tenant o : Nat) : Bool := (look s.sync o).any (·.tenant = tenant)

/-- The refusals of R349. -/
def regionBad (s : State) (tenant : Nat) (b : RegionBlock) : Bool :=
  if b.sync then
    b.r || b.w || b.a || b.dp || (b.trigObj.any (fun o => !ownSync s tenant o)) || decide (8192 < b.base + b.length) ||
    !((List.range (min b.length 8192)).all (fun i => ownSync s tenant (b.base + i)))
  else
    b.base % 4096 ≠ 0 || b.length % 4096 ≠ 0 ||
    !((spans b.base b.length).all (fun x => (hitAt s tenant x.1).any (fun h => !b.w || h.map.w))) ||
    b.trigObj.any (fun o => !ownSync s tenant o) || (b.trig && b.trigObj.isNone)

/-- The lowest free index of the region table. -/
def freeRegion (s : State) : Option Nat :=
  let used := s.regions.filter (fun r => r.2.valid || r.2.revoking)
  ((List.range (min s.regionCap (used.length + 1))).map (· + 1)).find? (fun i => !(used.any (·.1 = i)))

/-- RGN_REGISTER (R348, R349): the key is the index and the entry's generation. -/
def execRgnRegister (t cmd : Nat) (b : RegionBlock) (s : State) : Res :=
  .next (withBlock cmd 0x0502 (fun x s =>
    if regionBad s x.tenant b then refuseWith cmd 0x16 s
    else match freeRegion s with
      | none => fail cmd 0x16 s
      | some i =>
        let gen := ((look s.regions i).map (·.gen)).getD 0
        let r : Region := { valid := true, revoking := false, gen, tenant := x.tenant, block := b, inflight := 0, cmd := none }
        done cmd (i * 256 + gen) { s with regions := tput s.regions i r }) (tick t s))

/-- Step 1 of a revocation (R350). -/
def revokeRegion (i : Nat) (cmd : Option Nat) (s : State) : State :=
  revokeNext i { s with regions := tmod s.regions i (fun r => { r with gen := (r.gen + 1) % 256, revoking := true, cmd }) }

/-- RGN_REVOKE (R350). -/
def execRgnRevoke (t cmd : Nat) (s : State) : Res :=
  .next (forTenant cmd 0x0503 (fun x s =>
    let i := x.hdr.p0 / 256
    match if i = 0 then none else look s.regions i with
    | none => fail cmd 0x14 s
    | some r =>
      if r.tenant ≠ x.tenant then fail cmd 0x12 s
      else if ¬ r.valid ∨ r.revoking ∨ r.gen ≠ x.hdr.p0 % 256 then fail cmd 0x14 s
      else revokeRegion i (some cmd) (modCmd cmd (fun x => { x with echo := some ((r.gen + 1) % 256) }) s)) (tick t s))

end Sys2Proof.Machine
end

