-- ==== Sys2Proof/Machine/Jobs.lean ====
section
/-! DEFINITION. Commands on plans, jobs, tenants and records (spec/14 R387 to R392; spec/15 R395 to R397, R406, R412;
spec/16 R425; spec/07 R167, R172, R181; spec/17 R445; spec/18 R455). -/

namespace Sys2Proof.Machine

/-! ### Plans (R390) -/

/-- PLAN_LOAD: the image's header, its checks in the order of R390, and room in the plan store (R114, R390). A wrong MAGIC
or VERSION is BAD_HEADER (DESIGN CHOICE, log 21). -/
def execPlanLoad (t cmd : Nat) (p : PlanImage) (s : State) : Res :=
  .next (withBlock cmd 0x0101 (fun x s =>
    if p.magic ≠ 0x4C505850 ∨ p.version ≠ 1 ∨ p.rsv ≠ 0 ∨ x.hdr.length < p.length then fail cmd 0x11 s
    else match planRefusal s x.tenant p with
      | some (r, sect, item) => refuseWith cmd r s sect item
      | none =>
        if ¬ wordsFit s p then fail cmd 0x16 s
        else
          let h := s.nextPlan
          let plan : Plan := { tenant := x.tenant, image := p, eph := [], status := 0 }
          done cmd h { s with plans := tput s.plans h plan, nextPlan := h + 1 }) (tick t s))

/-- PLAN_UNLOAD (R387). -/
def execPlanUnload (t cmd : Nat) (s : State) : Res :=
  .next (forTenant cmd 0x0102 (fun x s => onPlan cmd x x.hdr.p0 (fun _ s =>
    if planRuns s x.hdr.p0 then fail cmd 0x15 s
    else done cmd 0 { s with plans := tdel s.plans x.hdr.p0 }) s) (tick t s))

/-! ### JOB_START (R389) -/

/-- The block with its ranges clamped (R385, R388). -/
def clampBlock (b : JobBlock) : JobBlock :=
  { b with wrEntries := clampNat 0 1048576 b.wrEntries, sync0 := clampNat 0 4096 b.sync0, sync1 := clampNat 0 4096 b.sync1,
           armCount := clampNat 0 4096 b.armCount }

/-- The clamped fields go back into the parameter block (R385, R389). -/
def clampedBack (x : Exec) (a b : JobBlock) (s : State) : State :=
  writeBack x 88 4 a.armCount b.armCount (writeBack x 78 2 a.sync1 b.sync1 (writeBack x 76 2 a.sync0 b.sync0
    (writeBack x 72 4 a.wrEntries b.wrEntries s)))

/-- Segments that a new job may run. -/
def startSegs (p : PlanImage) (b : JobBlock) : List Segment :=
  p.segments.drop (if bitOf b.flags 1 then min b.loopSeg b.firstSeg else b.firstSeg)

/-- Cores that segments launch threads on, and stacks that they use. -/
def segCores (gs : List Segment) : List Nat := ((gs.map (fun g => g.launches.map (·.core))).flatten).eraseDups
def segStacks (p : PlanImage) (gs : List Segment) : List Nat :=
  ((gs.map (fun g => (segEntries p g).map (·.stack) ++ (segStreams p g).map (·.stack))).flatten).eraseDups

/-- A segment names a block that is not populated, retired, held by a slice or in quarantine (R45, R449, R473, R488). -/
def blockMissing (s : State) (p : PlanImage) (gs : List Segment) : Bool :=
  (segCores gs).any (fun c => !coreThere s c || (coreOf s c).quarantined || blockHeld s .core c) ||
  (segStacks p gs).any (fun k => !stackThere s k || blockHeld s .stack k || stopped s .stack k) ||
  gs.any (fun g => g.uses.any (fun u => decide (32 ≤ u.resource ∧ u.resource < 128) &&
    (!resourceThere s u.resource || (portOf s (u.resource - 32)).failed ||
      blockHeld s .port (u.resource - 32) || (portOf s (u.resource - 32)).loop || (portOf s (u.resource - 32)).reload))) ||
  gs.any (fun g => g.ops.any (fun i => (p.cor[i]?).any (fun x =>
    blockHeld s .half (entryHalf s p x) || stopped s .half (entryHalf s p x))))

/-- Objects that entries and streams of some segments update, and stream from (R201, R211). -/
def updatesOf (s : State) (p : PlanImage) (gs : List Segment) : List Nat :=
  ((gs.map (fun g => ((segEntries p g).filter (·.op = 3)).map (updObjects s))).flatten).flatten
def streamsOf (s : State) (tenant : Nat) (p : PlanImage) (gs : List Segment) : List Nat :=
  (gs.map (fun g => (segStreams p g).map (streamObj s tenant))).flatten

/-- A job conflicts with a running one: both list a tag, or one updates what the other updates or streams (R162, R201,
R211). -/
def jobConflict (s : State) (tenant : Nat) (p : PlanImage) (gs : List Segment) : Bool :=
  let up := updatesOf s p gs
  let st := streamsOf s tenant p gs
  s.jobs.any (fun e => match imageOf s e.2 with
    | none => false
    | some q =>
      let later := laterSegs s e.2
      let up' := updatesOf s q later
      let st' := streamsOf s e.2.tenant q later
      up.any (fun o => up'.contains o || st'.contains o) || st.any (fun o => up'.contains o) ||
      (e.2.tenant = tenant && p.tags.any (fun t => q.tags.any (·.1 = t.1))))

/-- The objects of a plan are mapped and lie where its entries and streams need them (R197, R204, R221, R227). -/
def jobPlaced (s : State) (tenant : Nat) (p : PlanImage) (gs : List Segment) : Bool :=
  gs.all (fun g =>
    (segEntries p g).all (fun e => entryPlaced s true tenant p e && (e.op ≠ 3 || (descOf s e.object).any (fun d => partOk s d e))) &&
    (segStreams p g).all (streamPlaced s true tenant))

/-- A receive record breaks R406. -/
def claimBad (s : State) (tenant : Nat) (e : StreamEntry) : Bool :=
  match e.base with
  | none => false
  | some (id, k) =>
    match jobById s id with
    | none => true
    | some (_, j) =>
      match (imageOf s j).bind (fun p => p.streams[k]?) with
      | none => true
      | some b =>
        let h := (hitAt s j.tenant b.va).map (·.handle)
        !b.shared || !(e.dests.all (fun c => b.dests.contains c)) || e.firstSlot ≠ b.firstSlot ||
        !(h.any (fun h => (look s.objs h).any (fun o => o.sealHash.isSome && (mapOf o tenant).isSome)))

/-- The scale table lies wholly in HBM pages of one object of home HBM that the tenant maps with W (R172). -/
def scaleTableBad (s : State) (tenant a : Nat) : Bool :=
  match hitAt s tenant a, hitAt s tenant (a + 2047) with
  | some x, some y => x.handle ≠ y.handle || x.obj.home ≠ 0 || !x.map.w || x.obj.sealHash.isSome
  | _, _ => true

/-- Contexts that are pinned on-die, and those that a job would add (R338). -/
def pinnedCount (s : State) : Nat := (s.ctxs.filter (fun c => ctxPinned s c.1 c.2)).length

/-- The cores and stacks lie in the tenant's partition (R396). -/
def inPartition (s : State) (tenant : Nat) (cores stks : List Nat) : Bool :=
  (look s.tenants tenant).any (fun x => cores.all (fun c => bitOf x.cores c) && stks.all (fun k => bitOf x.stks k))

/-- A job ID is taken: a job of the module holds it, or one of its job connections is still open (R389). -/
def jobIdTaken (s : State) (id : Nat) : Bool :=
  s.jobs.any (·.2.id = id) || s.ctxs.any (fun c => c.2.job && c.2.jobId = id && c.2.state ≠ 0 && c.2.state ≠ 3)

/-- The least refusal reason of a job start, if any (R386, R389). -/
def startReason (s : State) (tenant : Nat) (p : PlanImage) (b : JobBlock) : Option Nat :=
  let gs := startSegs p b
  let n := p.n0 + p.n1
  let when := fun (c : Bool) (r : Nat) => if c then [r] else []
  lowest (
    when (blockMissing s p gs) 0x04 ++ when (!jobPlaced s tenant p gs) 0x09 ++
    when (decide (b.sync0 < p.n0 ∨ b.sync1 < p.n1) || ((b.arms.take b.armCount).any (fun a => decide (n ≤ a.object)))) 0x0D ++
    when (jobConflict s tenant p gs) 0x0E ++
    when (!(planPeers s p).isEmpty && !moduleValid s) 0x0F ++
    when (decide (12288 < pinnedCount s + (planPeers s p).length)) 0x10 ++
    when (decide (b.startM ≠ 0 ∧ b.startM ≤ s.mer.count)) 0x17 ++
    when (!inPartition s tenant (segCores gs) (segStacks p gs)) 0x1A ++
    when (gs.any (fun g => (segStreams p g).any (claimBad s tenant))) 0x1B ++
    when (jobIdTaken s b.jobId) 0x1F ++
    when (scaleTableBad s tenant b.scale) 0x22)

/-- The lowest contiguous range of free sync objects on a die (R135, R389). -/
def syncBase (s : State) (die n : Nat) : Option Nat :=
  if n = 0 then some (4096 * die) else
  let taken := (s.sync.filter (fun o => objDie o.1 = die)).map (·.1)
  let starts := (4096 * die) :: taken.map (· + 1)
  starts.find? (fun b => decide (b + n ≤ 4096 * (die + 1)) && !(taken.any (fun o => decide (b ≤ o ∧ o < b + n))))

/-- The lowest free job slot. -/
def jobSlotFree (s : State) : Option Nat :=
  (List.range (min 4096 (s.jobs.length + 1))).find? (fun i => (look s.jobs i).isNone)

/-- A core of a new job holds as many jobs as it may: sixteen, or one where the new job or one that is there is a strict
tenant's (R119). Every segment of the plans counts, and JOB_START answers NO_RESOURCE (DESIGN CHOICE, log 27: the spec gives
neither). -/
def coreCrowded (s : State) (tenant : Nat) (cores : List Nat) : Bool :=
  let strict := fun (t : Nat) => (look s.tenants t).any (·.strict)
  cores.any (fun c =>
    let there := s.jobs.filter (fun e => (imageOf s e.2).any (fun p => (segCores p.segments).contains c))
    decide (16 ≤ there.length) || (!there.isEmpty && (strict tenant || there.any (fun e => strict e.2.tenant))))

/-- The default rule of R181. -/
def lsDefault : LsPar := { ls0 := 16, lsMin := 0, lsMax := 40, nClean := 2000, enable := true }

/-- Counters of a job slot (R57, R142, R189, R219, R272, R297). -/
def slotCounter (k slot : Nat) : Bool :=
  let a := k % 2 ^ 32
  let i := k / 2 ^ 32
  (i = slot && (decide (0x10104 ≤ a ∧ a < 0x10120) || decide (0x22004 ≤ a ∧ a < 0x22040) ||
    decide (0x500204 ≤ a ∧ a < 0x500220) || decide (0x600104 ≤ a ∧ a < 0x600124) ||
    (decide (0x400000 ≤ a ∧ a < 0x4C0000) && decide (0x104 ≤ a % 0x10000 ∧ a % 0x10000 < 0x120)))) ||
  ((a = 0x600210 || a = 0x600214) && i / 64 = slot)

/-- Everything that is per job slot starts afresh: counters, outcome counts, queue edges, earlier updates, and the
census of the tags listed (R57, R167, R265, R292). -/
def clearSlot (slot tenant : Nat) (p : PlanImage) (s : State) : State :=
  let tag := fun (k : Nat) => p.tags.any (fun t => k = tenant * 1024 + t.1)
  { s with
    ctr := s.ctr.filter (fun e => !slotCounter e.1 slot)
    ephCnt := s.ephCnt.filter (fun e => e.1 / 65536 ≠ slot)
    edges := s.edges.filter (fun e => e.1 / 64 ≠ slot)
    upds := tmap (s.upds.filter (fun u => u.2.slot ≠ slot || rollingUpd u.2 || (u.2.mode = 0 && (u.2.status = 3 || u.2.status = 4))))
      (fun _ u => if u.slot = slot then { u with slot := 4096 } else u)
    census := s.census.filter (fun e => !tag e.1)
    snap := s.snap.filter (fun e => !tag e.1) }

/-- Allocate a range of sync objects to a job (R135). -/
def allocSync (base n slot tenant : Nat) (s : State) : State :=
  { s with sync := (List.range n).foldl (fun m i => tput m (base + i) (freshSync slot tenant s.now)) s.sync }

/-- Apply the arm list (R389): an entry that cannot be attached raises SYNC_ARM_FULL. -/
def applyArms (slot : Nat) (arms : List ArmRec) (s : State) : State :=
  arms.foldl (fun s a => match (look s.jobs slot).bind (fun j => absObj s j a.object) with
    | none => s
    | some o =>
      let (ok, s) := armOn o a.threshold a.handle s
      if ok then s else raiseJob 0x048 slot s) s

/-- The job record at its start. The plan's MODE 1 tags begin at K0 with an empty history (R169, R170). -/
def newJob (x : Exec) (cmd base0 base1 : Nat) (p : PlanImage) (b : JobBlock) : Job :=
  { tenant := x.tenant, id := b.jobId, plan := b.plan, cmd := some cmd, request := x.hdr.requestId, block := b, base0, base1,
    phase := 0, segs := 0, seg := b.firstSeg, segAt := 0, segM := 0, deadline := 0, lateness := 0, finish := 0,
    stopping := false, abortNext := false, aborted := none, honoured := [], requested := false, overdue := false, run := 0, seen := [],
    step := b.stepBase, optStep := b.optStep, ls := lsDefault.ls0, clean := 0, lsPar := lsDefault, lsNext := none,
    lastSkip := false, dirty := false, verdict := none, amax := [], hist := [],
    scales := ((p.tags.filter (fun t => tagMode t.2 = 1)).map (fun t => (t.1, tagK0 t.2))).foldl (fun m t => tput m t.1 t.2) [],
    clamped := [], hyps := [], eph := [], cor := [], busy := [], demand := [], direct := 0 }

/-- Job connections are opened by the member with the lower module ID (DESIGN CHOICE, log 7; R335). -/
def openJobConns (tenant : Nat) (p : PlanImage) (id : Nat) (s : State) : State :=
  ((planPeers s p).filter (fun d => decide (moduleId s < d))).foldl (fun s d => (openCtx tenant d tenant (some id) s).2) s

/-- Create the job once every check has passed. -/
def createJob (cmd : Nat) (x : Exec) (p : PlanImage) (b : JobBlock) (s : State) : State :=
  match jobSlotFree s, syncBase s 0 b.sync0, syncBase s 1 b.sync1 with
  | some slot, some b0, some b1 =>
    if coreCrowded s x.tenant (segCores (startSegs p b)) then fail cmd 0x16 s
    else
      let s := clearSlot slot x.tenant p s
      let s := { s with jobs := tput s.jobs slot (newJob x cmd b0 b1 p b) }
      let s := allocSync b1 b.sync1 slot x.tenant (allocSync b0 b.sync0 slot x.tenant s)
      openJobConns x.tenant p b.jobId (applyArms slot (b.arms.take b.armCount) s)
  | _, _, _ => fail cmd 0x16 s

/-- A roll-forward of the job runs (R209). -/
def rollsForward (s : State) (tenant id : Nat) : Bool :=
  s.upds.any (fun u => rollingUpd u.2 && u.2.job = id && (look s.objs u.2.master).any (fun o => (mapOf o tenant).isSome))

/-- JOB_START (R389): no reply until the first segment starts or 1.5 s have passed (R382). It waits while a roll-forward of
the job runs (R209). -/
def execJobStart (t cmd : Nat) (b : JobBlock) (s : State) : Res :=
  let s := tick t s
  .next (if (look s.cmds cmd).any (fun x => rollsForward s x.tenant b.jobId) then s
    else withBlock cmd 0x0201 (fun x s =>
      if 4 ≤ b.flags ∨ b.rsv ≠ 0 ∨ x.hdr.length < 128 then fail cmd 0x11 s
      else onPlan cmd x b.plan (fun p s =>
        let c := clampBlock b
        let s := clampedBack x b c s
        match startReason s x.tenant p.image c with
        | some r => refuseWith cmd r s
        | none => createJob cmd x p.image c s) s) s)

/-! ### JOB_STOP, LS_RULE (R181, R389) -/

/-- A command on a job slot of its tenant (R386). -/
def onSlot (cmd : Nat) (x : Exec) (slot : Nat) (f : Job → State → State) (s : State) : State :=
  match look s.jobs slot with
  | none => fail cmd 0x14 s
  | some j => if j.tenant ≠ x.tenant then fail cmd 0x12 s else f j s

/-- The P0[16] of a command says ABORT. -/
def saysAbort (s : State) (cmd : Nat) : Bool := (look s.cmds cmd).any (fun x => bitOf x.hdr.p0 16)

/-- JOB_STOP: echo is the number of the meridian at which it acts, the next one. -/
def stopJob (cmd : Nat) (abort : Bool) (s : State) : State :=
  forTenant cmd 0x0202 (fun x s =>
    let slot := x.hdr.p0 % 4096
    onSlot cmd x slot (fun _ s => done cmd (toField 64 (s.mer.count + 1))
      (modJob slot (fun j => if abort then { j with abortNext := true } else { j with stopping := true }) s)) s) s

/-- JOB_STOP without ABORT: the running segment finishes and none starts after it (R389). -/
def execJobStop (t cmd : Nat) (s : State) : Res :=
  let s := tick t s
  .next (if saysAbort s cmd then s else stopJob cmd false s)

/-- JOB_STOP with ABORT: the job is aborted at the next meridian (R389). -/
def execJobStopAbort (t cmd : Nat) (s : State) : Res :=
  let s := tick t s
  .next (if saysAbort s cmd then stopJob cmd true s else s)

/-- The rule's parameters, each clamped to the already clamped ones (R181). -/
def clampRule (w : Nat) : LsPar :=
  let lo := clampNat 0 63 (bits w 8 8)
  let hi := clampNat lo 63 (bits w 16 8)
  { ls0 := clampNat lo hi (bits w 0 8), lsMin := lo, lsMax := hi, nClean := clampNat 1 65535 (bits w 24 16), enable := bitOf w 40 }

/-- The word of P0 as applied. -/
def ruleWord (r : LsPar) : Nat :=
  r.ls0 + r.lsMin * 2 ^ 8 + r.lsMax * 2 ^ 16 + r.nClean * 2 ^ 24 + (if r.enable then 2 ^ 40 else 0)

/-- LS_RULE: before the first segment it is the starting rule, later it waits for the next STEP_END (R181). -/
def execLsRule (t cmd : Nat) (s : State) : Res :=
  .next (forTenant cmd 0x0801 (fun x s =>
    let slot := x.hdr.p1 % 4096
    let r := clampRule x.hdr.p0
    onSlot cmd x slot (fun j s => done cmd (ruleWord r)
      (modJob slot (fun j' => if j.segs = 0 then { j' with lsPar := r, ls := r.ls0 } else { j' with lsNext := some r }) s)) s) (tick t s))

/-! ### Records (R167, R412, R445, R455) -/

/-- A census record (R167). -/
def censusRecord (m : Int) (tag : Nat) (c : Census) : List Byte :=
  leBytes 8 (toField 64 m) ++ leBytes 6 c.total ++ leBytes 6 c.zero ++ leBytes 6 c.sat ++ leBytes 6 c.inf ++ leBytes 6 c.nan ++
  leBytes 4 (match c.amax with | some a => toField 32 a | none => 0x80000000) ++ leBytes 2 tag ++
  leBytes 1 ((if c.ovf then 1 else 0) + (if c.clamp then 2 else 0)) ++ List.replicate 19 0

/-- CENSUS_READ: records of the snapshot (R167, R388). -/
def execCensusRead (t cmd : Nat) (s : State) : Res :=
  .next (forTenant cmd 0x0901 (fun x s =>
    let first := clampNat 0 1023 x.hdr.p0
    let n := clampNat 1 (1024 - first) x.hdr.p1
    let bs := ((List.range n).map (fun i =>
      censusRecord s.snapM (first + i) (tget s.snap (x.tenant * 1024 + first + i) emptyCensus))).flatten
    answerOut cmd x x.hdr.p2 bs n s) (tick t s))

/-- Receipts that a module can still give: the buffer's and those of the receipt log, newest first. -/
def keptReceipts (s : State) : List Receipt :=
  s.pho.buffer ++ s.out.filterMap (fun o => match o with
    | .receiptLog _ r => if s.pho.buffer.contains r then none else some r
    | _ => none)

/-- ENERGY_QUERY: receipts of a request in SEQ order; a tenant's own, or any through PF0 (R445). -/
def execEnergyQuery (t cmd : Nat) (s : State) : Res :=
  .next (forTenant cmd 0x0A01 (fun x s =>
    let rs := (keptReceipts s).filter (fun r => r.id = x.hdr.p0 && (x.fn = 0 || r.account = x.tenant))
    let ordered := rs.foldl (fun l r => (l.filter (fun o => decide (o.seq < r.seq))) ++ r :: (l.filter (fun o => decide (r.seq ≤ o.seq)))) []
    answerOut cmd x x.hdr.p1 ((ordered.map receiptBytes).flatten) ordered.length s) (tick t s))

/-- PF0's device ID (R371). -/
def deviceId (s : State) : Nat := 0x0A00 + variant s

/-- M_ALM: the almanac's bytes are not all the spec's, so their hash is a free value of the field part's SEQ (R408; log 3). -/
def almDigest (s : State) : Nat := Config.factory s.boot.field.seq

/-- Bytes 399:0 of an attestation report (R412). -/
def reportHead (x : Exec) (nonce : Nat) (s : State) : List Byte :=
  let d := fun (ty : Nat) => tget s.boot.digests ty 0
  let te := look s.tenants x.tenant
  let mixed := fun (ty : Nat) => (sessionOf s ty).targets ≠ 0 && (sessionOf s ty).done ≠ 0
  let flags := (if x.fn ≠ 0 then 1 else 0) + (if s.boot.fieldOk then 2 else 0) + (if mixed 3 then 4 else 0) + (if mixed 4 then 8 else 0)
  leBytes 4 0x54415850 ++ leBytes 2 1 ++ leBytes 2 (496 + Config.chain.length) ++ leBytes 2 (deviceId s) ++ leBytes 1 revisionId ++
  leBytes 1 flags ++ leBytes 16 s.alm.serial ++ leBytes 4 s.boot.incarnation ++ leBytes 8 (ptpNs s) ++ leBytes 32 nonce ++
  leBytes 8 s.boot.field.seq ++ beBytes 48 (fwm s) ++ beBytes 48 (d 1) ++ beBytes 48 (d 2) ++ beBytes 48 (d 3) ++ beBytes 48 (d 4) ++
  beBytes 48 (almDigest s) ++ leBytes 2 (x.tenant + (if te.isSome then 2 ^ 15 else 0)) ++
  leBytes 1 (if te.any (·.strict) then 1 else 0) ++ leBytes 1 ((te.map (·.share)).getD 0) ++
  leBytes 8 ((te.map (·.cores)).getD 0) ++ leBytes 2 ((te.map (·.stks)).getD 0) ++ leBytes 2 0 ++
  leBytes 4 ((te.map (·.power)).getD 0) ++ leBytes 4 0 ++ leBytes 4 Config.chain.length ++ leBytes 4 0

/-- ATTEST: the signed report (R411, R412). -/
def execAttest (t cmd nonce : Nat) (s : State) : Res :=
  .next (withBlock cmd 0x0B01 (fun x s =>
    if x.hdr.length < 32 then fail cmd 0x11 s
    else
      let head := reportHead x nonce s
      let bs := head ++ beBytes 96 (Config.ecdsa 0 (Config.sha384 head)) ++ Config.chain
      answerOut cmd x x.hdr.p1 bs (496 + Config.chain.length) s) (tick t s))

/-- LOG_READ: entries of the night log from a SEQ on (R388, R455). -/
def execLogRead (t cmd : Nat) (s : State) : Res :=
  .next (runCmd cmd 0x0F01 (fun x s =>
    let n := clampNat 1 65536 x.hdr.p1
    let es := ((s.flt.ring ++ s.flt.fifo).filter (fun e => decide (x.hdr.p0 ≤ e.seq))).take n
    answerOut cmd x x.hdr.p2 ((es.map entryBytes).flatten) es.length s) (tick t s))

/-! ### Tenants (R392, R395 to R397, R425) -/

/-- TENANT_CREATE (R395): an empty partition, no objects, no census history and the zero power share. -/
def execTenantCreate (t cmd : Nat) (s : State) : Res :=
  .next (runCmd cmd 0x0601 (fun x s =>
    let n := x.hdr.p0 % 4096
    if (look s.tenants n).isSome then fail cmd 0x15 s
    else
      let te : Tenant :=
        { strict := bitOf x.hdr.p0 16, destroying := false, hostBase := x.hdr.p1, hostLen := x.hdr.p2, cores := 0, stks := 0,
          share := 0, power := 0, nextPart := none, nextPower := none }
      done cmd 0 { s with
        tenants := tput s.tenants n te
        census := s.census.filter (fun e => e.1 / 1024 ≠ n)
        snap := s.snap.filter (fun e => e.1 / 1024 ≠ n) }) (tick t s))

/-- Commands of a tenant in execution end with TENANT_GONE; a job start's own reply is the job's no longer (R392). -/
def goneAll (n cmd : Nat) (s : State) : State :=
  let mine := (s.cmds.filter (fun c => c.1 ≠ cmd && c.2.tenant = n && !ownerOnly c.2.hdr.opcode)).map (·.1)
  let s := { s with jobs := tmap s.jobs (fun _ j => if j.tenant = n ∧ j.cmd.any (fun c => mine.contains c) then { j with cmd := none } else j) }
  mine.foldl (fun s c => fail c 0x19 s) s

/-- The last steps of a destruction, once every job has ended and every roll-forward is complete: regions, connections,
objects, rings (R392). It waits for pages that move. -/
def destroyStep (cmd n : Nat) (s : State) : State :=
  let objs := (s.objs.filter (fun o => (mapOf o.2 n).isSome)).map (·.1)
  if s.jobs.any (·.2.tenant = n) ∨ s.upds.any (fun u => rollingUpd u.2 && (look s.objs u.2.master).any (fun o => (mapOf o n).isSome)) then s
  else
    let s := ((s.regions.filter (fun r => r.2.valid && !r.2.revoking && r.2.tenant = n)).map (·.1)).foldl (fun s i => revokeRegion i none s) s
    let s := ((s.ctxs.filter (fun c => c.2.lTenant = n && (c.2.state = 1 || c.2.state = 2))).map (·.1)).foldl (fun s i => closeCtx i s) s
    if objs.any (fun h => !(movingPages s h).isEmpty) ∨ s.regions.any (fun r => r.2.revoking && r.2.tenant = n) then s
    else
      let s := objs.foldl (fun s h => unmapNow h n s) s
      done cmd 0 { s with
        plans := s.plans.filter (fun p => p.2.tenant ≠ n)
        staged := s.staged.filter (fun y => y.1 ≠ n)
        rings := tmap s.rings (fun k g => if k / 64 = n + 1 then { g with enable := false } else g)
        tenants := tdel s.tenants n }

/-- TENANT_DESTROY (R392): its own steps, and on a later step what still waited. -/
def execTenantDestroy (t cmd : Nat) (s : State) : Res :=
  let s := tick t s
  .next (match look s.cmds cmd with
    | some x =>
      if x.begun ∧ x.hdr.opcode = 0x0602 then destroyStep cmd (x.hdr.p0 % 4096) s
      else runCmd cmd 0x0602 (fun x s =>
        let n := x.hdr.p0 % 4096
        if (look s.tenants n).isNone then fail cmd 0x13 s
        else
          let s := { s with tenants := tmod s.tenants n (fun te => { te with destroying := true }) }
          let s := goneAll n cmd (modCmd cmd (fun x => { x with echo := some 0 }) s)
          destroyStep cmd n (abortAll (slotsOf s [n]) 0x186 s)) s
    | none => s)

/-- A tenant's partition as it will stand. -/
def partNext (te : Tenant) : Nat × Nat × Nat := te.nextPart.getD (te.cores, te.stks, te.share)

/-- The partition breaks R397. -/
def partitionBad (s : State) (n : Nat) (te : Tenant) (cores stks share : Nat) : Bool :=
  let others := s.tenants.filter (·.1 ≠ n)
  others.any (fun o => (te.strict || o.2.strict) &&
    (((partNext o.2).1 &&& cores) ≠ 0 || ((partNext o.2).2.1 &&& stks) ≠ 0)) ||
  decide (64 < (others.filter (·.2.strict)).foldl (fun a o => a + (partNext o.2).2.2) (if te.strict then share else 0)) ||
  (if te.strict then share = 0 else share ≠ 0)

/-- The partition takes away what the tenant uses (R396). -/
def partitionBusy (s : State) (n : Nat) (te : Tenant) (cores stks share : Nat) : Bool :=
  let mine := s.jobs.filter (·.2.tenant = n)
  mine.any (fun e => match imageOf s e.2 with
    | some p => (segCores (laterSegs s e.2)).any (fun c => !bitOf cores c) || (segStacks p (laterSegs s e.2)).any (fun k => !bitOf stks k)
    | none => false) ||
  s.objs.any (fun o => (mapOf o.2 n).isSome && o.2.loc.any (fun f => !bitOf stks (f.2 / 2 ^ 20))) ||
  (te.strict && share ≠ (partNext te).2.2 && !mine.isEmpty)

/-- PARTITION (R396, R397): applied at the next meridian. -/
def execPartition (t cmd : Nat) (s : State) : Res :=
  .next (runCmd cmd 0x0701 (fun x s =>
    let n := x.hdr.p0 % 4096
    match look s.tenants n with
    | none => fail cmd 0x13 s
    | some te =>
      let cores := bits x.hdr.p1 0 36
      let share := bits x.hdr.p2 16 7
      let stks := stacksOf s (x.hdr.p2 % 4096)
      if bits x.hdr.p2 12 4 ≠ 0 ∨ x.hdr.p2 / 2 ^ 23 ≠ 0 then fail cmd 0x11 s
      else if partitionBad s n te cores stks share then refuseWith cmd 0x19 s
      else if partitionBusy s n te cores stks share then fail cmd 0x15 s
      else done cmd cores { s with tenants := tput s.tenants n { te with nextPart := some (cores, stks, share) } }) (tick t s))

/-- POWER_SHARE (R387, R388, R425, R426). -/
def execPowerShare (t cmd : Nat) (s : State) : Res :=
  .next (runCmd cmd 0x0702 (fun x s =>
    let n := x.hdr.p0 % 4096
    match look s.tenants n with
    | none => fail cmd 0x13 s
    | some te =>
      let w := clampNat 0 (envelope s) x.hdr.p1
      if te.strict then
        if s.jobs.any (·.2.tenant = n) then fail cmd 0x15 s
        else
          let room := cfg s 0xA00000 0 12 - pwrBase s - (strictSum s - te.power)
          let w := min w room
          done cmd w { s with tenants := tput s.tenants n { te with power := w } }
      else done cmd w { s with tenants := tput s.tenants n { te with nextPower := some w } }) (tick t s))

/-! ### Commands that wait -/

/-- Commands whose wait a meridian looks at again: OBJ_UNMAP and TENANT_DESTROY. -/
def pollCmds (s : State) : State :=
  (s.cmds.filter (fun c => c.2.begun && (c.2.hdr.opcode = 0x0303 || c.2.hdr.opcode = 0x0602))).foldl (fun s c =>
    if c.2.hdr.opcode = 0x0303 then unmapStep c.1 c.2 s else destroyStep c.1 (c.2.hdr.p0 % 4096) s) s

end Sys2Proof.Machine
end

