-- ==== Sys2Proof/Machine/Meridian.lean ====
section
/-! DEFINITION. Meridians, the dispatch of segments, slips and aborts (spec/02 R32 to R56), and what other chapters do at a
meridian: steps and scales (spec/07 R167 to R181), contexts and clearing (spec/04 R109, spec/05 R115, R119, spec/15 R400),
demotion (spec/10 R254, R255, R257), partitions and shares (R396, R426), repairs and changeovers (spec/19, spec/20). -/

namespace Sys2Proof.Machine

/-! ### Placing (R32 to R37) -/

/-- A PTP time in ns is a meridian instant (R32, R34). -/
def isInstant (s : State) (ns : Nat) : Bool := ((ns : Int) - epochNs s) % (periodNs s : Int) = 0

/-- The meridian number of an instant (R33, R34). -/
def meridianNo (s : State) (ns : Nat) : Int := ((ns : Int) - epochNs s) / (periodNs s : Int)

/-- The next instant after a meridian: one period on, or in a changeover exposure the first under the new values that lies
five twilight periods on or later (R35, R37). -/
def nextInstant (s : State) (ns : Nat) (changed : Bool) : Int :=
  if changed then instantFrom s (ns + 19200) else (ns : Int) + periodNs s

/-- A length fits the time to the next instant: within the trim bound of 33/10 cc per ns (R34, R35). -/
def lengthFits (s : State) (len : Nat) (gap : Int) : Bool :=
  decide ((10 * (len : Int) - 33 * gap).natAbs ≤ 10 * trimBound (cfg s 0x10000 0 16) + (if gap % 10 = 0 then 0 else 9))

/-- A meridian falls at this cc: meridians are placed, and this is the edge of the next instant, which the last meridian,
or a time that was set since, has fixed (R32, R35, R37, R329). -/
def meridianFalls (s : State) (ns : Nat) : Bool :=
  live s && s.mer.placing && isInstant s ns && decide ((ns : Int) = s.mer.next) && decide (s.now = s.mer.due)

/-- The phase error of a meridian is what the timebase has beyond its instant, to the ns (R62). -/
def errFits (s : State) (ns : Nat) (err : Int) : Bool := decide (((ptpNs s : Int) - ns - err).natAbs ≤ 1)

/-! ### The end of a step (R168 to R171, R179 to R181, R226) -/

/-- The scale of a tag for the next step, and whether it was limited (R169). -/
def nextScale (w : W64) (k : Int) (hist : List (Option Int)) : Int × Bool :=
  match hist.foldl maxPos none with
  | none => (k, false)
  | some a =>
    let x : Int := a + 512 * tagMargin w - (if tagTgt w = 1 then 3968 else 512)
    let q := -((-x) / 512)
    let c := clampInt (-128) 127 q
    (c, c ≠ q)

/-- The loss-scale rule on LS and CLEAN; the flag says that the step was dirty at LS_MIN (R181). -/
def lossStep (p : LsPar) (ls clean : Nat) (bad : Bool) : Nat × Nat × Bool :=
  if ¬ p.enable then (ls, 0, false)
  else if bad then (if p.lsMin < ls then (ls - 1, 0, false) else (ls, 0, true))
  else if clean + 1 < p.nClean then (ls, clean + 1, false)
  else (min (ls + 1) p.lsMax, 0, false)

/-- A rule command that waited applies after the table (R181). With ENABLE = 0 it leaves CLEAN below its N_CLEAN, and the next
STEP_END makes CLEAN 0 (DESIGN CHOICE, log 39: R181 gives no cc for it). -/
def applyRule (j : Job) : Job :=
  match j.lsNext with
  | none => j
  | some r => { j with lsPar := r, lsNext := none, ls := clampNat r.lsMin r.lsMax j.ls, clean := min j.clean (r.nClean - 1) }

/-- The MODE 1 tags of a job after a step: (tag, history, scale, limited). -/
def stepTags (p : PlanImage) (j : Job) (bad : Bool) : List (Nat × List (Option Int) × Int × Bool) :=
  (p.tags.filter (fun t => tagMode t.2 = 1)).map (fun t =>
    let old := tget j.hist t.1 []
    let h := if bad then old else (look j.amax t.1 :: old).take (tagHist t.2)
    (t.1, h, nextScale t.2 (tget j.scales t.1 (tagK0 t.2)) h))

/-- STEP_END: verdict, scales, loss scale, counters (R168 to R171, R179, R181, R189, R226). -/
def endStep (slot : Nat) (j : Job) (p : PlanImage) (s : State) : State :=
  let bad := verdictDirty s j
  let tags := stepTags p j bad
  let (ls, clean, floor) := lossStep j.lsPar j.ls j.clean bad
  let j' : Job := applyRule { j with
    hist := tags.foldl (fun m t => tput m t.1 t.2.1) j.hist
    scales := tags.foldl (fun m t => tput m t.1 t.2.2.1) j.scales
    clamped := (tags.filter (·.2.2.2)).map (·.1)
    ls, clean, lastSkip := bad, optStep := if bad then j.optStep else j.optStep + 1
    step := j.step + 1, amax := [], dirty := false, verdict := none }
  let s := bump (rkey 0x22008 slot) 64 1 { s with jobs := tput s.jobs slot j' }
  let s := if bad then irqSet 0x20384 2 (bump (rkey 0x22010 slot) 32 1 s) else s
  let s := if floor then raiseJob 0x181 slot (irqSet 0x20384 4 (bump (rkey 0x22014 slot) 32 1 s)) else s
  j'.clamped.foldl (fun s t => raiseJob 0x180 slot (bump (rkey 0x22018 slot) 32 1 s) (t % 256) (t / 256)) s

/-- The scale table of a step that starts (R172). -/
def scaleTable (p : PlanImage) (j : Job) : List Byte :=
  let mode1 := fun (i : Nat) => p.tags.any (fun t => t.1 = i && tagMode t.2 = 1)
  leBytes 8 j.step ++ leBytes 1 j.ls ++ leBytes 1 (if j.lastSkip then 1 else 0) ++ leBytes 6 0 ++
  (List.range 1024).map (fun i => if mode1 i then BitVec.ofInt 8 (tget j.scales i 0) else 0) ++
  (List.range 128).map (fun i => BitVec.ofNat 8 ((List.range 8).foldl (fun m b =>
    if mode1 (8 * i + b) && j.clamped.contains (8 * i + b) then m + 2 ^ b else m) 0)) ++ leBytes 880 0

/-! ### The start of a segment (R38, R44, R47, R172, R225, R389) -/

/-- Ephemeris entries of a segment, as they arm (R259). -/
def freshEph (i : Nat) (e : EphEntry) : EphRun :=
  { entry := i, armed := false, armAt := 0, armM := 0, going := false, mismatch := false,
    left := (List.range e.pages).map (· + e.page), done := 0, ended := false }

/-- A correlator operation as it arms (R279). -/
def freshCor (op : Nat) : CorRun :=
  { op, phase := 0, at_ := 0, chunks := [], verdicts := [], held := 0, landed := false, sent := false, led := 0, cyc := [],
    goes := [], moving := [], landing := 0, waits := false, num := 0 }

/-- The record of a job whose segment starts at this meridian. -/
def started (s : State) (pl : Plan) (g : Segment) (seg : Nat) (j : Job) : Job :=
  let eph := (pl.eph.zipIdx.filter (fun e => e.1.seg = seg)).map (fun e => freshEph e.2 e.1)
  let streams := g.streams.filter (fun i => (pl.image.streams[i]?).any (·.base.isNone))
  { j with
    phase := 1, segs := (j.segs + 1) % 2 ^ 32, seg, segAt := s.now, segM := s.mer.count
    deadline := (s.now : Int) + s.mer.length - guardCc s, lateness := 0, run := 0, eph, cor := g.ops.map freshCor
    busy := (g.entries ++ streams.map busyStream).foldl (fun b k => tput b k s.now) j.busy
    verdict := if g.updateStart then some j.dirty else j.verdict
    hyps := if g.updateStart then readVa s j.tenant [] j.block.hyp 8192 else j.hyps }

/-- The echoed word of a job (R387). -/
def jobEcho (slot : Nat) (j : Job) : Nat :=
  slot + j.base0 * 2 ^ 16 + j.base1 * 2 ^ 32 + (if j.segs = 0 then 0 else 2 ^ 45)

/-- A job ends with SUCCESS (R389). -/
def finishJob (slot : Nat) (j : Job) (s : State) : State := endJob slot j 0 (jobEcho slot j) s

/-- The first start of a job answers its JOB_START with STARTED, unless that was done (R382, R387). -/
def firstStart (slot : Nat) (j : Job) (s : State) : State :=
  match j.cmd with
  | some c =>
    if (look s.cmds c).any (fun x => !x.started) then
      replyTo c 1 (slot + j.base0 * 2 ^ 16 + j.base1 * 2 ^ 32 + 2 ^ 45) false s
    else s
  | none => s

/-- A core or a stack that a segment names has left service since the job started (R449, R469): the source that took it. -/
def blockGone (s : State) (p : PlanImage) (g : Segment) : Option Nat :=
  let src := fun (k : Unit') (u : Nat) =>
    ((s.flt.quars.find? (fun q => q.2.inst % 256 = u && srcUnit q.2.source == k)).map (·.2.source)).getD 0x1D0
  match g.launches.find? (fun l => !coreThere s l.core || (coreOf s l.core).quarantined) with
  | some l => some (src .core l.core)
  | none => ((segStacks p [g]).find? (fun k => !stackThere s k || stopped s .stack k)).map
      (src .stack)

/-- Start a plan segment of a job (R38, R48): the first of a step writes the scale table (R172). -/
def startSegment (slot seg : Nat) (stepFirst : Bool) (s : State) : State :=
  match look s.jobs slot with
  | none => s
  | some j =>
    match look s.plans j.plan, (look s.plans j.plan).bind (fun p => p.image.segments[seg]?) with
    | some pl, some g =>
      match blockGone s pl.image g with
      | some src => abortJob slot src s
      | none =>
        let s := if stepFirst then writeVa (farWrite slot j.tenant (8 * slot + 5)) j.tenant [] j.block.scale (scaleTable pl.image j) s else s
        let s := { s with jobs := tput s.jobs slot (started s pl g seg j) }
        slipCheck slot (if j.segs = 0 then firstStart slot j s else s)
    | _, _ => finishJob slot j s

/-! ### Jobs at a meridian (R38, R48, R54, R56, R389) -/

/-- The deadline of a segment that continues (R54), and the slip that it may need at once (R51). -/
def slipOn (slot : Nat) (s : State) : State :=
  slipCheck slot <| modJob slot (fun j => { j with deadline := (s.now : Int) + s.mer.length - guardCc s, run := j.run + 1 }) s

/-- After a segment is done: the step may end, and the job ends or runs its next plan segment (R48, R168, R389). -/
def nextSegment (slot : Nat) (j : Job) (s : State) : State :=
  match imageOf s j with
  | none => s
  | some p =>
    let ended := (p.segments[j.seg]?).any (·.stepEnd)
    let s := clearLogs slot s
    let s := if ended then endStep slot j p s else s
    let last := decide (p.segments.length ≤ j.seg + 1)
    match look s.jobs slot with
    | none => s
    | some j =>
      if j.stopping ∨ (last ∧ ¬ bitOf j.block.flags 1) then finishJob slot j s
      else startSegment slot (if last then j.block.loopSeg else j.seg + 1) ended s

/-- The check of one job (R38): stop commands, overruns, among them that of a job whose slip request was not sent (R54), slips,
ends and starts. -/
def jobAtMeridian (slot : Nat) (s : State) : State :=
  match look s.jobs slot with
  | none => s
  | some j =>
    let m := s.mer.count
    let s := modJob slot (fun j => { j with requested := false, overdue := false, honoured := j.honoured.filter (fun x => decide (m < x)) }) s
    let slipped := j.honoured.contains m
    if j.aborted.isSome then s
    else if j.abortNext then abortJob slot 0x186 (raiseJob 0x186 slot s)
    else if j.overdue then raiseJob 0x025 slot s
    else match j.phase with
      | 0 =>
        if j.stopping then finishJob slot j s
        else if j.block.startM = 0 ∨ j.block.startM ≤ m then startSegment slot j.block.firstSeg true s
        else s
      | 1 => if slipped then slipOn slot s else raiseJob 0x025 slot s
      | 2 => if slipped then slipOn slot s else nextSegment slot j s
      | _ => s

/-! ### Cores (R109, R113 to R119, R157, R400, R423) -/

/-- Jobs whose segment started at this meridian, and those whose segment continues. -/
def starters (s : State) : Tab Job := s.jobs.filter (fun e => e.2.phase = 1 && e.2.segAt = s.now && e.2.aborted.isNone)
def continuers (s : State) : Tab Job :=
  s.jobs.filter (fun e => (e.2.phase = 1 || e.2.phase = 2) && e.2.segAt ≠ s.now && e.2.aborted.isNone)

/-- Jobs of a list whose segment launches threads on a core. -/
def jobsAt (s : State) (js : Tab Job) (core : Nat) : Tab Job :=
  js.filter (fun e => (segOf s e.2).any (fun g => g.launches.any (·.core = core)))

/-- Counters of a core's window that restart when it passes to another job (R112, R142, R161). -/
def coreCounter (core k : Nat) : Bool :=
  let a := k - (0x100000 + 0x10000 * core)
  decide (0x100000 + 0x10000 * core ≤ k) &&
  (decide (0x3008 ≤ a ∧ a < 0x301C) || decide (0x4010 ≤ a ∧ a < 0x4034) || a = 0x5004)

/-- Tenants of a list of jobs. -/
def jobTenants (js : Tab Job) : List Nat := (js.map (·.2.tenant)).eraseDups

/-- Two lists hold the same numbers. -/
def sameSet (a b : List Nat) : Bool := a.all (fun x => b.contains x) && b.all (fun x => a.contains x)

/-- Switch a core to the tenants and jobs whose segments start on it: clear it where the tenants change and none of the
former ones continues (R400), or where it passes to another job or a job was aborted on it (R109). A random source that has
failed leaves the core quarantined and ends what would have started there (R157). -/
def switchCore (rngOk : Bool) (core : Nat) (s : State) : State :=
  let c := coreOf s core
  let st := jobsAt s (starters s) core
  let ct := jobsAt s (continuers s) core
  if st.isEmpty then s else
  let news := jobTenants st
  let keep := jobTenants ct
  let fresh := !sameSet news c.tenants
  let held := keep.any (fun x => c.tenants.contains x)
  let passes := st.any (fun e => !c.last.contains e.1) && !((st ++ ct).any (fun e => c.last.contains e.1))
  let s := if passes then { s with ctr := s.ctr.filter (fun e => !coreCounter core e.1) } else s
  let s := if fresh && held then bump 0xC00204 32 1 s else s
  let s := if (fresh && !held) || ((passes || c.abortClear) && ct.isEmpty) then clearContexts core s else s
  let s := if fresh && !held then
      let s := seedCore rngOk core (bump 0xC00200 32 1 (clearStore core 0 0x1800000 s))
      if rngOk then s else abortAll (st.map (·.1)) 0x04A s
    else s
  modCore core (fun c => { c with tenants := (news ++ keep).eraseDups }) s

/-- The issue map of a core that several jobs share: for each of 64 cc the job whose plan claims it; a cc that no plan claims
goes to the first (R119; DESIGN CHOICE, log 19). -/
def issueMap (s : State) (core : Nat) (js : Tab Job) : List Nat :=
  if js.length ≤ 1 then [] else
  (List.range 64).map (fun i => (js.findIdx? (fun e => (imageOf s e.2).any (fun p =>
    p.maps.any (fun m => m.core = core && (m.mine[i]?).getD false)))).getD
      ((js.findIdx? (fun e => (imageOf s e.2).any (fun p => p.maps.all (·.core ≠ core)))).getD 0))

/-- The jobs and the issue map of a core for the exposure; its grant frames are counted from the meridian (R119, R423). -/
def dealCore (core : Nat) (s : State) : State :=
  let js := jobsAt s (s.jobs.filter (fun e => (e.2.phase = 1 || e.2.phase = 2) && e.2.aborted.isNone)) core
  modCore core (fun c => { c with
    jobs := js.map (·.1), last := if js.isEmpty then c.last else js.map (·.1), imap := issueMap s core js, frame := 0, used := 0 }) s

/-- Launch one thread: entry address, s1 to s3, first issue at cc 33 (R38, R115). -/
def launch (slot : Nat) (j : Job) (l : Launch) (s : State) : State :=
  let k := l.core * 128 + l.thread
  let th : Thread := { state := 1, pc := l.entry, slot, tenant := j.tenant, stream := l.stream, draws := 0, readyAt := s.now + 33 }
  let put := fun (m : Tab W64) (r : Nat) (v : W64) => tset m (k * 64 + r) v 0
  let sregs := put (put (put s.sregs 1 (BitVec.ofNat 64 (l.thread + l.core % 18 * 128 + l.core / 18 * 4096)))
    2 (BitVec.ofNat 64 (j.segs - 1))) 3 (BitVec.ofInt 64 j.segM)
  { s with threads := tput s.threads k th, sregs }

/-- Launch the threads of a segment; other threads of the job stay INACTIVE (R115, R116). -/
def launchAll (slot : Nat) (s : State) : State :=
  match look s.jobs slot with
  | none => s
  | some j =>
    if j.aborted.isSome then s else
    let s := { s with threads := tmap s.threads (fun _ th => if th.slot = slot then { th with state := 0 } else th) }
    match segOf s j with
    | some g => g.launches.foldl (fun s l => launch slot j l s) s
    | none => s

/-- A stack engine passes to other tenants: a new free-running seed; a random source that has failed leaves the engine quarantined
and ends what would have started on it, as for a core (R157, R159). -/
def switchStack (rngOk : Bool) (k : Nat) (s : State) : State :=
  let uses := fun (js : Tab Job) => js.filter (fun e => match imageOf s e.2, segOf s e.2 with
    | some p, some g => (segStacks p [g]).contains k
    | _, _ => false)
  let news := jobTenants (uses (starters s))
  let keep := jobTenants (uses (continuers s))
  let old := (stackOf s k).tenants
  if news.isEmpty ∨ sameSet news old ∨ keep.any (fun x => old.contains x) then s
  else
    let s := seedStack rngOk k s
    if ¬ rngOk then abortAll ((uses (starters s)).map (·.1)) 0x04A s else
    modStack k (fun st => { st with tenants := (news ++ keep).eraseDups }) s

/-- Segment dispatch (R38). A segment with nothing to do is done at once (R47). -/
def dispatch (rngOk : Bool) (s : State) : State :=
  let cores := s.cores.map (·.1)
  let s := cores.foldl (fun s c => switchCore rngOk c s) s
  let s := (s.stks.map (·.1)).foldl (fun s k => switchStack rngOk k s) s
  let s := cores.foldl (fun s c => dealCore c s) s
  let begun := (starters s).map (·.1)
  let s := begun.foldl (fun s k => launchAll k s) s
  begun.foldl (fun s k => checkDone k s) s

/-! ### Pages (R253 to R257) -/

/-- LOCK the listed pages of the segments that start (R257). -/
def lockPages (s : State) : State :=
  { s with frames := tmap s.frames (fun _ f => if pageListed s f.obj f.page then { f with lock := true } else f) }

/-- One frame at a meridian: a demotion begins, or a copy's outcome is decided (R254, R255). A locked page stays, as a pinned
one does (R257), and so does a dirty page whose home is a read-only vault (R270). An abort counts in DEMOTE_ABORTS of every job
of each tenant that maps the object (DESIGN CHOICE, log 32: R255 names no job). -/
def demoteFrame (first : Nat) (s : State) : State :=
  match look s.frames first with
  | none => s
  | some f =>
    match look s.objs f.obj with
    | none => s
    | some o =>
      let pinned := decide (0 < pinsOf o f.page)
      if flushing s first then s
      else if f.state = 2 ∧ f.vote ∧ ¬ pinned ∧ ¬ f.lock ∧ o.home ≠ 0 ∧ ¬ (f.dirty ∧ o.home = 2 ∧ s.vault.readOnly) then
        if f.dirty then modFrame first (fun f => { f with state := 4, written := false, copied := false }) s
        else dropPage f.obj f.page (bump (rkey 0x500118 o.home) 32 1 s)
      else if f.state = 4 ∧ f.copied then
        if f.written then
          let s := modFrame first (fun f => { f with state := 2, dirty := true, written := false, copied := false }) s
          (slotsOf s (o.maps.map (·.tenant))).foldl (fun s k => bump (rkey 0x50021C k) 32 1 s) s
        else if pinned ∨ f.lock then
          modFrame first (fun f => { f with state := 2, dirty := false, copied := false }) s
        else dropPage f.obj f.page (bump (rkey 0x500118 o.home) 32 1 s)
      else s

/-- Every demotion that this meridian decides. -/
def demote (s : State) : State := (s.frames.map (·.1)).foldl (fun s f => demoteFrame f s) s

/-! ### Registers, tenants and records at a meridian -/

/-- A port starts to train anew in the mode and medium now active (R298): its sub-ports go down, and it stays down only
without firmware (R407) or with both lane pairs in quarantine (R302). -/
def retrain (p : Nat) (s : State) : State :=
  let code := 4 * p
  let bad := s.flt.blocks.contains (.port, code) && s.flt.blocks.contains (.port, code + 256)
  (List.range 4).foldl (fun s i => modPort (code + i) (fun q => { q with failed := q.failed && (bad || q.serdes = 0) })
    (dropLink (code + i) s)) s

/-- Active values change (R38, R39), with what follows from a change: promotion counting starts afresh (R452), a new limit
is in force (R422), routes drop their spray counters (R320), ports retrain or withdraw (R298, R300, R324), and the reference
of the timebase is chosen anew (R328, R330). -/
def applyRegisters (s : State) : State :=
  let s' := applyShadows s
  let moved := s.shd.filter (fun e => regA s e.1 ≠ regA s' e.1)
  let srcs := (moved.filter (fun e => e.1 % 2 ^ 32 = 0xB00204 || e.1 % 2 ^ 32 = 0xB00208)).map (fun e => e.1 / 2 ^ 32)
  let s' := { s' with flt := { s'.flt with times := s'.flt.times.filter (fun x => !srcs.contains x.1) } }
  let s' := if moved.any (fun e => e.1 = 0xA00000) then irqSet 0xA00184 1 s' else s'
  let s' := if (groupSt s 1).state = 2 then { s' with spray := [] } else s'
  let changed := fun (p m : Nat) => decide (regA s (0x700000 + 0x1000 * p) % m ≠ regA s' (0x700000 + 0x1000 * p) % m)
  let ports := (List.range (nPorts s)).filter (fun p => changed p 8)
  let gone := (List.range 96).filter (fun c => changed (c / 4) 4 && portMode s' c = 0 && (portOf s c).up)
  let s' := gone.foldl (fun s c => withdraw c s) s'
  ptpSelect (ports.foldl (fun s p => retrain p s) s')

/-- Partitions and shares that were set apply (R396, R426). -/
def applyTenants (s : State) : State :=
  { s with tenants := tmap s.tenants (fun _ x =>
      let x := match x.nextPart with
        | some (c, k, sh) => { x with cores := c, stks := k, share := sh, nextPart := none }
        | none => x
      match x.nextPower with
      | some w => { x with power := w, nextPower := none }
      | none => x) }

/-- The census of the exposure that ends becomes the snapshot, and the counters start afresh (R167). -/
def snapshotCensus (s : State) : State :=
  let clamped := fun (k : Nat) => s.jobs.any (fun e => e.2.tenant = k / 1024 && e.2.clamped.contains (k % 1024))
  let listed := (s.jobs.map (fun e => e.2.clamped.map (fun t => e.2.tenant * 1024 + t))).flatten
  let base := listed.foldl (fun m k => tput m k (tget m k emptyCensus)) s.census
  { s with snap := tmap base (fun k c => { c with clamp := clamped k }), snapM := s.mer.count, census := [] }

/-- The timebase at a meridian: its time goes on unchanged, and its rate is the one at which the next instant falls at the
end of the length, beside what it slews until then (R35, R36). -/
def steady (len : Nat) (next : Int) (s : State) : State :=
  let fine := ptpFine s
  let owed := s.ptp.owed - slewBy s.ptp.owed (s.now - s.ptp.slewAt)
  { s with ptp := { s.ptp with
      ns := fine / 100000, nsAt := s.now, frac := (fine % 100000 : Nat)
      rate := (next * 100000 - fine - slewBy owed len).toNat, rateCc := max 1 len, owed, slewAt := s.now } }

/-- The meridian's own state (R35 to R38). -/
def placeMeridian (len : Nat) (next err : Int) (changed : Bool) (m : Int) (s : State) : State :=
  let s := steady len next s
  { s with mer := { s.mer with count := m, length := len, err, at_ := s.now, next, due := s.now + len, changeover := changed } }

/-- What a meridian serves besides jobs: waiting commands, blocks and repairs, slices, changeovers (R471 to R474, R486 to
R488). -/
def serveMeridian (s : State) : State :=
  portSwitch (microSwitch (cpChangeover (startSlices (startField (serveRepairs (returnBlocks (pollCmds s)))))))

/-- The twilight rotation restarts at group 0 (R38, R42). -/
def restartTwilight (s : State) : State :=
  { s with stks := tmap s.stks (fun _ k => { k with group := 0, inSlot := false }) }

/-- MERIDIAN at a cc and PTP time, with the length of the exposure it starts and its phase error (R32 to R38). -/
def execMeridian (t len ns : Nat) (err : Int) (rngOk : Bool) (s : State) : Res :=
  let s := tick t s
  let changed := (groupSt s 0).state = 2
  .next (
    let next := nextInstant (applyShadows s) ns changed
    if ¬ meridianFalls s ns ∨ ¬ errFits s ns err ∨ ¬ lengthFits (applyShadows s) len (next - ns) then s
    else
      let m := meridianNo s ns
      let s := snapshotCensus (receiptsAt ns (apportion s))
      let running := s.jobs.map (·.1)
      let s := applyTenants (applyRegisters (placeMeridian len next err changed m s))
      let began := (s.jobs.filter (fun e => e.2.phase ≠ 0)).map (·.1)
      let s := if changed then began.foldl (fun s k => raiseJob 0x022 k s) s else s
      let s := running.foldl (fun s k => jobAtMeridian k s) s
      let s := demote (lockPages (dispatch rngOk (restartTwilight s)))
      irqSet 0x10044 1 (serveMeridian { s with boot := { s.boot with rngOk } }))

/-! ### Deadlines, slip requests and abort frames (R51 to R56) -/

/-- JOB_DEADLINE: cc D with the segment not done requests a slip with EXCESS 0 (R51, R52). -/
def execJobDeadline (t slot : Nat) (s : State) : Res :=
  let s := tick t s
  .next (match look s.jobs slot with
    | some j => if j.phase = 1 ∧ j.aborted.isNone ∧ j.deadline = s.now then requestSlip slot 0 s else s
    | none => s)

/-- A slip request that arrives after its meridian began: MER_LATE_SLIP, and an exposure overrun where the segment of
before that meridian still runs (R55). -/
def lateSlip (slot : Nat) (j : Job) (sender : Nat) (mer : Int) (s : State) : State :=
  let s := raiseJob 0x024 slot (bump (rkey 0x1010C slot) 16 1 s) (sender % 256) (sender / 256)
  if j.phase = 1 ∧ j.segM < mer then raiseJob 0x025 slot s else s

/-- SLIP_REQUEST_RECEIVE: the request whose last bit was at the pin at cc `bit` reaches the MER block 400 cc later (R53). A
duplicate is dropped, a late one is a fault, one in time is honoured unless it disagrees on period or segment (R53, R55). -/
def execSlipRequestReceive (t bit job sender : Nat) (mer : Int) (segment excess : Nat) (plan : SlipTail) (s : State) : Res :=
  let s := tick t s
  .next (match jobById s job with
    | none => s
    | some (slot, j) =>
      if ¬ live s ∨ s.now ≠ bit + 400 ∨ j.seen.contains (sender, mer) then s
      else
        let u := modJob slot (fun j => { j with seen := j.seen ++ [(sender, mer)] }) s
        if mer ≤ s.mer.count then lateSlip slot j sender mer u
        else if plan.period ≠ cfg s 0x10000 0 16 ∨ segment ≠ j.segs - 1 then mismatch slot u
        else honour slot mer sender excess u)

/-- JOB_ABORT_RECEIVE: MER_OVERRUN against the same job (R56). -/
def execJobAbortReceive (t job sender : Nat) (s : State) : Res :=
  let s := tick t s
  .next (match jobById s job with
    | none => s
    | some (slot, j) => if ¬ live s ∨ j.aborted.isSome ∨ 4095 < sender then s else raiseJob 0x025 slot s)

end Sys2Proof.Machine
end

