-- ==== Sys2Proof/Machine/Readout.lean ====
section
/-! DEFINITION. What a read of each register returns (the register tables of every chapter; spec/00 R4, R10, R11; spec/21
R490 to R499). -/

namespace Sys2Proof.Machine

/-- A word of a wide value. -/
def word (x i : Nat) : Nat := bits x (32 * i) 32

/-- A commit group's status word (R41, R62). -/
def groupWord (s : State) (g : Nat) : Nat := (groupSt s g).state + (groupSt s g).discards * 2 ^ 16

/-- A counter of a register selected by item. -/
def ctrAt (s : State) (a item : Nat) : Nat := ctrOf s (rkey a item)

/-- Enabled cores as a mask (R499). -/
def coreMask (s : State) : Nat := (s.cores.filter (fun c => c.2.enabled)).foldl (fun m c => m + 2 ^ c.1) 0

/-- GLB (R489, R499). -/
def glbWord (s : State) (off : Nat) : Nat :=
  match off with
  | 0x00 => 0xB0 + variant s * 2 ^ 8 + s.alm.flashTb * 2 ^ 16 + iods s * 2 ^ 24
  | 0x04 => stackMask s + (2 ^ iods s - 1) * 2 ^ 12 + flagBit (hasVault s) 14
  | 0x08 => 2 ^ nPorts s - 1
  | 0x10 => s.boot.stage + s.boot.restarts * 2 ^ 8 + s.boot.bringupMs * 2 ^ 16
  | 0x20 => word s.alm.serial 0
  | 0x24 => word s.alm.serial 1
  | 0x28 => word s.alm.serial 2
  | 0x2C => word s.alm.serial 3
  | 0x40 => word (coreMask s) 0
  | 0x44 => word (coreMask s) 1
  | _ => 0

/-- MER (R62). SEGMENT reads the index of the job's segment, from 0 (R48; DEDUCED, log 24). -/
def merWord (s : State) (off : Nat) : Nat :=
  let slot := cfg s 0x10100 0 12
  match off with
  | 0x14 => groupWord s 0
  | 0x20 => word (toField 64 s.mer.count) 0
  | 0x24 => word (toField 64 s.mer.count) 1
  | 0x28 => bits s.mer.length 0 32
  | 0x2C => toField 32 s.mer.err
  | 0x30 => s.ptp.lock
  | 0x104 => ctrAt s 0x10104 slot
  | 0x108 => ctrAt s 0x10108 slot
  | 0x10C => ctrAt s 0x1010C slot + ctrAt s 0x1010E slot * 2 ^ 16
  | 0x110 => ctrAt s 0x10110 slot
  | 0x114 => (look s.ctr (rkey 0x10114 slot)).getD 0x7FFFFFFF
  | 0x118 => bits (ctrAt s 0x10118 slot) 0 12
  | 0x11C => bits (ctrAt s 0x1011C slot) 0 32
  | 0x120 => bits (((look s.jobs slot).map (fun j => j.segs - 1)).getD 0) 0 32
  | _ => 0

/-- CMD: status, numerics and firmware windows (R189, R240, R489, R501). -/
def cmdWord (s : State) (off : Nat) : Nat :=
  let slot := cfg s 0x22000 0 12
  let x := sessionOf s (cfg s 0x23004 0 3)
  match off with
  | 0x0000 => flagBit (ready s && !s.boot.cpPending && decide (s.pho.queue.length ≤ 61440)) 0 + flagBit s.boot.cpPending 1 +
      s.jobs.length * 2 ^ 16
  | 0x2004 => match look s.jobs slot with
    | some j => j.ls + j.clean * 2 ^ 8 + flagBit j.lastSkip 24
    | none => 0
  | 0x2008 => word (ctrAt s 0x22008 slot) 0
  | 0x200C => word (ctrAt s 0x22008 slot) 1
  | 0x2010 => ctrAt s 0x22010 slot
  | 0x2014 => ctrAt s 0x22014 slot
  | 0x2018 => ctrAt s 0x22018 slot
  | 0x2020 => word (((look s.jobs slot).map (·.optStep)).getD 0) 0
  | 0x2024 => word (((look s.jobs slot).map (·.optStep)).getD 0) 1
  | 0x2028 => ctrAt s 0x22028 slot
  | 0x202C => ctrAt s 0x2202C slot + ctrAt s 0x2202E slot * 2 ^ 16
  | 0x3008 => x.state + flagBit x.aCurrent 2
  | 0x300C => bits x.bytes 0 32
  | 0x3010 => bits x.done 0 24
  | _ => 0

/-- The state of an accumulator bank: DRAINING, ACCUMULATING until its tile is readable, or IDLE (R101, R102, R112). -/
def bankCode (s : State) (c : CoreSt) (b : Nat) : Nat :=
  if s.now < (c.drained[b]?).getD 0 then 2
  else if s.now < (c.readable[b]?).getD 0 ∨ c.mac.any (fun m => m.bank = b) then 1
  else 0

/-- A core's window (R112, R142, R161, R500). -/
def coreWord (s : State) (core off : Nat) : Nat :=
  let base := 0x100000 + 0x10000 * core
  let c := coreOf s core
  let sel := cfg s (base + 0x4000) 0 7
  let th := look s.threads (core * 128 + sel)
  if 0x4010 ≤ off ∧ off < 0x4034 then ctrOf s (base + off)
  else if 0x4040 ≤ off ∧ off < 0x4060 then
    (List.range 8).foldl (fun m i => m + (c.imap[(off - 0x4040) / 4 * 8 + i]?).getD 0 % 16 * 2 ^ (4 * i)) 0
  else if 0x4060 ≤ off ∧ off < 0x40A0 then
    match c.jobs[(off - 0x4060) / 4]? with
    | some slot => slot + 2 ^ 31
    | none => 0
  else match off with
    | 0x0000 => core % 18 + core / 18 * 2 ^ 5 + flagBit c.enabled 6 + flagBit c.retired 7 +
        (if c.enabled then c.logical * 2 ^ 8 else 0) + flagBit c.quarantined 12
    | 0x3000 => bankCode s c 0 + bankCode s c 1 * 4 + flagBit c.mac.isSome 4 + c.ringWr * 2 ^ 8 +
        (256 - (s.slots.filter (fun e => e.1 / 256 = core)).length) * 2 ^ 16
    | 0x3008 => word (ctrOf s (base + 0x3008)) 0
    | 0x300C => word (ctrOf s (base + 0x3008)) 1
    | 0x3010 => ctrOf s (base + 0x3010)
    | 0x3014 => ctrOf s (base + 0x3014)
    | 0x3018 => ctrOf s (base + 0x3018)
    | 0x3020 => c.spareRows + c.spareCols * 2 ^ 4
    | 0x4004 => match th with
      | some x => thrState s core sel s.now + x.slot * 2 ^ 16
      | none => 0
    | 0x4008 => (th.map (·.pc)).getD 0
    | 0x400C => (th.map (·.tenant)).getD 0
    | 0x4034 => c.mq.length
    | 0x5000 => flagBit c.seeded 0 + ctrOf s (base + 0x5000) * 2 ^ 16
    | 0x5004 => ctrOf s (base + 0x5004)
    | _ => 0

/-- The sync window (R143). -/
def syncWord (s : State) (off : Nat) : Nat :=
  let obj := cfg s 0x340000 0 13
  match look s.sync obj with
  | none => 0
  | some o =>
    match off with
    | 0x04 => word o.value 0
    | 0x08 => word o.value 1
    | 0x0C => o.owner + o.tenant * 2 ^ 12 + 2 ^ 31
    | 0x10 => (s.threads.filter (fun t => waitsOn s (t.1 / 128) (t.1 % 128) s.now = some obj)).length + o.trigs.length * 2 ^ 16
    | _ => 0

/-- A job's latest update on a stack, a pre-pass apart (R219). -/
def lastUpdate (s : State) (stack slot : Nat) : Option UpdRun :=
  (((s.upds.filter (fun u => u.2.stack = stack && u.2.slot = slot && u.2.mode ≠ 2)).map (·.2)).reverse).head?

/-- A stack engine's window (R219). -/
def seWord (s : State) (n off : Nat) : Nat :=
  let base := 0x400000 + 0x10000 * n
  let k := stackOf s n
  let slot := cfg s (base + 0x100) 0 12
  let u := lastUpdate s n slot
  let job := fun (o : Nat) => ctrAt s (base + o) slot
  match off with
  | 0x00 => flagBit (hasStack s n) 0 + flagBit k.ready 1 + k.group * 2 ^ 2 + flagBit k.inSlot 4 + k.streams.length * 2 ^ 5 +
      (buffersUsed s n).length * 2 ^ 9 + k.laneSpares * 2 ^ 13 +
      flagBit k.chSpare 19
  | 0x14 => k.scrub / 1024
  | 0x18 => ctrOf s (base + 0x18) + flagBit (k.behind || (k.ready && decide (k.passAt + scrubCc s n < s.now))) 16
  | 0x20 => ctrOf s (base + 0x20)
  | 0x24 => ctrOf s (base + 0x24)
  | 0x28 => match k.lastUe with
    | some f => f + 2 ^ 31
    | none => 0
  | 0x30 => flagBit k.ready 0 + (k.fill.map (·.2)).sum * 2 ^ 8
  | 0x34 => ctrOf s (base + 0x34)
  | 0x40 => ctrOf s (base + 0x40)
  | 0x48 => word (ctrOf s (base + 0x48)) 0
  | 0x4C => word (ctrOf s (base + 0x48)) 1
  | 0x50 => ctrOf s (base + 0x50)
  | 0x58 => word (ctrOf s (base + 0x58)) 0
  | 0x5C => word (ctrOf s (base + 0x58)) 1
  | 0x104 => match u with
    | some x => x.status + (((s.upds.filter (fun u => u.2.stack = n && u.2.slot = slot && u.2.mode ≠ 1)).map
        (fun u => u.2.strips.length)).sum) * 2 ^ 8
    | none => 0
  | 0x108 => word ((u.map (·.step)).getD 0) 0
  | 0x10C => word ((u.map (·.step)).getD 0) 1
  | 0x110 => job 0x110
  | 0x114 => job 0x114
  | 0x118 => job 0x118
  | 0x11C => job 0x11C
  | _ => 0

/-- Dirty shelf pages over all objects (R272). -/
def dirtyShelf (s : State) : Nat :=
  (s.frames.filter (fun f => f.2.dirty && (look s.objs f.2.obj).any (fun o => o.policy = 3))).length

/-- TIER (R272). -/
def tierWord (s : State) (off : Nat) : Nat :=
  let tier := cfg s 0x500100 0 3
  let slot := cfg s 0x500200 0 12
  let v := hasVault s
  if 0x104 ≤ off ∧ off < 0x11C then ctrAt s (0x500000 + off) tier
  else if 0x204 ≤ off ∧ off < 0x220 then ctrAt s (0x500000 + off) slot
  else match off with
    | 0x000 => flagBit s.tables.isSome 0 + flagBit v 1 + flagBit (v && s.vault.ready) 2 + flagBit (v && s.vault.readOnly) 3
    | 0x010 => (ephRuns s true).length + min (ephRuns s false).length 65535 * 2 ^ 16
    | 0x184 => ctrAt s 0x500184 (cfg s 0x500180 0 5)
    | 0x304 => if v then min (wearSpan s).1 65535 + min (wearSpan s).2 65535 * 2 ^ 16 else 0
    | 0x308 => if v then s.vault.spare * 1000 / max 1 (superblocks s) else 0
    | 0x30C => if v then bits (dirtyShelf s) 0 28 else 0
    | 0x310 => word (ctrOf s 0x500310) 0
    | 0x314 => word (ctrOf s 0x500310) 1
    | 0x318 => ctrOf s 0x500318
    | 0x31C => ctrOf s 0x50031C
    | _ => 0

/-- Operations in flight on a half of the correlator (R273, R297). -/
def opsOn (s : State) (h : Nat) : Nat :=
  ((s.jobs.map (fun e => (e.2.cor.filter (fun r => r.phase = 1 &&
    ((corOf s e.1 r.op).map (fun c => c.half s)).getD 0 = h)).length))).sum

/-- This module's rank in the group of a queue edge (R292). -/
def rankIn (s : State) (p : PlanImage) (q : QEdge) : Option Nat :=
  (p.groups[q.group]?).bind (fun g => g.members.findIdx? (· = moduleId s))

/-- Queue edges of running jobs at which this module is a member (R292, R297). -/
def edgesInUse (s : State) : Nat :=
  ((s.jobs.map (fun e => ((imageOf s e.2).map (fun p =>
    (p.edges.filter (fun q => rankIn s p q = some q.up || rankIn s p q = some q.down)).length)).getD 0))).sum

/-- COR (R297). -/
def corWord (s : State) (off : Nat) : Nat :=
  let slot := cfg s 0x600100 0 12
  let key := edgeKey (cfg s 0x600200 0 12) (cfg s 0x600200 12 6)
  let q := (look s.jobs (key / 64)).bind (fun j => (edgeOf s j (key % 64)).map (fun q => (j, q)))
  let edge := q.map (fun x => edgeSt s (key / 64) (key % 64) x.2)
  let upstream := q.any (fun x => (imageOf s x.1).any (fun p => rankIn s p x.2 = some x.2.up))
  match off with
  | 0x000 => (2 ^ iods s - 1) + opsOn s 0 * 2 ^ 2 + opsOn s 1 * 2 ^ 9 + min (edgesInUse s) 255 * 2 ^ 16
  | 0x104 => ctrAt s 0x600104 slot
  | 0x108 => ctrAt s 0x600108 slot
  | 0x10C => ctrAt s 0x60010C slot
  | 0x110 => word (ctrAt s 0x600110 slot) 0
  | 0x114 => word (ctrAt s 0x600110 slot) 1
  | 0x118 => ctrAt s 0x600118 slot
  | 0x11C => ctrAt s 0x60011C slot + ctrAt s 0x60011E slot * 2 ^ 16
  | 0x120 => ctrAt s 0x600120 slot
  | 0x204 => if upstream then bits ((edge.map (·.credits)).getD 0) 0 24 else 0
  | 0x208 => (edge.map (·.burst.length)).getD 0
  | 0x20C => bits ((edge.map (·.ring.length)).getD 0) 0 21
  | 0x210 => ctrAt s 0x600210 key
  | 0x214 => bits (ctrAt s 0x600214 key) 0 22
  | _ => 0

/-- One bit for each sub-port of a port. -/
def subBits (s : State) (p : Nat) (f : Port → Bool) : Nat :=
  (List.range 4).foldl (fun m i => m + flagBit (f (portOf s (4 * p + i))) i) 0

/-- A port window (R334). -/
def portWord (s : State) (p off : Nat) : Nat :=
  let win := 0x700000 + 0x1000 * p
  let q := portOf s (4 * p)
  let sub := portOf s (4 * p + cfg s (win + 0x1C) 0 2)
  let nbr := sub.nbr
  let rec_ := fun (f : FinderRec → Nat) => (nbr.map (fun x => f x.1)).getD 0
  if 0x30 ≤ off ∧ off < 0x80 then ctrOf s (win + off)
  else match off with
    | 0x020 => word (s.alm.macBase + 4 * p) 0
    | 0x024 => bits (s.alm.macBase + 4 * p) 32 16
    | 0x028 => subBits s p (·.up) + flagBit q.degraded.isSome 4 + q.degraded.getD 0 % 2 * 2 ^ 5 + flagBit (q.preempt && cfg s win 4 1 = 1) 6 +
        subBits s p (·.inSpray) * 2 ^ 7 + subBits s p (·.loop) * 2 ^ 11
    | 0x100 => word (rec_ (·.serial)) 0
    | 0x104 => word (rec_ (·.serial)) 1
    | 0x108 => word (rec_ (·.serial)) 2
    | 0x10C => word (rec_ (·.serial)) 3
    | 0x110 => word (rec_ (·.srcMac)) 0
    | 0x114 => bits (rec_ (·.srcMac)) 32 16
    | 0x118 => bits (rec_ (·.module)) 0 16 + bits (rec_ (·.port)) 0 8 * 2 ^ 16 + bits (rec_ (·.caps)) 0 7 * 2 ^ 24 + flagBit sub.nbrOk 31
    | 0x11C => (nbr.map (fun x => min ((s.now - x.2) / msCc 1000) 65535)).getD 0
    | _ => 0

/-- The fabric, PTP and management windows (R334). -/
def lnkWord (s : State) (a : Nat) : Nat :=
  match a with
  | 0x718024 => groupWord s 1
  | 0x718214 => bits s.puHead 0 16
  | 0x71821C => ctrOf s 0x71821C
  | 0x71822C => bits s.txHead 0 16
  | 0x718240 => ctrOf s 0x718240
  | 0x719010 => word (ptpNs s / 10 ^ 9) 0
  | 0x719014 => bits (ptpNs s / 10 ^ 9) 32 16
  | 0x719018 => ptpNs s % 10 ^ 9
  | 0x719020 => toField 32 s.ptp.offset
  | 0x719024 => bits s.ptp.slave 0 8 + clockClass s * 2 ^ 8
  | 0x719044 => flagBit s.ptp.inPresent 0
  | 0x719054 => groupWord s 2
  | 0x71A024 => groupWord s 3
  | 0x71A030 => word (s.alm.macBase + 96) 0
  | 0x71A034 => bits (s.alm.macBase + 96) 32 16
  | _ => if 0x71A040 ≤ a ∧ a < 0x71A054 then ctrOf s a else 0

/-- KiB of a die's hold buffer in use (R352, R368). -/
def holdKib (s : State) (die : Nat) : Nat :=
  ceilDiv ((s.holds.filter (fun h => h.2.die = die)).map (fun h => heldBytes h.2)).sum 1024

/-- A region's FLAGS byte (R348). -/
def regionFlags (r : Region) : Nat :=
  let b := r.block
  flagBit r.valid 0 + flagBit b.sync 1 + flagBit b.r 2 + flagBit b.w 3 + flagBit b.a 4 + flagBit b.trig 5 + flagBit b.dp 6 + flagBit r.revoking 7

/-- BFT (R368). -/
def bftWord (s : State) (off : Nat) : Nat :=
  let c := look s.ctxs (cfg s 0x800300 0 24)
  let of := fun (f : Ctx → Nat) => (c.map f).getD 0
  let r := look s.regions (cfg s 0x800400 0 24)
  if 0x200 ≤ off ∧ off < 0x25C then ctrOf s (0x800000 + off)
  else match off with
    | 0x100 => ctxCached s + (s.ctxs.filter (fun e => ctxPinned s e.1 e.2)).length * 2 ^ 16
    | 0x104 => holdKib s 0 + holdKib s 1 * 2 ^ 16
    | 0x304 => of (fun x => x.state + flagBit x.job 3 + flagBit x.host 4 + flagBit x.bigP 5 + x.gen * 2 ^ 8 + x.peer * 2 ^ 16)
    | 0x308 => of (fun x => x.lTenant + x.pTenant * 2 ^ 12)
    | 0x30C => of (fun x => bits x.nextPsn 0 24)
    | 0x310 => of (fun x => bits x.sbase 0 24)
    | 0x314 => of (fun x => bits x.cum 0 24)
    | 0x318 => of (fun x => bits x.cwnd 0 11 + (if x.job then bits x.jobId 0 16 else 0) * 2 ^ 16)
    | 0x31C => of (fun x => bits x.rtoUs 0 24)
    | 0x404 => (r.map (fun x => regionFlags x + x.gen * 2 ^ 8 + x.tenant * 2 ^ 16)).getD 0
    | 0x408 => (r.map (fun x => bits x.inflight 0 32)).getD 0
    | 0x40C => s.regionCap
    | _ => 0

/-- IRQ_SUMMARY as it reads: a bit shows from the cc after its rise (R498). -/
def summaryWord (s : State) : Nat :=
  (List.range 12).foldl (fun m b => m + flagBit (bitOf s.pcie.summary b && decide (tget s.pcie.riseAt b 0 < s.now)) b) 0

/-- HST (R393). -/
def hstWord (s : State) (off : Nat) : Nat :=
  match off with
  | 0x00 => s.pcie.speed + s.pcie.width * 2 ^ 4 + flagBit s.pcie.flit 9 +
      (List.range 9).foldl (fun m i => m + flagBit (tget s.pcie.ide i 0 == 1) (10 + i)) 0
  | 0x04 => s.pcie.numVfs
  | 0x10 => summaryWord s
  | 0x20 => (s.cmds.filter (fun c => !c.2.started)).length + (s.cmds.filter (fun c => c.2.started)).length * 2 ^ 16
  | _ => if 0x100 ≤ off ∧ off < 0x118 then ctrOf s (0x900000 + off) else 0

/-- PWR (R433). -/
def pwrWord (s : State) (off : Nat) : Nat :=
  let ten := look s.tenants (cfg s 0xA00100 0 12)
  match off with
  | 0x004 => envelope s
  | 0x008 => pwrBase s
  | 0x00C => bits (strictSum s) 0 12
  | 0x104 => (ten.map (·.power)).getD 0
  | 0x108 => (ten.map (fun x => if x.strict ∧ 0 < x.power then wattUnits x.power else 0)).getD 0
  | _ => 0

/-- PHO (R446): energies in mJ. -/
def phoWord (s : State) (off : Nat) : Nat :=
  let p := s.pho
  let acc := cfg s 0xA10100 0 13
  let mj := p.energy / 10 ^ 9
  let res := toField 64 (p.residual / 10 ^ 6)
  let seq := ((look p.accounts acc).map (·.issued)).getD 0
  match off with
  | 0x00 => flagBit p.meterOk 0 + flagBit (decide (61440 < p.queue.length)) 1 + s.alm.calEpoch * 2 ^ 16
  | 0x04 => bits p.power 0 16
  | 0x08 => bits p.volt 0 17
  | 0x0C => bits p.curr 0 16
  | 0x10 => word mj 0
  | 0x14 => word mj 1
  | 0x18 => word res 0
  | 0x1C => word res 1
  | 0x24 => s.alm.rateS + s.alm.rateI * 2 ^ 16
  | 0x3C => bits p.logHead 0 24
  | 0x40 => bits p.queue.length 0 17
  | 0x104 => word seq 0
  | 0x108 => word seq 1
  | 0x10C => (p.reqs.filter (fun r => r.account = acc && r.id ≠ standingId)).length
  | 0x20C => min (p.fetchWait / 3300) (2 ^ 32 - 1)
  | _ => if 0x200 ≤ off ∧ off < 0x20C then ctrOf s (0xA10000 + off) else 0

/-- FLT (R462). -/
def fltWord (s : State) (off : Nat) : Nat :=
  let f := s.flt
  let q := look f.quars (cfg s 0xB00100 0 6)
  let src := cfg s 0xB00200 0 9
  if 0x400 ≤ off ∧ off < 0x440 then
    match f.c4 with
    | some e => leNat (((entryBytes e).drop (off - 0x400)).take 4)
    | none => 0
  else match off with
    | 0x000 => flagBit f.ringSet 0 + flagBit f.c4.isSome 1 + (f.quars.filter (fun x => x.2.state = 1)).length * 2 ^ 8
    | 0x004 => f.fifo.length
    | 0x008 => word f.nextSeq 0
    | 0x00C => word f.nextSeq 1
    | 0x020 => ctrOf s 0xB00020
    | 0x024 => ctrOf s 0xB00024
    | 0x104 => (q.map (fun x => x.state + x.source * 2 ^ 4)).getD 0
    | 0x108 => (q.map (fun x => bits x.inst 0 16 + (if x.state = 1 then (x.until_ - s.now) / msCc 1 else 0) * 2 ^ 16)).getD 0
    | 0x204 => srcClass src * 2 ^ 9
    | 0x20C => ctrAt s 0xB0020C src
    | 0x210 => ctrAt s 0xB00210 src
    | 0x214 => ctrAt s 0xB00214 src
    | _ => 0

/-- Spares in service or retired of a unit (R470, R475). -/
def sparesUsed (s : State) (cat unit : Nat) : Nat :=
  if cat = 0 then 2 - (freeSpares s 0 (18 * unit)).length
  else if cat = 8 then (ceilDiv (superblocks s * 9) 100 - s.vault.spare) * 1000 / max 1 (superblocks s)
  else ((List.range (spareTotal cat)).filter (fun i => bitOf (spareMask s cat unit) i)).length

/-- A unit of a spare category that the variant populates (R4, R475); the module's categories have one unit, and the other
rails are the four that R26 names, auxiliary, I/O, HBM and SerDes (DEDUCED). -/
def unitThere (s : State) (cat unit : Nat) : Bool :=
  match cat with
  | 0 => unit < 2
  | 1 | 2 | 3 => unit < 36
  | 4 | 5 | 6 => unit < 12 && hasStack s unit
  | 7 => unit < nPorts s
  | 8 => hasVault s
  | 10 => unit < 4
  | _ => true

/-- Spares built for a selection: for the flash, per mille of raw capacity (R475). -/
def spTotal (s : State) (cat unit : Nat) : Nat :=
  if unitThere s cat unit then (if cat = 8 then 90 else spareTotal cat) else 0

/-- Spares in service or retired for a selection. -/
def spUsed (s : State) (cat unit : Nat) : Nat :=
  if unitThere s cat unit then min (sparesUsed s cat unit) 65535 else 0

/-- BST (R475). -/
def bstWord (s : State) (off : Nat) : Nat :=
  let b := s.boot
  let run := b.slices.find? (·.at_.isSome)
  let cat := cfg s 0xB10100 0 4
  let unit := cfg s 0xB10100 8 8
  match off with
  | 0x00 => flagBit b.postDone 0 + flagBit b.postClean 1 + flagBit run.isSome 2 + flagBit b.writing.isSome 3
  | 0x04 => (run.map (fun x => x.slice + bits x.inst 0 16 * 2 ^ 16)).getD 0
  | 0x08 => b.lastSlice + b.lastResult * 2 ^ 8 + bits b.lastInst 0 16 * 2 ^ 16
  | 0x104 => spTotal s cat unit + spUsed s cat unit * 2 ^ 16
  | _ => if 0x200 ≤ off ∧ off < 0x214 then ctrOf s (0xB10000 + off) else 0

/-- An activation has changed over some stacks or ports and not all (R408). -/
def mixed (s : State) (type : Nat) : Bool := (sessionOf s type).targets != 0 && (sessionOf s type).done != 0

/-- SEC (R413). -/
def secWord (s : State) (off : Nat) : Nat :=
  let n := cfg s 0xC00100 0 12
  let ten := look s.tenants n
  let of := fun (f : Tenant → Nat) => (ten.map f).getD 0
  if 0x40 ≤ off ∧ off < 0x70 then leNat (((beBytes 48 (fwm s)).drop (off - 0x40)).take 4)
  else match off with
    | 0x000 => s.boot.copyB + flagBit s.boot.fieldOk 4 + flagBit s.boot.seOk 5 + flagBit s.boot.rngOk 6 + flagBit (mixed s 3) 7 + flagBit (mixed s 4) 8
    | 0x008 => word s.boot.field.seq 0
    | 0x00C => word s.boot.field.seq 1
    | 0x104 => of (fun x => 1 + flagBit x.strict 1 + x.share * 2 ^ 8 + (if x.strict then (strictSlots s n).1 else 0) * 2 ^ 16)
    | 0x108 => of (fun x => word x.cores 0)
    | 0x10C => of (fun x => bits x.cores 32 4 + x.stks * 2 ^ 16)
    | 0x110 => of (·.power)
    | _ => if 0x200 ≤ off ∧ off < 0x210 then ctrOf s (0xC00000 + off) else 0

/-- A function's ring page (R378). -/
def ringWord (s : State) (fn ring off : Nat) : Nat :=
  if ringCount fn ≤ ring then 0 else
  let g := ringOf s fn ring
  match off with
  | 0x00 => word g.sqBase 0
  | 0x04 => word g.sqBase 1
  | 0x08 => word g.cqBase 0
  | 0x0C => word g.cqBase 1
  | 0x10 => g.sqLog + g.cqLog * 2 ^ 8
  | 0x14 => flagBit g.enable 0 + g.vector * 2 + g.coalCount * 2 ^ 8 + g.coalUs * 2 ^ 16
  | 0x18 => g.sqTail
  | 0x1C => g.cqHead
  | 0x20 => g.sqHead
  | 0x24 => flagBit (fnSends s fn && g.enable && !g.error && g.held.isEmpty && !s.boot.cpPending &&
      (g.cqTail + 1) % 2 ^ g.cqLog != g.cqHead % 2 ^ g.cqLog) 0 + flagBit g.error 1 + flagBit ((g.cqTail + 1) % 2 ^ g.cqLog == g.cqHead % 2 ^ g.cqLog) 2
  | _ => 0

/-- The read-only fields of the register at a register address, 0 elsewhere (R10, R491). -/
def roWord (s : State) (a : Nat) : Nat :=
  if a < 0x10000 then glbWord s a
  else if a < 0x20000 then merWord s (a - 0x10000)
  else if a < 0x30000 then cmdWord s (a - 0x20000)
  else if a < 0x340000 then coreWord s ((a - 0x100000) / 0x10000) (a % 0x10000)
  else if a < 0x350000 then syncWord s (a - 0x340000)
  else if a < 0x4C0000 then seWord s ((a - 0x400000) / 0x10000) (a % 0x10000)
  else if a < 0x510000 then tierWord s (a - 0x500000)
  else if a < 0x610000 then corWord s (a - 0x600000)
  else if a < 0x718000 then portWord s ((a - 0x700000) / 0x1000) (a % 0x1000)
  else if a < 0x71B000 then lnkWord s a
  else if a < 0x810000 then bftWord s (a - 0x800000)
  else if a < 0x910000 then hstWord s (a - 0x900000)
  else if a < 0xA10000 then pwrWord s (a - 0xA00000)
  else if a < 0xA20000 then phoWord s (a - 0xA10000)
  else if a < 0xB10000 then fltWord s (a - 0xB00000)
  else if a < 0xB20000 then bstWord s (a - 0xB10000)
  else secWord s (a - 0xC00000)

/-- A register has an RW-S field, and so a shadow alias (R40). -/
def hasShadow (s : State) (a : Nat) : Bool := (fieldsNow s a).any (fun f => f.acc = .rws)

/-- The whole word of a register: its writable fields' active values and its read-only fields. -/
def wordAt (s : State) (a : Nat) : Nat :=
  roWord s a + (if (fieldsNow s a).isEmpty then 0 else regA s (rkey a (itemOf s a)))

/-- The registers that a read of a LO half latches (R495; R334 for the PTP time, R413 for CORES). -/
def latchedBy (a : Nat) : List Nat :=
  if 0x100000 ≤ a ∧ a < 0x340000 then (if a % 0x10000 = 0x3008 then [a + 4] else [])
  else if 0x400000 ≤ a ∧ a < 0x4C0000 then (if a % 0x10000 ∈ [0x48, 0x58, 0x108] then [a + 4] else [])
  else if 0x700000 ≤ a ∧ a < 0x718000 then (if a % 0x1000 ∈ [0x020, 0x110] then [a + 4] else [])
  else if a = 0x719010 then [0x719014, 0x719018]
  else if a ∈ [0x40, 0x10020, 0x22008, 0x22020, 0x340004, 0x500310, 0x600110, 0x71A030, 0xA10010, 0xA10018, 0xA10104,
      0xB00008, 0xC00008, 0xC00108] then [a + 4]
  else []

/-- A register is read only as a half that an earlier read latched (R495). -/
def isLatched (a : Nat) : Bool := (latchedBy (a - 4)).contains a || a == 0x719018

/-- A word read by software: its value, and the halves that it latches (R10, R40, R491, R495). -/
def readReg (a : Nat) (s : State) : Nat × State :=
  if 2 ^ 32 ≤ a then (ringWord s ((a - 2 ^ 32) / 4096) (a % 4096 / 64) (a % 64), s) else
  match canonAddr s a with
  | none => (0, s)
  | some (r, true) => (if hasShadow s r then roWord s r + regS s (rkey r (itemOf s r)) else 0, s)
  | some (r, false) =>
    if isLatched r then (tget s.latch r 0, s)
    else (wordAt s r, { s with latch := (latchedBy r).foldl (fun m h => tset m h (wordAt s h) 0) s.latch })

end Sys2Proof.Machine
end

