-- ==== Sys2Proof/Machine/Registers.lean ====
section
/-! DEFINITION. Register writes and reads as software makes them (spec/02 R40, R41; spec/21 R490 to R498). -/

namespace Sys2Proof.Machine

/-! ### The whole write (R492, R493, R495) -/

/-- PWR_LIMIT is clamped up to PWR_BASE and the strict shares as well (R425), and BFT_RTO.INIT_US up to MIN_US (R368). -/
def preWrite (s : State) (a v : Nat) : Nat :=
  if a = 0xA00000 then min (envelope s) (max (bits v 0 12) (pwrBase s + strictSum s))
  else if a = 0x80000C then setBits v 8 8 (max (bits v 8 8) (max 1 (bits v 0 8)))
  else v

/-- A write of one aligned word at a register address, its side effects apart. -/
def writeWord (a v : Nat) (s : State) : State :=
  match commitOf a with
  | some g => if bitOf v 0 then commitWrite g s else s
  | none =>
    let fs := fieldsNow s a
    if fs.any (fun f => f.acc = .w1c) then irqClear a v s
    else
      let s := if fs.any (fun f => f.acc = .rws) then shadowWrite a (preWrite s a v) s else s
      if fs.any (fun f => f.acc = .rwl) then irqUpdate (liveWrite a v s) else s

/-- A write of a word: HI of a writable pair is held, and LO takes both halves (R495). -/
def writeReg (a v : Nat) (s : State) : State :=
  match pairOfHi a with
  | some lo => { s with hiHeld := tput s.hiHeld lo v }
  | none =>
    match hiOf a with
    | some hi =>
      let h := (look s.hiHeld a).getD (regA s hi)
      writeWord a v (writeWord hi h { s with hiHeld := tdel s.hiHeld a })
    | none => writeWord a v s

/-- The register that an aligned write at a BAR0 address reaches: the register itself, or the RW-S register behind its shadow
alias (R40, R491, R492). -/
def target (s : State) (addr : Nat) : Option Nat :=
  if addr % 4 ≠ 0 then none else
  match canonAddr s addr with
  | some (a, false) => some a
  | some (a, true) => if hasShadow s a then some a else none
  | none => none

/-- A status register (R498). -/
def isStatus (s : State) (a : Nat) : Bool := (fieldsNow s a).any (fun f => f.acc = .w1c)

/-- Registers whose write is a command of its own: commit registers, group members, HI halves, status registers, FLT_ACK,
SET_NS, TX_TAIL and PU_TAIL. -/
def ownRow (s : State) (a : Nat) : Bool :=
  (commitOf a).isSome || (groupOf a).isSome || (pairOfHi a).isSome || isStatus s a ||
  [0xB00040, 0x719038, 0x718230, 0x718218].contains a

/-- A write through software that reaches a register, where BAR0 is served (R494) and the register is of the kind `k`. -/
def onWrite (addr : Nat) (k : Nat → Bool) (f : Nat → State → State) (s : State) : State :=
  match target s addr with
  | some a => if barServed s && k a then f a s else s
  | none => s

/-- COMMIT_REGISTER_WRITE (R41). -/
def execCommitRegisterWrite (t addr value : Nat) (s : State) : Res :=
  let s := tick t s
  .next (onWrite addr (fun a => (commitOf a).isSome) (fun a s => writeReg a value s) s)

/-- COMMIT_GROUP_MEMBER_WRITE (R41, R497). -/
def execCommitGroupMemberWrite (t addr value : Nat) (s : State) : Res :=
  let s := tick t s
  .next (onWrite addr (fun a => (groupOf a).isSome && (pairOfHi a).isNone) (fun a s => writeReg a value s) s)

/-- REGISTER_PAIR_HI_WRITE: the half is held until the next write of LO (R495). -/
def execRegisterPairHiWrite (t addr value : Nat) (s : State) : Res :=
  let s := tick t s
  .next (onWrite addr (fun a => (pairOfHi a).isSome) (fun a s => writeReg a (value % 2 ^ 32) s) s)

/-- IRQ_STATUS_W1C (R12, R498). -/
def execIrqStatusW1c (t addr value : Nat) (s : State) : Res :=
  let s := tick t s
  .next (onWrite addr (fun a => isStatus s a) (fun a s => writeReg a value s) s)

/-- The held seconds of SET_SEC (R329, R334). -/
def setSeconds (a v : Nat) (s : State) : State :=
  if a = 0x719030 then { s with ptp := { s.ptp with setSec := setBits s.ptp.setSec 0 32 v } }
  else if a = 0x719034 then { s with ptp := { s.ptp with setSec := setBits s.ptp.setSec 32 16 (bits v 0 16) } }
  else s

/-- A write of a ring page's base and size registers, which counts only while ENABLE = 0 (R378). The page of a function is
addressed as 2^32 + 4,096 × function (DESIGN CHOICE, log 24). -/
def ringWrite (fn ring off v : Nat) (s : State) : State :=
  let g := ringOf s fn ring
  if ringCount fn ≤ ring ∨ g.enable then s
  else match off with
    | 0x00 => setRing fn ring { g with sqBase := setBits g.sqBase 0 32 v } s
    | 0x04 => setRing fn ring { g with sqBase := setBits g.sqBase 32 32 v } s
    | 0x08 => setRing fn ring { g with cqBase := setBits g.cqBase 0 32 v } s
    | 0x0C => setRing fn ring { g with cqBase := setBits g.cqBase 32 32 v } s
    | 0x10 => setRing fn ring { g with sqLog := clampNat 6 16 (bits v 0 5), cqLog := clampNat 6 16 (bits v 8 5) } s
    | _ => s

/-- REGISTER_WRITE: a whole aligned word into a register with no row of its own (R10, R492); a narrower or unaligned write is
discarded. -/
def execRegisterWrite (t addr be value : Nat) (s : State) : Res :=
  let s := tick t s
  .next (
    if be ≠ 0xF ∨ addr % 4 ≠ 0 then s
    else if 2 ^ 32 ≤ addr then
      let fn := (addr - 2 ^ 32) / 4096
      if memOk s fn then ringWrite fn (addr % 4096 / 64) (addr % 64) (value % 2 ^ 32) s else s
    else onWrite addr (fun a => !ownRow s a) (fun a s => setSeconds a (value % 2 ^ 32) (writeReg a (value % 2 ^ 32) s)) s)

/-- BAR0 answers a read: in full service, or of GLB and FLT in the halted state (R451, R494). -/
def barReads (s : State) (addr : Nat) : Bool :=
  barServed s ||
  (s.boot.stage = 0xFF && s.pwr.phase = 4 && fnSends s 0 && !replyLost s 0 &&
    (decide (addr < 0x10000) || decide (0xB00000 ≤ addr ∧ addr < 0xB10000)))

/-- A read of four bytes at an address: one word, or, where it is not aligned, the addressed bytes of both words it touches, each
read whole, one per cc (R492). -/
def readBytes (addr : Nat) (s : State) : Nat × State :=
  let k := addr % 4
  let (lo, s) := readReg (addr - k) s
  if k = 0 then (lo, s) else
  let (hi, s) := readReg (addr - k + 4) (tick (s.now + 1) s)
  ((lo / 2 ^ (8 * k) + hi * 2 ^ (32 - 8 * k)) % 2 ^ 32, s)

/-- REGISTER_PAIR_LO_READ: a read of LO latches HI (R495). It is the one read command, and reads any register the same way
(DESIGN CHOICE, log 24); the data stands in `readData`. -/
def execRegisterPairLoRead (t addr : Nat) (s : State) : Res :=
  let s := tick t s
  .next (
    if 2 ^ 32 ≤ addr then
      if addr % 4 = 0 ∧ memOk s ((addr - 2 ^ 32) / 4096) then { s with readData := (readReg addr s).1 } else s
    else if barReads s addr then
      let (v, s') := readBytes addr s
      { s' with readData := v }
    else s)

end Sys2Proof.Machine
end

