-- ==== Sys2Proof/Machine/Scalar.lean ====
section
/-! DEFINITION. S-format instructions (spec/05 R123, R128, R129; conversions by spec/03 R77). -/

namespace Sys2Proof.Machine

/-- An S-format instruction that writes its destination, usable after a latency (R120). -/
def scalar (op lat : Nat) (f : Ctx' → State → W64) (i : Issue) (s : State) : Res :=
  .next (issue 2 op i (fun c s => setSreg c.k (sSD c.w) (f c s) (c.t + lat) s) s)

/-- The first operand. -/
def opA (c : Ctx') (s : State) : W64 := sreg s c.k (sSA c.w)

/-- The second operand: SB, or IMM32 sign-extended. -/
def opB (c : Ctx') (s : State) : W64 :=
  if sIMM c.w then (BitVec.ofNat 32 (sImm32 c.w)).signExtend 64 else sreg s c.k (sSB c.w)

/-- A two-operand operation in its width: 64 bits, or the low 32 bits with the result sign-extended (R123). -/
def alu (f64 : W64 → W64 → W64) (f32 : W32 → W32 → W32) (c : Ctx') (s : State) : W64 :=
  if sW c.w then f64 (opA c s) (opB c s)
  else (f32 ((opA c s).setWidth 32) ((opB c s).setWidth 32)).signExtend 64

/-- High half of the signed product. -/
def mulHigh (a b : W64) : W64 := BitVec.ofInt 64 (a.toInt * b.toInt / 2 ^ 64)

/-- 1 or 0. -/
def flag (w : Nat) (p : Bool) : BitVec w := if p then 1 else 0

def execAdd (i : Issue) (s : State) : Res := scalar 0x01 1 (alu (· + ·) (· + ·)) i s
def execSub (i : Issue) (s : State) : Res := scalar 0x02 1 (alu (· - ·) (· - ·)) i s
def execMul (i : Issue) (s : State) : Res := scalar 0x03 4 (alu (· * ·) (· * ·)) i s
def execMulh (i : Issue) (s : State) : Res := scalar 0x04 4 (fun c s => mulHigh (opA c s) (opB c s)) i s
def execAnd (i : Issue) (s : State) : Res := scalar 0x05 1 (alu (· &&& ·) (· &&& ·)) i s
def execOr (i : Issue) (s : State) : Res := scalar 0x06 1 (alu (· ||| ·) (· ||| ·)) i s
def execXor (i : Issue) (s : State) : Res := scalar 0x07 1 (alu (· ^^^ ·) (· ^^^ ·)) i s

/-- Shift left by the second operand modulo the width. -/
def execShl (i : Issue) (s : State) : Res :=
  scalar 0x08 1 (alu (fun a b => a <<< (b.toNat % 64)) (fun a b => a <<< (b.toNat % 32))) i s

/-- Logical shift right. -/
def execShr (i : Issue) (s : State) : Res :=
  scalar 0x09 1 (alu (fun a b => a >>> (b.toNat % 64)) (fun a b => a >>> (b.toNat % 32))) i s

/-- Arithmetic shift right. -/
def execSra (i : Issue) (s : State) : Res :=
  scalar 0x0A 1 (alu (fun a b => a.sshiftRight (b.toNat % 64)) (fun a b => a.sshiftRight (b.toNat % 32))) i s

def execSlt (i : Issue) (s : State) : Res :=
  scalar 0x0B 1 (alu (fun a b => flag 64 (a.slt b)) (fun a b => flag 32 (a.slt b))) i s
def execSltu (i : Issue) (s : State) : Res :=
  scalar 0x0C 1 (alu (fun a b => flag 64 (a.ult b)) (fun a b => flag 32 (a.ult b))) i s
def execMin (i : Issue) (s : State) : Res :=
  scalar 0x0D 1 (alu (fun a b => if b.slt a then b else a) (fun a b => if b.slt a then b else a)) i s
def execMax (i : Issue) (s : State) : Res :=
  scalar 0x0E 1 (alu (fun a b => if a.slt b then b else a) (fun a b => if a.slt b then b else a)) i s

/-- IMM32 sign-extended. -/
def execMovi (i : Issue) (s : State) : Res :=
  scalar 0x0F 1 (fun c _ => (BitVec.ofNat 32 (sImm32 c.w)).signExtend 64) i s

/-- SD[63:32] = IMM32, SD[31:0] kept. -/
def execMovhi (i : Issue) (s : State) : Res :=
  scalar 0x10 1 (fun c s => BitVec.ofNat 32 (sImm32 c.w) ++ (sreg s c.k (sSD c.w)).setWidth 32) i s

/-- Integer to X32, the upper half zero (R77, R123). -/
def execScvtf (i : Issue) (s : State) : Res :=
  scalar 0x11 4 (fun c s =>
    (intToX (if sW c.w then (opA c s).toInt else ((opA c s).setWidth 32).toInt)).setWidth 64) i s

/-- X32 to I32 or I64, under RM (R77, R123). -/
def execScvti (i : Issue) (s : State) : Res :=
  scalar 0x12 4 (fun c s =>
    BitVec.ofInt 64 (xToInt (if sW c.w then 64 else 32) (sRM c.w == 1) ((opA c s).setWidth 32))) i s

/-- The special values of RDSPEC (R129). -/
def specValue (c : Ctx') (s : State) : W64 :=
  match sImm32 c.w with
  | 0 => BitVec.ofNat 64 (c.thr + c.core % 18 * 2 ^ 7 + c.core / 18 * 2 ^ 12)
  | 1 => BitVec.ofNat 64 (c.t - c.job.segAt)
  | 2 => BitVec.ofInt 64 s.mer.count
  | 3 => BitVec.ofNat 64 c.tenant
  | 4 => BitVec.ofNat 64 (c.job.id % 2 ^ 16 + c.slot * 2 ^ 16)
  | 5 => BitVec.ofNat 64 (c.job.segs - 1)
  | _ => 0

def execRdspec (i : Issue) (s : State) : Res := scalar 0x13 2 specValue i s

end Sys2Proof.Machine
end

