-- ==== Sys2Proof/Machine/SyncClass.lean ====
section
/-! DEFINITION. Y-format instructions (spec/05 R126, R137 to R141). -/

namespace Sys2Proof.Machine

/-- A Y-format instruction on an object of the job: SYNC_ACCESS where its index names none (R137). -/
def onObject (op : Nat) (f : Ctx' → Nat → Nat → State → State) (far : Ctx' → State → State) (i : Issue) (s : State) :
    Res :=
  .next (issue 4 op i (fun c s =>
    if yREM c.w then far c s else
    match yArgs s c.job c.k c.ix c.w with
    | (some obj, v) => f c obj v s
    | (none, _) => thrFault 0x046 c s) s)

/-- A remote operation leaves as a SYNC packet (R141): SOP 1 ADD, 2 RESET, 3 ARM. No field of the format gives the
packet's region key: it is a free value (log 12). A word that the plan marks indexed uses its OBJ field here (DESIGN CHOICE, log 42:
R137 gives the index to REM = 0). -/
def remoteSync (sop : Nat) (c : Ctx') (s : State) : State :=
  let v := if yIMM c.w ∧ sop ≠ 3 then yImm20 c.w else (sreg s c.k (ySV c.w)).toNat
  let wrh := if sop = 3 then yImm20 c.w else 0
  let key := Config.choice s.free
  sendMsg c.slot c.tenant (yMODULE c.w) c.tenant (c.slot * 8 + 3)
    (fun _ => [{ opcode := 6, hdr := [key, yOBJ c.w, sop, v, wrh] }]) { s with free := s.free + 1 }

/-- Signal-add the operand. -/
def execYsig (i : Issue) (s : State) : Res :=
  onObject 1 (fun c obj v s => signalAdd obj v c.core s) (remoteSync 1) i s

/-- Wait until value ≥ operand: the wait itself has no effect but its issue. -/
def execYwge (i : Issue) (s : State) : Res := onObject 2 (fun _ _ _ s => s) (fun _ s => s) i s

/-- Wait until value = operand. -/
def execYweq (i : Issue) (s : State) : Res := onObject 3 (fun _ _ _ s => s) (fun _ s => s) i s

/-- Set the value to the operand (R137, R138). -/
def execYrst (i : Issue) (s : State) : Res :=
  onObject 4 (fun c obj v s => syncOp obj (some (rankThread c.core c.thr, v)) 0 c.core s) (remoteSync 2) i s

/-- Arm a trigger: threshold in SV, handle in IMM20; SYNC_ARM_FULL where none can be attached (R137, R362). -/
def execYarm (i : Issue) (s : State) : Res :=
  onObject 5 (fun c obj _ s =>
    match armOn obj (sreg s c.k (ySV c.w)).toNat (yImm20 c.w) s with
    | (true, s) => s
    | (false, s) => raiseJob 0x048 c.slot s (objDie obj)) (remoteSync 3) i s

/-- The register named by SV takes the value at the end of the cc (R120, R138). -/
def execYread (i : Issue) (s : State) : Res :=
  onObject 6 (fun c obj _ s =>
    let v := ((look s.sync obj).map (·.value)).getD 0
    setSreg c.k (ySV c.w) (BitVec.ofNat 64 v) (c.t + (if objDie obj = c.core / 18 then 9 else 34)) s) (fun _ s => s) i s

end Sys2Proof.Machine
end

