-- ==== Sys2Proof/Machine/Dispatch.lean ====
section
/-! DEFINITION. The dispatcher: one arm per command, each a direct call of that command's meaning. -/

namespace Sys2Proof.Machine

def exec (i : Instr) (s : State) : Host.Outcome State Fault Refusal :=
  match i with
  | .meridian t len ns err rngOk => Sys2Proof.Machine.execMeridian t len ns err rngOk s
  | .twilightSlotStart t => Sys2Proof.Machine.execTwilightSlotStart t s
  | .twilightSlotEnd t => Sys2Proof.Machine.execTwilightSlotEnd t s
  | .merHoldoverExpiry t => Sys2Proof.Machine.execMerHoldoverExpiry t s
  | .jobDeadline t slot => Sys2Proof.Machine.execJobDeadline t slot s
  | .slipRequestReceive t bit job sender mer segment excess plan => Sys2Proof.Machine.execSlipRequestReceive t bit job sender mer segment excess plan s
  | .jobAbortReceive t job sender => Sys2Proof.Machine.execJobAbortReceive t job sender s
  | .mac x => Sys2Proof.Machine.execMac x s
  | .drain x => Sys2Proof.Machine.execDrain x s
  | .release x => Sys2Proof.Machine.execRelease x s
  | .opeStepEntry t at_ => Sys2Proof.Machine.execOpeStepEntry t at_ s
  | .streamRowWrite t src => Sys2Proof.Machine.execStreamRowWrite t src s
  | .add x => Sys2Proof.Machine.execAdd x s
  | .sub x => Sys2Proof.Machine.execSub x s
  | .mul x => Sys2Proof.Machine.execMul x s
  | .mulh x => Sys2Proof.Machine.execMulh x s
  | .and x => Sys2Proof.Machine.execAnd x s
  | .or x => Sys2Proof.Machine.execOr x s
  | .xor x => Sys2Proof.Machine.execXor x s
  | .shl x => Sys2Proof.Machine.execShl x s
  | .shr x => Sys2Proof.Machine.execShr x s
  | .sra x => Sys2Proof.Machine.execSra x s
  | .slt x => Sys2Proof.Machine.execSlt x s
  | .sltu x => Sys2Proof.Machine.execSltu x s
  | .min x => Sys2Proof.Machine.execMin x s
  | .max x => Sys2Proof.Machine.execMax x s
  | .movi x => Sys2Proof.Machine.execMovi x s
  | .movhi x => Sys2Proof.Machine.execMovhi x s
  | .scvtf x => Sys2Proof.Machine.execScvtf x s
  | .scvti x => Sys2Proof.Machine.execScvti x s
  | .rdspec x => Sys2Proof.Machine.execRdspec x s
  | .vadd x => Sys2Proof.Machine.execVadd x s
  | .vsub x => Sys2Proof.Machine.execVsub x s
  | .vmul x => Sys2Proof.Machine.execVmul x s
  | .vfma x => Sys2Proof.Machine.execVfma x s
  | .vmax x => Sys2Proof.Machine.execVmax x s
  | .vmin x => Sys2Proof.Machine.execVmin x s
  | .vabs x => Sys2Proof.Machine.execVabs x s
  | .vneg x => Sys2Proof.Machine.execVneg x s
  | .vcvt x => Sys2Proof.Machine.execVcvt x s
  | .vscale x => Sys2Proof.Machine.execVscale x s
  | .vbcast x => Sys2Proof.Machine.execVbcast x s
  | .vextr x => Sys2Proof.Machine.execVextr x s
  | .vsel x => Sys2Proof.Machine.execVsel x s
  | .vcmplt x => Sys2Proof.Machine.execVcmplt x s
  | .vcmpeq x => Sys2Proof.Machine.execVcmpeq x s
  | .vredsum x => Sys2Proof.Machine.execVredsum x s
  | .vredmax x => Sys2Proof.Machine.execVredmax x s
  | .vexp2 x => Sys2Proof.Machine.execVexp2 x s
  | .vlog2 x => Sys2Proof.Machine.execVlog2 x s
  | .vrecip x => Sys2Proof.Machine.execVrecip x s
  | .vrsqrt x => Sys2Proof.Machine.execVrsqrt x s
  | .vrand x => Sys2Proof.Machine.execVrand x s
  | .vmov x => Sys2Proof.Machine.execVmov x s
  | .mldv x => Sys2Proof.Machine.execMldv x s
  | .mstv x => Sys2Proof.Machine.execMstv x s
  | .mlds x => Sys2Proof.Machine.execMlds x s
  | .msts x => Sys2Proof.Machine.execMsts x s
  | .mldvx x => Sys2Proof.Machine.execMldvx x s
  | .mcopy x => Sys2Proof.Machine.execMcopy x s
  | .mstream x => Sys2Proof.Machine.execMstream x s
  | .mOpComplete t core data err => Sys2Proof.Machine.execMOpComplete t core data err s
  | .ysig x => Sys2Proof.Machine.execYsig x s
  | .ywge x => Sys2Proof.Machine.execYwge x s
  | .yweq x => Sys2Proof.Machine.execYweq x s
  | .yrst x => Sys2Proof.Machine.execYrst x s
  | .yarm x => Sys2Proof.Machine.execYarm x s
  | .yread x => Sys2Proof.Machine.execYread x s
  | .nop x => Sys2Proof.Machine.execNop x s
  | .endThread x => Sys2Proof.Machine.execEndThread x s
  | .br x => Sys2Proof.Machine.execBr x s
  | .brc x => Sys2Proof.Machine.execBrc x s
  | .mile x => Sys2Proof.Machine.execMile x s
  | .call x => Sys2Proof.Machine.execCall x s
  | .ret x => Sys2Proof.Machine.execRet x s
  | .triggerFire t obj idx data => Sys2Proof.Machine.execTriggerFire t obj idx data s
  | .workRequestComplete t id err data => Sys2Proof.Machine.execWorkRequestComplete t id err data s
  | .seStream t slot entry => Sys2Proof.Machine.execSeStream t slot entry s
  | .seAccum t slot work => Sys2Proof.Machine.execSeAccum t slot work s
  | .seUpdate t slot work => Sys2Proof.Machine.execSeUpdate t slot work s
  | .sePack t slot work => Sys2Proof.Machine.execSePack t slot work s
  | .seUnpack t slot work => Sys2Proof.Machine.execSeUnpack t slot work s
  | .seZero t slot entry => Sys2Proof.Machine.execSeZero t slot entry s
  | .stripPhaseComplete t run strip err => Sys2Proof.Machine.execStripPhaseComplete t run strip err s
  | .accumulateWrite t who va data ecc => Sys2Proof.Machine.execAccumulateWrite t who va data ecc s
  | .pageFillComplete t stack => Sys2Proof.Machine.execPageFillComplete t stack s
  | .patrolScrubRead t stack ecc ecc2 => Sys2Proof.Machine.execPatrolScrubRead t stack ecc ecc2 s
  | .promotionComplete t obj page data => Sys2Proof.Machine.execPromotionComplete t obj page data s
  | .demotionCopyComplete t obj read => Sys2Proof.Machine.execDemotionCopyComplete t obj read s
  | .ephEntryArm t slot entry => Sys2Proof.Machine.execEphEntryArm t slot entry s
  | .ephDeadlineFallback t slot entry => Sys2Proof.Machine.execEphDeadlineFallback t slot entry s
  | .ephPageFail t slot entry page => Sys2Proof.Machine.execEphPageFail t slot entry page s
  | .vaultFlush f => Sys2Proof.Machine.execVaultFlush f s
  | .vaultErase t work => Sys2Proof.Machine.execVaultErase t work s
  | .wearLevelMove t src dst failed => Sys2Proof.Machine.execWearLevelMove t src dst failed s
  | .allreduce t slot op => Sys2Proof.Machine.execAllreduce t slot op s
  | .reduceScatter t slot op => Sys2Proof.Machine.execReduceScatter t slot op s
  | .allgather t slot op => Sys2Proof.Machine.execAllgather t slot op s
  | .alltoall t slot op => Sys2Proof.Machine.execAlltoall t slot op s
  | .permute t slot op => Sys2Proof.Machine.execPermute t slot op s
  | .ringRotate t slot op => Sys2Proof.Machine.execRingRotate t slot op s
  | .verdict t slot op => Sys2Proof.Machine.execVerdict t slot op s
  | .qsend t slot op => Sys2Proof.Machine.execQsend t slot op s
  | .qrecv t slot op => Sys2Proof.Machine.execQrecv t slot op s
  | .corOpComplete t slot work => Sys2Proof.Machine.execCorOpComplete t slot work s
  | .corDataGranule t h hdr digest data => Sys2Proof.Machine.execCorDataGranule t h hdr digest data s
  | .corVerdictFrame t h hdr dirty => Sys2Proof.Machine.execCorVerdictFrame t h hdr dirty s
  | .corPermuteGo t h hdr digest => Sys2Proof.Machine.execCorPermuteGo t h hdr digest s
  | .corCreditFrame t h hdr edge => Sys2Proof.Machine.execCorCreditFrame t h hdr edge s
  | .creditRepeat t slot edge => Sys2Proof.Machine.execCreditRepeat t slot edge s
  | .linkUp t code => Sys2Proof.Machine.execLinkUp t code s
  | .linkDown t code => Sys2Proof.Machine.execLinkDown t code s
  | .laneFail t port lane healthy0 healthy1 accepted => Sys2Proof.Machine.execLaneFail t port lane healthy0 healthy1 accepted s
  | .sprayRejoin t code => Sys2Proof.Machine.execSprayRejoin t code s
  | .preemptVerify t port ok => Sys2Proof.Machine.execPreemptVerify t port ok s
  | .frameReceive t code f => Sys2Proof.Machine.execFrameReceive t code f s
  | .pfcPauseExpire t code prio => Sys2Proof.Machine.execPfcPauseExpire t code prio s
  | .frameTransmit t code => Sys2Proof.Machine.execFrameTransmit t code s
  | .finderSend t code => Sys2Proof.Machine.execFinderSend t code s
  | .finderReceive t code r => Sys2Proof.Machine.execFinderReceive t code r s
  | .finderHoldExpiry t code => Sys2Proof.Machine.execFinderHoldExpiry t code s
  | .mgtFinderSend t => Sys2Proof.Machine.execMgtFinderSend t s
  | .ptpMessageReceive t m => Sys2Proof.Machine.execPtpMessageReceive t m s
  | .ptpMessageSend t port kind => Sys2Proof.Machine.execPtpMessageSend t port kind s
  | .ptpAnnounceTimeout t port master => Sys2Proof.Machine.execPtpAnnounceTimeout t port master s
  | .syncInEdge t ns offset => Sys2Proof.Machine.execSyncInEdge t ns offset s
  | .syncOutPulse t => Sys2Proof.Machine.execSyncOutPulse t s
  | .ptpTimeSet t ns => Sys2Proof.Machine.execPtpTimeSet t ns s
  | .txRingDoorbell t tail frames => Sys2Proof.Machine.execTxRingDoorbell t tail frames s
  | .puTailWrite t tail => Sys2Proof.Machine.execPuTailWrite t tail s
  | .mgtTransmit t busy collision => Sys2Proof.Machine.execMgtTransmit t busy collision s
  | .mgtBackoffExpiry t busy collision => Sys2Proof.Machine.execMgtBackoffExpiry t busy collision s
  | .connect t p => Sys2Proof.Machine.execConnect t p s
  | .accept t h b => Sys2Proof.Machine.execAccept t h b s
  | .refuse t h cause => Sys2Proof.Machine.execRefuse t h cause s
  | .close t h => Sys2Proof.Machine.execClose t h s
  | .write t h key rgn data => Sys2Proof.Machine.execWrite t h key rgn data s
  | .readReq t h key rgn ecc => Sys2Proof.Machine.execReadReq t h key rgn ecc s
  | .readResp t h off data => Sys2Proof.Machine.execReadResp t h off data s
  | .atomic t h key off aop ops ecc => Sys2Proof.Machine.execAtomic t h key off aop ops ecc s
  | .atomicResp t h old => Sys2Proof.Machine.execAtomicResp t h old s
  | .sync t h key obj sop value wrh => Sys2Proof.Machine.execSync t h key obj sop value wrh s
  | .ack t h b => Sys2Proof.Machine.execAck t h b s
  | .nak t h code retryAfter => Sys2Proof.Machine.execNak t h code retryAfter s
  | .bftWriteLand t pkt data ecc => Sys2Proof.Machine.execBftWriteLand t pkt data ecc s
  | .bftHoldRelease t r => Sys2Proof.Machine.execBftHoldRelease t r s
  | .bftHoldExpiry t hold => Sys2Proof.Machine.execBftHoldExpiry t hold s
  | .bftContextFetch t ctx ok => Sys2Proof.Machine.execBftContextFetch t ctx ok s
  | .bftRtoExpiry t ctx psn => Sys2Proof.Machine.execBftRtoExpiry t ctx psn s
  | .bftRetryAfterExpiry t ctx psn => Sys2Proof.Machine.execBftRetryAfterExpiry t ctx psn s
  | .bftAckTimer t ctx => Sys2Proof.Machine.execBftAckTimer t ctx s
  | .bftIdleClose t ctx => Sys2Proof.Machine.execBftIdleClose t ctx s
  | .bftCwndIncrease t ctx => Sys2Proof.Machine.execBftCwndIncrease t ctx s
  | .perstAssert t => Sys2Proof.Machine.execPerstAssert t s
  | .perstRelease t => Sys2Proof.Machine.execPerstRelease t s
  | .pcieLinkUp t speed width link => Sys2Proof.Machine.execPcieLinkUp t speed width link s
  | .vfFlr t vf => Sys2Proof.Machine.execVfFlr t vf s
  | .pf0Flr t => Sys2Proof.Machine.execPf0Flr t s
  | .vfEnableClear t => Sys2Proof.Machine.execVfEnableClear t s
  | .d3hotEntry t fn => Sys2Proof.Machine.execD3hotEntry t fn s
  | .sqDoorbell t fn ring tail => Sys2Proof.Machine.execSqDoorbell t fn ring tail s
  | .cqHeadWrite t fn ring head => Sys2Proof.Machine.execCqHeadWrite t fn ring head s
  | .ringEnableWrite t fn ring value => Sys2Proof.Machine.execRingEnableWrite t fn ring value s
  | .commandFetch t fn ring h => Sys2Proof.Machine.execCommandFetch t fn ring h s
  | .commandStartedTimeout t cmd => Sys2Proof.Machine.execCommandStartedTimeout t cmd s
  | .irqCoalesceExpiry t fn ring => Sys2Proof.Machine.execIrqCoalesceExpiry t fn ring s
  | .bar4Read t fn addr len ecc => Sys2Proof.Machine.execBar4Read t fn addr len ecc s
  | .bar4Write t fn addr data => Sys2Proof.Machine.execBar4Write t fn addr data s
  | .bar4ReadTimeout t id => Sys2Proof.Machine.execBar4ReadTimeout t id s
  | .atsInvalidation t fn addr len => Sys2Proof.Machine.execAtsInvalidation t fn addr len s
  | .ideIntegrityFail t stream => Sys2Proof.Machine.execIdeIntegrityFail t stream s
  | .ideKeyLoad t stream => Sys2Proof.Machine.execIdeKeyLoad t stream s
  | .planLoad t cmd p => Sys2Proof.Machine.execPlanLoad t cmd p s
  | .planUnload t cmd => Sys2Proof.Machine.execPlanUnload t cmd s
  | .jobStart t cmd b => Sys2Proof.Machine.execJobStart t cmd b s
  | .jobStop t cmd => Sys2Proof.Machine.execJobStop t cmd s
  | .jobStopAbort t cmd => Sys2Proof.Machine.execJobStopAbort t cmd s
  | .tierSetup t cmd => Sys2Proof.Machine.execTierSetup t cmd s
  | .objMap t cmd b => Sys2Proof.Machine.execObjMap t cmd b s
  | .objMapExisting t cmd b => Sys2Proof.Machine.execObjMapExisting t cmd b s
  | .baseObjectSeal t cmd b => Sys2Proof.Machine.execBaseObjectSeal t cmd b s
  | .objUnmap t cmd => Sys2Proof.Machine.execObjUnmap t cmd s
  | .objPlace t cmd => Sys2Proof.Machine.execObjPlace t cmd s
  | .objPin t cmd => Sys2Proof.Machine.execObjPin t cmd s
  | .objVote t cmd => Sys2Proof.Machine.execObjVote t cmd s
  | .objQuery t cmd => Sys2Proof.Machine.execObjQuery t cmd s
  | .window t cmd => Sys2Proof.Machine.execWindow t cmd s
  | .ephLoad t cmd es => Sys2Proof.Machine.execEphLoad t cmd es s
  | .rgnSetup t cmd => Sys2Proof.Machine.execRgnSetup t cmd s
  | .rgnRegister t cmd b => Sys2Proof.Machine.execRgnRegister t cmd b s
  | .rgnRevoke t cmd => Sys2Proof.Machine.execRgnRevoke t cmd s
  | .tenantCreate t cmd => Sys2Proof.Machine.execTenantCreate t cmd s
  | .tenantDestroy t cmd => Sys2Proof.Machine.execTenantDestroy t cmd s
  | .partition t cmd => Sys2Proof.Machine.execPartition t cmd s
  | .powerShare t cmd => Sys2Proof.Machine.execPowerShare t cmd s
  | .lsRule t cmd => Sys2Proof.Machine.execLsRule t cmd s
  | .censusRead t cmd => Sys2Proof.Machine.execCensusRead t cmd s
  | .energyQuery t cmd => Sys2Proof.Machine.execEnergyQuery t cmd s
  | .attest t cmd nonce => Sys2Proof.Machine.execAttest t cmd nonce s
  | .fwStage t cmd data => Sys2Proof.Machine.execFwStage t cmd data s
  | .fwActivate t cmd img => Sys2Proof.Machine.execFwActivate t cmd img s
  | .selftest t cmd => Sys2Proof.Machine.execSelftest t cmd s
  | .spareRetire t cmd => Sys2Proof.Machine.execSpareRetire t cmd s
  | .spareRetireForce t cmd => Sys2Proof.Machine.execSpareRetireForce t cmd s
  | .logRead t cmd => Sys2Proof.Machine.execLogRead t cmd s
  | .voltageSample t mv ma => Sys2Proof.Machine.execVoltageSample t mv ma s
  | .surgeTimeout t => Sys2Proof.Machine.execSurgeTimeout t s
  | .sagTimeout t => Sys2Proof.Machine.execSagTimeout t s
  | .sagRelease t => Sys2Proof.Machine.execSagRelease t s
  | .uvloRelease t => Sys2Proof.Machine.execUvloRelease t s
  | .uvloLatchClear t => Sys2Proof.Machine.execUvloLatchClear t s
  | .bringupStart t => Sys2Proof.Machine.execBringupStart t s
  | .inrushCharged t => Sys2Proof.Machine.execInrushCharged t s
  | .currentLimitTrip t => Sys2Proof.Machine.execCurrentLimitTrip t s
  | .supplyLoss t => Sys2Proof.Machine.execSupplyLoss t s
  | .safeNAssert t => Sys2Proof.Machine.execSafeNAssert t s
  | .safeStopConvertersOff t => Sys2Proof.Machine.execSafeStopConvertersOff t s
  | .grantFrame t => Sys2Proof.Machine.execGrantFrame t s
  | .powerControlPeriod t fixedW => Sys2Proof.Machine.execPowerControlPeriod t fixedW s
  | .phaseDemandUpdate t slot phase x => Sys2Proof.Machine.execPhaseDemandUpdate t slot phase x s
  | .thermalSample t sensor deciC => Sys2Proof.Machine.execThermalSample t sensor deciC s
  | .thermalCeilingStep t => Sys2Proof.Machine.execThermalCeilingStep t s
  | .meterOutOfRange t => Sys2Proof.Machine.execMeterOutOfRange t s
  | .receiptSigned t => Sys2Proof.Machine.execReceiptSigned t s
  | .receiptCheckpoint t account => Sys2Proof.Machine.execReceiptCheckpoint t account s
  | .ackWindowExpiry t record => Sys2Proof.Machine.execAckWindowExpiry t record s
  | .fltAck t record => Sys2Proof.Machine.execFltAck t record s
  | .nightLogDrain t => Sys2Proof.Machine.execNightLogDrain t s
  | .beaconGenerate t => Sys2Proof.Machine.execBeaconGenerate t s
  | .sliceComplete t slice inst sig res => Sys2Proof.Machine.execSliceComplete t slice inst sig res s
  | .sliceBudgetExpiry t slice inst => Sys2Proof.Machine.execSliceBudgetExpiry t slice inst s
  | .channelPairCopyComplete t stack => Sys2Proof.Machine.execChannelPairCopyComplete t stack s
  | .almanacWriteComplete t => Sys2Proof.Machine.execAlmanacWriteComplete t s
  | .bringupRails t good => Sys2Proof.Machine.execBringupRails t good s
  | .bringupBootRom t seOk => Sys2Proof.Machine.execBringupBootRom t seOk s
  | .bringupAlmanac t factoryOk fieldOk => Sys2Proof.Machine.execBringupAlmanac t factoryOk fieldOk s
  | .bringupImages t => Sys2Proof.Machine.execBringupImages t s
  | .bringupSelfTest t results => Sys2Proof.Machine.execBringupSelfTest t results s
  | .bringupFill t => Sys2Proof.Machine.execBringupFill t s
  | .bringupRelease t rngOk => Sys2Proof.Machine.execBringupRelease t rngOk s
  | .bringupReady t => Sys2Proof.Machine.execBringupReady t s
  | .bringupStopBeacon t => Sys2Proof.Machine.execBringupStopBeacon t s
  | .mgtFwStage t h image offset data => Sys2Proof.Machine.execMgtFwStage t h image offset data s
  | .mgtFwActivate t h image img => Sys2Proof.Machine.execMgtFwActivate t h image img s
  | .mgtFwQuery t h image => Sys2Proof.Machine.execMgtFwQuery t h image s
  | .commitRegisterWrite t addr value => Sys2Proof.Machine.execCommitRegisterWrite t addr value s
  | .commitGroupMemberWrite t addr value => Sys2Proof.Machine.execCommitGroupMemberWrite t addr value s
  | .registerPairHiWrite t addr value => Sys2Proof.Machine.execRegisterPairHiWrite t addr value s
  | .registerPairLoRead t addr => Sys2Proof.Machine.execRegisterPairLoRead t addr s
  | .irqStatusW1c t addr value => Sys2Proof.Machine.execIrqStatusW1c t addr value s
  | .registerWrite t addr be value => Sys2Proof.Machine.execRegisterWrite t addr be value s
  | .d3hotExit t fn => Sys2Proof.Machine.execD3hotExit t fn s
  | .vfEnableSet t n => Sys2Proof.Machine.execVfEnableSet t n s
  | .pcieLinkDown t => Sys2Proof.Machine.execPcieLinkDown t s
  | .doeSpdmRequest t session => Sys2Proof.Machine.execDoeSpdmRequest t session s
  | .imageWriteComplete t type => Sys2Proof.Machine.execImageWriteComplete t type s
  | .syncInAbsent t => Sys2Proof.Machine.execSyncInAbsent t s

end Sys2Proof.Machine
end

