-- ==== Sys2Proof/Safety.lean ====
section
/-! DEFINITION. What the statements say things in: a command that completes, an instruction that issues, the canonical form
of the stores, and the part of the almanac that no command changes. -/

namespace Sys2Proof.Machine

/-- A command answers a next state, and that state has a property. -/
def Ends (r : Res) (p : State → Prop) : Prop := ∃ t, r = .next t ∧ p t

/-- An instruction of a class and opcode issues in this state, which is that of its cc (R116 to R121): its context is
RUNNING a segment of a live module, its next word is the one presented, nothing holds it, its class has not issued in
this cc, and no other thread of the core goes before it. -/
structure Issues (cls op : Nat) (i : Issue) (s : State) (th : Thread) (j : Job) : Prop where
  thread : look s.threads (thrKey i.core.val i.thr.val) = some th
  job : look s.jobs th.slot = some j
  running : th.state = 1
  due : th.readyAt ≤ i.t
  now : i.t = s.now
  live : live s = true
  word : (programOf s j i.core.val)[th.pc]? = some i.word
  isClass : opClass i.word = cls
  isOp : opCode i.word = op
  clean : i.upsets = []
  free : thrState s i.core.val i.thr.val i.t = 1
  first : ((coreOf s i.core.val).issued[cls]?).getD 0 ≤ i.t
  oldest : outranked s i.core.val i.thr.val i.t cls th = false

/-- What an issuing instruction's meaning sees. -/
def ctxAt (i : Issue) (s : State) (th : Thread) (j : Job) : Ctx' :=
  { t := i.t, core := i.core.val, thr := i.thr.val, k := thrKey i.core.val i.thr.val, slot := th.slot,
    tenant := j.tenant, job := j, pc := th.pc, w := i.word, ecc := i.ecc, ix := indexedAt s j i.core.val th.pc }

/-- The state right after the book-keeping of an issue, before the instruction's own effect. -/
def afterIssue (cls : Nat) (i : Issue) (s : State) : State :=
  markIssue i.core.val (thrKey i.core.val i.thr.val) cls i.t
    (((look s.threads (thrKey i.core.val i.thr.val)).map (·.slot)).getD 0) s

/-- The second operand of an S-format instruction (R123). -/
def secondS (w : W64) (s : State) (k : Nat) : W64 :=
  if sIMM w then (BitVec.ofNat 32 (sImm32 w)).signExtend 64 else sreg s k (sSB w)

/-- The stores of plain values keep one canonical form, so that equal contents are equal data. -/
def Canonical (s : State) : Prop :=
  twf 0 s.hbm ∧ twf 0 s.store ∧ twf 0 s.flash ∧ twf 0 s.acc ∧ twf 0 s.sregs ∧ twf 0 s.vregs

/-- One memory's canonical form: its addresses rise strictly, and it lists no byte that an unlisted address reads as (0). -/
abbrev Memory.wf (m : Tab Byte) : Prop := twf 0 m

/-- The factory part of the almanac: written at manufacture (R409). -/
def factoryPart (s : State) : Nat × Nat × Nat × Nat × Nat × Nat × Nat × Nat × Nat :=
  (s.alm.variant, s.alm.flashTb, s.alm.serial, s.alm.subsystem, s.alm.macBase, s.alm.calEpoch, s.alm.rateS, s.alm.rateI,
   s.alm.cores)

/-- Nothing falls due by a cc: no abort takes effect, no signal and no landing arrives, no result has yet to be counted, no write or
work request is held (R211, R256), and every command in execution has begun (R380). -/
def Quiet (t : Nat) (s : State) : Prop :=
  dueAt t s = [] ∧ s.held = [] ∧ (∀ e ∈ s.works, e.2.held = none) ∧ (∀ e ∈ s.cmds, e.2.begun = true)

/-- Valid parity of a vector register of a context (R145). -/
def goodVec (s : State) (k v : Nat) : Prop := (k * 8 + v) ∉ s.badVec

end Sys2Proof.Machine
end

