-- ==== Sys2Proof/Certificates/Slice0/Obligations.lean ====
section
/-! DEFINITION. The statements for the provers. Time stands in each as the state `tick t s`: the clock at the command's cc,
with the aborts that have fallen due by then. -/

open Sys2Proof Sys2Proof.Machine

/-! ### The block -/

/-- A step runs the command at the front of the queue on the state with the queue's rest; and every command, whatever its
operands and the state, answers a next state: no command stops the block. -/
def Obligations.StepRunsFront : Prop :=
  (∀ (c : Instr) (rest : List Instr) (s : State),
    step { s with pending := c :: rest } = exec c { s with pending := rest }) ∧
  (∀ (c : Instr) (s : State), ∃ t, exec c s = .next t)

/-- With nothing waiting the block idles, and where no abort, no signal and no count falls due by a cc, no write or work request is
held and every command in execution has begun, coming to that cc moves the clock, counts what elapsed and moves the rows of streams on, and changes nothing else: both are the model's own
reading of its clock (log 1). The clock never runs back. -/
def Obligations.IdleAndClock : Prop :=
  (∀ s : State, s.pending = [] → step s = .next s) ∧
  (∀ (t : Nat) (s : State), Quiet t s →
    let u := tick t s
    u = { s with now := max s.now t, ctr := u.ctr, stks := u.stks, cores := u.cores,
                 pho := { s.pho with fetchWait := u.pho.fetchWait } }) ∧
  (∀ (t : Nat) (s : State), t ≤ s.now → Quiet t s → tick t s = s)

/-! ### Instructions of a thread -/

/-- R123, R128: the result of every two-operand S-format instruction is in its destination, usable after the class's
latency, and the issue's book-keeping apart nothing else changes. With W = 0 the low halves count and the result is
sign-extended; s0 takes nothing (R113). -/
def Obligations.ScalarPairs : Prop :=
  ∀ (i : Issue) (s : State) (th : Thread) (j : Job),
    let s1 := tick i.t s
    let k := thrKey i.core.val i.thr.val
    let w := i.word
    let a := sreg s1 k (sSA w)
    let b := secondS w s1 k
    let put := fun (v : W64) (lat : Nat) => (Host.Outcome.next (setSreg k (sSD w) v (i.t + lat) (afterIssue 2 i s1)) : Res)
    let pair := fun (f : W64 → W64 → W64) (g : W32 → W32 → W32) =>
      if sW w then f a b else (g (a.setWidth 32) (b.setWidth 32)).signExtend 64
    (Issues 2 0x01 i s1 th j → exec (.add i) s = put (pair (· + ·) (· + ·)) 1) ∧
    (Issues 2 0x02 i s1 th j → exec (.sub i) s = put (pair (· - ·) (· - ·)) 1) ∧
    (Issues 2 0x03 i s1 th j → exec (.mul i) s = put (pair (· * ·) (· * ·)) 4) ∧
    (Issues 2 0x04 i s1 th j → exec (.mulh i) s = put (BitVec.ofInt 64 (a.toInt * b.toInt / 2 ^ 64)) 4) ∧
    (Issues 2 0x05 i s1 th j → exec (.and i) s = put (pair (· &&& ·) (· &&& ·)) 1) ∧
    (Issues 2 0x06 i s1 th j → exec (.or i) s = put (pair (· ||| ·) (· ||| ·)) 1) ∧
    (Issues 2 0x07 i s1 th j → exec (.xor i) s = put (pair (· ^^^ ·) (· ^^^ ·)) 1) ∧
    (Issues 2 0x08 i s1 th j →
      exec (.shl i) s = put (pair (fun x y => x <<< (y.toNat % 64)) (fun x y => x <<< (y.toNat % 32))) 1) ∧
    (Issues 2 0x09 i s1 th j →
      exec (.shr i) s = put (pair (fun x y => x >>> (y.toNat % 64)) (fun x y => x >>> (y.toNat % 32))) 1) ∧
    (Issues 2 0x0A i s1 th j →
      exec (.sra i) s = put (pair (fun x y => x.sshiftRight (y.toNat % 64)) (fun x y => x.sshiftRight (y.toNat % 32))) 1) ∧
    (Issues 2 0x0B i s1 th j →
      exec (.slt i) s = put (pair (fun x y => if x.toInt < y.toInt then 1 else 0) (fun x y => if x.toInt < y.toInt then 1 else 0)) 1) ∧
    (Issues 2 0x0C i s1 th j →
      exec (.sltu i) s = put (pair (fun x y => if x.toNat < y.toNat then 1 else 0) (fun x y => if x.toNat < y.toNat then 1 else 0)) 1) ∧
    (Issues 2 0x0D i s1 th j →
      exec (.min i) s = put (pair (fun x y => if y.toInt < x.toInt then y else x) (fun x y => if y.toInt < x.toInt then y else x)) 1) ∧
    (Issues 2 0x0E i s1 th j →
      exec (.max i) s = put (pair (fun x y => if x.toInt < y.toInt then y else x) (fun x y => if x.toInt < y.toInt then y else x)) 1)

/-- R77, R128, R129: the moves, the conversions and RDSPEC write their value and change nothing else. -/
def Obligations.ScalarMoves : Prop :=
  ∀ (i : Issue) (s : State) (th : Thread) (j : Job),
    let s1 := tick i.t s
    let k := thrKey i.core.val i.thr.val
    let w := i.word
    let a := sreg s1 k (sSA w)
    let put := fun (v : W64) (lat : Nat) => (Host.Outcome.next (setSreg k (sSD w) v (i.t + lat) (afterIssue 2 i s1)) : Res)
    (Issues 2 0x0F i s1 th j → exec (.movi i) s = put ((BitVec.ofNat 32 (sImm32 w)).signExtend 64) 1) ∧
    (Issues 2 0x10 i s1 th j →
      exec (.movhi i) s = put (BitVec.ofNat 64 (sImm32 w * 2 ^ 32 + (sreg s1 k (sSD w)).toNat % 2 ^ 32)) 1) ∧
    (Issues 2 0x11 i s1 th j →
      exec (.scvtf i) s = put ((intToX (if sW w then a.toInt else (a.setWidth 32).toInt)).setWidth 64) 4) ∧
    (Issues 2 0x12 i s1 th j →
      exec (.scvti i) s = put (BitVec.ofInt 64 (xToInt (if sW w then 64 else 32) (sRM w == 1) (a.setWidth 32))) 4) ∧
    (Issues 2 0x13 i s1 th j →
      (sImm32 w = 0 → exec (.rdspec i) s =
        put (BitVec.ofNat 64 (i.thr.val + i.core.val % 18 * 2 ^ 7 + i.core.val / 18 * 2 ^ 12)) 2) ∧
      (sImm32 w = 1 → exec (.rdspec i) s = put (BitVec.ofNat 64 (i.t - j.segAt)) 2) ∧
      (sImm32 w = 2 → exec (.rdspec i) s = put (BitVec.ofInt 64 s1.mer.count) 2) ∧
      (sImm32 w = 3 → exec (.rdspec i) s = put (BitVec.ofNat 64 j.tenant) 2) ∧
      (sImm32 w = 4 → exec (.rdspec i) s = put (BitVec.ofNat 64 (j.id % 2 ^ 16 + th.slot * 2 ^ 16)) 2) ∧
      (sImm32 w = 5 → exec (.rdspec i) s = put (BitVec.ofNat 64 (j.segs - 1)) 2) ∧
      (5 < sImm32 w → exec (.rdspec i) s = put 0 2))

/-- R145, R146, R150, R153: with valid parity in its sources every lane-by-lane V-format instruction and every
reduction writes all 256 lanes of its destination, usable after 6 cc, or 8 in X32, has the lanes counted in the census of
its tag in the cc in which they become usable where TAGEN asks for it, and changes nothing else. -/
def Obligations.VectorLanes : Prop :=
  ∀ (i : Issue) (s : State) (th : Thread) (j : Job),
    let s1 := tick i.t s
    let k := thrKey i.core.val i.thr.val
    let w := i.word
    let f := vFMT w
    let a := vreg s1 k (vVA w)
    let b := vreg s1 k (vVB w)
    let c := vreg s1 k (vVC w)
    let okA := goodVec s1 k (vVA w)
    let okB := goodVec s1 k (vVB w)
    let okC := goodVec s1 k (vVC w)
    let put := fun (tagged : Bool) (lanes : List W32) =>
      let u := setVreg k (vVD w) lanes (i.t + if f = 3 then 8 else 6) (afterIssue 1 i s1)
      (Host.Outcome.next
        (if tagged && vTAGEN w then { u with tallies := u.tallies ++
            [(i.t + (if f = 3 then 8 else 6), j.tenant, vTAG w, lanes.map (seenLane f))] }
         else u) : Res)
    let two := fun (g : W32 → W32 → W32) => List.zipWith g a b
    let three := fun (g : W32 → W32 → W32 → W32) => List.zipWith (fun xy z => g xy.1 xy.2 z) (List.zip a b) c
    (Issues 1 0x01 i s1 th j → okA → okB → exec (.vadd i) s = put true (two (laneAdd f))) ∧
    (Issues 1 0x02 i s1 th j → okA → okB → exec (.vsub i) s = put true (two (laneSub f))) ∧
    (Issues 1 0x03 i s1 th j → okA → okB → exec (.vmul i) s = put true (two (laneMul f))) ∧
    (Issues 1 0x04 i s1 th j → okA → okB → okC → exec (.vfma i) s = put true (three fmaX)) ∧
    (Issues 1 0x05 i s1 th j → okA → okB → exec (.vmax i) s = put true (two (laneMax f))) ∧
    (Issues 1 0x06 i s1 th j → okA → okB → exec (.vmin i) s = put true (two (laneMin f))) ∧
    (Issues 1 0x07 i s1 th j → okA → exec (.vabs i) s = put true (a.map (laneAbs f))) ∧
    (Issues 1 0x08 i s1 th j → okA → exec (.vneg i) s = put true (a.map (laneNeg f))) ∧
    (Issues 1 0x0A i s1 th j → okA →
      exec (.vscale i) s = put true (a.map (laneScale f (sext 8 ((sreg s1 k (vSS w)).toNat % 256))))) ∧
    (Issues 1 0x0B i s1 th j →
      exec (.vbcast i) s = put true (List.replicate 256 (formOf f ((sreg s1 k (vSS w)).setWidth 32)))) ∧
    (Issues 1 0x0D i s1 th j → okA → okB → okC → exec (.vsel i) s = put true (three (laneSel f))) ∧
    (Issues 1 0x0E i s1 th j → okA → okB → exec (.vcmplt i) s = put false (two (laneCmp (fun x y => x < y) f))) ∧
    (Issues 1 0x0F i s1 th j → okA → okB → exec (.vcmpeq i) s = put false (two (laneCmp (fun x y => x = y) f))) ∧
    (Issues 1 0x10 i s1 th j → okA → exec (.vredsum i) s = put true (reduce (laneAdd f) a)) ∧
    (Issues 1 0x11 i s1 th j → okA → exec (.vredmax i) s = put true (reduce (laneMax f) a)) ∧
    (Issues 1 0x12 i s1 th j → okA → exec (.vexp2 i) s = put true (a.map (laneExp2 f))) ∧
    (Issues 1 0x13 i s1 th j → okA → exec (.vlog2 i) s = put true (a.map (laneLog2 f))) ∧
    (Issues 1 0x14 i s1 th j → okA → exec (.vrecip i) s = put true (a.map (laneRecip f))) ∧
    (Issues 1 0x15 i s1 th j → okA → exec (.vrsqrt i) s = put true (a.map (laneRsqrt f))) ∧
    (Issues 1 0x17 i s1 th j → okA → exec (.vmov i) s = put true (a.map (formOf f)))

/-- R146, R152, R154, R155: VCVT converts lane by lane, VEXTR writes a scalar register, VRAND writes one draw per
lane; the draws of a deterministic job come from its seed, exposure and stream, and count in the thread. -/
def Obligations.VectorOthers : Prop :=
  ∀ (i : Issue) (s : State) (th : Thread) (j : Job),
    let s1 := tick i.t s
    let k := thrKey i.core.val i.thr.val
    let w := i.word
    let f := vFMT w
    let a := vreg s1 k (vVA w)
    let m := afterIssue 1 i s1
    let tally := fun (u : State) => bump (0x100000 + 0x10000 * i.core.val + 0x5004) 32 1 u
    let drawn := modThr k (fun x => { x with draws := (x.draws + 1) % 2 ^ 32 }) (tally m)
    let n := (j.block.g0 + (j.segs - 1)) % 2 ^ 32 * 2 ^ 32 + th.draws % 2 ^ 32
    let ds := (List.range 256).map (fun l => mix (laneKey j.block.seed (256 * th.stream + l)) (BitVec.ofNat 64 n))
    let lat := if f ≤ 2 ∧ vTFMT w ≤ 2 then 6 else if f = 4 ∨ vTFMT w = 4 then 8 else 10
    let cvt := fun (us : List W32) => List.zipWith
      (fun x d => laneCvt f (vTFMT w) (vRM w) (sext 8 ((sreg s1 k (vSS w)).toNat % 256)) (drawU d) x) a us
    let put := fun (rs : List (W32 × Seen)) (u : State) =>
      let u := setVreg k (vVD w) (rs.map (·.1)) (i.t + lat) u
      (Host.Outcome.next (if vTAGEN w then
        { u with tallies := u.tallies ++ [(i.t + lat, j.tenant, vTAG w, rs.map (·.2))] } else u) : Res)
    (Issues 1 0x09 i s1 th j → goodVec s1 k (vVA w) → bitOf (vRM w) 1 = false →
      exec (.vcvt i) s = put (cvt (List.replicate 256 0)) m) ∧
    (Issues 1 0x09 i s1 th j → goodVec s1 k (vVA w) → bitOf (vRM w) 1 = true → bitOf j.block.flags 0 = true →
      exec (.vcvt i) s = put (cvt ds) drawn) ∧
    (Issues 1 0x0C i s1 th j → goodVec s1 k (vVA w) →
      exec (.vextr i) s = .next (setSreg k (vSS w)
        (let x := (a[vLane w]?).getD 0
         if f = 4 then x.signExtend 64 else if f = 2 then (l16 (code16 x)).setWidth 64 else x.setWidth 64)
        (i.t + if f = 3 then 8 else 6) m)) ∧
    (Issues 1 0x16 i s1 th j → bitOf j.block.flags 0 = true →
      exec (.vrand i) s = .next (setVreg k (vVD w) ds (i.t + if f = 3 then 8 else 6) drawn)) ∧
    (Issues 1 0x16 i s1 th j → bitOf j.block.flags 0 = false →
      exec (.vrand i) s = .next (setVreg k (vVD w)
        ((List.range 256).map (fun l => mix (laneKey (coreOf s1 i.core.val).seed (256 * i.core.val + l))
          (BitVec.ofNat 64 (i.t - s1.boot.startAt)))) (i.t + if f = 3 then 8 else 6) (tally m)))

/-- R120 to R122, R125, R133, R134: a load delivers the bytes of an aligned range with valid parity that no other thread is
writing, 9 cc later from the own
store and 34 or 58 cc later from another core's; a store's bytes land and the range is in flight for 7 cc; with SIG the
completion is to add 1 to OBJ at that cc; nothing else changes. -/
def Obligations.LoadsAndStores : Prop :=
  ∀ (i : Issue) (s : State) (th : Thread) (j : Job),
    let s1 := tick i.t s
    let core := i.core.val
    let k := thrKey core i.thr.val
    let w := i.word
    let m := afterIssue 3 i s1
    let r := localRange s1 k w
    let whole := r.2 ≤ 0x1800000
    let flying := fun (bs : List Byte) => { storeWrite core r.1 bs m with ranges := m.ranges ++
      [({ core, thr := i.thr.val, lo := r.1, hi := r.2, until_ := i.t + 7, panel := false,
          old := storeRead m core r.1 bs.length } : Machine.Range)] }
    let alone := fun (core' off n : Nat) => crossing m core' core i.thr.val i.t off n = []
    let signalled := fun (at_ : Nat) (u : State) => (Host.Outcome.next
      (if mSIG w then match absObj u j (mOBJ w) with
        | some o => { u with signals := u.signals ++ [{ at_, slot := th.slot, obj := o, src := 100 + core, act := .add }] }
        | none => u
       else u) : Res)
    (Issues 3 0x01 i s1 th j → whole → badBlocks s1 core r.1 (r.2 - r.1) = [] → alone core r.1 (r.2 - r.1) →
      exec (.mldv i) s = signalled (i.t + 9)
        (setVreg k (mVR w) (unpackLanes (vFMT w) (storeRead s1 core r.1 (r.2 - r.1))) (i.t + 9) m)) ∧
    (Issues 3 0x02 i s1 th j → whole → goodVec s1 k (mVR w) →
      exec (.mstv i) s = signalled (i.t + 7) (flying (packLanes (vFMT w) (vreg s1 k (mVR w))))) ∧
    (Issues 3 0x03 i s1 th j → whole → badBlocks s1 core r.1 8 = [] → alone core r.1 8 →
      exec (.mlds i) s = signalled (i.t + 9)
        (setSreg k (mSB w) (BitVec.ofNat 64 (leNat (storeRead s1 core r.1 8))) (i.t + 9) m)) ∧
    (Issues 3 0x04 i s1 th j → whole →
      exec (.msts i) s = signalled (i.t + 7) (flying (leBytes 8 (sreg s1 k (mSB w)).toNat))) ∧
    (∀ core' off, Issues 3 0x05 i s1 th j →
      placeCore (jobCores s1 th.slot) (align (sreg s1 k (mSA w)).toNat (vecBytes (vFMT w))) = some (core', off) →
      off + vecBytes (vFMT w) ≤ 0x1800000 → badBlocks s1 core' off (vecBytes (vFMT w)) = [] →
      alone core' off (vecBytes (vFMT w)) →
      let at_ := i.t + if core' = core then 9 else if core' / 18 = core / 18 then 34 else 58
      exec (.mldvx i) s = signalled at_ (setVreg k (mVR w)
        (unpackLanes (vFMT w) (storeRead s1 core' off (vecBytes (vFMT w)))) at_ m))

/-- R132, R133, R130: a copy whose places can all be reached joins its core's queue with the cc from which its data is
there, the pages it waits for begin to move, its own destination range is in flight, and the packets of a remote place
leave, unless a page or a strip is still waited for; a stream joins the queue where its destinations are cores of its job
and its source lies in the store. -/
def Obligations.CopiesQueue : Prop :=
  ∀ (i : Issue) (s : State) (th : Thread) (j : Job),
    let s1 := tick i.t s
    let core := i.core.val
    let k := thrKey core i.thr.val
    let w := i.word
    let m := afterIssue 3 i s1
    let a := (sreg s1 k (mSA w)).toNat
    let n := (sreg s1 k (mSB w)).toNat
    let d := (sreg s1 k (mSC w)).toNat
    let queue := fun (x : MOp) (u : State) => modCore core (fun c => { c with mq := c.mq ++ [x] }) u
    (let src := placesOf m j.tenant (jobCores m th.slot) a n false
     let wr := writeRange m j.tenant d n
     let dst := placesOf m j.tenant (jobCores m th.slot) wr.1 wr.2 true
     let msg := (m.nextWork + 1) * 8
     let u := touchPages (src ++ dst) { m with nextWork := m.nextWork + 1 }
     let exact := (src ++ dst).all (fun p => planned p.1)
     let g := if exact then (i.t, u) else outsideGrant (some j.tenant) src dst i.t u
     let x : MOp := { slot := th.slot, thr := i.thr.val, stream := false, src := a, dst := d, len := n, sig := mSIG w,
                      obj := mOBJ w, msg, sp := src, dp := dst, dests := [], first := 0, left := 0, side := none,
                      due := copyReady g.2 core src dst g.1, exact }
     let held := (src ++ dst).any (fun p => isRemote p.1) && (!(waitsOf (src ++ dst)).isEmpty || copyStrip g.2 j.tenant x)
     let v := (ownRange core d n).foldl (fun u r => addRange (ctxAt i s1 th j) r.1 r.2 (2 ^ 64) false u)
       (queue { x with left := if held then 1 else 0 } g.2)
     Issues 3 0x06 i s1 th j → a < 2 ^ 57 → d < 2 ^ 57 → a + n ≤ 2 ^ 57 → d + n ≤ 2 ^ 57 → badOf (src ++ dst) = none →
       exec (.mcopy i) s = .next (if held then v else copyFar th.slot j.tenant msg src dst v)) ∧
    (let x : MOp := { slot := th.slot, thr := i.thr.val, stream := true, src := a, dst := 0, len := 0, sig := mSIG w,
                      obj := mOBJ w, msg := 0, sp := [], dp := [], dests := streamDests core n, first := streamFirst n,
                      left := streamSlots n, side := if mSC w = 0 then none else some d, due := i.t + 9, exact := false }
     Issues 3 0x07 i s1 th j → (∀ c ∈ streamDests core n, c ∈ jobCores m th.slot) →
       a + 256 * streamSlots n ≤ 0x1800000 → (mSC w ≠ 0 → d + 32 * streamSlots n ≤ 0x1800000) →
       exec (.mstream i) s = .next (queue x ((streamDests core n).foldl (fun u c => passRing c (streamFirst n) u) m)))

/-- R59, R132, R140: the oldest copy of a core completes where its places are reached, its pages are in place, no strip holds
it, its remote message is over and landed, its data is there, a planned one in its very cc, and its source has valid parity: it
leaves the queue, its bytes stand at the destination, and its signal is given; one whose remote message was held sends it; a stream leaves once every slot is
written. -/
def Obligations.CopiesComplete : Prop :=
  ∀ (t : Nat) (core : Core) (data : List Byte) (s : State) (x : MOp) (rest : List MOp) (j : Job),
    let s1 := tick t s
    let s2 := modCore core.val (fun k => { k with mq := x :: k.mq.tail }) s1
    let r := copyRead core.val x.thr x.sp (if (collected s2 x.msg).isEmpty then data else collected s2 x.msg)
      (forget x.msg (popCopy core.val x s2))
    (coreOf s1 core.val).mq = x :: rest → look s1.jobs x.slot = some j →
    (x.stream = true → x.left = 0 →
      exec (.mOpComplete t core data 0) s = .next (checkDone x.slot (copySignal core.val x (popCopy core.val x s1)))) ∧
    (x.stream = false → badOf (x.sp ++ x.dp) = none → waitsOf (x.sp ++ x.dp) = [] → copyStrip s2 j.tenant x = false →
      (x.left ≠ 1 → msgOpen s2 x.msg = false → x.due ≤ s2.now → (x.exact = true → s2.now = x.due) →
        landedBy s2 x.msg + farLand x.dp ≤ s2.now → checkSpans x.slot j.tenant x.sp .ok s2 = (true, s2) →
        exec (.mOpComplete t core data 0) s = .next (checkDone x.slot (copySignal core.val x
          (writeOver noFar j.tenant x.dst x.dp r.1
            (chargeJob x.slot (placePj x.sp + placePj x.dp) r.2)
            (if x.sp.all (fun p => planned p.1) then 0 else 2))))) ∧
      (x.left = 1 →
        exec (.mOpComplete t core data 0) s = .next (copyFar x.slot j.tenant x.msg x.sp x.dp
          (modCore core.val (fun k => { k with mq := { x with left := 0 } :: k.mq.tail }) s2))))

/-- R126, R137, R138, R140: on an object of the job that nothing else has changed in this cc, YSIG adds its operand, YRST
sets it, YREAD reads it, a wait that holds passes, and YARM attaches its trigger; nothing else changes. -/
def Obligations.SyncObjects : Prop :=
  ∀ (i : Issue) (s : State) (th : Thread) (j : Job) (obj v : Nat) (o : SyncObj),
    let s1 := tick i.t s
    let core := i.core.val
    let k := thrKey core i.thr.val
    let w := i.word
    let m := afterIssue 4 i s1
    let ix := indexedAt s1 j core th.pc
    let put := fun (n : Nat) (rs : Option (Nat × Nat)) (add : Nat) =>
      { m with sync := tput m.sync obj { o with
          value := n, stamp := i.t, start := o.value, reset := rs, adds := add,
          hist := (i.t, n, [core]) :: o.hist } }
    yREM w = false → yArgs s1 j k ix w = (some obj, v) → look s1.sync obj = some o → o.stamp ≠ i.t →
    (Issues 4 1 i s1 th j → o.value + v < 2 ^ 64 → exec (.ysig i) s = .next (put (o.value + v) none v)) ∧
    (Issues 4 2 i s1 th j → exec (.ywge i) s = .next m) ∧
    (Issues 4 3 i s1 th j → exec (.yweq i) s = .next m) ∧
    (Issues 4 4 i s1 th j → v < 2 ^ 64 → exec (.yrst i) s = .next (put v (some (rankThread core i.thr.val, v)) 0)) ∧
    (∀ owner, Issues 4 5 i s1 th j → look s1.jobs o.owner = some owner → o.trigs.length < 4 →
      yImm20 w < owner.block.wrEntries →
      exec (.yarm i) s = .next (wrStatus o.owner (yImm20 w) 1 0 { m with sync := tput m.sync obj { o with
        trigs := o.trigs ++ [{ threshold := (sreg s1 k (ySV w)).toNat, handle := yImm20 w, slot := o.owner,
                               armedAt := i.t }] } })) ∧
    (Issues 4 6 i s1 th j →
      exec (.yread i) s = .next (setSreg k (ySV w) (BitVec.ofNat 64 o.value)
        (i.t + if obj / 4096 = core / 18 then 9 else 34) m))

/-- R126, R137, R141: an object index that names none of the job's objects raises SYNC_ACCESS against the job, and the
operation has no other effect; a trigger that cannot be attached raises SYNC_ARM_FULL. With REM set, YSIG, YRST and YARM
leave as one SYNC packet to the module named, on the job's own connections, carrying the module-relative index of the
word; the packet's region key is a free value (log 12). -/
def Obligations.SyncElsewhere : Prop :=
  ∀ (i : Issue) (s : State) (th : Thread) (j : Job),
    let s1 := tick i.t s
    let core := i.core.val
    let k := thrKey core i.thr.val
    let w := i.word
    let m := afterIssue 4 i s1
    let args := yArgs s1 j k (indexedAt s1 j core th.pc) w
    let trap := (Host.Outcome.next (raiseJob 0x046 th.slot m core i.thr.val) : Res)
    let sv := (sreg s1 k (ySV w)).toNat
    let send := fun (sop v wrh : Nat) => (Host.Outcome.next
      (sendMsg th.slot j.tenant (yMODULE w) j.tenant (th.slot * 8 + 3)
        (fun _ => [{ opcode := 6, hdr := [Config.choice m.free, yOBJ w, sop, v, wrh] }])
        { m with free := m.free + 1 }) : Res)
    (yREM w = false → args.1 = none →
      (Issues 4 1 i s1 th j → exec (.ysig i) s = trap) ∧ (Issues 4 4 i s1 th j → exec (.yrst i) s = trap) ∧
      (Issues 4 5 i s1 th j → exec (.yarm i) s = trap) ∧ (Issues 4 6 i s1 th j → exec (.yread i) s = trap)) ∧
    (∀ obj o, yREM w = false → args.1 = some obj → look s1.sync obj = some o →
      4 ≤ o.trigs.length ∨ ((look s1.jobs o.owner).map (fun x => x.block.wrEntries)).getD 0 ≤ yImm20 w →
      Issues 4 5 i s1 th j → exec (.yarm i) s = .next (raiseJob 0x048 th.slot m (obj / 4096))) ∧
    (yREM w = true →
      (Issues 4 1 i s1 th j → exec (.ysig i) s = send 1 (if yIMM w then yImm20 w else sv) 0) ∧
      (Issues 4 4 i s1 th j → exec (.yrst i) s = send 2 (if yIMM w then yImm20 w else sv) 0) ∧
      (Issues 4 5 i s1 th j → exec (.yarm i) s = send 3 sv (yImm20 w)))

/-- R116, R120, R127: NOP has its issue alone; END leaves its context DONE; a taken jump to a word of the program sets the
program counter, the next word issuing two cc later; CALL leaves the address of the next word in s63. -/
def Obligations.ControlFlow : Prop :=
  ∀ (i : Issue) (s : State) (th : Thread) (j : Job),
    let s1 := tick i.t s
    let core := i.core.val
    let k := thrKey core i.thr.val
    let w := i.word
    let m := afterIssue 5 i s1
    let a := sreg s1 k (cSA w)
    let b := sreg s1 k (cSB w)
    let goto := fun (p : Nat) (u : State) => modThr k (fun x => { x with pc := p, readyAt := i.t + 2 }) u
    let inside := fun (p : Int) => 0 ≤ p ∧ p < (programOf s1 j core).length
    let target := (th.pc : Int) + cOFFSET w
    let holds :=
      (cCOND w = 0 ∧ a = b) ∨ (cCOND w = 1 ∧ a ≠ b) ∨ (cCOND w = 2 ∧ a.toInt < b.toInt) ∨
      (cCOND w = 3 ∧ b.toInt ≤ a.toInt) ∨ (cCOND w = 4 ∧ a.toNat < b.toNat) ∨ (cCOND w = 5 ∧ b.toNat ≤ a.toNat)
    (Issues 5 1 i s1 th j → exec (.nop i) s = .next m) ∧
    (Issues 5 2 i s1 th j → exec (.endThread i) s = .next (checkDone th.slot (modThr k (fun x => { x with state := 5 }) m))) ∧
    (Issues 5 3 i s1 th j → inside target → exec (.br i) s = .next (goto target.toNat m)) ∧
    (Issues 5 4 i s1 th j → cCOND w ≤ 5 → holds → inside target → exec (.brc i) s = .next (goto target.toNat m)) ∧
    (Issues 5 4 i s1 th j → cCOND w ≤ 5 → ¬ holds → exec (.brc i) s = .next m) ∧
    (Issues 5 6 i s1 th j → inside target →
      exec (.call i) s = .next (goto target.toNat (setSreg k 63 (BitVec.ofNat 64 (th.pc + 1)) (i.t + 1) m))) ∧
    (Issues 5 7 i s1 th j → inside a.toNat → exec (.ret i) s = .next (goto a.toNat m)) ∧
    (Issues 5 3 i s1 th j → ¬ inside target →
      exec (.br i) s = .next (raiseJob 0x044 th.slot (modThr k (fun x => { x with pc := th.pc }) m) core i.thr.val))

/-- R50, R51: a milestone raises the job's lateness to the cc by which it is late, never lowers it, and has the MER block look at
the job in the next cc; that look requests a slip exactly where the running segment's predicted finish passes the deadline. -/
def Obligations.Milestone : Prop :=
  ∀ (i : Issue) (s : State) (th : Thread) (j : Job) (e : Nat),
    let s1 := tick i.t s
    let late : Int := (i.t : Int) - j.segAt - e
    let j' := { j with lateness := max j.lateness late }
    let u := modJob th.slot (fun _ => j') (afterIssue 5 i s1)
    let look' : Signal := { at_ := i.t + 1, slot := th.slot, obj := 0, src := i.core.val, act := .slip }
    (Issues 5 5 i s1 th j → (segOf s1 j).bind (fun g => g.milestones[cMile i.word]?) = some e →
      exec (.mile i) s = .next { u with signals := u.signals ++ [look'] }) ∧
    (∀ (v : State) (k : Job), look v.jobs th.slot = some k →
      arriveSignal look' v =
        if k.phase = 1 ∧ k.aborted = none ∧ 0 < predictedExcess v k then requestSlip th.slot (predictedExcess v k).toNat v else v)

/-- R94, R96, R97, R98, R100 to R103: a MAC whose panels lie in the store occupies the engine and, with INIT, takes its bank
as zero; DRAIN writes the bank's rows to the store as X32; RELEASE frees valid slots and marks free ones
discard-pending. A range outside the store raises OPE_ADDR and the tile-op does nothing else. -/
def Obligations.TileOps : Prop :=
  ∀ (i : Issue) (s : State) (th : Thread) (j : Job),
    let s1 := tick i.t s
    let core := i.core.val
    let k := thrKey core i.thr.val
    let w := i.word
    let m := afterIssue 0 i s1
    let c := ctxAt i s1 th j
    let rs := macRanges s1 k w
    let bank := tBANK w
    let base := (core * 2 + bank) * 65536
    let cleared := if tINIT w then
        { m with acc := tclear m.acc base 65536, badAcc := m.badAcc.filter (fun x => x < base || base + 65536 ≤ x) }
      else m
    let run : MacRun :=
      { slot := th.slot, thr := i.thr.val, bank, fmt := tFMT w, total := tK w,
        col := panelAddr (tFMT w) (sreg s1 k (tRA w)).toNat, scale := align (sreg s1 k (tRSA w)).toNat 16,
        sca := tSCA w, scb := tSCB w, rowPos := tROWPOS w, rel := tREL w, step := 0,
        due := if tFMT w = 2 then i.t + 4 else i.t }
    let occ := if tFMT w = 0 then (tK w + 1) / 2 else if tFMT w = 1 then tK w else 4 * tK w
    let r := drainRange s1 k w
    let rows := dROWS w
    let from_ := base + dROW0 w * 256
    let n := 32 * (dCW w + 1)
    let bytes := ((List.range rows).map (fun q =>
      ((tread s1.acc (from_ + q * 256) n 0).map (fun x => leBytes 4 x.toNat)).flatten)).flatten
    (Issues 0 1 i s1 th j → (∀ x ∈ rs, x.2 ≤ 0x1800000) →
      exec (.mac i) s = .next (rs.foldl (fun u x => addRange c x.1 x.2 (2 ^ 64) true u)
        (modCore core (fun x => { x with mac := some run, opeFree := i.t + occ }) cleared))) ∧
    (Issues 0 1 i s1 th j → (∃ x ∈ rs, 0x1800000 < x.2) →
      exec (.mac i) s = .next (raiseJob 0x040 th.slot m core)) ∧
    (Issues 0 2 i s1 th j → r.2 ≤ 0x1800000 →
      (∀ x ∈ s1.badAcc, ¬ (from_ ≤ x ∧ x < from_ + rows * 256 ∧ x % 256 < n)) →
      exec (.drain i) s = .next (landStore c r.1 r.2 (i.t + rows + 6) bytes
        (modCore core (fun x => { x with drained := x.drained.set bank (i.t + rows), portFree := i.t + rows + 6 }) m))) ∧
    (Issues 0 3 i s1 th j →
      exec (.release i) s =
        .next ((List.range (rCOUNT w)).foldl (fun u q => releaseSlot core (rROWPOS w + q) u) m))

/-- R98, R108: RELEASE of one slot: a valid or lost slot is free, a free one discard-pending, a discard-pending one
stays; no other slot and nothing else in the state changes, a freed slot's parity mark apart. -/
def Obligations.SlotRelease : Prop :=
  ∀ (core n : Nat) (s : State),
    let u := releaseSlot core n s
    (slotState s core n = 0 → slotState u core n = 2) ∧
    (slotState s core n = 2 → u = s) ∧
    (slotState s core n ≠ 0 → slotState s core n ≠ 2 → slotState u core n = 0) ∧
    (∀ k, k ≠ slotKey core n → look u.slots k = look s.slots k) ∧
    u = { s with slots := u.slots, badSlot := u.badSlot }

/-- R101, R104, R108, R110, R423: the steps due in a cc enter where the grant allows, their rows are valid and every parity
holds: each adds its outer product into the bank, the steps are counted, the last one frees the engine. A step whose row is not there waits one cc and counts it; one that meets a discard-pending
or lost slot ends its MAC with OPE_RELEASED. -/
def Obligations.StepEntry : Prop :=
  ∀ (t : Nat) (core : Core) (ecc : Ecc) (s : State) (m : MacRun) (j : Job),
    let s1 := tick t s
    let c := core.val
    let base := (c * 2 + m.bank) * 65536
    let n := stepsNow m
    let m' := { m with step := m.step + n, due := t + if m.fmt = 2 then 4 else 1 }
    let u := chargeJob m.slot (if m.fmt = 2 then 9200 else 7080) (bump (0x100000 + 0x10000 * c + 0x3008) 64 n
      (relSlots c m n (useGrant c ((List.range n).foldl (fun v q => stepSum c m (m.step + q) v) s1))))
    (coreOf s1 c).mac = some m → look s1.jobs m.slot = some j → m.due ≤ t → t = s1.now → live s1 = true →
    grantLeft s1 c j.tenant = true →
    ((∀ x ∈ slotsNow m, slotState s1 c x = 1) →
      (∀ x ∈ slotsNow m, slotKey c x ∉ s1.badSlot) → (∀ x ∈ s1.badAcc, ¬ (base ≤ x ∧ x < base + 65536)) →
      badBlocks s1 c (m.col + colBytes m.fmt * m.step) (colBytes m.fmt * n) = [] →
      (m.sca ≠ 0 → badBlocks s1 c (m.scale + m.step * scalesPer m.sca) (n * scalesPer m.sca) = []) →
      exec (.opeStepEntry t ⟨core, ecc⟩) s =
        .next (if m'.step = m.total then macDone c m' u else modCore c (fun x => { x with mac := some m' }) u)) ∧
    ((∀ x ∈ slotsNow m, slotState s1 c x < 2) → (∃ x ∈ slotsNow m, slotState s1 c x = 0) →
      exec (.opeStepEntry t ⟨core, ecc⟩) s = .next (bump (0x100000 + 0x10000 * c + 0x3010) 32 1 (macWaits c m s1))) ∧
    (∀ x, (slotsNow m).find? (fun y => slotState s1 c y = 2 || slotState s1 c y = 3) = some x →
      exec (.opeStepEntry t ⟨core, ecc⟩) s =
        .next (raiseJob 0x041 m.slot (modCore c (fun y => { y with mac := none }) s1) c x))

/-- R90, R91, R106 to R108, R130, R199: STREAM_ROW_WRITE delivers the next row of a stream once it is due and read: to every
destination, where all their slots are free, in a stream that belongs to one job; slot by slot in one that jobs share. An
MSTREAM's slot comes from its core's store. Before, and with a slot that is not free, nothing changes (what a hold adds up to is
counted as time passes). -/
def Obligations.StreamRows : Prop :=
  (∀ (t : Nat) (core : Core) (ecc : Ecc) (s : State) (m : MOp) (rest : List MOp) (j : Job),
    let s1 := tick t s
    let vals := storeRead s1 core.val m.src 256
    let side := match m.side with | some b => storeRead s1 core.val b 32 | none => List.replicate 32 0
    let open_ := ∀ c ∈ m.dests, slotState s1 c m.first ≠ 1 ∧ slotState s1 c m.first ≠ 3
    let m' := { m with src := m.src + 256, first := m.first + 1, left := m.left - 1, side := m.side.map (· + 32),
                       due := s1.now + 1 }
    live s1 = true → (coreOf s1 core.val).mq = m :: rest → look s1.jobs m.slot = some j → m.stream = true → m.left ≠ 0 →
    (badBlocks s1 core.val m.src 256 = [] → (∀ b, m.side = some b → badBlocks s1 core.val b 32 = []) →
      (∀ off n, crossing s1 core.val core.val m.thr s1.now off n = []) → m.due ≤ s1.now → open_ →
      exec (.streamRowWrite t (.copy ⟨core, ecc⟩)) s =
        .next (modCore core.val (fun k => { k with mq := m' :: rest }) (deliverAll m.dests m.first [(vals, side)] s1))) ∧
    (s1.now < m.due ∨ ¬ open_ → exec (.streamRowWrite t (.copy ⟨core, ecc⟩)) s = .next s1)) ∧
  (∀ (t : Nat) (k : Stack) (idx : Nat) (s : State) (r : StreamRun) (j : Job) (e : StreamEntry),
    let s1 := tick t s
    let shared := e.shared || !r.bound.isEmpty
    let rows := min (rowsPer e) (e.rows - r.row)
    let off := r.row / rowsPer e * slotsPer e
    let open_ := ∀ c ∈ e.dests, ∀ q < slotsPer e,
      slotState s1 c (e.firstSlot + off + q) ≠ 1 ∧ slotState s1 c (e.firstSlot + off + q) ≠ 3
    let d := deliverySlots j e r s1
    let v := if shared then
        (e.dests.map (fun c => (c, e.firstSlot + off)) ++ r.bound.map (fun b => (b.2.1, b.2.2 + off))).foldl
          (fun u x => deliverShared x.1 x.2 rows d.1 u) d.2
      else deliverAll e.dests (e.firstSlot + off) d.1 d.2
    let b := bump (0x400048 + 0x10000 * k.val) 64 rows v
    let u := chargeJob r.slot (rows * (8 * 1050 + rowLanes e ((tagWord b j e.tag).getD 0) * 12)) b
    let r' := { r with row := r.row + rows, buf := r.buf.drop rows, due := max (r.due + e.interval) (s1.now + 1) }
    live s1 = true → (stackOf s1 k.val).streams[idx]? = some r → streamEntry s1 r = some (j, e) →
    (r.due ≤ s1.now → r.row + rows ≤ r.next → shared = true ∨ open_ →
      exec (.streamRowWrite t (.engine k idx .ok)) s =
        .next (if e.rows ≤ r.row + rows then workDone r.slot (busyStream r.entry)
            (modStack k.val (fun x => { x with streams := x.streams.eraseIdx idx }) u)
          else modStack k.val (fun x => { x with streams := x.streams.set idx r' }) u)) ∧
    (s1.now < r.due ∨ r.next < r.row + rows → exec (.streamRowWrite t (.engine k idx .ok)) s = .next s1))

/-! ### Meridians and slips -/

/-- R32 to R38: a MERIDIAN that falls at the cc edge of the next instant, with that instant as its time and a length that
fits the time to the one after, apportions the energy, closes the census, takes the new active values, moves every job on,
dispatches, locks and demotes pages, serves what waits for a meridian, and sets the meridian's interrupt; the new meridian
number and cc stand when jobs are moved on. It places number, length, error and cc of the exposure that starts, and the next
instant with its cc edge; the time of day goes on unbroken, and has reached that instant at that edge. -/
def Obligations.MeridianFalls : Prop :=
  ∀ (t len ns : Nat) (err : Int) (rngOk : Bool) (s : State),
    let s1 := tick t s
    let changed : Bool := (groupSt s1 0).state = 2
    let next := nextInstant (applyShadows s1) ns changed
    let e := snapshotCensus (receiptsAt ns (apportion s1))
    let a := applyTenants (applyRegisters (placeMeridian len next err changed (meridianNo s1 ns) e))
    let b := if changed then ((a.jobs.filter (fun e => e.2.phase ≠ 0)).map (·.1)).foldl (fun u k => raiseJob 0x022 k u) a else a
    let c := demote (lockPages (dispatch rngOk (restartTwilight ((e.jobs.map (·.1)).foldl (fun u k => jobAtMeridian k u) b))))
    (meridianFalls s1 ns = true → errFits s1 ns err = true → lengthFits (applyShadows s1) len (next - ns) = true →
      exec (.meridian t len ns err rngOk) s =
        .next (irqSet 0x10044 1 (serveMeridian { c with boot := { c.boot with rngOk } }))) ∧
    (meridianFalls s1 ns = false → exec (.meridian t len ns err rngOk) s = .next s1) ∧
    (∀ (m n : Int),
      let u := placeMeridian len n err changed m s
      u.mer.count = m ∧ u.mer.length = len ∧ u.mer.err = err ∧ u.mer.at_ = s.now ∧ u.mer.changeover = changed ∧
      u.mer.next = n ∧ u.mer.due = s.now + len ∧ u.mer.placing = s.mer.placing ∧ ptpFine u = ptpFine s ∧
      (0 < len → (ptpFine s : Int) + slewBy u.ptp.owed len ≤ n * 100000 → 0 ≤ n →
        (ptpNs { u with now := u.mer.due } : Int) = n) ∧
      u = { s with mer := u.mer, ptp := u.ptp })

/-- R42, R43, R193: at the first cc of a twilight slot group j mod 4 of every stack begins its refresh, 1,056 cc later the
slot is over, and nothing else changes. -/
def Obligations.TwilightSlots : Prop :=
  ∀ (t : Nat) (s : State) (j c : Nat),
    let s1 := tick t s
    (slotAt s1 = some (j, c) → s1.now = s1.mer.at_ + c →
      Ends (exec (.twilightSlotStart t) s) (fun u =>
        (∀ n k, look u.stks n = some k → k.group = j % 4 ∧ k.inSlot = true) ∧ u = { s1 with stks := u.stks })) ∧
    (slotAt { s1 with now := s1.now - 1056 } = some (j, c) → s1.now = s1.mer.at_ + c + 1056 →
      Ends (exec (.twilightSlotEnd t) s) (fun u =>
        (∀ n k, look u.stks n = some k → k.inSlot = false) ∧ u = { s1 with stks := u.stks }))

/-- R51 to R57: the cc of its deadline, with the segment not done, requests a slip with EXCESS 0, once for a meridian and never beyond
MER_SLIP_MAX in a row; a request that reaches the MER block 400 cc after its last bit, in time and in agreement on period
and segment, is honoured, one for a meridian already past is MER_LATE_SLIP (and an overrun of the segment of before it that
still runs), one that disagrees MER_MISMATCH, and an abort frame raises MER_OVERRUN against the same job. A slip is honoured
once for a meridian: the job then holds it, its count, sender and excess are recorded and SLIP is set; honouring it again
changes nothing. -/
def Obligations.Slips : Prop :=
  ∀ (t : Nat) (s : State) (slot : Nat) (j : Job),
    let s1 := tick t s
    (look s1.jobs slot = some j → j.phase = 1 → j.aborted = none → j.deadline = s1.now →
      exec (.jobDeadline t slot) s = .next (requestSlip slot 0 s1)) ∧
    (∀ excess, look s.jobs slot = some j →
      (j.requested = true → requestSlip slot excess s = s) ∧
      (j.requested = false → cfg s 0x10038 16 8 < j.run + 1 →
        requestSlip slot excess s = modJob slot (fun x => { x with overdue := true }) s)) ∧
    (∀ (bit job sender : Nat) (mer : Int) (segment excess period run : Nat),
      let u := modJob slot (fun x => { x with seen := x.seen ++ [(sender, mer)] }) s1
      let got := exec (.slipRequestReceive t bit job sender mer segment excess ⟨period, run⟩) s
      jobById s1 job = some (slot, j) → live s1 = true → s1.now = bit + 400 → (sender, mer) ∉ j.seen →
      (s1.mer.count < mer → period = cfg s1 0x10000 0 16 → segment = j.segs - 1 →
        got = .next (honour slot mer sender excess u)) ∧
      (mer ≤ s1.mer.count →
        let late := raiseJob 0x024 slot (bump (rkey 0x1010C slot) 16 1 u) (sender % 256) (sender / 256)
        got = .next (if j.phase = 1 ∧ j.segM < mer then raiseJob 0x025 slot late else late)) ∧
      (s1.mer.count < mer → period ≠ cfg s1 0x10000 0 16 ∨ segment ≠ j.segs - 1 →
        got = .next (raiseJob 0x023 slot (bump (rkey 0x1010E slot) 16 1 u)))) ∧
    (∀ (job sender : Nat), jobById s1 job = some (slot, j) → live s1 = true → j.aborted = none → sender ≤ 4095 →
      exec (.jobAbortReceive t job sender) s = .next (raiseJob 0x025 slot s1)) ∧
    (∀ (sender excess : Nat) (mer : Int), look s.jobs slot = some j →
      (mer ∈ j.honoured → honour slot mer sender excess s = s) ∧
      (mer ∉ j.honoured →
        let u := honour slot mer sender excess s
        look u.jobs slot = some { j with honoured := j.honoured ++ [mer] } ∧
        ctrOf u (rkey 0x10104 slot) = min (ctrOf s (rkey 0x10104 slot) + 1) (2 ^ 32 - 1) ∧
        ctrOf u (rkey 0x10118 slot) = sender ∧ ctrOf u (rkey 0x1011C slot) = excess ∧
        bitOf (regA u 0x10044) 1 = true ∧
        honour slot mer sender excess u = u))

/-! ### Ports, finder, time and the management segment -/

/-- R300, R302, R303, R313, R325: a sub-port comes up, goes down with LINK_DOWN and its queued frames counted as discarded, falls
back by autonegotiation to a healthy lane pair that its peer accepts, rejoins the spraying set after its hold-up, and verifies preemption. -/
def Obligations.PortEvents : Prop :=
  ∀ (t code : Nat) (s : State),
    let s1 := tick t s
    let p := portOf s1 code
    let win := 0x700000 + 0x1000 * (code / 4)
    (portsOn s1 = true → hasSub s1 code = true → p.up = false → p.failed = false →
      exec (.linkUp t code) s = .next (irqSet (win + 0x184) 1
        (modPort code (fun x => { x with up := true, upAt := s1.now, freeAt := s1.now, exFree := s1.now, wireAt := s1.now,
                                         onWire := false, finderAt := none, xoff := [], ingress := [] }) s1))) ∧
    (p.up = true →
      exec (.linkDown t code) s = .next (raise { src := 0x100, unit := code } (irqSet (win + 0x184) 1
        (ptpSelect (modSpray code (fun x => { x with up := false, inSpray := false, preempt := false, paused := [], queue := [] })
          (bump (win + 0x58) 32 p.queue.length s1)))))) ∧
    (∀ port lane, portsOn s1 = true → port < nPorts s1 → lane < 4 →
      let down := dropLink (4 * port) s1
      let failed := irqSet (0x700184 + 0x1000 * port) 4 (raise { src := 0x101, unit := 4 * port, sub := lane / 2 } down)
      (portMode s1 (4 * port) = 1 → ∀ healthy0 healthy1 accepted,
        exec (.laneFail t port lane healthy0 healthy1 accepted) s = .next (
          if (healthy0 || healthy1) ∧ accepted ∧ cfg failed (0x700000 + 0x1000 * port) 3 1 = 1 then
            modPort (4 * port) (fun x => { x with degraded := some (if healthy0 then 0 else 1) }) failed
          else modPort (4 * port) (fun x => { x with failed := true }) failed)) ∧
      (portMode s1 (4 * port) = 2 → exec (.laneFail t port lane true true true) s = .next (dropLink (4 * port + lane / 2) s1)) ∧
      (portMode s1 (4 * port) = 3 → exec (.laneFail t port lane true true true) s = .next (dropLink (4 * port + lane) s1))) ∧
    (p.up = true → p.inSpray = false → p.loop = false → p.upAt + 3300000 * cfg s1 (win + 8) 0 16 ≤ s1.now →
      blockHeld s1 .port code = false →
      exec (.sprayRejoin t code) s = .next (modSpray code (fun x => { x with inSpray := true, reload := false }) s1)) ∧
    (∀ ok, p.up = true → cfg s1 win 4 1 = 1 →
      exec (.preemptVerify t code ok) s = .next (modPort code (fun x => { x with preempt := ok }) s1))

/-- R300, R306, R309 to R311, R313 to R316, R321: a frame at a sub-port that is up is counted with its codewords, and enters its
ingress buffer, which may be full. It is checked in order: an uncorrectable codeword ends it, a bad fragment, a runt, a foreign
destination or tag, and a bad FCS each end it at their own counter, a truncated frame being counted too; a good MAC control frame
acts, a good frame of the module's own protocols is left to its own command, one for another module's fabric address goes on or up,
and any other frame goes to the pass-up ring. A pause ends when its quanta have run out. The egress sends the frame it grants, at
the cc at which it grants it, or drops and counts one that is too long. -/
def Obligations.FramesInAndOut : Prop :=
  ∀ (t code : Nat) (s : State),
    let s1 := tick t s
    let p := portOf s1 code
    let win := 0x700000 + 0x1000 * (code / 4)
    (∀ f : RxFrame, p.up = true → portsOn s1 = true →
      let got := exec (.frameReceive t code f) s
      let seen := bump (win + 0x40) 32 f.fecUncorr (bump (win + 0x3C) 32 f.fecCorr (bump (win + 0x30) 32 1 s1))
      let kept := ingressFlow code f seen
      let trunc : Bool := cfg kept (win + 4) 0 14 < f.len
      let s2 := if trunc then bump (win + 0x48) 32 1 kept else kept
      let bad := bump (win + 0x38) 32 1 s2
      let up := if trunc then passUp code f true s2 else if f.fcsBad then bad else passUp code f false s2
      let ip := f.etherType = 0x86DD ∨ f.etherType = 0x0800
      let own := ∃ q, f.udpPort = some q ∧ ownPort s2 q = true
      let other := fun (d : Nat) => f.ipv6 = true ∧ localDst f.ipDst = false ∧ fabricModule s2 f.ipDst = some d
      (ingressFull seen code f = true → got = .next (bump (win + 0x4C) 32 1 seen)) ∧
      (ingressFull seen code f = false →
        (f.fecUncorr ≠ 0 → got = .next kept) ∧
        (f.fecUncorr = 0 → f.fragBad = true → got = .next (bump (win + 0x70) 32 1 kept)) ∧
        (f.fecUncorr = 0 → f.fragBad = false → f.len < 64 → got = .next (bump (win + 0x44) 32 1 kept)) ∧
        (f.fecUncorr = 0 → f.fragBad = false → 64 ≤ f.len → macOk s2 code f.mac = false ∨ vlanOk s2 code f = false →
          got = .next (bump (win + 0x50) 32 1 s2)) ∧
        (f.fecUncorr = 0 → f.fragBad = false → 64 ≤ f.len → macOk s2 code f.mac = true → vlanOk s2 code f = true →
          (f.etherType = 0x88B5 ∨ f.etherType = 0x88F7 →
            got = .next (if trunc then s2 else if f.fcsBad then bad else s2)) ∧
          (f.etherType = 0x8808 →
            got = .next (if trunc then s2 else if f.fcsBad then bad else macControl code f s2)) ∧
          (ip → ownIp s2 code f = true → own →
            got = .next (if trunc then s2 else if f.fcsBad then bad
              else if csumBad f then bump (win + 0x54) 32 1 s2
              else match f.stray with | some h => strayPkt h s2 | none => s2)) ∧
          (ip → ownIp s2 code f = true → ¬ own → got = .next up) ∧
          (∀ d, ip → ownIp s2 code f = false → other d → got = .next (transit code d f trunc s2)) ∧
          (ip → ownIp s2 code f = false → (∀ d, ¬ other d) → got = .next up) ∧
          (¬ ip → f.etherType ≠ 0x88B5 → f.etherType ≠ 0x88F7 → f.etherType ≠ 0x8808 → got = .next up)))) ∧
    (∀ prio,
      ((∃ x ∈ p.paused, x.1 = prio ∧ x.2 ≤ s1.now) →
        exec (.pfcPauseExpire t code prio) s =
          .next (modPort code (fun x => { x with paused := x.paused.filter (fun y => y.1 ≠ prio) }) s1)) ∧
      ((∀ x ∈ p.paused, x.1 = prio → s1.now < x.2) → exec (.pfcPauseExpire t code prio) s = .next s1)) ∧
    (∀ c f, grantAt s1 code = some (c, f) → p.up = true → portsOn s1 = true →
      let cut : Bool := c < p.freeAt
      let w := wireCc s1 code f.len
      let slots := (s1.jobs.filter (fun e => frameWrites s1 e.1 f)).map (·.1)
      let a := modPort code (fun x => { x with queue := dropFrame f x.queue }) (chargeFrame f s1)
      let b := leaveLater code c w f cut (ptpLeft c f (stampTx f c (portWait code c f a)))
      let d := bump (win + 0x34) 32 1 (modPort code (startWire w f c) b)
      let e := if f.group = 0 then bump (win + 0x7C) 32 1 d else d
      let g := emit (.frame code c f) (if cut ∧ ¬ p.cutOff then bump (win + 0x6C) 32 1 e else e)
      (f.len ≤ cfg s1 (win + 4) 0 14 →
        exec (.frameTransmit t code) s = .next (slots.foldl (fun u k => checkDone k u) g)) ∧
      (cfg s1 (win + 4) 0 14 < f.len →
        exec (.frameTransmit t code) s = .next (slots.foldl (fun u k => checkDone k u) (bump (win + 0x58) 32 1 a)))) ∧
    (p.up = false → exec (.frameTransmit t code) s = .next s1 ∧ ∀ f, exec (.frameReceive t code f) s = .next s1)

/-- R324 to R326: an announce that is due is queued on a sub-port that is up, and with the neighbour report on the management
segment (whose MODE and CAPS the spec leaves open: log 44); a
record that arrives is the sub-port's neighbour, a withdraw and a stale record end its validity; the module's own serial is a
loop, which stops spraying. -/
def Obligations.Finder : Prop :=
  ∀ (t code : Nat) (s : State),
    let s1 := tick t s
    let p := portOf s1 code
    let win := 0x700000 + 0x1000 * (code / 4)
    let gone := raise { src := 0x103, unit := code } (irqSet (win + 0x184) 2 (modPort code (fun x => { x with nbrOk := false }) s1))
    let due := fun (last : Option Nat) => ∀ a, last = some a → a + 3300000 * (1000 * cfg s1 0x718004 0 8) ≤ s1.now
    (p.up = true → portsOn s1 = true → due p.finderAt → exec (.finderSend t code) s = .next (queueTx code (finderFrame s1 1 code)
      (modPort code (fun x => { x with seq := (x.seq + 1) % 65536 }) (modPort code (fun x => { x with finderAt := some s1.now }) s1)))) ∧
    (∀ r : FinderRec, p.up = true →
      let kept := modSpray code (fun x => { x with nbr := some (r, s1.now), nbrOk := true }) s1
      let told := if p.nbrOk ∧ p.nbr.any (fun x => x.1 = r) then kept else irqSet (win + 0x184) 2 kept
      (r.type = 2 → p.nbrOk = true → exec (.finderReceive t code r) s = .next gone) ∧
      (r.type = 1 → r.serial ≠ s1.alm.serial →
        exec (.finderReceive t code r) s = .next (modPort code (fun x => { x with loop := false }) told)) ∧
      (r.type = 1 → r.serial = s1.alm.serial → p.loop = false →
        exec (.finderReceive t code r) s = .next (raise { src := 0x104, unit := code } (irqSet (win + 0x184) 8
          (modSpray code (fun x => { x with loop := true, inSpray := false }) told)))) ∧
      (r.type = 1 → r.serial = s1.alm.serial → p.loop = true → exec (.finderReceive t code r) s = .next told)) ∧
    (∀ r at_, p.nbr = some (r, at_) → p.nbrOk = true → at_ + 3300000 * (1000 * r.hold) < s1.now →
      exec (.finderHoldExpiry t code) s = .next gone) ∧
    (live s1 = true → s1.mgt.gasp = none → due s1.mgt.finderAt →
      let mode := Config.choice s1.free % 16
      let caps := Config.choice (s1.free + 1) % 8
      exec (.mgtFinderSend t) s = .next { s1 with free := s1.free + 2, mgt := { s1.mgt with
        q3 := [.finder (finderBytes s1 1 0xFF mode caps s1.mgt.seq),
               .neighbours (reportBytes s1 mode caps ((s1.mgt.seq + 1) % 65536))]
        finderAt := some s1.now, seq := (s1.mgt.seq + 2) % 65536 } })

/-- R36, R327 to R330: announces of the domain decide the slave; the timebase follows it, or SYNC_IN, by offsets measured from
timestamps and the mean path delay: it steps only with no job and an offset
above 1 µs, and slews in every other case, its time unbroken; it is UNLOCKED when messages stay away
for the holdover, and DRIFTs without a master; a time set by the owner is the time of day; the pin pulses at whole
seconds or meridians; messages leave by their port, a sync of two steps with its follow-up. Entering a state of the timebase sets its interrupt, and UNLOCKED raises
MER_UNLOCK against every job of several members. -/
def Obligations.Timebases : Prop :=
  ∀ (t : Nat) (s : State),
    let s1 := tick t s
    (live s1 = true → s1.ptp.lastMsg + 3300000 * cfg s1 0x10034 0 16 ≤ s1.now →
      exec (.merHoldoverExpiry t) s = .next (setLock 2 s1)) ∧
    (∀ m : PtpMsg, live s1 = true → ptpPort s1 m.port = true → cfg s1 0x719000 0 2 = 1 → m.domain = cfg s1 0x719000 6 7 →
      m.ann.sender ≠ s1.alm.macBase →
      let at_ := ptpStamp s1 m
      (m.kind = 0 → exec (.ptpMessageReceive t m) s =
        .next (ptpSelect { s1 with ptp := { s1.ptp with heard := tput s1.ptp.heard m.port (m.ann, s1.now) } })) ∧
      (m.kind = 1 → s1.ptp.slave = m.port → exec (.ptpMessageReceive t m) s =
        .next (servo (at_ - m.sent - s1.ptp.path) { s1 with ptp := { s1.ptp with t1 := m.sent, t2 := at_ } })) ∧
      (2 ≤ m.kind → s1.ptp.slave = m.port → exec (.ptpMessageReceive t m) s =
        .next { s1 with ptp := { s1.ptp with
          path := (if cfg s1 0x719000 3 1 = 1 then at_ - s1.ptp.t3 - m.sent
            else (s1.ptp.t2 - s1.ptp.t1) + (m.sent - s1.ptp.t3)) / 2
          lastMsg := s1.now } })) ∧
    (∀ port kind, portsOn s1 = true → ptpPort s1 port = true →
      (if kind = 2 then s1.ptp.slave = port else kind < 2 ∧ isMaster s1 port = true) →
      (∀ c, look s1.ptp.sentAt (4 * port + kind) = some c → c + ptpEvery s1 kind ≤ s1.now) →
      let u := queueTx port (ptpFrame s1 kind) { s1 with ptp := { s1.ptp with sentAt := tput s1.ptp.sentAt (4 * port + kind) s1.now } }
      exec (.ptpMessageSend t port kind) s =
        .next (if kind = 1 ∧ cfg u 0x719000 2 1 = 0 then queueTx port (ptpFrame u 3) u else u)) ∧
    (∀ port a at_, live s1 = true → look s1.ptp.heard port = some (a, at_) → at_ + 3300000 * 3000 ≤ s1.now →
      let u := ptpSelect { s1 with ptp := { s1.ptp with heard := tdel s1.ptp.heard port } }
      let v := if s1.ptp.slave = port ∧ u.ptp.lock = 0 then setLock 1 u else u
      exec (.ptpAnnounceTimeout t port none) s = .next v ∧
      exec (.ptpAnnounceTimeout t port (some a.sender)) s = .next v) ∧
    (∀ ns (offset : Int), live s1 = true → cfg s1 0x719040 0 2 = 1 →
      let u := servo offset { s1 with ptp := { s1.ptp with slave := 0xFE, inPresent := true, lastEdge := s1.now } }
      exec (.syncInEdge t ns offset) s = .next (if 1000 < offset.natAbs ∧ s1.jobs = [] then stepTime ns u else u)) ∧
    (s1.ptp.inPresent = true → s1.ptp.lastEdge + 3300000 * 1100 ≤ s1.now →
      let u := { s1 with ptp := { s1.ptp with inPresent := false } }
      exec (.syncInAbsent t) s = .next (if s1.ptp.slave = 0xFE ∧ s1.ptp.lock = 0 then setLock 1 u else u)) ∧
    (live s1 = true →
      (cfg s1 0x719040 2 2 = 2 ∧ s1.now = s1.mer.at_) ∨
      (cfg s1 0x719040 2 2 = 1 ∧ (ptpNs s1 % 10 ^ 9 ≤ 2 ∨ 10 ^ 9 - 2 ≤ ptpNs s1 % 10 ^ 9)) →
      exec (.syncOutPulse t) s = .next { s1 with out := .pulse (ptpNs s1) :: s1.out }) ∧
    (∀ ns, barServed s1 = true → s1.jobs = [] → 96 ≤ s1.ptp.slave →
      let u := stepTime (s1.ptp.setSec * 10 ^ 9 + ns) s1
      exec (.ptpTimeSet t ns) s = .next { u with ptp := { u.ptp with todSet := true } }) ∧
    (∀ ns, ptpNs (stepTime ns s) = ns) ∧
    (∀ offset : Int,
      let u := { s with ptp := { s.ptp with offset, lastMsg := s.now } }
      ptpFine (slewTime offset s) = ptpFine s ∧
      servo offset s = setLock (if 2 * offset.natAbs ≤ 25 then 0 else if offset.natAbs ≤ 1000 then 1 else 2)
        (if 1000 < offset.natAbs ∧ s.jobs = [] then stepTime ((ptpNs s : Int) - offset).toNat u else slewTime offset u)) ∧
    (∀ l, let u := irqSet 0x10044 4 { s with ptp := { s.ptp with lock := l } }
      (s.ptp.lock = l → setLock l s = s) ∧
      (s.ptp.lock ≠ l → l = 0 → setLock l s = u) ∧
      (s.ptp.lock ≠ l → l = 1 → setLock l s = raise { src := 0x020 } u) ∧
      (s.ptp.lock ≠ l → l = 2 → setLock l s = (multiJobs u).foldl (fun v k => raiseJob 0x021 k v) u))

/-- R309, R331 to R333: the owner's doorbell sends the slots up to the new tail, a returned slot moves the pass-up tail, and
the management MAC sends the frame in hand and counts it; where the medium is shared by carrier sense it waits while the medium is
busy, backs off after a collision for a time that the spec leaves open (log 44), and tries again; a node of PLCA sends in its
transmit opportunity. -/
def Obligations.HostRingsAndMac : Prop :=
  ∀ (t : Nat) (s : State),
    let s1 := tick t s
    (∀ tail frames, barServed s1 = true → cfg (liveWrite 0x718230 tail s1) 0x718200 1 1 ≠ 0 →
      let u := liveWrite 0x718230 tail s1
      let n := ringSlots u 0x718228
      exec (.txRingDoorbell t tail frames) s = .next (sendHosts n (u.txHead % n)
        (frames.take ((tail % n + n - u.txHead % n) % n)) { u with txHead := tail % n })) ∧
    (∀ tail, barServed s1 = true → exec (.puTailWrite t tail) s = .next (liveWrite 0x718218 tail s1)) ∧
    (let left := fun (q : Nat) (m : Msg) (u : State) => emit (.mgt (mgtDest u) (mgtPort q) m) (bump 0x71A040 32 1 { u with
        mgt := { u.mgt with hand := none, tries := 0, backoff := false, gasp := if q = 0 then some true else u.mgt.gasp } })
     let half := cfg s1 0x71A000 0 2 = 0 ∨ (cfg s1 0x71A000 0 2 = 1 ∧ inPlca s1 = false)
     (∀ q m u, 2 ≤ s1.pwr.phase → s1.mgt.backoff = false → inPlca s1 = false → mgtTake s1 = (some (q, m), u) →
        exec (.mgtTransmit t false false) s = .next (left q m u) ∧
        (half →
          (∀ collision, exec (.mgtTransmit t true collision) s = .next s1) ∧
          (u.mgt.tries < 15 → exec (.mgtTransmit t false true) s =
            .next (let v := bump 0x71A048 32 1 u
              let wait := Config.choice u.free % 2 ^ min (u.mgt.tries + 1) 10 * 168960
              { v with
                free := u.free + 1
                mgt := { u.mgt with tries := u.mgt.tries + 1, backoff := true, backUntil := u.now + wait } })))) ∧
     (∀ busy collision, 2 ≤ s1.pwr.phase → s1.mgt.backoff = false → inPlca s1 = true →
        (∀ c, s1.mgt.opAt = some c → c + cfg s1 0x71A000 10 8 * cfg s1 0x71A000 18 8 * 330 ≤ s1.now) →
        let v := { s1 with mgt := { s1.mgt with opAt := some s1.now } }
        exec (.mgtTransmit t busy collision) s =
          .next (mgtBurst (1 + cfg v 0x71A000 26 4) (if cfg v 0x71A000 2 8 = 0 then emit .plca v else v))) ∧
     (∀ q m u, 2 ≤ s1.pwr.phase → s1.mgt.backoff = true → s1.mgt.backUntil ≤ s1.now → inPlca s1 = false →
        mgtTake { s1 with mgt := { s1.mgt with backoff := false } } = (some (q, m), u) →
        exec (.mgtBackoffExpiry t false false) s = .next (left q m u)))

/-! ### Triggers and Barfeos -/

/-- R46, R137, R138, R211, R360, R362, R363: a trigger whose threshold is met, armed in an earlier cc, leaves its object and its work
request is issued, in the cc of an operation on the object or the first one after it was armed; a request whose packets all have
outcomes, and whose bytes may land, completes: a READ's bytes land at LOCAL, STATUS reads complete, and SIG adds 1 to the named
object. -/
def Obligations.Triggers : Prop :=
  ∀ (t : Nat) (data : Data) (s : State),
    let s1 := tick t s
    (∀ obj idx o g j, look s1.sync obj = some o → o.trigs[idx]? = some g → g.threshold ≤ o.value → g.armedAt < s1.now →
      s1.now = o.stamp ∨ s1.now = g.armedAt + 1 →
      look s1.jobs g.slot = some j →
      let u := bump 0x800254 32 1 { s1 with sync := tput s1.sync obj { o with trigs := o.trigs.eraseIdx idx } }
      exec (.triggerFire t obj idx data) s =
        .next (issueWork g.slot g.handle j (readVa u j.tenant [] (j.block.wrt + 64 * g.handle) 64) data u)) ∧
    (∀ id w j, look s1.works id = some w → look s1.jobs w.slot = some j → msgOpen s1 (8 * id + 1) = false → w.held = none →
      let far := collected s1 (8 * id + 1)
      let x : HeldWrite := { tenant := some j.tenant, slot := w.slot, va := w.local_, ecc := data.ecc,
                             src := some (.remote w.peer 0 0 0), data := (if far = [] then data.bytes else far).take w.len }
      let u := forget (8 * id + 1) { s1 with works := tdel s1.works id }
      let v := wrStatus w.slot w.handle 3 0 (if w.kind = 2 then landHeld x u else u)
      (w.kind = 2 → landedBy s1 (8 * id + 1) ≤ s1.now ∧ heldWaits s1 x = false) →
      (bitOf w.flags 2 = false → exec (.workRequestComplete t id 0 data) s = .next v) ∧
      (∀ o, bitOf w.flags 2 = true → absObj v j w.done = some o →
        exec (.workRequestComplete t id 0 data) s = .next (signalAdd o 1 200 v)))

/-- R335 to R339, R342, R347: CONNECT allocates a context and answers ACCEPT, or REFUSE with its cause; one answered before gets its
ACCEPT again, and one that crosses an own CONNECT opens that context; ACCEPT opens the connecting context and sends what waits;
REFUSE fails it; CLOSE frees a context with nothing outstanding; a packet for no context of its name is answered BAD_CONTEXT. -/
def Obligations.Connections : Prop :=
  ∀ (t : Nat) (s : State),
    let u := bump 0x800204 32 1 (tick t s)
    ready (tick t s) = true →
    (∀ p : Connect, p.hdr.version = 1 → p.hdr.flags = 0 →
      let b := p.body
      let job := if b.job then some b.jobId else none
      let runs := b.job = false ∨ ∃ e ∈ u.jobs, e.2.id = b.jobId ∧ e.2.tenant = b.dTenant ∧ e.2.aborted = none
      let old := findCtx u b.dTenant p.hdr.src b.sTenant job
      (∀ i, answered u p = some i → exec (.connect t p) s = .next (sendAccept i u)) ∧
      (answered u p = none →
        (look u.tenants b.dTenant = none → exec (.connect t p) s = .next (sendRefuse p 1 u)) ∧
        ((look u.tenants b.dTenant).isSome = true →
          (¬ runs → exec (.connect t p) s = .next (sendRefuse p 3 u)) ∧
          (runs →
            (∀ i v, old = none → allocCtx (answerCtx p (offersBig u p.hdr.src)) u = (some i, v) →
              exec (.connect t p) s = .next (sendAccept i v)) ∧
            (∀ v, old = none → allocCtx (answerCtx p (offersBig u p.hdr.src)) u = (none, v) →
              exec (.connect t p) s = .next (sendRefuse p 2 v)) ∧
            (∀ i c, old = some i → look u.ctxs i = some c →
              (c.state = 2 → exec (.connect t p) s = .next (answerNew p (ctxError i 0 u))) ∧
              (c.state ≠ 2 → exec (.connect t p) s = .next (pump i (sendAccept i { u with ctxs := tput u.ctxs i (repack { c with
                state := 2, peerCtx := b.ctx, incarnation := b.incarnation, bigP := c.offer && b.bigP, lastUse := u.now }) })))))))) ∧
    (∀ (h : Bth) (i : Nat) (c : Ctx), h.version = 1 → h.flags = 0 → ctxNamed u h.dcid = some (i, c) → c.host = false → h.src = c.peer →
      let v := heard i h u
      (∀ (b : ConnBody) (c1 : Ctx), c.state = 1 → look v.ctxs i = some c1 →
        exec (.accept t h b) s = .next (pump i { v with ctxs := tput v.ctxs i (repack { c1 with
          state := 2, peerCtx := b.ctx, incarnation := b.incarnation, bigP := c1.offer && b.bigP, lastUse := v.now }) })) ∧
      (∀ cause, c.state = 1 → exec (.refuse t h cause) s = .next (ctxError i 0 v)) ∧
      (∀ c1, c.state = 2 ∨ c.state = 4 → look v.ctxs i = some c1 →
        (c.unacked = [] → exec (.close t h) s = .next { v with ctxs := tdel v.ctxs i }) ∧
        (c.unacked ≠ [] → exec (.close t h) s = .next { v with ctxs := tput v.ctxs i { c1 with state := 4 } }))) ∧
    (∀ h : Bth, h.version = 1 → ctxNamed u h.dcid = none →
      exec (.close t h) s = .next (badContext h u) ∧
      (∀ b, exec (.ack t h b) s = .next (badContext h u)) ∧
      (∀ code retry, exec (.nak t h code retry) s = .next (badContext h u)) ∧
      (∀ b, exec (.accept t h b) s = .next (badContext h u)) ∧
      (∀ cause, exec (.refuse t h cause) s = .next (badContext h u)))

/-- R342, R345, R347, R354, R365: 400 cc after its last bit at the pin, a data packet of version 1 for an open context held on-die,
from the module it is joined with, in the window, new, with consistent fields, and on a job connection for the job's own segment,
goes on to the region tests; its SBASE and CE mark are recorded. -/
def Obligations.PacketsTested : Prop :=
  ∀ (t : Nat) (h : Bth) (s : State) (c : Ctx) (slot : Nat) (j : Job),
    let u := bump 0x800204 32 1 (tick t s)
    let i := h.dcid % 2 ^ 24
    let seen := modCtx i (fun x => { x with rxSbase := h.sbase, lastUse := u.now, ceRx := x.ceRx + if h.ce then 1 else 0 }) u
    let v := if h.ce then bump 0x80024C 32 1 seen else seen
    let good := fun (p : HeldPkt) => fieldsOk c p = true ∧ (p.opcode = 1 → bitOf h.flags 1 = true → bitOf h.flags 0 = true)
    let on := fun (n : Nat) => if c.job then chargeJob slot (30 * bftLen 16 n) v else v
    ready (tick t s) = true → (tick t s).now = h.bit + 400 → h.version = 1 → look u.ctxs i = some c → c.gen = h.dcid / 2 ^ 24 % 256 → c.state = 2 →
    c.host = false → h.src = c.peer → psnSub h.psn c.cum < 1024 → look c.outcomes h.psn = none →
    inHand u h.dcid h.psn = false →
    (c.job = true → ctxJob u c = some (slot, j) ∧ j.aborted = none ∧ (h.seg = j.segs - 1 ∨ h.seg + 1 = j.segs - 1)) →
    (∀ key off len data, good (mkPkt u h 1 key off len data 0 0) →
      exec (.write t h key ⟨off, len⟩ data) s = .next (letIn (mkPkt u h 1 key off len data 0 0) .ok (on data.length))) ∧
    (∀ key off len ecc, good (mkPkt u h 2 key off len [] 0 0) →
      exec (.readReq t h key ⟨off, len⟩ ecc) s = .next (letIn (mkPkt u h 2 key off len [] 0 0) ecc (on 0))) ∧
    (∀ key off aop (op1 op2 : W64) ecc, good (mkPkt u h 4 key off aop [] op1.toNat op2.toNat) →
      (∀ x ∈ c.atomics, x.1 ≠ h.psn) →
      exec (.atomic t h key off aop ⟨op1, op2⟩ ecc) s =
        .next (letIn (mkPkt u h 4 key off aop [] op1.toNat op2.toNat) ecc (on 0))) ∧
    (∀ key obj sop value wrh, good (mkPkt u h 6 key obj sop [] value wrh) →
      exec (.sync t h key obj sop value wrh) s = .next (letIn (mkPkt u h 6 key obj sop [] value wrh) .ok (on 0)))

/-- R347, R350, R351, R359, R361, R364, R365: a packet that a region test refuses has that code as its outcome; a SYNC reaches
its object 20 cc later; on pages in HBM a WRITE is on its way to memory, and a READ_REQ or ATOMIC that nothing holds is served; with
DP 0 an ATOMIC on a lower page, as any access to one that the host backs, is refused. -/
def Obligations.PacketsAdmitted : Prop :=
  ∀ (p : HeldPkt) (ecc : Ecc) (s : State) (i : Nat) (c : Ctx) (r : Region),
    ctxNamed s p.hdr.dcid = some (i, c) → regionOf s p.key = some r →
    let low := lowPages s r.tenant (pktRange s r p)
    let refused := fun (code : Nat) =>
      outcome p.ctx p.hdr.psn (if p.opcode = 2 then max 1 (ceilDiv p.len (payload c)) else 1) code true s
    (∀ code, regionTest s c p = some code → letIn p ecc s = refused code) ∧
    (regionTest s c p = none → p.opcode = 6 → letIn p ecc s = { s with signals := s.signals ++
      [{ at_ := s.now + 20, slot := 4096, obj := p.off, src := 300, act := .remote p }] }) ∧
    (regionTest s c p = none → p.opcode ≠ 6 → r.block.dp = false → (∃ x ∈ low, p.opcode = 4 ∨ x.2.2 = 0) →
      letIn p ecc s = refused 4) ∧
    (regionTest s c p = none → p.opcode ≠ 6 → low = [] →
      let u := regionUse p.key s
      let ps := placesOf u r.tenant [] (pktRange u r p).1 (pktRange u r p).2 (p.opcode ≠ 2)
      (p.opcode = 1 ∨ canServe u r p = false ∨ needsOutside u r p = true →
        let q := { p with due := if p.opcode = 1 then landAt u p ps else 0 }
        letIn p ecc s = touchPages ps { u with landing := tput u.landing (p.hdr.dcid * 2 ^ 24 + p.hdr.psn) q }) ∧
      (p.opcode ≠ 1 → canServe u r p = true → needsOutside u r p = false → letIn p ecc s = serve p [] ecc u))

/-- R338, R350, R351, R353, R359, R361, R363, R365: BFT_WRITE_LAND serves an admitted packet in its cc, or later once it may: a WRITE
that no error meets has its bytes, its trigger and its outcome; BFT_HOLD_RELEASE lets a held packet in again once its pages are
RESIDENT, and BFT_HOLD_EXPIRY discards it with NOT_READY after HOLD_US; with BFT_CONTEXT_FETCH a fetched context takes up what was
held for it. -/
def Obligations.HeldAndLanding : Prop :=
  (∀ (t dcid psn : Nat) (data : List Byte) (ecc : Ecc) (s : State) (p : HeldPkt) (r : Region),
    let s1 := tick t s
    let x := pktRange s1 r p
    let ps := placesOf s1 r.tenant [] x.1 x.2 (p.opcode ≠ 2)
    let u := { s1 with landing := tdel s1.landing (dcid * 2 ^ 24 + psn) }
    let named := ctxNamed s1 p.hdr.dcid
    let n := match named with | some c => if p.opcode = 2 then max 1 (ceilDiv p.len (payload c.2)) else 1 | none => 1
    ready s1 = true → look s1.landing (dcid * 2 ^ 24 + psn) = some p → regionOf s1 p.key = some r →
    (p.due = 0 ∨ s1.now = p.due → badOf ps = none → named ≠ none ∨ fenced p = false → canServe s1 r p = true →
      exec (.bftWriteLand t ⟨dcid, psn⟩ data ecc) s = .next (serve p data ecc u)) ∧
    (p.due = 0 ∨ s1.now = p.due → badOf ps = none → named ≠ none ∨ fenced p = false → canServe s1 r p = false →
      exec (.bftWriteLand t ⟨dcid, psn⟩ data ecc) s =
        .next (touchPages ps { s1 with landing := tput s1.landing (dcid * 2 ^ 24 + psn) { p with due := 0 } })) ∧
    (p.due = 0 ∨ s1.now = p.due → badOf ps = none → named = none → fenced p = true →
      exec (.bftWriteLand t ⟨dcid, psn⟩ data ecc) s = .next (regionEnd p.key u)) ∧
    (p.due = 0 ∨ s1.now = p.due → badOf ps ≠ none →
      exec (.bftWriteLand t ⟨dcid, psn⟩ data ecc) s = .next (regionEnd p.key (outcomeOf p.hdr.dcid p.hdr.psn n 4 true u))) ∧
    (p.due ≠ 0 → s1.now ≠ p.due → exec (.bftWriteLand t ⟨dcid, psn⟩ data ecc) s = .next s1)) ∧
  (∀ (p : HeldPkt) (data : List Byte) (s : State) (r : Region),
    let x := pktRange s r p
    let ps := placesOf s r.tenant [] x.1 x.2 true
    let u := writeVa (farWrite 4096 r.tenant 5) r.tenant [] (r.block.base + p.off) p.data
      (goNow (some r.tenant) [(.remote 0 0 0 0, x.2)] ps s p.hdr.die)
    let v := if bitOf p.hdr.flags 0 ∧ bitOf p.hdr.flags 1 then
      (match r.block.trigObj with | some o => signalAdd o 1 300 u | none => u) else u
    p.opcode = 1 → regionOf s p.key = some r →
      serve p data .ok s = outcomeOf p.hdr.dcid p.hdr.psn 1 0 (bitOf p.hdr.flags 2) (regionEnd p.key v)) ∧
  (∀ (t n : Nat) (ecc : Ecc) (s : State) (p : HeldPkt),
    let s1 := tick t s
    let u := { s1 with holds := tdel s1.holds n }
    ready s1 = true → look s1.holds n = some p → p.fetch = false →
    (∀ x ∈ p.pages, ∀ o, look s1.objs x.1 = some o → (look o.loc x.2).isSome = true) →
    exec (.bftHoldRelease t ⟨n, ecc⟩) s = .next (letIn { p with pages := [] } ecc u)) ∧
  (∀ (t n : Nat) (s : State) (p : HeldPkt),
    let s1 := tick t s
    let u := { s1 with holds := tdel s1.holds n }
    ready s1 = true → look s1.holds n = some p → p.fetch = false → p.at_ + 3300 * cfg s1 0x800008 0 10 ≤ s1.now →
    exec (.bftHoldExpiry t n) s = .next (
      if (ctxNamed s1 p.hdr.dcid).isSome then sendNak p.ctx p.hdr.psn 1 (cfg s1 (0x800020 + 4 * (p.tier % 4)) 0 16) u else u)) ∧
  (∀ (t ctx : Nat) (s : State) (c : Ctx),
    let s1 := tick t s
    let kept := s1.holds.filter (fun h => !(h.2.ctx = ctx && h.2.fetch))
    let mine := s1.holds.filter (fun h => h.2.ctx = ctx && h.2.fetch)
    let room := evictCtx s1
    ready s1 = true → look s1.ctxs ctx = some c → c.host = true →
    (ctxCached room < 16384 → exec (.bftContextFetch t ctx true) s = .next (pump ctx (mine.foldl
      (fun v h => if h.2.hdr.src ≠ c.peer then bump 0x800218 32 1 v
        else if (h.2.opcode = 0x10 ∨ h.2.opcode = 0x11 ∨ h.2.opcode = 0x23) ∧ h.2.hdr.flags ≠ 0 then bump 0x80021C 32 1 v
        else resume h.2 (heard ctx h.2.hdr v))
      (modCtx ctx (fun x => { x with host := false, lastUse := s1.now }) { room with holds := kept })))) ∧
    exec (.bftContextFetch t ctx false) s =
      .next (ctxError ctx 0 (modCtx ctx (fun x => { x with host := false }) { s1 with holds := kept })))

/-- R342, R346, R353, R355 to R358: an ACK that covers every outstanding packet clears them and takes a round-trip sample; a
response that agrees with its request is that PSN's outcome and keeps its bytes, unless nobody waits for them any more; NOT_READY
delays the resend of all that the PSN led, and BAD_CONTEXT is an error. -/
def Obligations.SenderAnswers : Prop :=
  ∀ (t : Nat) (h : Bth) (s : State) (i : Nat) (c : Ctx),
    let u := bump 0x800204 32 1 (tick t s)
    let v := heard i h u
    let c1 := { c with rxSbase := h.sbase, lastUse := u.now, ceRx := c.ceRx + if h.ce then 1 else 0 }
    let left := c.unacked.filter (fun q => q.psn ≠ h.psn)
    ready (tick t s) = true → h.version = 1 → h.flags = 0 → ctxNamed u h.dcid = some (i, c) → c.state = 2 ∨ c.state = 4 →
    c.host = false → h.src = c.peer →
    (∀ b : AckBody, b.errors = [] → b.ce = 0 →
      (∀ p ∈ c.unacked, p.sent = true ∧ 2 ^ 23 ≤ psnSub p.psn h.psn ∧ p.opcode ≠ 2 ∧ p.opcode ≠ 4) →
      let c' := match (c.unacked.filter (fun p => !p.retx)).getLast? with
        | some p => rttSample v ((u.now - p.sentAt) * 10 / 33) c1
        | none => c1
      exec (.ack t h b) s =
        .next (settleMsgs i { v with ctxs := tput v.ctxs i { c' with unacked := [], lastUse := u.now } })) ∧
    (∀ retry, exec (.nak t h 6 retry) s = .next (ctxError i 6 v)) ∧
    (∀ retry p, c.unacked.find? (fun q => q.sent && q.lead = h.psn) = some p → p.rnr = none →
      exec (.nak t h 1 retry) s = .next (modCtx i (fun x => { x with unacked := x.unacked.map (fun q =>
        if q.sent && q.lead = h.psn then { q with rnr := some (u.now, u.now + 3300 * retry) } else q) }) (bump 0x80023C 32 1 v))) ∧
    (u.now = h.bit + 400 →
      (∀ off data p, c.unacked.find? (fun p => p.psn = h.psn && p.opcode = 2) = some p →
        let at_ := p.field 3 * payload c
        off = at_ ∨ off = psnSub p.psn p.lead * payload c → data.length = min (payload c) (p.field 2 - at_) →
        exec (.readResp t h off data) s = .next (settleMsgs i { v with ctxs := tput v.ctxs i { c1 with
          unacked := left
          resps := if p.msg = 5 then c.resps
            else c.resps ++ [(p.msg, p.field 1 + at_, data, h.bit + ingressCc (bftLen 8 data.length))] } })) ∧
      (∀ (old : W64) p, c.unacked.find? (fun p => p.psn = h.psn && p.opcode = 4) = some p →
        exec (.atomicResp t h old) s = .next (settleMsgs i { v with ctxs := tput v.ctxs i { c1 with
          unacked := left
          resps := c.resps ++ [(p.msg, 0, leBytes 8 old.toNat, h.bit + ingressCc 0)] } })))

/-- R335, R336, R353, R355, R356, R358: the timers of a context: a timeout sends a packet, or a CONNECT, again with the timeout
doubled and the window at 16, and after RETRIES in a row is an error; a NOT_READY packet is sent again when its time has come; the
acknowledgement timer, the idle close and the window's rise. -/
def Obligations.ContextTimers : Prop :=
  ∀ (t ctx psn : Nat) (s : State) (c : Ctx),
    let s1 := tick t s
    let u := bump 0x80020C 32 1 s1
    let retries := cfg s1 0x80000C 16 4
    let slow := min (2 * c.rtoUs) (1000 * cfg s1 0x800010 0 14)
    ready s1 = true → look s1.ctxs ctx = some c →
    (c.state = 1 → c.lastUse + 3300 * c.rtoUs ≤ s1.now →
      (retries ≤ c.tries → exec (.bftRtoExpiry t ctx psn) s = .next (ctxError ctx 0 u)) ∧
      (c.tries < retries →
        let c' := { c with rtoUs := slow, tries := c.tries + 1, lastUse := s1.now }
        exec (.bftRtoExpiry t ctx psn) s =
          .next (originateBft c.peer (handshake 0x20 ctx c' s1) { u with ctxs := tput s1.ctxs ctx c' }))) ∧
    (∀ p, c.state = 2 ∨ c.state = 4 → c.unacked.find? (·.psn = psn) = some p → p.sent = true →
      (∀ f a, p.rnr = some (f, a) → a = 2 ^ 64) → p.sentAt + 3300 * c.rtoUs ≤ s1.now →
      (retries ≤ p.expiries + 1 → exec (.bftRtoExpiry t ctx psn) s = .next (ctxError ctx 0 u)) ∧
      (p.expiries + 1 < retries →
        let run := (runOf c p).map (·.psn)
        exec (.bftRtoExpiry t ctx psn) s = .next (sendPkt ctx psn { u with ctxs := tput u.ctxs ctx { c with
          unacked := c.unacked.map (fun q => if q.psn ∈ run then { q with expiries := q.expiries + 1 } else q)
          rtoUs := slow, cwnd := 16 } }))) ∧
    (∀ p f at_, c.unacked.find? (·.psn = psn) = some p → p.rnr = some (f, at_) → at_ ≤ s1.now → at_ ≠ 2 ^ 64 →
      (s1.now ≤ f + 3300000 * cfg s1 0x800014 0 14 → exec (.bftRetryAfterExpiry t ctx psn) s = .next (sendPkt ctx p.lead s1)) ∧
      (f + 3300000 * cfg s1 0x800014 0 14 < s1.now → exec (.bftRetryAfterExpiry t ctx psn) s = .next (ctxError ctx 1 s1))) ∧
    (0 < c.unreported → c.ackAt + 3300 * 2 ≤ s1.now → exec (.bftAckTimer t ctx) s = .next (sendAck ctx s1)) ∧
    (c.state = 2 → c.job = false → c.unacked = [] → c.lastUse + 3300000 * (1000 * c.idle) ≤ s1.now →
      exec (.bftIdleClose t ctx) s = .next (closeCtx ctx s1)) ∧
    (c.state = 2 → c.cwndAt + c.srtt * 33 / 10 ≤ s1.now →
      exec (.bftCwndIncrease t ctx) s = .next (pump ctx (modCtx ctx (fun x => { x with
        cwnd := min (x.cwnd + 1) (cfg s1 0x800018 0 11), cwndAt := s1.now }) s1)))

/-! ### Stack engines and updates -/

/-- R194 to R196, R198, R200 to R205, R214, R215: at its cc an armed stream begins, where its master is whole and an engine is
free; a pending entry of the segment whose planned burst periods are over and whose pages are there does its work and is done
with: sums into an ACCUMULATE object, a copy, a ZRL8 form, a packed form, an unpacked tensor, zeros with FREE records; an error of
its data lets nothing through. -/
def Obligations.StackEntries : Prop :=
  ∀ (t slot entry : Nat) (s : State) (j : Job),
    let s1 := tick t s
    (∀ (e : StreamEntry) (at_ : Nat), look s1.jobs slot = some j → (imageOf s1 j).bind (fun p => p.streams[entry]?) = some e →
      look j.busy (65536 + entry) = some at_ → at_ + e.armCc ≤ t → e.base = none → live s1 = true →
      rollsOn s1 slot j.id e.stack = false → stopped s1 .stack e.stack = false →
      (∀ r ∈ (stackOf s1 e.stack).streams, ¬ (r.slot = slot ∧ r.entry = entry)) →
      (objTorn s1 e.object = false → (stackOf s1 e.stack).streams.length < 8 →
        let bound := boundDests s1 slot entry
        let u := bound.foldl (fun v b => passRing b.2.1 b.2.2 v) (e.dests.foldl (fun v c => passRing c e.firstSlot v) s1)
        let r : StreamRun := { slot, entry, at_, row := 0, due := at_ + e.d0, buf := [], next := 0, bound }
        exec (.seStream t slot entry) s = .next (modStack e.stack (fun k => { k with streams := k.streams ++ [r] }) u)) ∧
      (objTorn s1 e.object = true → exec (.seStream t slot entry) s = .next (raiseJob 0x082 slot s1 e.stack))) ∧
    (∀ (e : SeEntry) (at_ : Nat),
      let phase := fun (out : Nat) =>
        ((entryPhases s1 ((tagWord s1 j e.tag).getD 0) out e).head?).getD ({ ranges := [], lanes := 0 } : Phase)
      let span := fun (out : Nat) => phaseEnd (cfg s1 0x10000 0 16) e.startBp (phase out).ranges (phase out).lanes
      let ended := fun (out : Nat) (ps : List (Place × Nat)) =>
        at_ + 33 * (span out).1 ≤ s1.now ∧ badOf ps = none ∧ tiersOff ps = []
      let worked := fun (out : Nat) => engineWork slot e.stack (phase out) (span out).2 s1
      let done := fun (u : State) => (Host.Outcome.next (workDone slot entry u) : Res)
      let put := fun (bs : List Byte) (u : State) => putForm j e bs u
      (seEntry s1 slot entry 2 = some (j, e, at_) →
        let src := placesOf s1 j.tenant [] e.srcVa (2 * e.count) false
        let dst := placesOf s1 j.tenant [] (e.va / 2 * 2) (2 * e.count) true
        let u := worked 0
        ended 0 (src ++ dst) →
        (∀ o, accAt u j.tenant e.va = some o → exec (.seAccum t slot ⟨entry, .ok⟩) s =
          done (accOver o j.tenant 0 noFar dst ((halves (readPlaces u src [])).map lin16) u)) ∧
        (∀ err, (engErr slot e.stack err s1).1 = false →
          exec (.seAccum t slot ⟨entry, err⟩) s = done (engErr slot e.stack err s1).2)) ∧
      (seEntry s1 slot entry 4 = some (j, e, at_) →
        let src := placesOf s1 j.tenant [] e.srcVa (elemBytes e.srcFmt e.count) false
        let out := ((packForm j e (readPlaces s1 src []) s1).1.map (fun x => x.1.length)).getD e.alloc
        let u := worked out
        let bs := readPlaces u src []
        ended out (src ++ placesOf s1 j.tenant [] e.va out true) →
        (e.form = 3 → exec (.sePack t slot ⟨entry, .ok⟩) s =
          done (put bs (censusAdd j.tenant e.tag (packSeen fmtL16 (halves bs)) u))) ∧
        (e.form = 2 → (zrlObject bs).length ≤ e.alloc → exec (.sePack t slot ⟨entry, .ok⟩) s =
          done (put (zrlObject bs) (censusAdd j.tenant e.tag (packSeen fmtL8 (bs.map (fun b => b.toNat))) u))) ∧
        (e.form = 2 → e.alloc < (zrlObject bs).length → exec (.sePack t slot ⟨entry, .ok⟩) s = done (raiseJob 0x183 slot u e.stack)) ∧
        (e.form < 2 →
          let w := (tagWord u j e.tag).getD 0
          let tgt := if e.form = 1 then 0 else 1
          let off := offsetAt u j.tenant e.va
          let d := engineDraws (tagSr w) j e.stack e.gen (if e.form = 1 then 2 * off else off) (packSrc e.srcFmt bs).length u
          let c := scaleBlocks w (tagScale j e.tag w) tgt (packSrc e.srcFmt bs) d.1
          exec (.sePack t slot ⟨entry, .ok⟩) s =
            done (put (codeBytes tgt c.1 ++ c.2.1.map (BitVec.ofInt 8)) (censusAdd j.tenant e.tag c.2.2 d.2)))) ∧
      (seEntry s1 slot entry 5 = some (j, e, at_) →
        let src := placesOf s1 j.tenant [] e.srcVa e.alloc false
        ended 0 (src ++ placesOf s1 j.tenant [] e.va e.count true) →
        exec (.seUnpack t slot ⟨entry, .ok⟩) s = done (put (unzrl e.count (readPlaces (worked 0) src [])) (worked 0))) ∧
      (seEntry s1 slot entry 6 = some (j, e, at_) →
        let dst := placesOf s1 j.tenant [] e.va e.count true
        ended 0 dst →
        exec (.seZero t slot entry) s = done (dst.foldl (fun u p => match p.1 with
          | .hbm k first => { hbmWrite k first (List.replicate p.2 0) u with recs := tdel u.recs (k / 65536) }
          | _ => u) (worked 0))))

/-- R206, R212, R227, R233, R234: once its verdict is known and its pages are there, after a dirty verdict a pre-pass is done
with and a strip pass becomes the zeroing of the gradient alone; else a pre-pass begins unless its header is complete for this
step, and the strips begin; a part with a LOST strip raises 0x082 in their place, and a rule that needs a pre-pass which is not
COMPLETE for the step raises UPD_PREP. -/
def Obligations.UpdatesBegin : Prop :=
  ∀ (t slot entry : Nat) (s : State) (j : Job) (e : SeEntry) (at_ : Nat) (d : Descriptor),
    let s1 := tick t s
    let got := exec (.seUpdate t slot ⟨entry, .ok⟩) s
    let h := prepHeader s1 d e
    let needs : Bool := hasSketch d.rule || hasX0 d.rule
    let dirty := verdictDirty s1 j
    seEntry s1 slot entry 3 = some (j, e, at_) → descOf s1 e.object = some d →
    (∀ op, e.waitOp = some op → ∃ c ∈ j.cor, c.op = op ∧ c.phase = 2) →
    (∀ u ∈ s1.upds, ¬ (u.2.slot = slot ∧ u.2.entry = entry ∧ u.2.status = 1)) →
    (partWaits s1 d e ≠ [] → got = .next ((partWaits s1 d e).foldl (fun u x => startMove x.1 x.2 u) s1)) ∧
    (partWaits s1 d e = [] → partLost s1 e = true →
      got = .next (raiseJob 0x082 slot (workDone slot entry s1) e.stack)) ∧
    (partWaits s1 d e = [] → partLost s1 e = false →
      (dirty = true → e.prep = true → got = .next (workDone slot entry s1)) ∧
      (dirty = true → e.prep = false → got = .next (startZero slot entry j d e at_ s1)) ∧
      (dirty = false → e.prep = true → h.state = 1 → h.step = j.step → h.job = j.id → h.object = e.object →
        got = .next (workDone slot entry (bump (rkey 0x22028 slot) 32 1 s1))) ∧
      (dirty = false → e.prep = true → ¬ (h.state = 1 ∧ h.step = j.step ∧ h.job = j.id ∧ h.object = e.object) →
        got = .next (startPrep slot entry j d e at_ s1)) ∧
      (dirty = false → e.prep = false → needs = true → ¬ (h.state = 1 ∧ h.step = j.step) →
        got = .next (raiseJob 0x185 slot (workDone slot entry (bump (rkey 0x2202E slot) 16 1 s1)) e.stack)) ∧
      (dirty = false → e.prep = false → needs = false ∨ (h.state = 1 ∧ h.step = j.step) →
        got = .next (startPass slot entry j d e at_ s1)))

/-- R180, R206 to R209, R229: the phases of a strip that end without an error, not before their burst periods are ended: READ
fills the strip buffer and leads to COMPUTE, COMPUTE to STAGE with the new values in the buffer, STAGE rewrites its record, the
copy phases write the moments and the masters and clear the gradient, and FINISH makes the strip DONE and counts it; a nonfinite
gradient is GRAD_NONFINITE and a nonfinite result NUM_STATE_NONFINITE against the job. -/
def Obligations.StripPhases : Prop :=
  ∀ (t run strip : Nat) (s : State) (u : UpdRun) (p : StripRun) (d : Descriptor) (c : Nat),
    let s1 := tick t s
    let got := exec (.stripPhaseComplete t run strip .ok) s
    let e := u.part
    let n := stripVals d e p.idx
    let w := phaseWork u d p s1
    let ended := fun (q : StripRun) (v : State) => (Host.Outcome.next (pumpStack u.stack (phaseOver run u q v)) : Res)
    s1.flt.c4 = none → look s1.upds run = some u → u.kick = 0 → u.strips.find? (·.idx = strip) = some p → p.due = some c →
    descOf s1 u.master = some d →
    (s1.now < c → got = .next s1) ∧
    (c ≤ s1.now → u.mode = 0 →
      (∀ j, look s1.jobs u.slot = some j →
        let q := readStrip s1 d e p
        let tag := ((look s1.objs d.grad).map (·.tag)).getD 0
        (p.phase = 0 → q.g.any wild16 = false → got = ended q w) ∧
        (p.phase = 0 → q.g.any wild16 = true → got = .next (raiseJob 0x182 u.slot s1 (tag % 256) (tag / 256))) ∧
        (∀ x v, p.phase = 1 → computeStrip j d u p s1 = (some x, v) → got = ended x (phaseWork u d p v)) ∧
        (∀ v, p.phase = 1 → computeStrip j d u p s1 = (none, v) → got = .next (raiseJob 0x184 u.slot
          (bump (rkey 0x2202C u.slot) 16 1 { v with upds := tput v.upds run (dropStrip u p) }) u.stack))) ∧
      (p.phase = 2 → u.rerun = false → got = ended p (putRec u d p 1 w)) ∧
      (p.phase = 3 → hasM1 d.rule = false → hasM2 d.rule = false → got = ended p w) ∧
      (p.phase = 3 → hasM1 d.rule = true → hasM2 d.rule = false → got = ended p (putMoments d.mom1 e.stack p.idx n p.m1 w)) ∧
      (p.phase = 3 → hasM1 d.rule = true → hasM2 d.rule = true →
        got = ended p (putMoments d.mom2 e.stack p.idx n p.m2 (putMoments d.mom1 e.stack p.idx n p.m1 w))) ∧
      (p.phase = 4 →
        got = ended p (objWrite e.object (65536 * (e.firstStrip + p.idx)) ((p.w.map (leBytes 2)).flatten) w)) ∧
      (p.phase = 5 →
        got = ended p (objWrite d.grad (partStart w d.grad e.stack + 65536 * p.idx) (List.replicate (2 * n) 0) w)) ∧
      (p.phase = 6 →
        let a := seJobCtr u.stack 0x110 u.slot (putRec u d p 5 w)
        let b := if rollingUpd u then seJobCtr u.stack 0x118 u.slot a else a
        got = .next (settleUpd run (pumpStack u.stack
          { b with upds := tput b.upds run { dropStrip u p with done := u.done + 1 } }))))

/-! ### Tiers and the plate vault -/

/-- R46, R196, R202, R203, R214 to R216, R252: sums arrive in an ACCUMULATE object that the writer may write, an uncorrectable
error stops them with HBM_UE; in open slots the oldest released page of a stack is zero, its records FREE and its frames offered,
and the scrubber takes its next burst. -/
def Obligations.StackMemory : Prop :=
  ∀ (t : Nat) (s : State),
    let s1 := tick t s
    (∀ tenant va data h f, hitAt s1 tenant va = some h → h.map.acc = true → h.map.w = true → look h.obj.loc h.page = some f →
      let w := writeRange s1 tenant va data.length
      let ps := placesOf s1 tenant [] w.1 w.2 true
      let went := goNow (some tenant) [] ps s1
      stripWaitVa s1 tenant va data.length true = false → openNow s1 (some tenant) [] ps = true →
      exec (.accumulateWrite t (.outside tenant) va data .ok) s =
        .next (writeVa (farWrite 4096 tenant 5) tenant [] va data went) ∧
      exec (.accumulateWrite t (.outside tenant) va data .ue) s =
        .next (hbmUe (f + h.off / 65536) none [ownerOf h.obj] went)) ∧
    (∀ slot j va data h f, look s1.jobs slot = some j → hitAt s1 j.tenant va = some h → h.map.acc = true → h.map.w = true →
      look h.obj.loc h.page = some f →
      exec (.accumulateWrite t (.planned slot) va data .ok) s =
        .next (writeVa (farWrite 4096 j.tenant 5) j.tenant [] va data s1 0) ∧
      exec (.accumulateWrite t (.correlator slot) va data .ok) s =
        .next (writeVa (farWrite 4096 j.tenant 5) j.tenant [] va data s1 1)) ∧
    (∀ (k : Stack) first n rest, (stackOf s1 k.val).fill = (first, n) :: rest → live s1 = true →
      openSlot s1 none (2 + k.val) 0 s1.now = true →
      let w := (takeOpen none (2 + k.val) 0 (1024 * n) s1.now s1).2
      let u := { w with hbm := tclear w.hbm (first * 65536) (n * 65536), recs := tclear w.recs first n }
      let v := bump (0x400034 + 0x10000 * k.val) 32 1 (modStack k.val (fun x => { x with fill := rest }) u)
      let mine := (stackOf v k.val).retired.filter (fun r => decide (first % 2 ^ 20 ≤ r.1) && decide (r.1 < first % 2 ^ 20 + n))
      exec (.pageFillComplete t k) s =
        .next (pumpMoves (settleFills k.val (mine.foldl (fun w r => repairFrame k.val r.1 w) v)))) ∧
    (∀ (k : Stack), live s1 = true → hasStack s1 k.val = true → (stackOf s1 k.val).ready = true →
      cfg s1 (0x400010 + 0x10000 * k.val) 0 1 = 1 →
      let frame := k.val * 2 ^ 20 + (stackOf s1 k.val).scrub / 1024
      let burst := [((.hbm (k.val * 2 ^ 36 + (stackOf s1 k.val).scrub * 64) 0 : Place), 64)]
      let read := goNow none burst [] s1
      openNow s1 none burst [] = true →
      (underUpdate s1 frame = false →
        exec (.patrolScrubRead t k .ok .ok) s = .next (scrubStep k.val false read) ∧
        exec (.patrolScrubRead t k .ce .ok) s = .next (scrubStep k.val false (hbmCe k.val read)) ∧
        (∀ x, frameOwner read frame = some x →
          exec (.patrolScrubRead t k .ue .ok) s = .next (scrubStep k.val false (hbmUe frame none [ownerOf x.2.1] read))) ∧
        (frameOwner read frame = none → exec (.patrolScrubRead t k .ue .ok) s = .next (scrubStep k.val false
          (repairFrame k.val (frame % 2 ^ 20) (hbmUe frame none [] read))))) ∧
      (underUpdate s1 frame = true → exec (.patrolScrubRead t k .ok .ok) s = .next (scrubStep k.val true
        (modStack k.val (fun x => { x with skipped := x.skipped ++ [x.scrub / 1024] }) s1))))

/-- R252 to R256: with its last byte in place a promoted page is RESIDENT in its frame, with the bytes of its home tier;
the copy of a demoted page is in its home tier and marked so for the next meridian. -/
def Obligations.PagesMove : Prop :=
  ∀ (t obj page : Nat) (s : State) (o : Obj) (f : Nat) (r : Frame),
    let s1 := tick t s
    let n := pageBytes o.psize
    look s1.objs obj = some o → look s1.frames f = some r →
    (∀ data, promoting s1 obj page = some f → r.state = 3 → r.touched ≤ s1.now → msgOpen s1 (8 * f + 4) = false → page ∉ o.lost →
      let far := collected s1 (8 * f + 4)
      let bs := if o.home = 2 then tread s1.flash ((o.homeLoc + page) * 65536) n 0 else if far = [] then data else far
      exec (.promotionComplete t obj page ⟨false, data⟩) s = .next (arrive obj page f o.home (bump (rkey 0x500114 o.home) 32 1
        (forget (8 * f + 4) (hbmPut (f * 65536) ((bs ++ List.replicate (n - bs.length) 0).take n) s1))))) ∧
    (look o.loc page = some f → r.state = 4 → r.copied = false → flushing s1 f = false →
      (o.home = 2 → s1.vault.readOnly = false) → homeWaits o page f s1 = false →
      exec (.demotionCopyComplete t obj ⟨page, .ok⟩) s =
        .next (modFrame f (fun x => { x with copied := true }) (copyHome o page f s1)) ∧
      exec (.demotionCopyComplete t obj ⟨page, .ue⟩) s =
        .next (modFrame f (fun x => { x with state := 2 }) (hbmUe f none (pageOwner s1 f) s1)))

/-- R259 to R265: at its cc an entry arms: a demotion casts its votes and is complete, a promotion joins the queue; a
privileged entry past its deadline falls back, its pages cancelled; a page that fails ends its entry, with
TIER_FETCH_FAIL unless it is privileged. -/
def Obligations.EphemerisEntries : Prop :=
  ∀ (t slot entry : Nat) (s : State) (j : Job) (r : EphRun) (e : EphEntry),
    let s1 := tick t s
    let off := (look s1.objs e.object).any (fun o => r.left.any (fun p => tierOf o p ≠ e.src))
    let armed := modEph slot entry (fun x => { x with armed := true, armAt := s1.now, armM := s1.mer.count, mismatch := off }) s1
    let votes := r.left.foldl (fun u p => castVote e.object j.tenant p u) armed
    let cancelled := cancelPages slot entry e.object r s1
    look s1.jobs slot = some j → j.eph.find? (·.entry = entry) = some r → ephEntry s1 j entry = some e →
    (r.armed = false → j.phase = 1 → j.aborted = none → j.segAt + e.armCc ≤ s1.now →
      (e.dst = 0 → exec (.ephEntryArm t slot entry) s = .next (pumpMoves armed)) ∧
      (e.dst ≠ 0 →
        let u := modEph slot entry (fun x => { x with done := r.left.length }) votes
        exec (.ephEntryArm t slot entry) s = .next (endEph slot entry (if pastDeadline u j e then 2 else 1) false e.src u))) ∧
    (e.priv = true → r.armed = true → r.ended = false → pastDeadline s1 j e = true →
      exec (.ephDeadlineFallback t slot entry) s =
        .next (pumpMoves (endEph slot entry 3 false (leftTier s1 e.object) cancelled))) ∧
    (∀ page o, r.armed = true → r.ended = false → page ∈ r.left → look s1.objs e.object = some o →
      let lost := if o.home = 2 then vaultUe (o.homeLoc + page) (ownerOf o) s1 else s1
      let u := cancelPages slot entry e.object r lost
      let tier := leftTier s1 e.object
      (e.priv = true → exec (.ephPageFail t slot entry page) s = .next (pumpMoves (endEph slot entry 3 true tier u))) ∧
      (e.priv = false → exec (.ephPageFail t slot entry page) s =
        .next (pumpMoves (raiseJob 0x0C4 slot (endEph slot entry 4 true tier u) tier))))

/-- R266 to R270: the flush of the shelf's oldest dirty page begins, and as it ends the page is in flash, clean unless it was
written meanwhile; an erased superblock is counted, and readiness comes with one in a hundred erased; the valid pages of the least
worn superblock move where the spread passes the limit, and one that fails its erase or program is retired from the spare pool;
the factory's erase counts follow. -/
def Obligations.VaultWork : Prop :=
  ∀ (t : Nat) (s : State),
    let s1 := tick t s
    (∀ h page f o r, s1.vault.flushing = some (h, page, f) → look s1.objs h = some o → look s1.frames f = some r →
      r.state = 4 → r.obj = h → r.page = page →
      (s1.vault.readOnly = false → homeWaits o page f s1 = false →
        exec (.vaultFlush ⟨t, .ok⟩) s = .next (endFlush f true (copyHome o page f s1)) ∧
        exec (.vaultFlush ⟨t, .ue⟩) s = .next (endFlush f false (hbmUe f none (pageOwner s1 f) s1))) ∧
      (s1.vault.readOnly = true → exec (.vaultFlush ⟨t, .ok⟩) s = .next (vaultRefuses h (endFlush f false s1)))) ∧
    (∀ h page f o, s1.vault.flushing = none → oldestDirty s1 = some (h, page, f) → look s1.objs h = some o →
      (s1.vault.readOnly = false → s1.vault.ready = true → openBlock s1 ≠ none →
        exec (.vaultFlush ⟨t, .ok⟩) s = .next (modFrame f (fun r => { r with state := 4, written := false, copied := false })
          { s1 with vault := { s1.vault with flushing := some (h, page, f) } })) ∧
      (s1.vault.readOnly = true →
        exec (.vaultFlush ⟨t, .ok⟩) s = .next (raise { src := 0x0CC, tenants := o.maps.map (·.tenant) } s1))) ∧
    (∀ n, let b := blockOf s1 n
      hasVault s1 = true → live s1 = true → n < superblocks s1 → b.erased = false → b.retired = false →
      (∀ m ∈ s1.vault.map, m.2 / 1024 ≠ n) →
      exec (.vaultErase t ⟨n, true⟩) s = .next (retireBlock n s1) ∧
      exec (.vaultErase t ⟨n, false⟩) s = .next { s1 with
        vault := { s1.vault with
          blocks := tput s1.vault.blocks n { b with erases := b.erases + 1, erased := true, used := 0 }
          erased := s1.vault.erased + 1
          ready := s1.vault.ready || decide (superblocks s1 ≤ 100 * (s1.vault.erased + 1)) }
        alm := { s1.alm with erases := tput s1.alm.erases n (b.erases + 1) } }) ∧
    (∀ a b, hasVault s1 = true → live s1 = true → s1.vault.readOnly = false → (blockOf s1 a).retired = false →
      (blockOf s1 b).retired = false → (blockOf s1 b).erased = true → a ≠ b → a < superblocks s1 → b < superblocks s1 →
      (exec (.wearLevelMove t a b true) s = .next (vaultSpare { s1 with
        vault := { s1.vault with
          blocks := tput s1.vault.blocks b { blockOf s1 b with retired := true }, spare := s1.vault.spare - 1 }
        alm := { s1.alm with dead := s1.alm.dead ++ [b] } })) ∧
      ((blockOf s1 a).erases + cfg s1 0x500300 0 10 < (wearSpan s1).2 → (blockOf s1 a).erases ≤ (wearSpan s1).1 →
        leastWorn s1 a b = true →
        let mine := s1.vault.map.filter (fun m => m.2 / 1024 = a)
        (blockOf s1 b).used + mine.length ≤ 1024 →
        let moved := mine.foldl (fun (x : Tab Nat × Nat) m => (tput x.1 m.1 (b * 1024 + x.2), x.2 + 1))
          (s1.vault.map, (blockOf s1 b).used)
        exec (.wearLevelMove t a b false) s = .next (bump 0x500310 64 mine.length { s1 with vault := { s1.vault with
          map := moved.1
          blocks := tput (tput s1.vault.blocks b { blockOf s1 b with used := moved.2 }) a
            { blockOf s1 a with erased := false, used := 0 }
          weak := s1.vault.weak.filter (fun p => !mine.any (·.1 = p)) } })))

/-! ### The correlator -/

/-- R279 to R293: an operation that its segment armed begins at ARM_CC, or 64 cc after its gate has opened: a reduction sends its first
partial, a gather its own chunk, an exchange its pieces, a permute starts its cycles, a verdict leaves in express frames, a
queue entry goes out as far as credits reach, and a receive takes the oldest entry that has landed whole. What arrived
before is taken then. -/
def Obligations.CorrelatorBegins : Prop :=
  ∀ (t slot op : Nat) (s : State) (c : Cor) (r : CorRun),
    let s1 := tick t s
    let b := modCor slot op (fun x => { x with phase := 1, at_ := s1.now }) s1
    corOf s1 slot op = some c → corRun s1 slot op = some r → r.phase = 0 → c.job.phase = 1 → c.job.aborted = none →
    beginsNow s1 c = true →
    (c.e.op = 1 → exec (.allreduce t slot op) s = .next (noteWaits slot op (takeEarly c (beginReduce c b)))) ∧
    (c.e.op = 2 → exec (.reduceScatter t slot op) s = .next (noteWaits slot op (takeEarly c (beginReduce c b)))) ∧
    (c.e.op = 3 → exec (.allgather t slot op) s = .next (noteWaits slot op (takeEarly c (beginGather c b)))) ∧
    (c.e.op = 4 → exec (.alltoall t slot op) s = .next (noteWaits slot op (takeEarly c (beginAll c b)))) ∧
    (c.e.op = 5 → exec (.permute t slot op) s = .next (noteWaits slot op (takeEarly c (beginPermute c b)))) ∧
    (c.e.op = 6 → exec (.ringRotate t slot op) s = .next (noteWaits slot op (takeEarly c (beginRotate c b)))) ∧
    (c.e.op = 7 → exec (.verdict t slot op) s = .next (noteWaits slot op (takeEarly c
      (((List.range c.n).filter (· ≠ c.rank)).foldl
        (fun u k => corSend c k (signDraft c 7 0 (if verdictDirty b c.job then 1 else 0)) u) b)))) ∧
    (∀ q, c.e.op = 8 → edgeOf b c.job c.e.queue = some q →
      let n := ceilDiv c.e.count 4096
      let x := edgeSt b slot c.e.queue q
      exec (.qsend t slot op) s = .next (noteWaits slot op (takeEarly c (qPush n c
        (modCor slot op (fun y => { y with held := n, num := x.nextSend })
          (setEdge slot c.e.queue { x with nextSend := x.nextSend + 1 } b)))))) ∧
    (c.e.op = 9 → exec (.qrecv t slot op) s = .next (noteWaits slot op (takeEarly c (qTake c b))))

/-- R275, R280 to R293, R347, R365: 400 cc after its last bit at the pin, a frame of version 1 on an open job connection, new, in the window, for the job and the segment
that run, is applied once and has its outcome: a granule is reduced, landed, forwarded or queued, a verdict kept, a go
taken, a credit counted. An operation whose result has landed and whose bytes have left is complete and signals; a credit frame is
repeated. -/
def Obligations.CorrelatorFrames : Prop :=
  ∀ (t slot : Nat) (h : Bth) (hdr : CorHdr) (s : State) (x : Ctx) (j : Job) (c : Cor) (r : CorRun),
    let u := bump 0x800204 32 1 (tick t s)
    let i := h.dcid % 2 ^ 24
    let w := fun (len : Nat) => chargeJob slot (30 * len) (heard i h u)
    let fin := fun (y : State) =>
      (Host.Outcome.next (outcome i h.psn 1 0 (bitOf h.flags 2) (noteWaits slot hdr.op y)) : Res)
    (ready (tick t s) = true → u.now = h.bit + 400 → h.version = 1 → look u.ctxs i = some x → x.gen = h.dcid / 2 ^ 24 % 256 → x.state = 2 →
      x.host = false → h.src = x.peer → psnSub h.psn x.cum < 1024 → look x.outcomes h.psn = none →
      ctxJob (heard i h u) x = some (slot, j) → j.aborted = none → j.id = hdr.jobId → flagsOk 6 h.flags = true → hdr.seg = j.segs - 1 →
      (∀ digest data, corOf (w data.length) slot hdr.op = some c → corRun (w data.length) slot hdr.op = some r →
        (c.e.op = 9 → hdr.kind = 4 →
          exec (.corDataGranule t h hdr digest ⟨data, .ok⟩) s = fin (takeQueue c hdr.chunk hdr.granule data (w data.length))) ∧
        (c.e.op = 4 → hdr.kind = 1 → r.phase < 2 →
          exec (.corDataGranule t h hdr digest ⟨data, .ok⟩) s = fin (putChunk c 1 hdr.srank hdr.granule []
            (corLandLater c (landOff c (hdr.srank * pieceBytes c + 4096 * hdr.granule) (w data.length)) data (w data.length)))) ∧
        (c.e.op = 6 → hdr.kind = 1 → r.phase < 2 →
          exec (.corDataGranule t h hdr digest ⟨data, .ok⟩) s = fin (putChunk c 1 0 hdr.granule []
            (corLandLater c (landOff c (4096 * hdr.granule) (w data.length)) data (w data.length)))) ∧
        (c.e.op = 3 → hdr.kind = 1 → r.phase = 1 → look r.chunks (granKey 1 hdr.chunk hdr.granule) = none →
          exec (.corDataGranule t h hdr digest ⟨data, .ok⟩) s =
            fin (takeGathered c 1 hdr.chunk hdr.granule data (w data.length))) ∧
        (c.e.op = 1 → hdr.kind = 3 → r.phase = 1 → look r.chunks (granKey 3 hdr.chunk hdr.granule) = none →
          exec (.corDataGranule t h hdr digest ⟨data, .ok⟩) s =
            fin (takeGathered c 3 hdr.chunk hdr.granule data (w data.length))) ∧
        (c.e.op = 1 ∨ c.e.op = 2 → hdr.kind = 1 ∨ hdr.kind = 2 → r.phase = 1 →
          look r.chunks (granKey 2 hdr.chunk hdr.granule) = none →
          exec (.corDataGranule t h hdr digest ⟨data, .ok⟩) s =
            fin (takePartial c hdr.chunk hdr.granule data (w data.length)))) ∧
      (∀ dirty, hdr.kind = 7 → hdr.step = j.step →
        exec (.corVerdictFrame t h hdr dirty) s = fin (modCor slot hdr.op (fun y =>
          if y.verdicts.any (fun z => z.1 = hdr.srank) then y
          else { y with verdicts := y.verdicts ++ [(hdr.srank, dirty)] }) (w 0))) ∧
      (corOf (w 0) slot hdr.op = some c → corRun (w 0) slot hdr.op = some r → c.e.op = 5 → hdr.kind = 6 → r.phase = 1 →
        let p := permOf c (w 0)
        exec (.corPermuteGo t h hdr (some p.digest)) s = exec (.corPermuteGo t h hdr none) s ∧
        exec (.corPermuteGo t h hdr none) s = fin (retryGoes c p (modCor slot hdr.op
          (fun y => { y with goes := y.goes ++ [(c.rank * p.per + hdr.chunk, decide (hdr.granule = 1))] }) (w 0)))) ∧
      (∀ edge q, hdr.kind = 8 → edgeOf (w 0) j edge = some q → (∀ y ∈ j.cor, ¬ (y.phase = 1 ∧ 0 < y.held)) →
        let y := edgeSt (w 0) slot edge q
        let n := max y.seen (hdr.granule + hdr.chunk * 2 ^ 32)
        exec (.corCreditFrame t h hdr edge) s =
          fin (setEdge slot edge { y with seen := n, credits := y.credits + (n - y.seen) } (w 0)))) ∧
    (∀ op, let s1 := tick t s
      corOf s1 slot op = some c → corRun s1 slot op = some r → r.phase = 1 → r.landed = false → r.sent = false →
      corIn c s1 = true →
      let a := corFinish c (modCor slot op (fun y => { y with landed := true, waits := false }) s1)
      let a := if c.e.sig then unitSignal slot c.e.sync 1 a else a
      let b := modCor slot op (fun y => { y with sent := true }) a
      let b := if c.e.sigSrc then unitSignal slot c.e.syncSrc 1 b else b
      srcLeft c a = true → corSent c b = true →
      exec (.corOpComplete t slot ⟨op, .ok⟩) s = .next (checkDone slot (bump (rkey 0x600104 slot) 32 1
        (modCor slot op (fun y => { y with phase := 2, chunks := [], goes := [], moving := [] }) b)))) ∧
    (∀ edge op q y p, let s1 := tick t s
      look s1.jobs slot = some j → edgeOf s1 j edge = some q → look s1.edges (edgeKey slot edge) = some y → y.freed ≠ 0 →
      y.creditAt + 3300 * cfg s1 0x600010 0 16 ≤ s1.now →
      j.aborted = none → imageOf s1 j = some p →
      (List.range p.cor.length).find? (fun k => (p.cor[k]?).any (fun e => e.op = 9 && e.queue = edge)) = some op →
      corOf s1 slot op = some c →
      exec (.creditRepeat t slot edge) s = .next (sendCredit c q y.freed s1))

/-! ### The host link -/

/-- R369, R372, R375, R376, R478: PERST returns controller, rings and HST's interrupt registers to reset and jobs keep running; the
link trains, goes down and comes back with the replies held for it; function resets end their tenants' jobs and disable
their rings; D3 and the number of functions change by themselves; an address invalidation completes once nothing uses the
range; a Secure stream that fails its check is Insecure, and keys loaded in an SPDM session make it Secure. -/
def Obligations.HostLink : Prop :=
  ∀ (t : Nat) (s : State),
    let s1 := tick t s
    (s1.pwr.phase ≠ 3 → exec (.perstAssert t) s = .next (irqUpdate { s1 with
      pcie := { Pcie.reset with windows := s1.pcie.windows, summary := s1.pcie.summary, riseAt := s1.pcie.riseAt }
      act := tdel (tdel s1.act 0x900180) 0x900184
      rings := [] })) ∧
    (s1.pwr.phase = 3 → exec (.perstAssert t) s = .next { s1 with pcie := { s1.pcie with perst := true } }) ∧
    (exec (.perstRelease t) s = .next { s1 with pcie := { s1.pcie with perst := false } }) ∧
    (∀ speed width link, live s1 = true → 6 ≤ s1.boot.stage → s1.pcie.perst = false → s1.pcie.up = false →
      1 ≤ speed → speed ≤ 7 → width ∈ [1, 2, 4, 8, 16] →
      let conf := { link.conf with payload := min 2 link.conf.payload, readReq := min 5 link.conf.readReq }
      exec (.pcieLinkUp t speed width link) s = .next ((s1.rings.map (·.1)).foldl (fun u k => flushRing (k / 64) (k % 64) u)
        (sendPending { s1 with pcie := { s1.pcie with up := true, speed, width, flit := link.flit, conf } }))) ∧
    (exec (.pcieLinkDown t) s =
      .next { s1 with pcie := { s1.pcie with up := false, speed := 0, width := 0, flit := false } }) ∧
    (∀ vf, ready s1 = true → 1 ≤ vf → vf ≤ s1.pcie.numVfs →
      let u := muteFn vf { s1 with jobs := tmap s1.jobs (fun _ j =>
        if j.tenant + 1 = vf then { j with abortNext := true } else j) }
      exec (.vfFlr t vf) s = .next { u with pcie := { u.pcie with
        d3 := u.pcie.d3.filter (· ≠ vf), pendingV := u.pcie.pendingV.filter (·.1 ≠ vf) } }) ∧
    (ready s1 = true →
      let u := resetPf s1
      exec (.pf0Flr t) s = .next { u with pcie := { u.pcie with d3 := [], pendingV := [] } } ∧
      exec (.vfEnableClear t) s = .next (resetPf s1)) ∧
    (∀ n, ready s1 = true → exec (.vfEnableSet t n) s =
      .next { s1 with pcie := { s1.pcie with numVfs := min n 4096 } }) ∧
    (∀ fn, ready s1 = true → fn ≤ s1.pcie.numVfs → fn ∉ s1.pcie.d3 →
      exec (.d3hotEntry t fn) s = .next { s1 with pcie := { s1.pcie with d3 := s1.pcie.d3 ++ [fn] } }) ∧
    (∀ fn, ready s1 = true →
      exec (.d3hotExit t fn) s = .next (((s1.rings.filter (fun e => e.1 / 64 = fn)).map (·.1)).foldl
        (fun u k => flushRing (k / 64) (k % 64) u)
        (sendPending { s1 with pcie := { s1.pcie with d3 := s1.pcie.d3.filter (· ≠ fn) } }))) ∧
    (∀ fn, ready s1 = false → s1.pcie.up = true → replyLost s1 fn = false →
      exec (.d3hotEntry t fn) s = .next (emit (.retry fn) s1) ∧ exec (.d3hotExit t fn) s = .next (emit (.retry fn) s1) ∧
      exec (.vfFlr t fn) s = .next (emit (.retry fn) s1)) ∧
    (∀ fn addr len, linkOk s1 fn = true → fn ≤ s1.pcie.numVfs → hostInUse s1 fn addr len = false →
      exec (.atsInvalidation t fn addr len) s = .next (emit (.atsDone fn addr len) (bump 0x90010C 32 1
        { s1 with pcie := { s1.pcie with atc := s1.pcie.atc.filter (fun x => ¬ (x.1 = fn ∧ rangesMeet addr len x.2.1 x.2.2)) } }))) ∧
    (∀ stream, stream < 9 → tget s1.pcie.ide stream 0 = 1 →
      let u := { s1 with pcie := { s1.pcie with ide := tput s1.pcie.ide stream 2 } }
      exec (.ideIntegrityFail t stream) s =
        .next (raise { src := 0x161, unit := stream } (irqSet 0x900184 1 (bump 0x900110 32 1 u)))) ∧
    (∀ stream, ready s1 = true → s1.pcie.up = true → s1.pcie.spdm.isSome = true → stream < 9 →
      exec (.ideKeyLoad t stream) s =
        .next (rekeyed stream { s1 with pcie := { s1.pcie with ide := tput s1.pcie.ide stream 1 } })) ∧
    (∀ session, ready s1 = true → s1.pcie.up = true → s1.pcie.perst = false →
      exec (.doeSpdmRequest t session) s =
        .next (emit (.spdm session) { s1 with pcie := { s1.pcie with spdm := some session } }))

/-- R377 to R382: a doorbell makes commands visible, a head write frees slots and writes the replies held for them, the
control word enables a pair, coalesced replies are signalled by COAL_US at the latest; the next pair in rotation of the
class that the next visit serves (R399) has its command fetched into execution, or stops where its slot cannot be read;
work not ended in 1.5 s is answered STARTED. That a set ENABLE bit clears ERROR is the model's choice (log 20). -/
def Obligations.CommandRings : Prop :=
  ∀ (t fn ring : Nat) (s : State),
    let s1 := tick t s
    let g := ringOf s1 fn ring
    ring < ringCount fn →
    (∀ tail, memOk s1 fn = true → g.enable = true →
      let n := 2 ^ g.sqLog
      let more := (tail % n + n - g.sqTail % n) % n
      exec (.sqDoorbell t fn ring tail) s = .next (setRing fn ring { g with
        sqTail := tail % 65536, bells := if more = 0 then g.bells else g.bells ++ [(more, s1.now)] } s1)) ∧
    (∀ head, memOk s1 fn = true →
      exec (.cqHeadWrite t fn ring head) s = .next (flushRing fn ring (setRing fn ring { g with cqHead := head % 65536 } s1))) ∧
    (∀ value, memOk s1 fn = true →
      let v := bits value 1 7
      exec (.ringEnableWrite t fn ring value) s = .next (setRing fn ring { g with
        enable := bitOf value 0, error := g.error && !(bitOf value 0 && !g.enable)
        vector := if fn = 0 then clampNat 1 63 v else min v 7
        coalCount := bits value 8 8, coalUs := min (bits value 16 16) 1000 } s1)) ∧
    (g.unsignalled ≠ 0 → g.firstAt + usCc g.coalUs ≤ s1.now →
      exec (.irqCoalesceExpiry t fn ring) s =
        .next (sendMsix fn g.vector (setRing fn ring { g with unsignalled := 0 } s1))) ∧
    (∀ h v, nextVisit s1 = some v → visitClass s1 v = fetchClass s1 fn →
      nextPair s1 (fetchClass s1 fn) = some (fn * 64 + ring) → s1.boot.cpPending = false →
      s1.pho.queue.length ≤ 61440 →
      let u := { s1 with pcie := { s1.pcie with
        rot := tput s1.pcie.rot (fetchClass s1 fn) (fn * 64 + ring), visit := (v + 1) % 64 } }
      (slotHeader u fn g h = none → exec (.commandFetch t fn ring h) s = .next (ringError fn ring u)) ∧
      (∀ x, slotHeader u fn g h = some x → exec (.commandFetch t fn ring h) s = .next (enterExec fn ring g x
        (bump 0x900100 32 1 (setRing fn ring { g with
          sqHead := (g.sqHead + 1) % 2 ^ g.sqLog, bells := popBell g.bells } u))))) ∧
    (∀ cmd x, look s1.cmds cmd = some x → x.started = false → x.bell + msCc 1500 ≤ s1.now →
      exec (.commandStartedTimeout t cmd) s =
        .next (replyTo cmd 1 (startedEcho s1 cmd x) false { s1 with free := s1.free + 1 }))

/-- R211, R215, R374: through its window a tenant's function reads the bytes of pages in HBM and writes them; a page
elsewhere is a miss, which ends a read with Completer Abort and discards a write; correctable data is corrected and counted,
uncorrectable data ends the read with Completer Abort; an access that has to wait, for a strip, an open slot of a stack or
the end of a twilight slot (R43, R46), is held or comes again; the owner's writes go by physical address; a held read not
served within 1 ms ends with Completer Abort. -/
def Obligations.DeviceWindow : Prop :=
  ∀ (t fn addr : Nat) (s : State),
    let s1 := tick t s
    let va := tget s1.pcie.windows fn 0 + addr
    let tenant := fn - 1
    memOk s1 fn = true →
    (∀ len ps, addr + len ≤ barBytes s1 fn → fn ≠ 0 → barPlaces s1 tenant va len false = some ps → tenantWaits s1 tenant va len false = false →
      let data := (ps.map (fun p => hbmRead s1 p.1 p.2.1)).flatten
      let frame := ((ps.head?).map (·.1)).getD 0 / 65536
      let r := takeRead fn addr len (goNow (some tenant) (ps.map (fun p => (.hbm p.1 p.2.2, p.2.1))) (hostEnd len) s1)
      exec (.bar4Read t fn addr len .ok) s = .next (emit (.completion r.1 false data) r.2) ∧
      exec (.bar4Read t fn addr len .ce) s = .next (emit (.completion r.1 false data) (hbmCe (frame / 2 ^ 20) r.2)) ∧
      exec (.bar4Read t fn addr len .ue) s =
        .next (emit (.completion r.1 true []) (hbmUe frame none (pageOwner r.2 frame) r.2))) ∧
    (∀ len ecc ps, addr + len ≤ barBytes s1 fn → fn ≠ 0 → barPlaces s1 tenant va len false = some ps → tenantWaits s1 tenant va len false = true →
      exec (.bar4Read t fn addr len ecc) s = .next (holdRead fn addr len s1)) ∧
    (∀ len ecc, addr + len ≤ barBytes s1 fn → fn ≠ 0 → barPlaces s1 tenant va len false = none →
      exec (.bar4Read t fn addr len ecc) s = .next (emit (.completion (takeRead fn addr len s1).1 true [])
        (bump 0x900108 32 1 (takeRead fn addr len s1).2))) ∧
    (∀ data ecc, addr + data.length ≤ barBytes s1 fn → fn ≠ 0 →
      let w : HeldWrite := { tenant := some tenant, slot := 4096, va, data, ecc, src := some hostBar }
      let went := goNow (some tenant) (heldFrom w) (heldPlaces s1 tenant w) s1
      (hostMisses s1 tenant w = true → exec (.bar4Write t fn addr ⟨data, ecc⟩) s = .next (bump 0x900108 32 1 s1)) ∧
      (hostMisses s1 tenant w = false → s1.held = [] → heldWaits s1 w = false → ecc = .ok →
        exec (.bar4Write t fn addr ⟨data, ecc⟩) s =
          .next (writeVa (farWrite 4096 tenant 32773) tenant (jobCores went 4096) va data went)) ∧
      (hostMisses s1 tenant w = false → s1.held ≠ [] ∨ heldWaits s1 w = true →
        exec (.bar4Write t fn addr ⟨data, ecc⟩) s = .next (moveHeld w { s1 with held := s1.held ++ [w] }))) ∧
    (∀ data, addr + data.length ≤ barBytes s1 0 → fn = 0 → s1.held = [] → ownerWaits s1 addr data.length true = false →
      exec (.bar4Write t fn addr ⟨data, .ok⟩) s =
        .next (ownerWrite addr data (goNow none (hostEnd data.length) (keyPlaces addr data.length) s1))) ∧
    (∀ id r, look s1.pcie.reads id = some r → r.2.2.2 + msCc 1 ≤ s1.now →
      exec (.bar4ReadTimeout t id) s = .next (emit (.completion id true [])
        (bump 0x900108 32 1 { s1 with pcie := { s1.pcie with reads := tdel s1.pcie.reads id } })))

/-! ### The host's commands -/

/-- R242 to R258, R348 to R350, R373, R391, R405: what each command on memory does once it begins and nothing refuses it, after
the headers that are refused at their turn (R380): the tables, mappings, seals, placements, pins, windows, ephemerides and
regions it makes, and its reply; an unmapping waits for pages that move. -/
def Obligations.MemoryCommands : Prop :=
  ∀ (t cmd : Nat) (s : State) (x : Exec) (te : Tenant),
    let s0 := tick t s
    let s1 := refuseHeaders s0
    let y := { x with begun := true, at_ := ptpNs s1 }
    let u := openReq x { s1 with cmds := tput s1.cmds cmd y }
    let h := x.hdr.p0
    let op := x.hdr.opcode
    let block := blockOk u y = true
    let mapped := fun (o : Obj) => h ≠ 0 ∧ look s1.objs h = some o ∧ (mapOf o x.tenant).isSome = true
    let maps := fun (b : MapBlock) (q : Obj) => { q with
      maps := q.maps ++ [{ tenant := x.tenant, base := b.base, w := bitOf b.rights 0, acc := bitOf b.rights 1, pins := [] }] }
    (look s0.cmds cmd = some x → op = 0x0303 → x.begun = true → movingPages s0 h = [] →
      exec (.objUnmap t cmd) s = .next (done cmd 0 (unmapNow h x.tenant s0))) ∧
    -- an object that is there already: the command is ordered by its handle (R380)
    (∀ (b : MapBlock) (o : Obj),
      let v := refuseHeaders (modCmd cmd (fun z => if z.begun then z else { z with obj := b.handle }) s0)
      let z := { x with begun := true, at_ := ptpNs v }
      let w := openReq x { v with cmds := tput v.cmds cmd z }
      look v.cmds cmd = some x → mayBegin v cmd x = true → x.begun = false → op = 0x0302 → b.handle ≠ 0 →
      look w.tenants x.tenant = some te → te.destroying = false → blockOk w z = true → mapBlockBad z b = false →
      look w.objs b.handle = some o → remapReason w x.tenant te o b = none →
      (seals s0 b = false →
        exec (.objMapExisting t cmd b) s = .next (done cmd b.handle { w with objs := tmod w.objs b.handle (maps b) })) ∧
      (let f := { w with free := w.free + 1 }
       let g := bump 0xC00208 32 1 f
       let sealed := tput w.objs b.handle { o with
         sealHash := some b.hash, maps := o.maps.map (fun m => { m with w := false, acc := false }) }
       seals s0 b = true → objHash f o = b.hash → holdsScales f b.handle none = false →
        exec (.baseObjectSeal t cmd b) s = .next (done cmd b.handle { g with objs := tmod sealed b.handle (maps b) }))) ∧
    (look s0.cmds cmd = some x → look s1.cmds cmd = some x → mayBegin s1 cmd x = true → x.begun = false →
      (op = 0x0301 → u.tables = none →
        let least := frameTableBytes u + vaultMapBytes u + 64 * 2 ^ 20
        let bytes := clampNat least (max least (offeredFrames u * 65536 / 4)) x.hdr.p0
        let mask := stacksOf u (x.hdr.p1 % 4096)
        let v := { u with tables := some (bytes, mask), flt := { u.flt with ringSet := true } }
        (∀ k ∈ maskStacks mask, tableRun v k ≤ frameLimit ∧ ∀ f ∈ heldFrames u k, tableRun v k ≤ f.1) →
        exec (.tierSetup t cmd) s = .next (done cmd bytes v)) ∧
      (op = 0x0501 → (∀ r ∈ u.regions, r.2.valid = false) →
        exec (.rgnSetup t cmd) s =
          .next (done cmd (clampNat 1 16777215 h) { u with regionCap := clampNat 1 16777215 h })) ∧
      (look u.tenants x.tenant = some te → te.destroying = false →
        (∀ b : MapBlock, op = 0x0302 → block → mapBlockBad y b = false → b.handle = 0 →
          let size := b.size / pageBytes b.page
          let stks := stacksOf u (b.stks % 4096)
          let stripe := clampNat 1 (2 ^ 24) b.stripe
          let shelf := if b.home = 2 then clampNat 1 (2 ^ 20) b.shelf else 0
          let place := if b.home = 2 then (vaultRange u size).getD (0, u.vault) else (b.homeLoc, u.vault)
          let o := newObject x.tenant b stks stripe shelf place.1
          let v := { u with nextObj := u.nextObj + 1, vault := place.2, objs := tput u.objs u.nextObj o }
          (∀ r, mapReason u x.tenant te b = some r → exec (.objMap t cmd b) s = .next (refuseWith cmd r u)) ∧
          (∀ w, mapReason u x.tenant te b = none →
            (if b.home = 0 then homeFrames o u.nextObj o.pages v else some v) = some w →
            let clamped := writeBack y 22 2 (b.stks % 4096) stks
              (writeBack y 24 4 b.stripe stripe (writeBack y 28 4 b.shelf shelf w))
            (bitOf b.extra 1 = false → exec (.objMap t cmd b) s = .next (finishMap cmd u.nextObj clamped)) ∧
            (let f := { clamped with free := clamped.free + 1 }
             bitOf b.extra 1 = true → objHash f o = b.hash → exec (.objMap t cmd b) s = .next (finishMap cmd u.nextObj
              { bump 0xC00208 32 1 f with objs := tmod f.objs u.nextObj (fun q => { q with sealHash := some b.hash }) })))) ∧
        (∀ o, op = 0x0303 → mapped o → segmentLists u h x.tenant = false → holdsScales u h (some x.tenant) = false →
          let v := modCmd cmd (fun z => { z with echo := some 0 }) u
          (movingPages v h = [] → exec (.objUnmap t cmd) s = .next (done cmd 0 (unmapNow h x.tenant v))) ∧
          (movingPages v h ≠ [] → exec (.objUnmap t cmd) s = .next v)) ∧
        (∀ o ps, op = 0x0304 → mapped o → pageRun o x.hdr.p1 (bits x.hdr.p2 0 32) = some ps → o.policy ≠ 0 →
          (bits x.hdr.p2 32 3 = 0 →
            let left := ps.filter (fun p => (look o.loc p).isNone)
            let up := ps.filter (fun p => (look o.loc p).isSome)
            let v := if bitOf x.hdr.p2 40 then up.foldl (fun w p => setPin h x.tenant p w) u else u
            (left = [] → exec (.objPlace t cmd) s = .next (done cmd ps.length v)) ∧
            (left ≠ [] → exec (.objPlace t cmd) s = .next (pumpMoves (modCmd cmd (fun z => { z with
              obj := h, left, echo := some ps.length }) v)))) ∧
          (bits x.hdr.p2 32 3 = o.home → o.home ≠ 0 → (o.home = 2 → hasVault u = true) → (o.home = 1 → te.hostLen ≠ 0) →
            exec (.objPlace t cmd) s = .next (done cmd ps.length (ps.foldl (fun v p => castVote h x.tenant p v) u)))) ∧
        (∀ o ps, op = 0x0305 → mapped o → pageRun o x.hdr.p1 (bits x.hdr.p2 0 32) = some ps →
          (bitOf x.hdr.p2 32 = false →
            exec (.objPin t cmd) s = .next (done cmd ps.length (ps.foldl (fun v p => setPin h x.tenant p v) u))) ∧
          (bitOf x.hdr.p2 32 = true →
            exec (.objVote t cmd) s = .next (done cmd ps.length (ps.foldl (fun v p => castVote h x.tenant p v) u)))) ∧
        (∀ o ps, op = 0x0306 → mapped o → pageRun o x.hdr.p1 x.hdr.p2 = some ps →
          exec (.objQuery t cmd) s =
            .next (answerOut cmd y x.hdr.p3 ((ps.map (queryBytes u x.tenant h o)).flatten) ps.length u)) ∧
        (op = 0x0307 →
          let base := h / barBytes u (x.tenant + 1) * barBytes u (x.tenant + 1)
          exec (.window t cmd) s = .next (done cmd base
            { u with pcie := { u.pcie with windows := tput u.pcie.windows (x.tenant + 1) base } })) ∧
        (∀ es p, op = 0x0401 → block → look u.plans h = some p → p.tenant = x.tenant → planRuns u h = false →
          let n := clampNat 1 (min 65536 (x.hdr.length / 32)) x.hdr.p2
          firstBad ((es.take n).map (fun e => (ephReason u x.tenant (p.image.n0 + p.image.n1) e).toList)) = none →
          exec (.ephLoad t cmd es) s =
            .next (done cmd n { u with plans := tput u.plans h { p with eph := es.take n, status := x.hdr.p1 } })) ∧
        (∀ b i, op = 0x0502 → block → regionBad u x.tenant b = false → freeRegion u = some i →
          let gen := ((look u.regions i).map (·.gen)).getD 0
          let r : Region := { valid := true, revoking := false, gen, tenant := x.tenant, block := b, inflight := 0, cmd := none }
          exec (.rgnRegister t cmd b) s = .next (done cmd (i * 256 + gen) { u with regions := tput u.regions i r })) ∧
        (∀ r, op = 0x0503 → h / 256 ≠ 0 → look u.regions (h / 256) = some r → r.tenant = x.tenant → r.valid = true →
          r.revoking = false → r.gen = h % 256 →
          exec (.rgnRevoke t cmd) s = .next (revokeRegion (h / 256) (some cmd)
            (modCmd cmd (fun z => { z with echo := some ((r.gen + 1) % 256) }) u)))))

/-- R181, R387, R389, R390, R392, R395 to R397, R425: what each command on plans, jobs and tenants does once it begins and
nothing refuses it, after the headers that are refused at their turn (R380). -/
def Obligations.JobCommands : Prop :=
  ∀ (t cmd : Nat) (s : State) (x : Exec),
    let s0 := tick t s
    let s1 := refuseHeaders s0
    let y := { x with begun := true, at_ := ptpNs s1 }
    let u := openReq x { s1 with cmds := tput s1.cmds cmd y }
    let op := x.hdr.opcode
    let n := x.hdr.p0 % 4096
    look s0.cmds cmd = some x → look s1.cmds cmd = some x → x.begun = false → mayBegin s1 cmd x = true →
    (∀ te, look u.tenants x.tenant = some te → te.destroying = false →
      (∀ p : PlanImage, op = 0x0101 → blockOk u y = true → p.magic = 0x4C505850 → p.version = 1 → p.rsv = 0 →
        p.length ≤ x.hdr.length →
        (∀ r sect item, planRefusal u x.tenant p = some (r, sect, item) →
          exec (.planLoad t cmd p) s = .next (refuseWith cmd r u sect item)) ∧
        (planRefusal u x.tenant p = none → wordsFit u p = true →
          exec (.planLoad t cmd p) s = .next (done cmd u.nextPlan { u with
            plans := tput u.plans u.nextPlan { tenant := x.tenant, image := p, eph := [], status := 0 }
            nextPlan := u.nextPlan + 1 }))) ∧
      (∀ p, op = 0x0102 → look u.plans x.hdr.p0 = some p → p.tenant = x.tenant → planRuns u x.hdr.p0 = false →
        exec (.planUnload t cmd) s = .next (done cmd 0 { u with plans := tdel u.plans x.hdr.p0 })) ∧
      (∀ b p, op = 0x0201 → rollsForward s0 x.tenant b.jobId = false → blockOk u y = true → b.flags < 4 →
        b.rsv = 0 → 128 ≤ x.hdr.length → look u.plans b.plan = some p → p.tenant = x.tenant →
        let v := clampedBack y b (clampBlock b) u
        (∀ r, startReason v x.tenant p.image (clampBlock b) = some r →
          exec (.jobStart t cmd b) s = .next (refuseWith cmd r v)) ∧
        (startReason v x.tenant p.image (clampBlock b) = none →
          exec (.jobStart t cmd b) s = .next (createJob cmd y p.image (clampBlock b) v))) ∧
      (∀ j, op = 0x0202 → look u.jobs n = some j → j.tenant = x.tenant →
        let act := toField 64 (s1.mer.count + 1)
        (bitOf x.hdr.p0 16 = false →
          exec (.jobStop t cmd) s = .next (done cmd act (modJob n (fun k => { k with stopping := true }) u))) ∧
        (bitOf x.hdr.p0 16 = true →
          exec (.jobStopAbort t cmd) s = .next (done cmd act (modJob n (fun k => { k with abortNext := true }) u)))) ∧
      (∀ j, op = 0x0801 → look u.jobs (x.hdr.p1 % 4096) = some j → j.tenant = x.tenant →
        let r := clampRule x.hdr.p0
        exec (.lsRule t cmd) s = .next (done cmd (ruleWord r) (modJob (x.hdr.p1 % 4096) (fun k =>
          if j.segs = 0 then { k with lsPar := r, ls := r.ls0 } else { k with lsNext := some r }) u)))) ∧
    (op = 0x0601 → look u.tenants n = none →
      exec (.tenantCreate t cmd) s = .next (done cmd 0 { u with
        tenants := tput u.tenants n
          { strict := bitOf x.hdr.p0 16, destroying := false, hostBase := x.hdr.p1, hostLen := x.hdr.p2, cores := 0,
            stks := 0, share := 0, power := 0, nextPart := none, nextPower := none }
        census := u.census.filter (fun e => e.1 / 1024 ≠ n), snap := u.snap.filter (fun e => e.1 / 1024 ≠ n) })) ∧
    (∀ te, look u.tenants n = some te →
      (op = 0x0602 →
        let v := { u with tenants := tmod u.tenants n (fun z => { z with destroying := true }) }
        let w := goneAll n cmd (modCmd cmd (fun z => { z with echo := some 0 }) v)
        exec (.tenantDestroy t cmd) s = .next (destroyStep cmd n (abortAll (slotsOf w [n]) 0x186 w))) ∧
      (let cores := bits x.hdr.p1 0 36
       let stks := stacksOf u (x.hdr.p2 % 4096)
       let share := bits x.hdr.p2 16 7
       op = 0x0701 → bits x.hdr.p2 12 4 = 0 → x.hdr.p2 < 2 ^ 23 →
        (partitionBad u n te cores stks share = true →
          exec (.partition t cmd) s = .next (refuseWith cmd 0x19 u)) ∧
        (partitionBad u n te cores stks share = false → partitionBusy u n te cores stks share = false →
          exec (.partition t cmd) s = .next (done cmd cores
            { u with tenants := tput u.tenants n { te with nextPart := some (cores, stks, share) } }))) ∧
      (let w := clampNat 0 (envelope u) x.hdr.p1
       op = 0x0702 →
        (te.strict = false → exec (.powerShare t cmd) s =
          .next (done cmd w { u with tenants := tput u.tenants n { te with nextPower := some w } })) ∧
        (te.strict = true → (∀ j ∈ u.jobs, j.2.tenant ≠ n) →
          let w' := min w (cfg u 0xA00000 0 12 - pwrBase u - (strictSum u - te.power))
          exec (.powerShare t cmd) s =
            .next (done cmd w' { u with tenants := tput u.tenants n { te with power := w' } }))))

/-- R167, R411, R412, R445, R455, R473, R474, R483, R484: what each command on records, firmware and spares does once it
begins and nothing refuses it. -/
def Obligations.RecordCommands : Prop :=
  ∀ (t cmd : Nat) (s : State) (x : Exec),
    let s0 := tick t s
    let s1 := refuseHeaders s0
    let y := { x with begun := true, at_ := ptpNs s1 }
    let u := openReq x { s1 with cmds := tput s1.cmds cmd y }
    let op := x.hdr.opcode
    look s0.cmds cmd = some x → look s1.cmds cmd = some x → x.begun = false → mayBegin s1 cmd x = true →
    (∀ te, look u.tenants x.tenant = some te → te.destroying = false →
      (op = 0x0901 →
        let first := clampNat 0 1023 x.hdr.p0
        let n := clampNat 1 (1024 - first) x.hdr.p1
        exec (.censusRead t cmd) s = .next (answerOut cmd y x.hdr.p2 (((List.range n).map (fun i => censusRecord u.snapM
          (first + i) (tget u.snap (x.tenant * 1024 + first + i) emptyCensus))).flatten) n u)) ∧
      (op = 0x0A01 →
        let rs := (keptReceipts u).filter (fun r => r.id = x.hdr.p0 && (x.fn = 0 || r.account = x.tenant))
        let sorted := rs.foldl (fun l r => (l.filter (fun o => decide (o.seq < r.seq))) ++ r ::
          (l.filter (fun o => decide (r.seq ≤ o.seq)))) []
        exec (.energyQuery t cmd) s =
          .next (answerOut cmd y x.hdr.p1 ((sorted.map receiptBytes).flatten) sorted.length u)) ∧
      (∀ nonce, op = 0x0B01 → blockOk u y = true → 32 ≤ x.hdr.length →
        let head := reportHead y nonce u
        exec (.attest t cmd nonce) s = .next (answerOut cmd y x.hdr.p1
          (head ++ beBytes 96 (Config.ecdsa 0 (Config.sha384 head)) ++ Config.chain) (496 + Config.chain.length) u))) ∧
    (op = 0x0F01 →
      let es := ((u.flt.ring ++ u.flt.fifo).filter (fun e => decide (x.hdr.p0 ≤ e.seq))).take (clampNat 1 65536 x.hdr.p1)
      exec (.logRead t cmd) s = .next (answerOut cmd y x.hdr.p2 ((es.map entryBytes).flatten) es.length u)) ∧
    (∀ data, op = 0x0C01 → blockOk u y = true →
      exec (.fwStage t cmd data) s =
        .next (stage (.cmd cmd) x.hdr.p0 x.hdr.p1 (clampNat 1 (2 ^ 20) data.length) u)) ∧
    (∀ img, op = 0x0C02 → exec (.fwActivate t cmd img) s = .next (activate (.cmd cmd) x.hdr.p0 img u)) ∧
    (∀ k, op = 0x0D01 → sliceKind x.hdr.p1 = some k → inService x.hdr.p1 = true →
      let b := nearBlock u k (x.hdr.p0 % 65536)
      (holdsBlock x.hdr.p1 = false ∨ blockBusy u k (b % 256) = false) →
      (∀ z ∈ u.boot.slices, ¬ (sliceKind z.slice = some k ∧ sameUnit k z.inst b = true)) →
      exec (.selftest t cmd) s = .next { u with boot := { u.boot with
        slices := u.boot.slices ++ [{ slice := x.hdr.p1, inst := b, cmd, at_ := none }] } }) ∧
    (let cat := bits x.hdr.p1 16 4
     let k := catKind cat
     let b := nearBlock u k (x.hdr.p1 % 65536)
     op = 0x0E01 → cat ≤ 6 ∨ cat = 9 ∨ cat = 10 →
      (x.hdr.p0 = 1 → blockBusy u k (b % 256) = false → u.boot.slices = [] →
        exec (.spareRetire t cmd) s = .next (retire cmd cat b (x.hdr.p2 % 65536) u)) ∧
      (x.hdr.p0 = 2 → exec (.spareRetireForce t cmd) s = .next (retire cmd cat b (x.hdr.p2 % 65536)
        (abortAll ((u.jobs.filter (fun e => jobUses u e.2 k (b % 256))).map (·.1)) 0x1D0 u))))

/-! ### Power, heat, energy and faults -/

/-- R2, R30, R414 to R419, R476, R509: a sample of the input moves the conditions on the voltage and, unless the lockout is
engaged, the meter, and the running module reacts to a crossing; over-voltage before bring-up and under-voltage before it or
in the halted state engage the lockout; a surge and a sag that last, PWR_SAFE_N and the end of a safe stop; the lockout is
released after 100 ms at 50 V of a charged input, and its latch after 10 ms below 40 V; bring-up starts after 10 ms at 54 V;
a loss of supply and a trip of the current limit leave the almanac and nothing volatile. -/
def Obligations.PowerInput : Prop :=
  ∀ (t : Nat) (s : State),
    let s1 := tick t s
    (∀ mv ma,
      let u := { s1 with pwr := { s1.pwr with volts := nextVolts mv s1.now s1.pwr.volts } }
      (s1.pwr.phase = 2 ∨ s1.pwr.phase = 5 → exec (.voltageSample t mv ma) s = .next (regionStep (meter mv ma u))) ∧
      (s1.pwr.phase = 4 → exec (.voltageSample t mv ma) s =
        .next (if crossed u 4 then lockOut false u else regionStep (meter mv ma u))) ∧
      (s1.pwr.phase = 1 → exec (.voltageSample t mv ma) s = .next (
        if (look u.pwr.volts 0).any (fun x => decide (2 ≤ x.2)) then lockOut true u
        else if crossed u 4 then lockOut false u else meter mv ma u)) ∧
      (s1.pwr.phase = 0 → exec (.voltageSample t mv ma) s = .next u) ∧
      (s1.pwr.phase = 3 → exec (.voltageSample t mv ma) s = .next (meter mv ma u))) ∧
    (regions s1 = true → heldFor s1 1 (msCc 100 + 1) = true → exec (.surgeTimeout t) s = .next (raise { src := 0x1A1 } s1)) ∧
    (regions s1 = true → heldFor s1 2 (msCc 20 + 1) = true → exec (.sagTimeout t) s = .next (raise { src := 0x1A3 } s1)) ∧
    (s1.pwr.sag = true → heldFor s1 7 (msCc 1) = true →
      exec (.sagRelease t) s = .next { s1 with pwr := { s1.pwr with sag := false } }) ∧
    (s1.pwr.charged = none →
      exec (.inrushCharged t) s = .next { s1 with pwr := { s1.pwr with charged := some s1.now } }) ∧
    (∀ c, s1.pwr.phase = 0 → s1.pwr.latched = false → heldFor s1 5 (msCc 100) = true → s1.pwr.charged = some c →
      c + msCc 100 ≤ s1.now → exec (.uvloRelease t) s = .next { s1 with pwr := { s1.pwr with phase := 1 } }) ∧
    (s1.pwr.latched = true → heldFor s1 4 (msCc 10) = true →
      exec (.uvloLatchClear t) s = .next { s1 with pwr := { s1.pwr with latched := false } }) ∧
    (s1.pwr.phase = 1 → heldFor s1 6 (msCc 10) = true →
      exec (.bringupStart t) s = .next { s1 with
        pwr := { s1.pwr with phase := 2, volts := s1.pwr.volts.filter (fun e => decide (4 ≤ e.1)) }
        boot := { s1.boot with stage := 1, startAt := s1.now, cause := none } }) ∧
    (let c := State.cold s1.alm s1.pending s1.now s1.free s1.out
     let off := { c with pwr := { c.pwr with latched := s1.pwr.latched } }
     exec (.supplyLoss t) s = .next off ∧ exec (.currentLimitTrip t) s = .next off) ∧
    (regions s1 = true ∨ s1.pwr.phase = 1 → exec (.safeNAssert t) s = .next (raise { src := 0x1A6 } s1)) ∧
    (s1.pwr.phase = 3 → s1.pwr.stopAt + msCc 2 ≤ s1.now →
      exec (.safeStopConvertersOff t) s = .next (lockOut true s1))

/-- R418, R423 to R430, R435: a frame boundary, 64 cc from the meridian or from the one before, gives every core its grant,
the lesser of its thermal ceiling and the sag limit, and with it the allocations made since; each microsecond a strict
tenant with a power share has its own units divided among its cores, and the common pool goes to the running others by
weight, none above its share; a phase's demands follow what each core drew by an eighth; a sensor's upward crossings are
raised; each 100 µs the ceilings of affected cores step down or up; a meter out of range is raised. -/
def Obligations.GrantsAndHeat : Prop :=
  ∀ (t : Nat) (s : State),
    let s1 := tick t s
    (live s1 = true → (s1.now - s1.mer.at_) % 64 = 0 →
      exec (.grantFrame t) s = .next { s1 with cores := tmap s1.cores (fun _ c => { c with
        frame := (s1.now - s1.mer.at_) / 64, used := 0
        grant := min c.ceiling (if s1.pwr.sag then 16 else 64), granted := c.alloc }) }) ∧
    (∀ fixedW, live s1 = true → spaced s1.pwr.ctlAt 3300 s1.now = true →
      let pool := commonPool s1 fixedW
      let v := { s1 with pwr := { s1.pwr with pool := poolKept s1 pool, ctlAt := some s1.now } }
      let weight := fun (x : Tenant) => max 1 x.power
      let sum := v.tenants.foldl (fun n e => if inPool v e.1 e.2 then n + weight e.2 else n) 0
      exec (.powerControlPeriod t fixedW) s = .next (v.tenants.foldl (fun u e =>
        if e.2.strict ∧ 0 < e.2.power then allot e.1 (e.2.power * 5824 / 2125) (unitCores u e.1 e.2) u
        else if inPool u e.1 e.2 then
          let w := pool * weight e.2 / max 1 sum
          allot e.1 ((if e.2.power = 0 then w else min w (10 * e.2.power)) * 5824 / 21250) (unitCores u e.1 e.2) u
        else u) v)) ∧
    (∀ slot phase xs, exec (.phaseDemandUpdate t slot phase xs) s = .next (modJob slot (fun j => { j with
      demand := xs.foldl (fun m x =>
        let k := phase % 256 * 64 + x.1 % 64
        let d : Int := (tget m k 4096 : Nat)
        tput m k (d + ((min 4096 x.2 : Nat) - d) / 8).toNat) j.demand }) s1)) ∧
    (∀ sensor (deciC : Int), regions s1 = true → hasSensor s1 sensor = true →
      let p := sensorPoints sensor
      let u := { s1 with pwr := { s1.pwr with
        hot := member s1.pwr.hot sensor (decide (p.1 ≤ deciC)), warm := member s1.pwr.warm sensor (decide (p.2.1 ≤ deciC))
        critical := member s1.pwr.critical sensor (decide (p.2.2 ≤ deciC)) } }
      let rise : Bool := decide (p.1 ≤ deciC) && !(s1.pwr.hot.contains sensor)
      let v := if rise then raise { src := 0x1A4, unit := sensor } u else u
      exec (.thermalSample t sensor deciC) s = .next
        (if decide (p.2.2 ≤ deciC) && !(s1.pwr.critical.contains sensor) then raise { src := 0x1A5, unit := sensor } v else v)) ∧
    (live s1 = true → spaced s1.pwr.ceilAt 330000 s1.now = true → exec (.thermalCeilingStep t) s = .next { s1 with
      pwr := { s1.pwr with ceilAt := some s1.now }
      cores := tmap s1.cores (fun core c =>
        if s1.pwr.hot.any (sensorActs core) then { c with ceiling := max 1 (c.ceiling - 1) }
        else if s1.pwr.warm.any (sensorActs core) then c
        else { c with ceiling := min 64 (c.ceiling + 1) }) }) ∧
    (live s1 = true → exec (.meterOutOfRange t) s = .next (raise { src := 0x1C0 } (irqSet 0xA10184 1 s1)))

/-- R442 to R445, R450, R455, R460: the receipt first in the queue takes its place in its account's chain, a SEQ that is a
multiple of 2^16 after a checkpoint, is signed, delivered and counted; every 10 minutes an account's checkpoint is written;
an acknowledgement closes a window, and one that ends without it raises FLT_ACK_TIMEOUT; the log's first entry goes to the
ring at the ring's pace once it has its beacon or needs none, a C2 entry with FLT_IRQ bit 0; the first entry that needs a
beacon gets one while the management segment's queue has room. -/
def Obligations.ReceiptsAndLog : Prop :=
  ∀ (t : Nat) (s : State),
    let s1 := tick t s
    (∀ q rest, s1.pho.queue = q :: rest → live s1 = true → receiptRoom s1 = true →
      let v := { s1 with pho := { s1.pho with queue := rest } }
      let w := if q.seq % 65536 = 0 then checkpoint q.account q.seq v else v
      let a := tget s1.pho.accounts q.account freshAccount
      let q1 := { q with prev := a.prev, meta_ := if a.restart then q.meta_ + 2 ^ 29 else q.meta_ }
      let q2 := { q1 with sig := Config.ecdsa 1 (Config.sha384 (receiptHead q1)) }
      let a' := { a with issued := q.seq, prev := Config.sha384 (receiptBytes q2), restart := false }
      let u := { w with pho := { w.pho with accounts := tput w.pho.accounts q.account a' } }
      exec (.receiptSigned t) s =
        .next (bump 0xA10200 32 1 (deliverReceipt q2 (if a.restart then bump 0xA10208 32 1 u else u)))) ∧
    (∀ n a, look s1.pho.accounts n = some a → live s1 = true → spaced a.checkAt (msCc 600000) s1.now = true →
      let a' := { a with checkAt := some s1.now }
      exec (.receiptCheckpoint t n) s = .next { s1 with
        alm := { s1.alm with checks := tput s1.alm.checks n (a.issued, a.prev) }
        pho := { s1.pho with accounts := tput s1.pho.accounts n a' } }) ∧
    (∀ r q, look s1.flt.quars r = some q → q.state = 1 →
      (live s1 = true ∨ s1.pwr.phase = 4 → q.until_ ≤ s1.now → exec (.ackWindowExpiry t r) s = .next (raise { src := 0x001, unit := r }
        { s1 with flt := { s1.flt with quars := tput s1.flt.quars r { q with state := 3 } } })) ∧
      (barServed s1 = true → r < 64 → exec (.fltAck t r) s =
        .next { s1 with flt := { s1.flt with quars := tput s1.flt.quars r { q with state := 2 } } })) ∧
    (∀ e rest, s1.flt.fifo = e :: rest → s1.flt.ringSet = true → drainOpen s1 e = true →
      needsBeacon s1 e = false ∨ s1.flt.c4.isSome = true →
      let v := goNow none [] (ringPlace s1 e) s1
      let u := ringPush e { v with flt := { v.flt with fifo := rest, drainAt := some v.now } }
      exec (.nightLogDrain t) s = .next (if e.cls % 8 = 2 then irqSet 0xB00384 1 u else u)) ∧
    (∀ e, s1.flt.fifo.find? (needsBeacon s1) = some e → live s1 = true → s1.mgt.q1.length < 32 →
      exec (.beaconGenerate t) s =
        .next (queueMgt 1 (.beacon 1 e) { s1 with flt := { s1.flt with beacons := e.seq + 1 } }))

/-! ### Bring-up, self-test, firmware -/

/-- R8, R407 to R413, R444, R463 to R480: each stage of bring-up does its work and goes on to the next, or stops with its
cause; a stopped bring-up sends a beacon each second. In service a slice's end is counted and kept for its command, a
failure raises its source, and a block that is retired gives result 3; a slice past its budget has failed; a pair's copy
completes, and a field part's write 80 ms or more after it began. -/
def Obligations.BringUp : Prop :=
  ∀ (t : Nat) (s : State),
    let s1 := tick t s
    let at_ := fun (n : Nat) => live s1 = true ∧ s1.boot.stage = n
    let next := fun (n : Nat) (u : State) => (Host.Outcome.next { u with boot := { u.boot with stage := n } } : Res)
    let stop := fun (cause : Nat) (u : State) => (Host.Outcome.next { u with
      pwr := { u.pwr with phase := 5, faultN := true, stopAt := u.now }
      boot := { u.boot with cause := some cause }
      pcie := { u.pcie with up := false } } : Res)
    (at_ 1 → exec (.bringupRails t true) s = next 2 s1 ∧ exec (.bringupRails t false) s = stop 0x81 s1) ∧
    (at_ 2 →
      let u := { s1 with boot := { s1.boot with seOk := true } }
      exec (.bringupBootRom t false) s = stop 0x82 s1 ∧
      (∀ x, chosenCopy u 1 = some x → exec (.bringupBootRom t true) s = next 3 (useImage 1 x u)) ∧
      (chosenCopy u 1 = none → exec (.bringupBootRom t true) s = stop 0x83 u)) ∧
    (at_ 3 → (∀ ok, exec (.bringupAlmanac t false ok) s = stop 0x84 s1) ∧
      (∀ ok : Bool,
        let used := ok && s1.alm.field.seq ≠ 0
        let f := if used then s1.alm.field else FieldPart.built s1.alm.cores
        let d := drawRandom s1
        let u := { d.2 with
          boot := { d.2.boot with field := f, fieldOk := used, incarnation := d.1.toNat % 2 ^ 32 }
          cores := (List.range 36).foldl (fun m c => tput m c (builtCore f c)) []
          stks := ((List.range 12).filter (hasStack d.2)).foldl (fun m k => tput m k (builtStack f k)) [] }
        exec (.bringupAlmanac t true ok) s = next 4 (if used then u else raise { src := 0x1E0 } u))) ∧
    (at_ 4 →
      (chosenCopy s1 2 = none → exec (.bringupImages t) s = stop 0x85 s1) ∧
      (∀ x, chosenCopy s1 2 = some x →
        let u := useImage 2 x s1
        let v := match chosenCopy u 3 with
          | some y => { useImage 3 y u with stks := tmap u.stks (fun _ k => { k with micro := y.2.digest }) }
          | none => { u with stks := tmap u.stks (fun _ k => { k with unusable := true }) }
        let codes := List.range (4 * nPorts v)
        exec (.bringupImages t) s = next 5 (match chosenCopy v 4 with
          | some z => codes.foldl (fun w c => modPort c (fun p => { p with serdes := z.2.digest }) w) (useImage 4 z v)
          | none => codes.foldl (fun w c => modPort c (fun p => { p with failed := true }) w) v))) ∧
    (∀ results, at_ 5 →
      let failed := postFails s1 results
      let u := failed.foldl (fun v x => postFailure x.1 x.2.1 x.2.2 v) (bump 0xB10200 32 results.length s1)
      let v := { u with
        pho := { u.pho with meterOk := !failed.any (fun x => x.1 = 0x40 && x.2.2 = 0) }
        boot := { u.boot with postDone := true, postClean := failed.isEmpty } }
      exec (.bringupSelfTest t results) s =
        (if failed.any (fun x => postStops x.1 x.2.2) then stop 0x86 v else next 6 (startField v))) ∧
    (at_ 6 →
      let u := (s1.stks.filter (fun k => !k.2.unusable)).foldl (fun v k => irqSet (0x400184 + 0x10000 * k.1) 1 v) s1
      exec (.bringupFill t) s = next 7 { u with
        hbm := [], recs := [], store := [], badStore := []
        stks := tmap u.stks (fun _ k => if k.unusable then k else { k with ready := true, passAt := u.now })
        flash := []
        vault := { Vault.reset with
          readOnly := u.vault.readOnly, spare := ceilDiv (superblocks s1 * 9) 100 - u.alm.dead.length } }) ∧
    (∀ rngOk, at_ 7 → s1.mer.placing = false →
      let u := { s1 with
        threads := [], sregs := [], vregs := [], boot := { s1.boot with rngOk }
        pho := { s1.pho with
          accounts := s1.alm.checks.map (fun c => (c.1, resumed c.2)), lastNs := ptpNs s1, mark := s1.pho.energy }
        mer := { s1.mer with placing := true, at_ := s1.now } }
      exec (.bringupRelease t rngOk) s = .next ((s1.stks.map (·.1)).foldl (fun v k => seedStack rngOk k v)
        (((s1.cores.filter (fun c => c.2.enabled)).map (·.1)).foldl (fun v c => seedCore rngOk c v) (placeNext u)))) ∧
    (at_ 7 → s1.mer.placing = true → exec (.bringupReady t) s = .next { s1 with boot := { s1.boot with
      stage := 0xFF, bringupMs := min 65535 ((s1.now - s1.boot.startAt) / msCc 1) } }) ∧
    (∀ c, s1.boot.cause = some c → s1.pwr.phase = 5 → s1.pwr.stopAt + msCc 1000 ≤ s1.now →
      exec (.bringupStopBeacon t) s = .next (queueMgt 1 (.stopBeacon (c + s1.boot.stage * 256))
        { s1 with pwr := { s1.pwr with stopAt := s1.now } })) ∧
    (∀ slice inst x a, x.at_ = some a →
      s1.boot.slices.find? (fun y => y.slice = slice && y.inst = inst && y.at_.isSome) = some x →
      let kept := fun (res : Nat) (u : State) => { u with boot := { u.boot with
        lastSlice := slice, lastResult := res, lastInst := inst
        returning := u.boot.returning ++ [{ cmd := x.cmd, slice, inst, res := if res = 1 then 0xFF else res, idx := 0xFFFF }] } }
      let ended := irqSet 0xB10184 1 (bump 0xB10200 32 1 { s1 with boot := { s1.boot with
        slices := s1.boot.slices.filter (fun y => !(y.slice = slice && y.inst = inst)) } })
      let bad := irqSet 0xB10184 2 (bump 0xB10204 32 1 ended)
      (∀ res : SliceRes, sliceFails s1 slice inst res = [] → s1.now ≤ a + sliceBudget slice →
        exec (.sliceComplete t slice inst res.sig res.toMeasured) s = .next (kept (if blockRetired s1 slice inst then 3 else 0) ended)) ∧
      (∀ res : SliceRes, sliceFails s1 slice inst res ≠ [] → blockRetired s1 slice inst = true →
        exec (.sliceComplete t slice inst res.sig res.toMeasured) s = .next (kept 3 bad)) ∧
      (∀ res : SliceRes, sliceFails s1 slice inst res ≠ [] → blockRetired s1 slice inst = false →
        (∀ k ∈ sliceFails s1 slice inst res, inQuarantine (sliceEv slice inst k) s1 = false) →
        exec (.sliceComplete t slice inst res.sig res.toMeasured) s =
          .next ((sliceFails s1 slice inst res).foldl (fun v k => sliceFailed slice inst k v) (kept 1 bad))) ∧
      (a + sliceBudget slice ≤ s1.now → blockRetired s1 slice inst = false →
        inQuarantine (sliceEv slice inst 0) s1 = false →
        exec (.sliceBudgetExpiry t slice inst) s = .next (sliceFailed slice inst 0 (kept 1 bad)))) ∧
    (∀ k : Stack, exec (.channelPairCopyComplete t k) s =
      .next (modStack k.val (fun x => { x with chCopy := x.chCopy.map (fun c => (c.1, true)) }) s1)) ∧
    (∀ f, s1.boot.writing = some f → 2 ≤ s1.pwr.phase → s1.boot.writeAt + msCc 80 ≤ s1.now →
      exec (.almanacWriteComplete t) s = .next (startField (bump 0xB10210 32 1 { s1 with
        alm := { s1.alm with field := f }
        boot := { s1.boot with writing := none, fieldOk := true, field := { s1.boot.field with seq := f.seq } } })))

/-- R481 to R485: over the management segment a datagram begins a session at offset 0 or goes on at its length, activates an
image as the command does, or asks for the session's length; a session begun while a write of another is in progress ends
that one, whose request is refused; a datagram that breaks a rule of the session is answered with its status, and one whose frame check fails is counted and nothing else. In recovery an accepted image restarts
bring-up at stage Boot ROM. A write to boot NOR that ends answers the request that caused it, or leaves copy A equal to copy B and raises MIN_SVN where that was asked for. -/
def Obligations.Firmware : Prop :=
  ∀ (t image : Nat) (h : MgtHead) (s : State),
    let s1 := tick t s
    let type := imageType image
    let u := bump 0x71A044 32 1 s1
    let x := sessionOf u type
    let taken := (s1.pwr.phase = 2 ∨ s1.pwr.phase = 5) ∧ h.bad = false ∧ mgtOpen u type = true
    let known := 1 ≤ type ∧ type ≤ 4 ∧ imageRsv image = false
    let begun := fun (n bytes : Nat) (v : State) => modSession type (fun z => { z with
      state := 1, bytes, writing := 1, pendBytes := n, cmd := none, mgt := some (1, h.seq, image) }) v
    (s1.pwr.phase = 2 ∨ s1.pwr.phase = 5 → h.bad = true → ∀ off data img,
      exec (.mgtFwStage t h image off data) s = .next (bump 0x71A050 32 1 s1) ∧
      exec (.mgtFwActivate t h image img) s = .next (bump 0x71A050 32 1 s1) ∧
      exec (.mgtFwQuery t h image) s = .next (bump 0x71A050 32 1 s1)) ∧
    (∀ off data, taken → 1 ≤ data.length → data.length ≤ 1024 →
      (type = 0 ∨ 4 < type → exec (.mgtFwStage t h image off data) s = .next (answer (.mgt 1 h.seq image) type 0x14 0 0 u)) ∧
      (1 ≤ type → type ≤ 4 → imageRsv image = true →
        exec (.mgtFwStage t h image off data) s = .next (answer (.mgt 1 h.seq image) type 0x11 0 0 u)) ∧
      (known → x.state = 2 →
        exec (.mgtFwStage t h image off data) s = .next (answer (.mgt 1 h.seq image) type 0x15 0 0 u)) ∧
      (known → x.state ≠ 2 → off ≠ 0 → off ≠ x.bytes ∨ x.writing ≠ 0 →
        exec (.mgtFwStage t h image off data) s = .next (answer (.mgt 1 h.seq image) type 0x17 0x1E 0 u)) ∧
      (known → x.state ≠ 2 → off ≠ 0 → off = x.bytes → x.writing = 0 →
        exec (.mgtFwStage t h image off data) s = .next (begun data.length x.bytes u)) ∧
      (known → x.state ≠ 2 → off = 0 → x.writing ≠ 1 →
        exec (.mgtFwStage t h image off data) s = .next (begun data.length 0
          { u with alm := { u.alm with images := tdel u.alm.images (type * 2 + 1) } })) ∧
      (∀ w, known → x.state ≠ 2 → off = 0 → x.writing = 1 → askerOf x = some w →
        let v := answer w type 0x17 0x1E 0 u
        exec (.mgtFwStage t h image off data) s = .next (begun data.length 0
          { v with alm := { v.alm with images := tdel v.alm.images (type * 2 + 1) } }))) ∧
    (taken →
      exec (.mgtFwQuery t h image) s = .next (queueMgt 4
        (.fwReply 0x83 h.seq image (if 1 ≤ type ∧ type ≤ 4 then 0 else 0x14) x.bytes) u)) ∧
    (∀ img, taken → recovery u type = false →
      exec (.mgtFwActivate t h image img) s = .next (activate (.mgt 2 h.seq image) image img u)) ∧
    (∀ img, taken → recovery u type = true →
      (x.state = 0 ∨ x.writing ≠ 0 ∨ x.bytes < 256 + img.bodyLen →
        exec (.mgtFwActivate t h image img) s = .next (answer (.mgt 2 h.seq image) type 0x17 0x1E 0 u)) ∧
      (x.state ≠ 0 → x.writing = 0 → 256 + img.bodyLen ≤ x.bytes →
        (accepted u type img = false →
          exec (.mgtFwActivate t h image img) s = .next (answer (.mgt 2 h.seq image) type 0x1A 0 0 u)) ∧
        (accepted u type img = true →
          let v := modSession type (fun z => { z with
              state := 2, img := some img, writing := 2, aCurrent := false, commit := bitOf image 8 })
            { u with alm := { u.alm with images := tput u.alm.images (type * 2 + 1) img } }
          let w := queueMgt 4 (.fwReply 0x82 h.seq image 0 (sessionOf v type).bytes) v
          exec (.mgtFwActivate t h image img) s = .next { w with
            alm := { w.alm with images := tdel w.alm.images (type * 2) }
            pwr := { w.pwr with phase := 2, faultN := false }
            boot := { w.boot with stage := 2, cause := none, restarts := satAdd 4 w.boot.restarts 1 } }))) ∧
    (∀ ty, let y := sessionOf s1 ty
      s1.pwr.phase = 2 ∨ s1.pwr.phase = 5 → s1.boot.writing = none →
      (∀ w, y.writing = 1 → askerOf y = some w →
        exec (.imageWriteComplete t ty) s = .next (answer w ty 0 0 y.pendBytes (modSession ty (fun z => { z with
          bytes := z.bytes + z.pendBytes, writing := 0, cmd := none, mgt := none }) s1))) ∧
      (∀ i, y.writing = 2 → y.img = some i →
        let v := modSession ty (fun _ => freshSession) { s1 with alm := { s1.alm with images := tput s1.alm.images (ty * 2) i } }
        exec (.imageWriteComplete t ty) s = .next (if y.commit then startField (changeField (fun f => { f with
          minSvn := tput f.minSvn ty (max i.svn (tget f.minSvn ty 0)) }) v) else v)))

/-! ### Registers -/

/-- R10, R12, R40, R41, R490 to R498: a write of an aligned word in BAR0 reaches its register by the register's kind: a commit
register arms its group, a member's shadow takes the checked fields and the group is WRITTEN, HI of a pair is held, 1s
clear status bits, any other register takes its value. A read gives the register's word and latches HI. A write to no
register changes nothing. -/
def Obligations.Registers : Prop :=
  ∀ (t addr value : Nat) (s : State),
    let s1 := tick t s
    barServed s1 = true → addr < 2 ^ 32 → addr % 4 = 0 →
    (∀ a, target s1 addr = some a →
      (∀ g, commitOf a = some g → value % 2 = 1 →
        pairOfHi a = none → hiOf a = none → exec (.commitRegisterWrite t addr value) s = .next (commitWrite g s1)) ∧
      (∀ g, groupOf a = some g → pairOfHi a = none →
        exec (.commitGroupMemberWrite t addr value) s = .next (writeReg a value s1)) ∧
      (∀ lo, pairOfHi a = some lo → exec (.registerPairHiWrite t addr value) s =
        .next { s1 with hiHeld := tput s1.hiHeld lo (value % 2 ^ 32) }) ∧
      (isStatus s1 a = true → exec (.irqStatusW1c t addr value) s = .next (writeReg a value s1)) ∧
      (ownRow s1 a = false →
        exec (.registerWrite t addr 0xF value) s = .next (setSeconds a (value % 2 ^ 32) (writeReg a (value % 2 ^ 32) s1)))) ∧
    (target s1 addr = none → exec (.registerWrite t addr 0xF value) s = .next s1) ∧
    (exec (.registerPairLoRead t addr) s =
      .next { (readReg addr s1).2 with readData := (readReg addr s1).1 })

/-! ### Formats, status bits, frames and invariants -/

/-- R67, R68: what a code of L8 and of L16 means. A position p stands for the magnitude 2^(p/512). -/
def Obligations.LogCodes : Prop :=
  ∀ neg : Bool,
    let s8 := if neg then 128 else 0
    let s16 := if neg then 32768 else 0
    (logVal fmtL8 0 0 = .zero ∧ logVal fmtL8 0 128 = .nan ∧ logVal fmtL8 0 (s8 + 127) = .inf neg ∧
      ∀ c : Nat, 1 ≤ c → c ≤ 126 → ∃ p : Int, logVal fmtL8 0 (s8 + c) = .pos neg p ∧
        (2 : ℝ) ^ ((p : ℝ) / 512) = 2 ^ (((c : ℝ) - 64) / 8)) ∧
    (logVal fmtL16 0 0 = .zero ∧ logVal fmtL16 0 32768 = .nan ∧ logVal fmtL16 0 (s16 + 0x7FFF) = .inf neg ∧
      ∀ c : Nat, 1 ≤ c → c ≤ 32766 → ∃ p : Int, logVal fmtL16 0 (s16 + c) = .pos neg p ∧
        (2 : ℝ) ^ ((p : ℝ) / 512) = 2 ^ (((c : ℝ) - 16384) / 512))

/-- R80: a code of any logarithmic format, converted to X32 and back with either rounding, is the code again. -/
def Obligations.RoundTrip : Prop :=
  ∀ (f : LogFmt) (code rm u : Nat), f = fmtL4 ∨ f = fmtL8 ∨ f = fmtL16 → code < 2 ^ f.width → u < 2 ^ 16 →
    (convVal f rm u (x32Val (linLog (logVal f 0 code)))).code = code

/-- R12: a status bit that hardware sets in the cc in which software clears it reads 1 afterwards, whichever comes first. -/
def Obligations.StatusBits : Prop :=
  ∀ (a mask v b : Nat) (s : State), bitOf mask b = true →
    bitOf (regA (irqClear a v (irqSet a mask s)) a) b = true ∧ bitOf (regA (irqSet a mask (irqClear a v s)) a) b = true

/-- What an instruction of a thread leaves alone, whether it issues, waits or traps: no register but its destination, no
byte of memory but what it stores. -/
def Obligations.ThreadFrame : Prop :=
  ∀ (i : Issue) (s u : State),
    let s1 := tick i.t s
    let k := thrKey i.core.val i.thr.val
    let w := i.word
    let scalars := fun (d : Option Nat) => ∀ k' n, n < 64 → ¬ (k' = k ∧ some n = d) → sreg u k' n = sreg s1 k' n
    let vectors := fun (d : Option Nat) => ∀ k' v, v < 8 → ¬ (k' = k ∧ some v = d) → vreg u k' v = vreg s1 k' v
    let far := u.hbm = s1.hbm ∧ u.flash = s1.flash ∧ u.acc = s1.acc
    let memory := far ∧ u.store = s1.store
    (∀ c ∈ [Instr.add i, .sub i, .mul i, .mulh i, .and i, .or i, .xor i, .shl i, .shr i, .sra i, .slt i, .sltu i, .min i,
        .max i, .movi i, .movhi i, .scvtf i, .scvti i, .rdspec i],
      exec c s = .next u → memory ∧ scalars (some (sSD w)) ∧ vectors none) ∧
    (∀ c ∈ [Instr.vadd i, .vsub i, .vmul i, .vfma i, .vmax i, .vmin i, .vabs i, .vneg i, .vcvt i, .vscale i, .vbcast i,
        .vsel i, .vcmplt i, .vcmpeq i, .vredsum i, .vredmax i, .vexp2 i, .vlog2 i, .vrecip i, .vrsqrt i, .vrand i, .vmov i],
      exec c s = .next u → memory ∧ scalars none ∧ vectors (some (vVD w))) ∧
    (exec (.vextr i) s = .next u → memory ∧ scalars (some (vSS w)) ∧ vectors none) ∧
    (∀ c ∈ [Instr.nop i, .endThread i, .br i, .brc i, .mile i, .ret i, .ywge i, .yweq i, .release i],
      exec c s = .next u → memory ∧ scalars none ∧ vectors none) ∧
    (exec (.call i) s = .next u → memory ∧ scalars (some 63) ∧ vectors none) ∧
    (exec (.yread i) s = .next u → memory ∧ scalars (some (ySV w)) ∧ vectors none) ∧
    (exec (.mlds i) s = .next u → far ∧ scalars (some (mSB w)) ∧ vectors none) ∧
    (∀ c ∈ [Instr.mldv i, .mldvx i], exec c s = .next u → far ∧ scalars none ∧ vectors (some (mVR w))) ∧
    (∀ c ∈ [Instr.mstv i, .msts i], exec c s = .next u → far ∧ scalars none ∧ vectors none ∧
      ∀ core a, a < 2 ^ 25 → ¬ (core = i.core.val ∧ (localRange s1 k w).1 ≤ a ∧ a < (localRange s1 k w).2) →
        storeRead u core a 1 = storeRead s1 core a 1)

/-- What reset leaves, before any supply: no memory, job, tenant, object or connection, every counter 0, the lockout
engaged, every port down, and configuration registers at the values of their tables. That the lockout is engaged, and the
almanac as built, are the model's (log 3, log 4). -/
def Obligations.ResetState : Prop :=
  let s := State.reset
  s.pending = [] ∧ s.pwr.phase = 0 ∧ s.jobs = [] ∧ s.plans = [] ∧ s.tenants = [] ∧ s.objs = [] ∧ s.ctxs = [] ∧
  s.regions = [] ∧ s.holds = [] ∧ s.works = [] ∧ s.cmds = [] ∧ s.rings = [] ∧ s.sync = [] ∧ s.flt.ring = [] ∧
  (∀ core off n, storeRead s core off n = List.replicate n 0) ∧ (∀ k n, hbmRead s k n = List.replicate n 0) ∧
  (∀ k r, sreg s k r = 0) ∧ (∀ k v, vreg s k v = List.replicate 256 0) ∧ (∀ k, ctrOf s k = 0) ∧
  (∀ code, (portOf s code).up = false) ∧
  cfg s 0x10000 0 16 = 26 ∧ cfg s 0x10018 0 18 = 6600 ∧ cfg s 0x10034 0 16 = 1000 ∧ cfg s 0x700004 0 14 = 0x2580 ∧
  cfg s 0x718210 0 16 = 0x40 ∧ cfg s 0x719000 0 2 = 1 ∧ cfg s 0x71A000 10 8 = 8 ∧ cfg s 0x800000 0 16 = 0xB5F0 ∧
  cfg s 0x800018 0 11 = 0x400 ∧ cfg s 0x23000 0 1 = 1 ∧ cfg s 0x400010 8 8 = 24 ∧ cfg s 0x600010 0 16 = 10 ∧
  cfg s 0xA00000 0 12 = 2000 ∧ cfg s 0xA10020 0 12 = 10 ∧ cfg s 0xB00030 0 10 = 50

/-- The memory of reset is in its canonical form, and the block after reset has nothing waiting. -/
def Obligations.ResetCanonical : Prop := Canonical State.reset ∧ State.reset.pending = []

/-- From every state whose stores are in canonical form, every step gives such a state, and the factory part of the almanac
stands: no command writes it (R409). -/
def Obligations.EveryStepKeeps : Prop :=
  ∀ s u : State, Canonical s → step s = .next u → Canonical u ∧ factoryPart u = factoryPart s
end

