-- ==== Sys2Proof/Laws/State.lean ====
section
/-! SUPPORT. What each update of the state leaves as it was: one lemma per field per update. -/

namespace Sys2Proof.Machine

/-! ### modCore -/

@[simp] theorem modCore_pending (c : Nat) (f : CoreSt → CoreSt) (s : State) : (modCore c f s).pending = s.pending := rfl
@[simp] theorem modCore_now (c : Nat) (f : CoreSt → CoreSt) (s : State) : (modCore c f s).now = s.now := rfl
@[simp] theorem modCore_free (c : Nat) (f : CoreSt → CoreSt) (s : State) : (modCore c f s).free = s.free := rfl
@[simp] theorem modCore_act (c : Nat) (f : CoreSt → CoreSt) (s : State) : (modCore c f s).act = s.act := rfl
@[simp] theorem modCore_shd (c : Nat) (f : CoreSt → CoreSt) (s : State) : (modCore c f s).shd = s.shd := rfl
@[simp] theorem modCore_ctr (c : Nat) (f : CoreSt → CoreSt) (s : State) : (modCore c f s).ctr = s.ctr := rfl
@[simp] theorem modCore_latch (c : Nat) (f : CoreSt → CoreSt) (s : State) : (modCore c f s).latch = s.latch := rfl
@[simp] theorem modCore_hiHeld (c : Nat) (f : CoreSt → CoreSt) (s : State) : (modCore c f s).hiHeld = s.hiHeld := rfl
@[simp] theorem modCore_hwSet (c : Nat) (f : CoreSt → CoreSt) (s : State) : (modCore c f s).hwSet = s.hwSet := rfl
@[simp] theorem modCore_readData (c : Nat) (f : CoreSt → CoreSt) (s : State) : (modCore c f s).readData = s.readData := rfl
@[simp] theorem modCore_groups (c : Nat) (f : CoreSt → CoreSt) (s : State) : (modCore c f s).groups = s.groups := rfl
@[simp] theorem modCore_mer (c : Nat) (f : CoreSt → CoreSt) (s : State) : (modCore c f s).mer = s.mer := rfl
@[simp] theorem modCore_ptp (c : Nat) (f : CoreSt → CoreSt) (s : State) : (modCore c f s).ptp = s.ptp := rfl
@[simp] theorem modCore_jobs (c : Nat) (f : CoreSt → CoreSt) (s : State) : (modCore c f s).jobs = s.jobs := rfl
@[simp] theorem modCore_plans (c : Nat) (f : CoreSt → CoreSt) (s : State) : (modCore c f s).plans = s.plans := rfl
@[simp] theorem modCore_nextPlan (c : Nat) (f : CoreSt → CoreSt) (s : State) : (modCore c f s).nextPlan = s.nextPlan := rfl
@[simp] theorem modCore_threads (c : Nat) (f : CoreSt → CoreSt) (s : State) : (modCore c f s).threads = s.threads := rfl
@[simp] theorem modCore_sregs (c : Nat) (f : CoreSt → CoreSt) (s : State) : (modCore c f s).sregs = s.sregs := rfl
@[simp] theorem modCore_vregs (c : Nat) (f : CoreSt → CoreSt) (s : State) : (modCore c f s).vregs = s.vregs := rfl
@[simp] theorem modCore_sbusy (c : Nat) (f : CoreSt → CoreSt) (s : State) : (modCore c f s).sbusy = s.sbusy := rfl
@[simp] theorem modCore_vbusy (c : Nat) (f : CoreSt → CoreSt) (s : State) : (modCore c f s).vbusy = s.vbusy := rfl
@[simp] theorem modCore_ranges (c : Nat) (f : CoreSt → CoreSt) (s : State) : (modCore c f s).ranges = s.ranges := rfl
@[simp] theorem modCore_store (c : Nat) (f : CoreSt → CoreSt) (s : State) : (modCore c f s).store = s.store := rfl
@[simp] theorem modCore_badStore (c : Nat) (f : CoreSt → CoreSt) (s : State) : (modCore c f s).badStore = s.badStore := rfl
@[simp] theorem modCore_badVec (c : Nat) (f : CoreSt → CoreSt) (s : State) : (modCore c f s).badVec = s.badVec := rfl
@[simp] theorem modCore_acc (c : Nat) (f : CoreSt → CoreSt) (s : State) : (modCore c f s).acc = s.acc := rfl
@[simp] theorem modCore_badAcc (c : Nat) (f : CoreSt → CoreSt) (s : State) : (modCore c f s).badAcc = s.badAcc := rfl
@[simp] theorem modCore_slots (c : Nat) (f : CoreSt → CoreSt) (s : State) : (modCore c f s).slots = s.slots := rfl
@[simp] theorem modCore_badSlot (c : Nat) (f : CoreSt → CoreSt) (s : State) : (modCore c f s).badSlot = s.badSlot := rfl
@[simp] theorem modCore_sync (c : Nat) (f : CoreSt → CoreSt) (s : State) : (modCore c f s).sync = s.sync := rfl
@[simp] theorem modCore_signals (c : Nat) (f : CoreSt → CoreSt) (s : State) : (modCore c f s).signals = s.signals := rfl
@[simp] theorem modCore_hbm (c : Nat) (f : CoreSt → CoreSt) (s : State) : (modCore c f s).hbm = s.hbm := rfl
@[simp] theorem modCore_stks (c : Nat) (f : CoreSt → CoreSt) (s : State) : (modCore c f s).stks = s.stks := rfl
@[simp] theorem modCore_recs (c : Nat) (f : CoreSt → CoreSt) (s : State) : (modCore c f s).recs = s.recs := rfl
@[simp] theorem modCore_upds (c : Nat) (f : CoreSt → CoreSt) (s : State) : (modCore c f s).upds = s.upds := rfl
@[simp] theorem modCore_nextUpd (c : Nat) (f : CoreSt → CoreSt) (s : State) : (modCore c f s).nextUpd = s.nextUpd := rfl
@[simp] theorem modCore_objs (c : Nat) (f : CoreSt → CoreSt) (s : State) : (modCore c f s).objs = s.objs := rfl
@[simp] theorem modCore_nextObj (c : Nat) (f : CoreSt → CoreSt) (s : State) : (modCore c f s).nextObj = s.nextObj := rfl
@[simp] theorem modCore_frames (c : Nat) (f : CoreSt → CoreSt) (s : State) : (modCore c f s).frames = s.frames := rfl
@[simp] theorem modCore_tables (c : Nat) (f : CoreSt → CoreSt) (s : State) : (modCore c f s).tables = s.tables := rfl
@[simp] theorem modCore_vault (c : Nat) (f : CoreSt → CoreSt) (s : State) : (modCore c f s).vault = s.vault := rfl
@[simp] theorem modCore_flash (c : Nat) (f : CoreSt → CoreSt) (s : State) : (modCore c f s).flash = s.flash := rfl
@[simp] theorem modCore_ephCnt (c : Nat) (f : CoreSt → CoreSt) (s : State) : (modCore c f s).ephCnt = s.ephCnt := rfl
@[simp] theorem modCore_edges (c : Nat) (f : CoreSt → CoreSt) (s : State) : (modCore c f s).edges = s.edges := rfl
@[simp] theorem modCore_staged (c : Nat) (f : CoreSt → CoreSt) (s : State) : (modCore c f s).staged = s.staged := rfl
@[simp] theorem modCore_ports (c : Nat) (f : CoreSt → CoreSt) (s : State) : (modCore c f s).ports = s.ports := rfl
@[simp] theorem modCore_taken (c : Nat) (f : CoreSt → CoreSt) (s : State) : (modCore c f s).taken = s.taken := rfl
@[simp] theorem modCore_spray (c : Nat) (f : CoreSt → CoreSt) (s : State) : (modCore c f s).spray = s.spray := rfl
@[simp] theorem modCore_puHead (c : Nat) (f : CoreSt → CoreSt) (s : State) : (modCore c f s).puHead = s.puHead := rfl
@[simp] theorem modCore_txHead (c : Nat) (f : CoreSt → CoreSt) (s : State) : (modCore c f s).txHead = s.txHead := rfl
@[simp] theorem modCore_mgt (c : Nat) (f : CoreSt → CoreSt) (s : State) : (modCore c f s).mgt = s.mgt := rfl
@[simp] theorem modCore_ctxs (c : Nat) (f : CoreSt → CoreSt) (s : State) : (modCore c f s).ctxs = s.ctxs := rfl
@[simp] theorem modCore_ctxGen (c : Nat) (f : CoreSt → CoreSt) (s : State) : (modCore c f s).ctxGen = s.ctxGen := rfl
@[simp] theorem modCore_regions (c : Nat) (f : CoreSt → CoreSt) (s : State) : (modCore c f s).regions = s.regions := rfl
@[simp] theorem modCore_regionCap (c : Nat) (f : CoreSt → CoreSt) (s : State) : (modCore c f s).regionCap = s.regionCap := rfl
@[simp] theorem modCore_held (c : Nat) (f : CoreSt → CoreSt) (s : State) : (modCore c f s).held = s.held := rfl
@[simp] theorem modCore_holds (c : Nat) (f : CoreSt → CoreSt) (s : State) : (modCore c f s).holds = s.holds := rfl
@[simp] theorem modCore_landing (c : Nat) (f : CoreSt → CoreSt) (s : State) : (modCore c f s).landing = s.landing := rfl
@[simp] theorem modCore_nextHold (c : Nat) (f : CoreSt → CoreSt) (s : State) : (modCore c f s).nextHold = s.nextHold := rfl
@[simp] theorem modCore_works (c : Nat) (f : CoreSt → CoreSt) (s : State) : (modCore c f s).works = s.works := rfl
@[simp] theorem modCore_nextWork (c : Nat) (f : CoreSt → CoreSt) (s : State) : (modCore c f s).nextWork = s.nextWork := rfl
@[simp] theorem modCore_pcie (c : Nat) (f : CoreSt → CoreSt) (s : State) : (modCore c f s).pcie = s.pcie := rfl
@[simp] theorem modCore_rings (c : Nat) (f : CoreSt → CoreSt) (s : State) : (modCore c f s).rings = s.rings := rfl
@[simp] theorem modCore_cmds (c : Nat) (f : CoreSt → CoreSt) (s : State) : (modCore c f s).cmds = s.cmds := rfl
@[simp] theorem modCore_nextCmd (c : Nat) (f : CoreSt → CoreSt) (s : State) : (modCore c f s).nextCmd = s.nextCmd := rfl
@[simp] theorem modCore_tenants (c : Nat) (f : CoreSt → CoreSt) (s : State) : (modCore c f s).tenants = s.tenants := rfl
@[simp] theorem modCore_census (c : Nat) (f : CoreSt → CoreSt) (s : State) : (modCore c f s).census = s.census := rfl
@[simp] theorem modCore_tallies (c : Nat) (f : CoreSt → CoreSt) (s : State) : (modCore c f s).tallies = s.tallies := rfl
@[simp] theorem modCore_snap (c : Nat) (f : CoreSt → CoreSt) (s : State) : (modCore c f s).snap = s.snap := rfl
@[simp] theorem modCore_snapM (c : Nat) (f : CoreSt → CoreSt) (s : State) : (modCore c f s).snapM = s.snapM := rfl
@[simp] theorem modCore_pho (c : Nat) (f : CoreSt → CoreSt) (s : State) : (modCore c f s).pho = s.pho := rfl
@[simp] theorem modCore_flt (c : Nat) (f : CoreSt → CoreSt) (s : State) : (modCore c f s).flt = s.flt := rfl
@[simp] theorem modCore_alm (c : Nat) (f : CoreSt → CoreSt) (s : State) : (modCore c f s).alm = s.alm := rfl
@[simp] theorem modCore_boot (c : Nat) (f : CoreSt → CoreSt) (s : State) : (modCore c f s).boot = s.boot := rfl
@[simp] theorem modCore_fw (c : Nat) (f : CoreSt → CoreSt) (s : State) : (modCore c f s).fw = s.fw := rfl
@[simp] theorem modCore_pwr (c : Nat) (f : CoreSt → CoreSt) (s : State) : (modCore c f s).pwr = s.pwr := rfl
@[simp] theorem modCore_out (c : Nat) (f : CoreSt → CoreSt) (s : State) : (modCore c f s).out = s.out := rfl

/-! ### modJob -/

@[simp] theorem modJob_pending (slot : Nat) (f : Job → Job) (s : State) : (modJob slot f s).pending = s.pending := rfl
@[simp] theorem modJob_now (slot : Nat) (f : Job → Job) (s : State) : (modJob slot f s).now = s.now := rfl
@[simp] theorem modJob_free (slot : Nat) (f : Job → Job) (s : State) : (modJob slot f s).free = s.free := rfl
@[simp] theorem modJob_act (slot : Nat) (f : Job → Job) (s : State) : (modJob slot f s).act = s.act := rfl
@[simp] theorem modJob_shd (slot : Nat) (f : Job → Job) (s : State) : (modJob slot f s).shd = s.shd := rfl
@[simp] theorem modJob_ctr (slot : Nat) (f : Job → Job) (s : State) : (modJob slot f s).ctr = s.ctr := rfl
@[simp] theorem modJob_latch (slot : Nat) (f : Job → Job) (s : State) : (modJob slot f s).latch = s.latch := rfl
@[simp] theorem modJob_hiHeld (slot : Nat) (f : Job → Job) (s : State) : (modJob slot f s).hiHeld = s.hiHeld := rfl
@[simp] theorem modJob_hwSet (slot : Nat) (f : Job → Job) (s : State) : (modJob slot f s).hwSet = s.hwSet := rfl
@[simp] theorem modJob_readData (slot : Nat) (f : Job → Job) (s : State) : (modJob slot f s).readData = s.readData := rfl
@[simp] theorem modJob_groups (slot : Nat) (f : Job → Job) (s : State) : (modJob slot f s).groups = s.groups := rfl
@[simp] theorem modJob_mer (slot : Nat) (f : Job → Job) (s : State) : (modJob slot f s).mer = s.mer := rfl
@[simp] theorem modJob_ptp (slot : Nat) (f : Job → Job) (s : State) : (modJob slot f s).ptp = s.ptp := rfl
@[simp] theorem modJob_plans (slot : Nat) (f : Job → Job) (s : State) : (modJob slot f s).plans = s.plans := rfl
@[simp] theorem modJob_nextPlan (slot : Nat) (f : Job → Job) (s : State) : (modJob slot f s).nextPlan = s.nextPlan := rfl
@[simp] theorem modJob_cores (slot : Nat) (f : Job → Job) (s : State) : (modJob slot f s).cores = s.cores := rfl
@[simp] theorem modJob_threads (slot : Nat) (f : Job → Job) (s : State) : (modJob slot f s).threads = s.threads := rfl
@[simp] theorem modJob_sregs (slot : Nat) (f : Job → Job) (s : State) : (modJob slot f s).sregs = s.sregs := rfl
@[simp] theorem modJob_vregs (slot : Nat) (f : Job → Job) (s : State) : (modJob slot f s).vregs = s.vregs := rfl
@[simp] theorem modJob_sbusy (slot : Nat) (f : Job → Job) (s : State) : (modJob slot f s).sbusy = s.sbusy := rfl
@[simp] theorem modJob_vbusy (slot : Nat) (f : Job → Job) (s : State) : (modJob slot f s).vbusy = s.vbusy := rfl
@[simp] theorem modJob_ranges (slot : Nat) (f : Job → Job) (s : State) : (modJob slot f s).ranges = s.ranges := rfl
@[simp] theorem modJob_store (slot : Nat) (f : Job → Job) (s : State) : (modJob slot f s).store = s.store := rfl
@[simp] theorem modJob_badStore (slot : Nat) (f : Job → Job) (s : State) : (modJob slot f s).badStore = s.badStore := rfl
@[simp] theorem modJob_badVec (slot : Nat) (f : Job → Job) (s : State) : (modJob slot f s).badVec = s.badVec := rfl
@[simp] theorem modJob_acc (slot : Nat) (f : Job → Job) (s : State) : (modJob slot f s).acc = s.acc := rfl
@[simp] theorem modJob_badAcc (slot : Nat) (f : Job → Job) (s : State) : (modJob slot f s).badAcc = s.badAcc := rfl
@[simp] theorem modJob_slots (slot : Nat) (f : Job → Job) (s : State) : (modJob slot f s).slots = s.slots := rfl
@[simp] theorem modJob_badSlot (slot : Nat) (f : Job → Job) (s : State) : (modJob slot f s).badSlot = s.badSlot := rfl
@[simp] theorem modJob_sync (slot : Nat) (f : Job → Job) (s : State) : (modJob slot f s).sync = s.sync := rfl
@[simp] theorem modJob_signals (slot : Nat) (f : Job → Job) (s : State) : (modJob slot f s).signals = s.signals := rfl
@[simp] theorem modJob_hbm (slot : Nat) (f : Job → Job) (s : State) : (modJob slot f s).hbm = s.hbm := rfl
@[simp] theorem modJob_stks (slot : Nat) (f : Job → Job) (s : State) : (modJob slot f s).stks = s.stks := rfl
@[simp] theorem modJob_recs (slot : Nat) (f : Job → Job) (s : State) : (modJob slot f s).recs = s.recs := rfl
@[simp] theorem modJob_upds (slot : Nat) (f : Job → Job) (s : State) : (modJob slot f s).upds = s.upds := rfl
@[simp] theorem modJob_nextUpd (slot : Nat) (f : Job → Job) (s : State) : (modJob slot f s).nextUpd = s.nextUpd := rfl
@[simp] theorem modJob_objs (slot : Nat) (f : Job → Job) (s : State) : (modJob slot f s).objs = s.objs := rfl
@[simp] theorem modJob_nextObj (slot : Nat) (f : Job → Job) (s : State) : (modJob slot f s).nextObj = s.nextObj := rfl
@[simp] theorem modJob_frames (slot : Nat) (f : Job → Job) (s : State) : (modJob slot f s).frames = s.frames := rfl
@[simp] theorem modJob_tables (slot : Nat) (f : Job → Job) (s : State) : (modJob slot f s).tables = s.tables := rfl
@[simp] theorem modJob_vault (slot : Nat) (f : Job → Job) (s : State) : (modJob slot f s).vault = s.vault := rfl
@[simp] theorem modJob_flash (slot : Nat) (f : Job → Job) (s : State) : (modJob slot f s).flash = s.flash := rfl
@[simp] theorem modJob_ephCnt (slot : Nat) (f : Job → Job) (s : State) : (modJob slot f s).ephCnt = s.ephCnt := rfl
@[simp] theorem modJob_edges (slot : Nat) (f : Job → Job) (s : State) : (modJob slot f s).edges = s.edges := rfl
@[simp] theorem modJob_staged (slot : Nat) (f : Job → Job) (s : State) : (modJob slot f s).staged = s.staged := rfl
@[simp] theorem modJob_ports (slot : Nat) (f : Job → Job) (s : State) : (modJob slot f s).ports = s.ports := rfl
@[simp] theorem modJob_taken (slot : Nat) (f : Job → Job) (s : State) : (modJob slot f s).taken = s.taken := rfl
@[simp] theorem modJob_spray (slot : Nat) (f : Job → Job) (s : State) : (modJob slot f s).spray = s.spray := rfl
@[simp] theorem modJob_puHead (slot : Nat) (f : Job → Job) (s : State) : (modJob slot f s).puHead = s.puHead := rfl
@[simp] theorem modJob_txHead (slot : Nat) (f : Job → Job) (s : State) : (modJob slot f s).txHead = s.txHead := rfl
@[simp] theorem modJob_mgt (slot : Nat) (f : Job → Job) (s : State) : (modJob slot f s).mgt = s.mgt := rfl
@[simp] theorem modJob_ctxs (slot : Nat) (f : Job → Job) (s : State) : (modJob slot f s).ctxs = s.ctxs := rfl
@[simp] theorem modJob_ctxGen (slot : Nat) (f : Job → Job) (s : State) : (modJob slot f s).ctxGen = s.ctxGen := rfl
@[simp] theorem modJob_regions (slot : Nat) (f : Job → Job) (s : State) : (modJob slot f s).regions = s.regions := rfl
@[simp] theorem modJob_regionCap (slot : Nat) (f : Job → Job) (s : State) : (modJob slot f s).regionCap = s.regionCap := rfl
@[simp] theorem modJob_held (slot : Nat) (f : Job → Job) (s : State) : (modJob slot f s).held = s.held := rfl
@[simp] theorem modJob_holds (slot : Nat) (f : Job → Job) (s : State) : (modJob slot f s).holds = s.holds := rfl
@[simp] theorem modJob_landing (slot : Nat) (f : Job → Job) (s : State) : (modJob slot f s).landing = s.landing := rfl
@[simp] theorem modJob_nextHold (slot : Nat) (f : Job → Job) (s : State) : (modJob slot f s).nextHold = s.nextHold := rfl
@[simp] theorem modJob_works (slot : Nat) (f : Job → Job) (s : State) : (modJob slot f s).works = s.works := rfl
@[simp] theorem modJob_nextWork (slot : Nat) (f : Job → Job) (s : State) : (modJob slot f s).nextWork = s.nextWork := rfl
@[simp] theorem modJob_pcie (slot : Nat) (f : Job → Job) (s : State) : (modJob slot f s).pcie = s.pcie := rfl
@[simp] theorem modJob_rings (slot : Nat) (f : Job → Job) (s : State) : (modJob slot f s).rings = s.rings := rfl
@[simp] theorem modJob_cmds (slot : Nat) (f : Job → Job) (s : State) : (modJob slot f s).cmds = s.cmds := rfl
@[simp] theorem modJob_nextCmd (slot : Nat) (f : Job → Job) (s : State) : (modJob slot f s).nextCmd = s.nextCmd := rfl
@[simp] theorem modJob_tenants (slot : Nat) (f : Job → Job) (s : State) : (modJob slot f s).tenants = s.tenants := rfl
@[simp] theorem modJob_census (slot : Nat) (f : Job → Job) (s : State) : (modJob slot f s).census = s.census := rfl
@[simp] theorem modJob_tallies (slot : Nat) (f : Job → Job) (s : State) : (modJob slot f s).tallies = s.tallies := rfl
@[simp] theorem modJob_snap (slot : Nat) (f : Job → Job) (s : State) : (modJob slot f s).snap = s.snap := rfl
@[simp] theorem modJob_snapM (slot : Nat) (f : Job → Job) (s : State) : (modJob slot f s).snapM = s.snapM := rfl
@[simp] theorem modJob_pho (slot : Nat) (f : Job → Job) (s : State) : (modJob slot f s).pho = s.pho := rfl
@[simp] theorem modJob_flt (slot : Nat) (f : Job → Job) (s : State) : (modJob slot f s).flt = s.flt := rfl
@[simp] theorem modJob_alm (slot : Nat) (f : Job → Job) (s : State) : (modJob slot f s).alm = s.alm := rfl
@[simp] theorem modJob_boot (slot : Nat) (f : Job → Job) (s : State) : (modJob slot f s).boot = s.boot := rfl
@[simp] theorem modJob_fw (slot : Nat) (f : Job → Job) (s : State) : (modJob slot f s).fw = s.fw := rfl
@[simp] theorem modJob_pwr (slot : Nat) (f : Job → Job) (s : State) : (modJob slot f s).pwr = s.pwr := rfl
@[simp] theorem modJob_out (slot : Nat) (f : Job → Job) (s : State) : (modJob slot f s).out = s.out := rfl

/-! ### modPort -/

@[simp] theorem modPort_pending (p : Nat) (f : Port → Port) (s : State) : (modPort p f s).pending = s.pending := rfl
@[simp] theorem modPort_now (p : Nat) (f : Port → Port) (s : State) : (modPort p f s).now = s.now := rfl
@[simp] theorem modPort_free (p : Nat) (f : Port → Port) (s : State) : (modPort p f s).free = s.free := rfl
@[simp] theorem modPort_act (p : Nat) (f : Port → Port) (s : State) : (modPort p f s).act = s.act := rfl
@[simp] theorem modPort_shd (p : Nat) (f : Port → Port) (s : State) : (modPort p f s).shd = s.shd := rfl
@[simp] theorem modPort_ctr (p : Nat) (f : Port → Port) (s : State) : (modPort p f s).ctr = s.ctr := rfl
@[simp] theorem modPort_latch (p : Nat) (f : Port → Port) (s : State) : (modPort p f s).latch = s.latch := rfl
@[simp] theorem modPort_hiHeld (p : Nat) (f : Port → Port) (s : State) : (modPort p f s).hiHeld = s.hiHeld := rfl
@[simp] theorem modPort_hwSet (p : Nat) (f : Port → Port) (s : State) : (modPort p f s).hwSet = s.hwSet := rfl
@[simp] theorem modPort_readData (p : Nat) (f : Port → Port) (s : State) : (modPort p f s).readData = s.readData := rfl
@[simp] theorem modPort_groups (p : Nat) (f : Port → Port) (s : State) : (modPort p f s).groups = s.groups := rfl
@[simp] theorem modPort_mer (p : Nat) (f : Port → Port) (s : State) : (modPort p f s).mer = s.mer := rfl
@[simp] theorem modPort_ptp (p : Nat) (f : Port → Port) (s : State) : (modPort p f s).ptp = s.ptp := rfl
@[simp] theorem modPort_jobs (p : Nat) (f : Port → Port) (s : State) : (modPort p f s).jobs = s.jobs := rfl
@[simp] theorem modPort_plans (p : Nat) (f : Port → Port) (s : State) : (modPort p f s).plans = s.plans := rfl
@[simp] theorem modPort_nextPlan (p : Nat) (f : Port → Port) (s : State) : (modPort p f s).nextPlan = s.nextPlan := rfl
@[simp] theorem modPort_cores (p : Nat) (f : Port → Port) (s : State) : (modPort p f s).cores = s.cores := rfl
@[simp] theorem modPort_threads (p : Nat) (f : Port → Port) (s : State) : (modPort p f s).threads = s.threads := rfl
@[simp] theorem modPort_sregs (p : Nat) (f : Port → Port) (s : State) : (modPort p f s).sregs = s.sregs := rfl
@[simp] theorem modPort_vregs (p : Nat) (f : Port → Port) (s : State) : (modPort p f s).vregs = s.vregs := rfl
@[simp] theorem modPort_sbusy (p : Nat) (f : Port → Port) (s : State) : (modPort p f s).sbusy = s.sbusy := rfl
@[simp] theorem modPort_vbusy (p : Nat) (f : Port → Port) (s : State) : (modPort p f s).vbusy = s.vbusy := rfl
@[simp] theorem modPort_ranges (p : Nat) (f : Port → Port) (s : State) : (modPort p f s).ranges = s.ranges := rfl
@[simp] theorem modPort_store (p : Nat) (f : Port → Port) (s : State) : (modPort p f s).store = s.store := rfl
@[simp] theorem modPort_badStore (p : Nat) (f : Port → Port) (s : State) : (modPort p f s).badStore = s.badStore := rfl
@[simp] theorem modPort_badVec (p : Nat) (f : Port → Port) (s : State) : (modPort p f s).badVec = s.badVec := rfl
@[simp] theorem modPort_acc (p : Nat) (f : Port → Port) (s : State) : (modPort p f s).acc = s.acc := rfl
@[simp] theorem modPort_badAcc (p : Nat) (f : Port → Port) (s : State) : (modPort p f s).badAcc = s.badAcc := rfl
@[simp] theorem modPort_slots (p : Nat) (f : Port → Port) (s : State) : (modPort p f s).slots = s.slots := rfl
@[simp] theorem modPort_badSlot (p : Nat) (f : Port → Port) (s : State) : (modPort p f s).badSlot = s.badSlot := rfl
@[simp] theorem modPort_sync (p : Nat) (f : Port → Port) (s : State) : (modPort p f s).sync = s.sync := rfl
@[simp] theorem modPort_signals (p : Nat) (f : Port → Port) (s : State) : (modPort p f s).signals = s.signals := rfl
@[simp] theorem modPort_hbm (p : Nat) (f : Port → Port) (s : State) : (modPort p f s).hbm = s.hbm := rfl
@[simp] theorem modPort_stks (p : Nat) (f : Port → Port) (s : State) : (modPort p f s).stks = s.stks := rfl
@[simp] theorem modPort_recs (p : Nat) (f : Port → Port) (s : State) : (modPort p f s).recs = s.recs := rfl
@[simp] theorem modPort_upds (p : Nat) (f : Port → Port) (s : State) : (modPort p f s).upds = s.upds := rfl
@[simp] theorem modPort_nextUpd (p : Nat) (f : Port → Port) (s : State) : (modPort p f s).nextUpd = s.nextUpd := rfl
@[simp] theorem modPort_objs (p : Nat) (f : Port → Port) (s : State) : (modPort p f s).objs = s.objs := rfl
@[simp] theorem modPort_nextObj (p : Nat) (f : Port → Port) (s : State) : (modPort p f s).nextObj = s.nextObj := rfl
@[simp] theorem modPort_frames (p : Nat) (f : Port → Port) (s : State) : (modPort p f s).frames = s.frames := rfl
@[simp] theorem modPort_tables (p : Nat) (f : Port → Port) (s : State) : (modPort p f s).tables = s.tables := rfl
@[simp] theorem modPort_vault (p : Nat) (f : Port → Port) (s : State) : (modPort p f s).vault = s.vault := rfl
@[simp] theorem modPort_flash (p : Nat) (f : Port → Port) (s : State) : (modPort p f s).flash = s.flash := rfl
@[simp] theorem modPort_ephCnt (p : Nat) (f : Port → Port) (s : State) : (modPort p f s).ephCnt = s.ephCnt := rfl
@[simp] theorem modPort_edges (p : Nat) (f : Port → Port) (s : State) : (modPort p f s).edges = s.edges := rfl
@[simp] theorem modPort_staged (p : Nat) (f : Port → Port) (s : State) : (modPort p f s).staged = s.staged := rfl
@[simp] theorem modPort_taken (p : Nat) (f : Port → Port) (s : State) : (modPort p f s).taken = s.taken := rfl
@[simp] theorem modPort_spray (p : Nat) (f : Port → Port) (s : State) : (modPort p f s).spray = s.spray := rfl
@[simp] theorem modPort_puHead (p : Nat) (f : Port → Port) (s : State) : (modPort p f s).puHead = s.puHead := rfl
@[simp] theorem modPort_txHead (p : Nat) (f : Port → Port) (s : State) : (modPort p f s).txHead = s.txHead := rfl
@[simp] theorem modPort_mgt (p : Nat) (f : Port → Port) (s : State) : (modPort p f s).mgt = s.mgt := rfl
@[simp] theorem modPort_ctxs (p : Nat) (f : Port → Port) (s : State) : (modPort p f s).ctxs = s.ctxs := rfl
@[simp] theorem modPort_ctxGen (p : Nat) (f : Port → Port) (s : State) : (modPort p f s).ctxGen = s.ctxGen := rfl
@[simp] theorem modPort_regions (p : Nat) (f : Port → Port) (s : State) : (modPort p f s).regions = s.regions := rfl
@[simp] theorem modPort_regionCap (p : Nat) (f : Port → Port) (s : State) : (modPort p f s).regionCap = s.regionCap := rfl
@[simp] theorem modPort_held (p : Nat) (f : Port → Port) (s : State) : (modPort p f s).held = s.held := rfl
@[simp] theorem modPort_holds (p : Nat) (f : Port → Port) (s : State) : (modPort p f s).holds = s.holds := rfl
@[simp] theorem modPort_landing (p : Nat) (f : Port → Port) (s : State) : (modPort p f s).landing = s.landing := rfl
@[simp] theorem modPort_nextHold (p : Nat) (f : Port → Port) (s : State) : (modPort p f s).nextHold = s.nextHold := rfl
@[simp] theorem modPort_works (p : Nat) (f : Port → Port) (s : State) : (modPort p f s).works = s.works := rfl
@[simp] theorem modPort_nextWork (p : Nat) (f : Port → Port) (s : State) : (modPort p f s).nextWork = s.nextWork := rfl
@[simp] theorem modPort_pcie (p : Nat) (f : Port → Port) (s : State) : (modPort p f s).pcie = s.pcie := rfl
@[simp] theorem modPort_rings (p : Nat) (f : Port → Port) (s : State) : (modPort p f s).rings = s.rings := rfl
@[simp] theorem modPort_cmds (p : Nat) (f : Port → Port) (s : State) : (modPort p f s).cmds = s.cmds := rfl
@[simp] theorem modPort_nextCmd (p : Nat) (f : Port → Port) (s : State) : (modPort p f s).nextCmd = s.nextCmd := rfl
@[simp] theorem modPort_tenants (p : Nat) (f : Port → Port) (s : State) : (modPort p f s).tenants = s.tenants := rfl
@[simp] theorem modPort_census (p : Nat) (f : Port → Port) (s : State) : (modPort p f s).census = s.census := rfl
@[simp] theorem modPort_tallies (p : Nat) (f : Port → Port) (s : State) : (modPort p f s).tallies = s.tallies := rfl
@[simp] theorem modPort_snap (p : Nat) (f : Port → Port) (s : State) : (modPort p f s).snap = s.snap := rfl
@[simp] theorem modPort_snapM (p : Nat) (f : Port → Port) (s : State) : (modPort p f s).snapM = s.snapM := rfl
@[simp] theorem modPort_pho (p : Nat) (f : Port → Port) (s : State) : (modPort p f s).pho = s.pho := rfl
@[simp] theorem modPort_flt (p : Nat) (f : Port → Port) (s : State) : (modPort p f s).flt = s.flt := rfl
@[simp] theorem modPort_alm (p : Nat) (f : Port → Port) (s : State) : (modPort p f s).alm = s.alm := rfl
@[simp] theorem modPort_boot (p : Nat) (f : Port → Port) (s : State) : (modPort p f s).boot = s.boot := rfl
@[simp] theorem modPort_fw (p : Nat) (f : Port → Port) (s : State) : (modPort p f s).fw = s.fw := rfl
@[simp] theorem modPort_pwr (p : Nat) (f : Port → Port) (s : State) : (modPort p f s).pwr = s.pwr := rfl
@[simp] theorem modPort_out (p : Nat) (f : Port → Port) (s : State) : (modPort p f s).out = s.out := rfl

/-! ### modStack -/

@[simp] theorem modStack_pending (n : Nat) (f : StackSt → StackSt) (s : State) : (modStack n f s).pending = s.pending := rfl
@[simp] theorem modStack_now (n : Nat) (f : StackSt → StackSt) (s : State) : (modStack n f s).now = s.now := rfl
@[simp] theorem modStack_free (n : Nat) (f : StackSt → StackSt) (s : State) : (modStack n f s).free = s.free := rfl
@[simp] theorem modStack_act (n : Nat) (f : StackSt → StackSt) (s : State) : (modStack n f s).act = s.act := rfl
@[simp] theorem modStack_shd (n : Nat) (f : StackSt → StackSt) (s : State) : (modStack n f s).shd = s.shd := rfl
@[simp] theorem modStack_ctr (n : Nat) (f : StackSt → StackSt) (s : State) : (modStack n f s).ctr = s.ctr := rfl
@[simp] theorem modStack_latch (n : Nat) (f : StackSt → StackSt) (s : State) : (modStack n f s).latch = s.latch := rfl
@[simp] theorem modStack_hiHeld (n : Nat) (f : StackSt → StackSt) (s : State) : (modStack n f s).hiHeld = s.hiHeld := rfl
@[simp] theorem modStack_hwSet (n : Nat) (f : StackSt → StackSt) (s : State) : (modStack n f s).hwSet = s.hwSet := rfl
@[simp] theorem modStack_readData (n : Nat) (f : StackSt → StackSt) (s : State) : (modStack n f s).readData = s.readData := rfl
@[simp] theorem modStack_groups (n : Nat) (f : StackSt → StackSt) (s : State) : (modStack n f s).groups = s.groups := rfl
@[simp] theorem modStack_mer (n : Nat) (f : StackSt → StackSt) (s : State) : (modStack n f s).mer = s.mer := rfl
@[simp] theorem modStack_ptp (n : Nat) (f : StackSt → StackSt) (s : State) : (modStack n f s).ptp = s.ptp := rfl
@[simp] theorem modStack_jobs (n : Nat) (f : StackSt → StackSt) (s : State) : (modStack n f s).jobs = s.jobs := rfl
@[simp] theorem modStack_plans (n : Nat) (f : StackSt → StackSt) (s : State) : (modStack n f s).plans = s.plans := rfl
@[simp] theorem modStack_nextPlan (n : Nat) (f : StackSt → StackSt) (s : State) : (modStack n f s).nextPlan = s.nextPlan := rfl
@[simp] theorem modStack_cores (n : Nat) (f : StackSt → StackSt) (s : State) : (modStack n f s).cores = s.cores := rfl
@[simp] theorem modStack_threads (n : Nat) (f : StackSt → StackSt) (s : State) : (modStack n f s).threads = s.threads := rfl
@[simp] theorem modStack_sregs (n : Nat) (f : StackSt → StackSt) (s : State) : (modStack n f s).sregs = s.sregs := rfl
@[simp] theorem modStack_vregs (n : Nat) (f : StackSt → StackSt) (s : State) : (modStack n f s).vregs = s.vregs := rfl
@[simp] theorem modStack_sbusy (n : Nat) (f : StackSt → StackSt) (s : State) : (modStack n f s).sbusy = s.sbusy := rfl
@[simp] theorem modStack_vbusy (n : Nat) (f : StackSt → StackSt) (s : State) : (modStack n f s).vbusy = s.vbusy := rfl
@[simp] theorem modStack_ranges (n : Nat) (f : StackSt → StackSt) (s : State) : (modStack n f s).ranges = s.ranges := rfl
@[simp] theorem modStack_store (n : Nat) (f : StackSt → StackSt) (s : State) : (modStack n f s).store = s.store := rfl
@[simp] theorem modStack_badStore (n : Nat) (f : StackSt → StackSt) (s : State) : (modStack n f s).badStore = s.badStore := rfl
@[simp] theorem modStack_badVec (n : Nat) (f : StackSt → StackSt) (s : State) : (modStack n f s).badVec = s.badVec := rfl
@[simp] theorem modStack_acc (n : Nat) (f : StackSt → StackSt) (s : State) : (modStack n f s).acc = s.acc := rfl
@[simp] theorem modStack_badAcc (n : Nat) (f : StackSt → StackSt) (s : State) : (modStack n f s).badAcc = s.badAcc := rfl
@[simp] theorem modStack_slots (n : Nat) (f : StackSt → StackSt) (s : State) : (modStack n f s).slots = s.slots := rfl
@[simp] theorem modStack_badSlot (n : Nat) (f : StackSt → StackSt) (s : State) : (modStack n f s).badSlot = s.badSlot := rfl
@[simp] theorem modStack_sync (n : Nat) (f : StackSt → StackSt) (s : State) : (modStack n f s).sync = s.sync := rfl
@[simp] theorem modStack_signals (n : Nat) (f : StackSt → StackSt) (s : State) : (modStack n f s).signals = s.signals := rfl
@[simp] theorem modStack_hbm (n : Nat) (f : StackSt → StackSt) (s : State) : (modStack n f s).hbm = s.hbm := rfl
@[simp] theorem modStack_recs (n : Nat) (f : StackSt → StackSt) (s : State) : (modStack n f s).recs = s.recs := rfl
@[simp] theorem modStack_upds (n : Nat) (f : StackSt → StackSt) (s : State) : (modStack n f s).upds = s.upds := rfl
@[simp] theorem modStack_nextUpd (n : Nat) (f : StackSt → StackSt) (s : State) : (modStack n f s).nextUpd = s.nextUpd := rfl
@[simp] theorem modStack_objs (n : Nat) (f : StackSt → StackSt) (s : State) : (modStack n f s).objs = s.objs := rfl
@[simp] theorem modStack_nextObj (n : Nat) (f : StackSt → StackSt) (s : State) : (modStack n f s).nextObj = s.nextObj := rfl
@[simp] theorem modStack_frames (n : Nat) (f : StackSt → StackSt) (s : State) : (modStack n f s).frames = s.frames := rfl
@[simp] theorem modStack_tables (n : Nat) (f : StackSt → StackSt) (s : State) : (modStack n f s).tables = s.tables := rfl
@[simp] theorem modStack_vault (n : Nat) (f : StackSt → StackSt) (s : State) : (modStack n f s).vault = s.vault := rfl
@[simp] theorem modStack_flash (n : Nat) (f : StackSt → StackSt) (s : State) : (modStack n f s).flash = s.flash := rfl
@[simp] theorem modStack_ephCnt (n : Nat) (f : StackSt → StackSt) (s : State) : (modStack n f s).ephCnt = s.ephCnt := rfl
@[simp] theorem modStack_edges (n : Nat) (f : StackSt → StackSt) (s : State) : (modStack n f s).edges = s.edges := rfl
@[simp] theorem modStack_staged (n : Nat) (f : StackSt → StackSt) (s : State) : (modStack n f s).staged = s.staged := rfl
@[simp] theorem modStack_ports (n : Nat) (f : StackSt → StackSt) (s : State) : (modStack n f s).ports = s.ports := rfl
@[simp] theorem modStack_taken (n : Nat) (f : StackSt → StackSt) (s : State) : (modStack n f s).taken = s.taken := rfl
@[simp] theorem modStack_spray (n : Nat) (f : StackSt → StackSt) (s : State) : (modStack n f s).spray = s.spray := rfl
@[simp] theorem modStack_puHead (n : Nat) (f : StackSt → StackSt) (s : State) : (modStack n f s).puHead = s.puHead := rfl
@[simp] theorem modStack_txHead (n : Nat) (f : StackSt → StackSt) (s : State) : (modStack n f s).txHead = s.txHead := rfl
@[simp] theorem modStack_mgt (n : Nat) (f : StackSt → StackSt) (s : State) : (modStack n f s).mgt = s.mgt := rfl
@[simp] theorem modStack_ctxs (n : Nat) (f : StackSt → StackSt) (s : State) : (modStack n f s).ctxs = s.ctxs := rfl
@[simp] theorem modStack_ctxGen (n : Nat) (f : StackSt → StackSt) (s : State) : (modStack n f s).ctxGen = s.ctxGen := rfl
@[simp] theorem modStack_regions (n : Nat) (f : StackSt → StackSt) (s : State) : (modStack n f s).regions = s.regions := rfl
@[simp] theorem modStack_regionCap (n : Nat) (f : StackSt → StackSt) (s : State) : (modStack n f s).regionCap = s.regionCap := rfl
@[simp] theorem modStack_held (n : Nat) (f : StackSt → StackSt) (s : State) : (modStack n f s).held = s.held := rfl
@[simp] theorem modStack_holds (n : Nat) (f : StackSt → StackSt) (s : State) : (modStack n f s).holds = s.holds := rfl
@[simp] theorem modStack_landing (n : Nat) (f : StackSt → StackSt) (s : State) : (modStack n f s).landing = s.landing := rfl
@[simp] theorem modStack_nextHold (n : Nat) (f : StackSt → StackSt) (s : State) : (modStack n f s).nextHold = s.nextHold := rfl
@[simp] theorem modStack_works (n : Nat) (f : StackSt → StackSt) (s : State) : (modStack n f s).works = s.works := rfl
@[simp] theorem modStack_nextWork (n : Nat) (f : StackSt → StackSt) (s : State) : (modStack n f s).nextWork = s.nextWork := rfl
@[simp] theorem modStack_pcie (n : Nat) (f : StackSt → StackSt) (s : State) : (modStack n f s).pcie = s.pcie := rfl
@[simp] theorem modStack_rings (n : Nat) (f : StackSt → StackSt) (s : State) : (modStack n f s).rings = s.rings := rfl
@[simp] theorem modStack_cmds (n : Nat) (f : StackSt → StackSt) (s : State) : (modStack n f s).cmds = s.cmds := rfl
@[simp] theorem modStack_nextCmd (n : Nat) (f : StackSt → StackSt) (s : State) : (modStack n f s).nextCmd = s.nextCmd := rfl
@[simp] theorem modStack_tenants (n : Nat) (f : StackSt → StackSt) (s : State) : (modStack n f s).tenants = s.tenants := rfl
@[simp] theorem modStack_census (n : Nat) (f : StackSt → StackSt) (s : State) : (modStack n f s).census = s.census := rfl
@[simp] theorem modStack_tallies (n : Nat) (f : StackSt → StackSt) (s : State) : (modStack n f s).tallies = s.tallies := rfl
@[simp] theorem modStack_snap (n : Nat) (f : StackSt → StackSt) (s : State) : (modStack n f s).snap = s.snap := rfl
@[simp] theorem modStack_snapM (n : Nat) (f : StackSt → StackSt) (s : State) : (modStack n f s).snapM = s.snapM := rfl
@[simp] theorem modStack_pho (n : Nat) (f : StackSt → StackSt) (s : State) : (modStack n f s).pho = s.pho := rfl
@[simp] theorem modStack_flt (n : Nat) (f : StackSt → StackSt) (s : State) : (modStack n f s).flt = s.flt := rfl
@[simp] theorem modStack_alm (n : Nat) (f : StackSt → StackSt) (s : State) : (modStack n f s).alm = s.alm := rfl
@[simp] theorem modStack_boot (n : Nat) (f : StackSt → StackSt) (s : State) : (modStack n f s).boot = s.boot := rfl
@[simp] theorem modStack_fw (n : Nat) (f : StackSt → StackSt) (s : State) : (modStack n f s).fw = s.fw := rfl
@[simp] theorem modStack_pwr (n : Nat) (f : StackSt → StackSt) (s : State) : (modStack n f s).pwr = s.pwr := rfl
@[simp] theorem modStack_out (n : Nat) (f : StackSt → StackSt) (s : State) : (modStack n f s).out = s.out := rfl

/-! ### modThr -/

@[simp] theorem modThr_pending (k : Nat) (f : Thread → Thread) (s : State) : (modThr k f s).pending = s.pending := rfl
@[simp] theorem modThr_now (k : Nat) (f : Thread → Thread) (s : State) : (modThr k f s).now = s.now := rfl
@[simp] theorem modThr_free (k : Nat) (f : Thread → Thread) (s : State) : (modThr k f s).free = s.free := rfl
@[simp] theorem modThr_act (k : Nat) (f : Thread → Thread) (s : State) : (modThr k f s).act = s.act := rfl
@[simp] theorem modThr_shd (k : Nat) (f : Thread → Thread) (s : State) : (modThr k f s).shd = s.shd := rfl
@[simp] theorem modThr_ctr (k : Nat) (f : Thread → Thread) (s : State) : (modThr k f s).ctr = s.ctr := rfl
@[simp] theorem modThr_latch (k : Nat) (f : Thread → Thread) (s : State) : (modThr k f s).latch = s.latch := rfl
@[simp] theorem modThr_hiHeld (k : Nat) (f : Thread → Thread) (s : State) : (modThr k f s).hiHeld = s.hiHeld := rfl
@[simp] theorem modThr_hwSet (k : Nat) (f : Thread → Thread) (s : State) : (modThr k f s).hwSet = s.hwSet := rfl
@[simp] theorem modThr_readData (k : Nat) (f : Thread → Thread) (s : State) : (modThr k f s).readData = s.readData := rfl
@[simp] theorem modThr_groups (k : Nat) (f : Thread → Thread) (s : State) : (modThr k f s).groups = s.groups := rfl
@[simp] theorem modThr_mer (k : Nat) (f : Thread → Thread) (s : State) : (modThr k f s).mer = s.mer := rfl
@[simp] theorem modThr_ptp (k : Nat) (f : Thread → Thread) (s : State) : (modThr k f s).ptp = s.ptp := rfl
@[simp] theorem modThr_jobs (k : Nat) (f : Thread → Thread) (s : State) : (modThr k f s).jobs = s.jobs := rfl
@[simp] theorem modThr_plans (k : Nat) (f : Thread → Thread) (s : State) : (modThr k f s).plans = s.plans := rfl
@[simp] theorem modThr_nextPlan (k : Nat) (f : Thread → Thread) (s : State) : (modThr k f s).nextPlan = s.nextPlan := rfl
@[simp] theorem modThr_cores (k : Nat) (f : Thread → Thread) (s : State) : (modThr k f s).cores = s.cores := rfl
@[simp] theorem modThr_sregs (k : Nat) (f : Thread → Thread) (s : State) : (modThr k f s).sregs = s.sregs := rfl
@[simp] theorem modThr_vregs (k : Nat) (f : Thread → Thread) (s : State) : (modThr k f s).vregs = s.vregs := rfl
@[simp] theorem modThr_sbusy (k : Nat) (f : Thread → Thread) (s : State) : (modThr k f s).sbusy = s.sbusy := rfl
@[simp] theorem modThr_vbusy (k : Nat) (f : Thread → Thread) (s : State) : (modThr k f s).vbusy = s.vbusy := rfl
@[simp] theorem modThr_ranges (k : Nat) (f : Thread → Thread) (s : State) : (modThr k f s).ranges = s.ranges := rfl
@[simp] theorem modThr_store (k : Nat) (f : Thread → Thread) (s : State) : (modThr k f s).store = s.store := rfl
@[simp] theorem modThr_badStore (k : Nat) (f : Thread → Thread) (s : State) : (modThr k f s).badStore = s.badStore := rfl
@[simp] theorem modThr_badVec (k : Nat) (f : Thread → Thread) (s : State) : (modThr k f s).badVec = s.badVec := rfl
@[simp] theorem modThr_acc (k : Nat) (f : Thread → Thread) (s : State) : (modThr k f s).acc = s.acc := rfl
@[simp] theorem modThr_badAcc (k : Nat) (f : Thread → Thread) (s : State) : (modThr k f s).badAcc = s.badAcc := rfl
@[simp] theorem modThr_slots (k : Nat) (f : Thread → Thread) (s : State) : (modThr k f s).slots = s.slots := rfl
@[simp] theorem modThr_badSlot (k : Nat) (f : Thread → Thread) (s : State) : (modThr k f s).badSlot = s.badSlot := rfl
@[simp] theorem modThr_sync (k : Nat) (f : Thread → Thread) (s : State) : (modThr k f s).sync = s.sync := rfl
@[simp] theorem modThr_signals (k : Nat) (f : Thread → Thread) (s : State) : (modThr k f s).signals = s.signals := rfl
@[simp] theorem modThr_hbm (k : Nat) (f : Thread → Thread) (s : State) : (modThr k f s).hbm = s.hbm := rfl
@[simp] theorem modThr_stks (k : Nat) (f : Thread → Thread) (s : State) : (modThr k f s).stks = s.stks := rfl
@[simp] theorem modThr_recs (k : Nat) (f : Thread → Thread) (s : State) : (modThr k f s).recs = s.recs := rfl
@[simp] theorem modThr_upds (k : Nat) (f : Thread → Thread) (s : State) : (modThr k f s).upds = s.upds := rfl
@[simp] theorem modThr_nextUpd (k : Nat) (f : Thread → Thread) (s : State) : (modThr k f s).nextUpd = s.nextUpd := rfl
@[simp] theorem modThr_objs (k : Nat) (f : Thread → Thread) (s : State) : (modThr k f s).objs = s.objs := rfl
@[simp] theorem modThr_nextObj (k : Nat) (f : Thread → Thread) (s : State) : (modThr k f s).nextObj = s.nextObj := rfl
@[simp] theorem modThr_frames (k : Nat) (f : Thread → Thread) (s : State) : (modThr k f s).frames = s.frames := rfl
@[simp] theorem modThr_tables (k : Nat) (f : Thread → Thread) (s : State) : (modThr k f s).tables = s.tables := rfl
@[simp] theorem modThr_vault (k : Nat) (f : Thread → Thread) (s : State) : (modThr k f s).vault = s.vault := rfl
@[simp] theorem modThr_flash (k : Nat) (f : Thread → Thread) (s : State) : (modThr k f s).flash = s.flash := rfl
@[simp] theorem modThr_ephCnt (k : Nat) (f : Thread → Thread) (s : State) : (modThr k f s).ephCnt = s.ephCnt := rfl
@[simp] theorem modThr_edges (k : Nat) (f : Thread → Thread) (s : State) : (modThr k f s).edges = s.edges := rfl
@[simp] theorem modThr_staged (k : Nat) (f : Thread → Thread) (s : State) : (modThr k f s).staged = s.staged := rfl
@[simp] theorem modThr_ports (k : Nat) (f : Thread → Thread) (s : State) : (modThr k f s).ports = s.ports := rfl
@[simp] theorem modThr_taken (k : Nat) (f : Thread → Thread) (s : State) : (modThr k f s).taken = s.taken := rfl
@[simp] theorem modThr_spray (k : Nat) (f : Thread → Thread) (s : State) : (modThr k f s).spray = s.spray := rfl
@[simp] theorem modThr_puHead (k : Nat) (f : Thread → Thread) (s : State) : (modThr k f s).puHead = s.puHead := rfl
@[simp] theorem modThr_txHead (k : Nat) (f : Thread → Thread) (s : State) : (modThr k f s).txHead = s.txHead := rfl
@[simp] theorem modThr_mgt (k : Nat) (f : Thread → Thread) (s : State) : (modThr k f s).mgt = s.mgt := rfl
@[simp] theorem modThr_ctxs (k : Nat) (f : Thread → Thread) (s : State) : (modThr k f s).ctxs = s.ctxs := rfl
@[simp] theorem modThr_ctxGen (k : Nat) (f : Thread → Thread) (s : State) : (modThr k f s).ctxGen = s.ctxGen := rfl
@[simp] theorem modThr_regions (k : Nat) (f : Thread → Thread) (s : State) : (modThr k f s).regions = s.regions := rfl
@[simp] theorem modThr_regionCap (k : Nat) (f : Thread → Thread) (s : State) : (modThr k f s).regionCap = s.regionCap := rfl
@[simp] theorem modThr_held (k : Nat) (f : Thread → Thread) (s : State) : (modThr k f s).held = s.held := rfl
@[simp] theorem modThr_holds (k : Nat) (f : Thread → Thread) (s : State) : (modThr k f s).holds = s.holds := rfl
@[simp] theorem modThr_landing (k : Nat) (f : Thread → Thread) (s : State) : (modThr k f s).landing = s.landing := rfl
@[simp] theorem modThr_nextHold (k : Nat) (f : Thread → Thread) (s : State) : (modThr k f s).nextHold = s.nextHold := rfl
@[simp] theorem modThr_works (k : Nat) (f : Thread → Thread) (s : State) : (modThr k f s).works = s.works := rfl
@[simp] theorem modThr_nextWork (k : Nat) (f : Thread → Thread) (s : State) : (modThr k f s).nextWork = s.nextWork := rfl
@[simp] theorem modThr_pcie (k : Nat) (f : Thread → Thread) (s : State) : (modThr k f s).pcie = s.pcie := rfl
@[simp] theorem modThr_rings (k : Nat) (f : Thread → Thread) (s : State) : (modThr k f s).rings = s.rings := rfl
@[simp] theorem modThr_cmds (k : Nat) (f : Thread → Thread) (s : State) : (modThr k f s).cmds = s.cmds := rfl
@[simp] theorem modThr_nextCmd (k : Nat) (f : Thread → Thread) (s : State) : (modThr k f s).nextCmd = s.nextCmd := rfl
@[simp] theorem modThr_tenants (k : Nat) (f : Thread → Thread) (s : State) : (modThr k f s).tenants = s.tenants := rfl
@[simp] theorem modThr_census (k : Nat) (f : Thread → Thread) (s : State) : (modThr k f s).census = s.census := rfl
@[simp] theorem modThr_tallies (k : Nat) (f : Thread → Thread) (s : State) : (modThr k f s).tallies = s.tallies := rfl
@[simp] theorem modThr_snap (k : Nat) (f : Thread → Thread) (s : State) : (modThr k f s).snap = s.snap := rfl
@[simp] theorem modThr_snapM (k : Nat) (f : Thread → Thread) (s : State) : (modThr k f s).snapM = s.snapM := rfl
@[simp] theorem modThr_pho (k : Nat) (f : Thread → Thread) (s : State) : (modThr k f s).pho = s.pho := rfl
@[simp] theorem modThr_flt (k : Nat) (f : Thread → Thread) (s : State) : (modThr k f s).flt = s.flt := rfl
@[simp] theorem modThr_alm (k : Nat) (f : Thread → Thread) (s : State) : (modThr k f s).alm = s.alm := rfl
@[simp] theorem modThr_boot (k : Nat) (f : Thread → Thread) (s : State) : (modThr k f s).boot = s.boot := rfl
@[simp] theorem modThr_fw (k : Nat) (f : Thread → Thread) (s : State) : (modThr k f s).fw = s.fw := rfl
@[simp] theorem modThr_pwr (k : Nat) (f : Thread → Thread) (s : State) : (modThr k f s).pwr = s.pwr := rfl
@[simp] theorem modThr_out (k : Nat) (f : Thread → Thread) (s : State) : (modThr k f s).out = s.out := rfl

/-! ### modCmd -/

@[simp] theorem modCmd_pending (k : Nat) (f : Exec → Exec) (s : State) : (modCmd k f s).pending = s.pending := rfl
@[simp] theorem modCmd_now (k : Nat) (f : Exec → Exec) (s : State) : (modCmd k f s).now = s.now := rfl
@[simp] theorem modCmd_free (k : Nat) (f : Exec → Exec) (s : State) : (modCmd k f s).free = s.free := rfl
@[simp] theorem modCmd_act (k : Nat) (f : Exec → Exec) (s : State) : (modCmd k f s).act = s.act := rfl
@[simp] theorem modCmd_shd (k : Nat) (f : Exec → Exec) (s : State) : (modCmd k f s).shd = s.shd := rfl
@[simp] theorem modCmd_ctr (k : Nat) (f : Exec → Exec) (s : State) : (modCmd k f s).ctr = s.ctr := rfl
@[simp] theorem modCmd_latch (k : Nat) (f : Exec → Exec) (s : State) : (modCmd k f s).latch = s.latch := rfl
@[simp] theorem modCmd_hiHeld (k : Nat) (f : Exec → Exec) (s : State) : (modCmd k f s).hiHeld = s.hiHeld := rfl
@[simp] theorem modCmd_hwSet (k : Nat) (f : Exec → Exec) (s : State) : (modCmd k f s).hwSet = s.hwSet := rfl
@[simp] theorem modCmd_readData (k : Nat) (f : Exec → Exec) (s : State) : (modCmd k f s).readData = s.readData := rfl
@[simp] theorem modCmd_groups (k : Nat) (f : Exec → Exec) (s : State) : (modCmd k f s).groups = s.groups := rfl
@[simp] theorem modCmd_mer (k : Nat) (f : Exec → Exec) (s : State) : (modCmd k f s).mer = s.mer := rfl
@[simp] theorem modCmd_ptp (k : Nat) (f : Exec → Exec) (s : State) : (modCmd k f s).ptp = s.ptp := rfl
@[simp] theorem modCmd_jobs (k : Nat) (f : Exec → Exec) (s : State) : (modCmd k f s).jobs = s.jobs := rfl
@[simp] theorem modCmd_plans (k : Nat) (f : Exec → Exec) (s : State) : (modCmd k f s).plans = s.plans := rfl
@[simp] theorem modCmd_nextPlan (k : Nat) (f : Exec → Exec) (s : State) : (modCmd k f s).nextPlan = s.nextPlan := rfl
@[simp] theorem modCmd_cores (k : Nat) (f : Exec → Exec) (s : State) : (modCmd k f s).cores = s.cores := rfl
@[simp] theorem modCmd_threads (k : Nat) (f : Exec → Exec) (s : State) : (modCmd k f s).threads = s.threads := rfl
@[simp] theorem modCmd_sregs (k : Nat) (f : Exec → Exec) (s : State) : (modCmd k f s).sregs = s.sregs := rfl
@[simp] theorem modCmd_vregs (k : Nat) (f : Exec → Exec) (s : State) : (modCmd k f s).vregs = s.vregs := rfl
@[simp] theorem modCmd_sbusy (k : Nat) (f : Exec → Exec) (s : State) : (modCmd k f s).sbusy = s.sbusy := rfl
@[simp] theorem modCmd_vbusy (k : Nat) (f : Exec → Exec) (s : State) : (modCmd k f s).vbusy = s.vbusy := rfl
@[simp] theorem modCmd_ranges (k : Nat) (f : Exec → Exec) (s : State) : (modCmd k f s).ranges = s.ranges := rfl
@[simp] theorem modCmd_store (k : Nat) (f : Exec → Exec) (s : State) : (modCmd k f s).store = s.store := rfl
@[simp] theorem modCmd_badStore (k : Nat) (f : Exec → Exec) (s : State) : (modCmd k f s).badStore = s.badStore := rfl
@[simp] theorem modCmd_badVec (k : Nat) (f : Exec → Exec) (s : State) : (modCmd k f s).badVec = s.badVec := rfl
@[simp] theorem modCmd_acc (k : Nat) (f : Exec → Exec) (s : State) : (modCmd k f s).acc = s.acc := rfl
@[simp] theorem modCmd_badAcc (k : Nat) (f : Exec → Exec) (s : State) : (modCmd k f s).badAcc = s.badAcc := rfl
@[simp] theorem modCmd_slots (k : Nat) (f : Exec → Exec) (s : State) : (modCmd k f s).slots = s.slots := rfl
@[simp] theorem modCmd_badSlot (k : Nat) (f : Exec → Exec) (s : State) : (modCmd k f s).badSlot = s.badSlot := rfl
@[simp] theorem modCmd_sync (k : Nat) (f : Exec → Exec) (s : State) : (modCmd k f s).sync = s.sync := rfl
@[simp] theorem modCmd_signals (k : Nat) (f : Exec → Exec) (s : State) : (modCmd k f s).signals = s.signals := rfl
@[simp] theorem modCmd_hbm (k : Nat) (f : Exec → Exec) (s : State) : (modCmd k f s).hbm = s.hbm := rfl
@[simp] theorem modCmd_stks (k : Nat) (f : Exec → Exec) (s : State) : (modCmd k f s).stks = s.stks := rfl
@[simp] theorem modCmd_recs (k : Nat) (f : Exec → Exec) (s : State) : (modCmd k f s).recs = s.recs := rfl
@[simp] theorem modCmd_upds (k : Nat) (f : Exec → Exec) (s : State) : (modCmd k f s).upds = s.upds := rfl
@[simp] theorem modCmd_nextUpd (k : Nat) (f : Exec → Exec) (s : State) : (modCmd k f s).nextUpd = s.nextUpd := rfl
@[simp] theorem modCmd_objs (k : Nat) (f : Exec → Exec) (s : State) : (modCmd k f s).objs = s.objs := rfl
@[simp] theorem modCmd_nextObj (k : Nat) (f : Exec → Exec) (s : State) : (modCmd k f s).nextObj = s.nextObj := rfl
@[simp] theorem modCmd_frames (k : Nat) (f : Exec → Exec) (s : State) : (modCmd k f s).frames = s.frames := rfl
@[simp] theorem modCmd_tables (k : Nat) (f : Exec → Exec) (s : State) : (modCmd k f s).tables = s.tables := rfl
@[simp] theorem modCmd_vault (k : Nat) (f : Exec → Exec) (s : State) : (modCmd k f s).vault = s.vault := rfl
@[simp] theorem modCmd_flash (k : Nat) (f : Exec → Exec) (s : State) : (modCmd k f s).flash = s.flash := rfl
@[simp] theorem modCmd_ephCnt (k : Nat) (f : Exec → Exec) (s : State) : (modCmd k f s).ephCnt = s.ephCnt := rfl
@[simp] theorem modCmd_edges (k : Nat) (f : Exec → Exec) (s : State) : (modCmd k f s).edges = s.edges := rfl
@[simp] theorem modCmd_staged (k : Nat) (f : Exec → Exec) (s : State) : (modCmd k f s).staged = s.staged := rfl
@[simp] theorem modCmd_ports (k : Nat) (f : Exec → Exec) (s : State) : (modCmd k f s).ports = s.ports := rfl
@[simp] theorem modCmd_taken (k : Nat) (f : Exec → Exec) (s : State) : (modCmd k f s).taken = s.taken := rfl
@[simp] theorem modCmd_spray (k : Nat) (f : Exec → Exec) (s : State) : (modCmd k f s).spray = s.spray := rfl
@[simp] theorem modCmd_puHead (k : Nat) (f : Exec → Exec) (s : State) : (modCmd k f s).puHead = s.puHead := rfl
@[simp] theorem modCmd_txHead (k : Nat) (f : Exec → Exec) (s : State) : (modCmd k f s).txHead = s.txHead := rfl
@[simp] theorem modCmd_mgt (k : Nat) (f : Exec → Exec) (s : State) : (modCmd k f s).mgt = s.mgt := rfl
@[simp] theorem modCmd_ctxs (k : Nat) (f : Exec → Exec) (s : State) : (modCmd k f s).ctxs = s.ctxs := rfl
@[simp] theorem modCmd_ctxGen (k : Nat) (f : Exec → Exec) (s : State) : (modCmd k f s).ctxGen = s.ctxGen := rfl
@[simp] theorem modCmd_regions (k : Nat) (f : Exec → Exec) (s : State) : (modCmd k f s).regions = s.regions := rfl
@[simp] theorem modCmd_regionCap (k : Nat) (f : Exec → Exec) (s : State) : (modCmd k f s).regionCap = s.regionCap := rfl
@[simp] theorem modCmd_held (k : Nat) (f : Exec → Exec) (s : State) : (modCmd k f s).held = s.held := rfl
@[simp] theorem modCmd_holds (k : Nat) (f : Exec → Exec) (s : State) : (modCmd k f s).holds = s.holds := rfl
@[simp] theorem modCmd_landing (k : Nat) (f : Exec → Exec) (s : State) : (modCmd k f s).landing = s.landing := rfl
@[simp] theorem modCmd_nextHold (k : Nat) (f : Exec → Exec) (s : State) : (modCmd k f s).nextHold = s.nextHold := rfl
@[simp] theorem modCmd_works (k : Nat) (f : Exec → Exec) (s : State) : (modCmd k f s).works = s.works := rfl
@[simp] theorem modCmd_nextWork (k : Nat) (f : Exec → Exec) (s : State) : (modCmd k f s).nextWork = s.nextWork := rfl
@[simp] theorem modCmd_pcie (k : Nat) (f : Exec → Exec) (s : State) : (modCmd k f s).pcie = s.pcie := rfl
@[simp] theorem modCmd_rings (k : Nat) (f : Exec → Exec) (s : State) : (modCmd k f s).rings = s.rings := rfl
@[simp] theorem modCmd_nextCmd (k : Nat) (f : Exec → Exec) (s : State) : (modCmd k f s).nextCmd = s.nextCmd := rfl
@[simp] theorem modCmd_tenants (k : Nat) (f : Exec → Exec) (s : State) : (modCmd k f s).tenants = s.tenants := rfl
@[simp] theorem modCmd_census (k : Nat) (f : Exec → Exec) (s : State) : (modCmd k f s).census = s.census := rfl
@[simp] theorem modCmd_tallies (k : Nat) (f : Exec → Exec) (s : State) : (modCmd k f s).tallies = s.tallies := rfl
@[simp] theorem modCmd_snap (k : Nat) (f : Exec → Exec) (s : State) : (modCmd k f s).snap = s.snap := rfl
@[simp] theorem modCmd_snapM (k : Nat) (f : Exec → Exec) (s : State) : (modCmd k f s).snapM = s.snapM := rfl
@[simp] theorem modCmd_pho (k : Nat) (f : Exec → Exec) (s : State) : (modCmd k f s).pho = s.pho := rfl
@[simp] theorem modCmd_flt (k : Nat) (f : Exec → Exec) (s : State) : (modCmd k f s).flt = s.flt := rfl
@[simp] theorem modCmd_alm (k : Nat) (f : Exec → Exec) (s : State) : (modCmd k f s).alm = s.alm := rfl
@[simp] theorem modCmd_boot (k : Nat) (f : Exec → Exec) (s : State) : (modCmd k f s).boot = s.boot := rfl
@[simp] theorem modCmd_fw (k : Nat) (f : Exec → Exec) (s : State) : (modCmd k f s).fw = s.fw := rfl
@[simp] theorem modCmd_pwr (k : Nat) (f : Exec → Exec) (s : State) : (modCmd k f s).pwr = s.pwr := rfl
@[simp] theorem modCmd_out (k : Nat) (f : Exec → Exec) (s : State) : (modCmd k f s).out = s.out := rfl

/-! ### emit -/

@[simp] theorem emit_pending (o : Out) (s : State) : (emit o s).pending = s.pending := rfl
@[simp] theorem emit_now (o : Out) (s : State) : (emit o s).now = s.now := rfl
@[simp] theorem emit_free (o : Out) (s : State) : (emit o s).free = s.free := rfl
@[simp] theorem emit_act (o : Out) (s : State) : (emit o s).act = s.act := rfl
@[simp] theorem emit_shd (o : Out) (s : State) : (emit o s).shd = s.shd := rfl
@[simp] theorem emit_ctr (o : Out) (s : State) : (emit o s).ctr = s.ctr := rfl
@[simp] theorem emit_latch (o : Out) (s : State) : (emit o s).latch = s.latch := rfl
@[simp] theorem emit_hiHeld (o : Out) (s : State) : (emit o s).hiHeld = s.hiHeld := rfl
@[simp] theorem emit_hwSet (o : Out) (s : State) : (emit o s).hwSet = s.hwSet := rfl
@[simp] theorem emit_readData (o : Out) (s : State) : (emit o s).readData = s.readData := rfl
@[simp] theorem emit_groups (o : Out) (s : State) : (emit o s).groups = s.groups := rfl
@[simp] theorem emit_mer (o : Out) (s : State) : (emit o s).mer = s.mer := rfl
@[simp] theorem emit_ptp (o : Out) (s : State) : (emit o s).ptp = s.ptp := rfl
@[simp] theorem emit_jobs (o : Out) (s : State) : (emit o s).jobs = s.jobs := rfl
@[simp] theorem emit_plans (o : Out) (s : State) : (emit o s).plans = s.plans := rfl
@[simp] theorem emit_nextPlan (o : Out) (s : State) : (emit o s).nextPlan = s.nextPlan := rfl
@[simp] theorem emit_cores (o : Out) (s : State) : (emit o s).cores = s.cores := rfl
@[simp] theorem emit_threads (o : Out) (s : State) : (emit o s).threads = s.threads := rfl
@[simp] theorem emit_sregs (o : Out) (s : State) : (emit o s).sregs = s.sregs := rfl
@[simp] theorem emit_vregs (o : Out) (s : State) : (emit o s).vregs = s.vregs := rfl
@[simp] theorem emit_sbusy (o : Out) (s : State) : (emit o s).sbusy = s.sbusy := rfl
@[simp] theorem emit_vbusy (o : Out) (s : State) : (emit o s).vbusy = s.vbusy := rfl
@[simp] theorem emit_ranges (o : Out) (s : State) : (emit o s).ranges = s.ranges := rfl
@[simp] theorem emit_store (o : Out) (s : State) : (emit o s).store = s.store := rfl
@[simp] theorem emit_badStore (o : Out) (s : State) : (emit o s).badStore = s.badStore := rfl
@[simp] theorem emit_badVec (o : Out) (s : State) : (emit o s).badVec = s.badVec := rfl
@[simp] theorem emit_acc (o : Out) (s : State) : (emit o s).acc = s.acc := rfl
@[simp] theorem emit_badAcc (o : Out) (s : State) : (emit o s).badAcc = s.badAcc := rfl
@[simp] theorem emit_slots (o : Out) (s : State) : (emit o s).slots = s.slots := rfl
@[simp] theorem emit_badSlot (o : Out) (s : State) : (emit o s).badSlot = s.badSlot := rfl
@[simp] theorem emit_sync (o : Out) (s : State) : (emit o s).sync = s.sync := rfl
@[simp] theorem emit_signals (o : Out) (s : State) : (emit o s).signals = s.signals := rfl
@[simp] theorem emit_hbm (o : Out) (s : State) : (emit o s).hbm = s.hbm := rfl
@[simp] theorem emit_stks (o : Out) (s : State) : (emit o s).stks = s.stks := rfl
@[simp] theorem emit_recs (o : Out) (s : State) : (emit o s).recs = s.recs := rfl
@[simp] theorem emit_upds (o : Out) (s : State) : (emit o s).upds = s.upds := rfl
@[simp] theorem emit_nextUpd (o : Out) (s : State) : (emit o s).nextUpd = s.nextUpd := rfl
@[simp] theorem emit_objs (o : Out) (s : State) : (emit o s).objs = s.objs := rfl
@[simp] theorem emit_nextObj (o : Out) (s : State) : (emit o s).nextObj = s.nextObj := rfl
@[simp] theorem emit_frames (o : Out) (s : State) : (emit o s).frames = s.frames := rfl
@[simp] theorem emit_tables (o : Out) (s : State) : (emit o s).tables = s.tables := rfl
@[simp] theorem emit_vault (o : Out) (s : State) : (emit o s).vault = s.vault := rfl
@[simp] theorem emit_flash (o : Out) (s : State) : (emit o s).flash = s.flash := rfl
@[simp] theorem emit_ephCnt (o : Out) (s : State) : (emit o s).ephCnt = s.ephCnt := rfl
@[simp] theorem emit_edges (o : Out) (s : State) : (emit o s).edges = s.edges := rfl
@[simp] theorem emit_staged (o : Out) (s : State) : (emit o s).staged = s.staged := rfl
@[simp] theorem emit_ports (o : Out) (s : State) : (emit o s).ports = s.ports := rfl
@[simp] theorem emit_taken (o : Out) (s : State) : (emit o s).taken = s.taken := rfl
@[simp] theorem emit_spray (o : Out) (s : State) : (emit o s).spray = s.spray := rfl
@[simp] theorem emit_puHead (o : Out) (s : State) : (emit o s).puHead = s.puHead := rfl
@[simp] theorem emit_txHead (o : Out) (s : State) : (emit o s).txHead = s.txHead := rfl
@[simp] theorem emit_mgt (o : Out) (s : State) : (emit o s).mgt = s.mgt := rfl
@[simp] theorem emit_ctxs (o : Out) (s : State) : (emit o s).ctxs = s.ctxs := rfl
@[simp] theorem emit_ctxGen (o : Out) (s : State) : (emit o s).ctxGen = s.ctxGen := rfl
@[simp] theorem emit_regions (o : Out) (s : State) : (emit o s).regions = s.regions := rfl
@[simp] theorem emit_regionCap (o : Out) (s : State) : (emit o s).regionCap = s.regionCap := rfl
@[simp] theorem emit_held (o : Out) (s : State) : (emit o s).held = s.held := rfl
@[simp] theorem emit_holds (o : Out) (s : State) : (emit o s).holds = s.holds := rfl
@[simp] theorem emit_landing (o : Out) (s : State) : (emit o s).landing = s.landing := rfl
@[simp] theorem emit_nextHold (o : Out) (s : State) : (emit o s).nextHold = s.nextHold := rfl
@[simp] theorem emit_works (o : Out) (s : State) : (emit o s).works = s.works := rfl
@[simp] theorem emit_nextWork (o : Out) (s : State) : (emit o s).nextWork = s.nextWork := rfl
@[simp] theorem emit_pcie (o : Out) (s : State) : (emit o s).pcie = s.pcie := rfl
@[simp] theorem emit_rings (o : Out) (s : State) : (emit o s).rings = s.rings := rfl
@[simp] theorem emit_cmds (o : Out) (s : State) : (emit o s).cmds = s.cmds := rfl
@[simp] theorem emit_nextCmd (o : Out) (s : State) : (emit o s).nextCmd = s.nextCmd := rfl
@[simp] theorem emit_tenants (o : Out) (s : State) : (emit o s).tenants = s.tenants := rfl
@[simp] theorem emit_census (o : Out) (s : State) : (emit o s).census = s.census := rfl
@[simp] theorem emit_tallies (o : Out) (s : State) : (emit o s).tallies = s.tallies := rfl
@[simp] theorem emit_snap (o : Out) (s : State) : (emit o s).snap = s.snap := rfl
@[simp] theorem emit_snapM (o : Out) (s : State) : (emit o s).snapM = s.snapM := rfl
@[simp] theorem emit_pho (o : Out) (s : State) : (emit o s).pho = s.pho := rfl
@[simp] theorem emit_flt (o : Out) (s : State) : (emit o s).flt = s.flt := rfl
@[simp] theorem emit_alm (o : Out) (s : State) : (emit o s).alm = s.alm := rfl
@[simp] theorem emit_boot (o : Out) (s : State) : (emit o s).boot = s.boot := rfl
@[simp] theorem emit_fw (o : Out) (s : State) : (emit o s).fw = s.fw := rfl
@[simp] theorem emit_pwr (o : Out) (s : State) : (emit o s).pwr = s.pwr := rfl

/-! ### setCtr -/

@[simp] theorem setCtr_pending (k v : Nat) (s : State) : (setCtr k v s).pending = s.pending := rfl
@[simp] theorem setCtr_now (k v : Nat) (s : State) : (setCtr k v s).now = s.now := rfl
@[simp] theorem setCtr_free (k v : Nat) (s : State) : (setCtr k v s).free = s.free := rfl
@[simp] theorem setCtr_act (k v : Nat) (s : State) : (setCtr k v s).act = s.act := rfl
@[simp] theorem setCtr_shd (k v : Nat) (s : State) : (setCtr k v s).shd = s.shd := rfl
@[simp] theorem setCtr_latch (k v : Nat) (s : State) : (setCtr k v s).latch = s.latch := rfl
@[simp] theorem setCtr_hiHeld (k v : Nat) (s : State) : (setCtr k v s).hiHeld = s.hiHeld := rfl
@[simp] theorem setCtr_hwSet (k v : Nat) (s : State) : (setCtr k v s).hwSet = s.hwSet := rfl
@[simp] theorem setCtr_readData (k v : Nat) (s : State) : (setCtr k v s).readData = s.readData := rfl
@[simp] theorem setCtr_groups (k v : Nat) (s : State) : (setCtr k v s).groups = s.groups := rfl
@[simp] theorem setCtr_mer (k v : Nat) (s : State) : (setCtr k v s).mer = s.mer := rfl
@[simp] theorem setCtr_ptp (k v : Nat) (s : State) : (setCtr k v s).ptp = s.ptp := rfl
@[simp] theorem setCtr_jobs (k v : Nat) (s : State) : (setCtr k v s).jobs = s.jobs := rfl
@[simp] theorem setCtr_plans (k v : Nat) (s : State) : (setCtr k v s).plans = s.plans := rfl
@[simp] theorem setCtr_nextPlan (k v : Nat) (s : State) : (setCtr k v s).nextPlan = s.nextPlan := rfl
@[simp] theorem setCtr_cores (k v : Nat) (s : State) : (setCtr k v s).cores = s.cores := rfl
@[simp] theorem setCtr_threads (k v : Nat) (s : State) : (setCtr k v s).threads = s.threads := rfl
@[simp] theorem setCtr_sregs (k v : Nat) (s : State) : (setCtr k v s).sregs = s.sregs := rfl
@[simp] theorem setCtr_vregs (k v : Nat) (s : State) : (setCtr k v s).vregs = s.vregs := rfl
@[simp] theorem setCtr_sbusy (k v : Nat) (s : State) : (setCtr k v s).sbusy = s.sbusy := rfl
@[simp] theorem setCtr_vbusy (k v : Nat) (s : State) : (setCtr k v s).vbusy = s.vbusy := rfl
@[simp] theorem setCtr_ranges (k v : Nat) (s : State) : (setCtr k v s).ranges = s.ranges := rfl
@[simp] theorem setCtr_store (k v : Nat) (s : State) : (setCtr k v s).store = s.store := rfl
@[simp] theorem setCtr_badStore (k v : Nat) (s : State) : (setCtr k v s).badStore = s.badStore := rfl
@[simp] theorem setCtr_badVec (k v : Nat) (s : State) : (setCtr k v s).badVec = s.badVec := rfl
@[simp] theorem setCtr_acc (k v : Nat) (s : State) : (setCtr k v s).acc = s.acc := rfl
@[simp] theorem setCtr_badAcc (k v : Nat) (s : State) : (setCtr k v s).badAcc = s.badAcc := rfl
@[simp] theorem setCtr_slots (k v : Nat) (s : State) : (setCtr k v s).slots = s.slots := rfl
@[simp] theorem setCtr_badSlot (k v : Nat) (s : State) : (setCtr k v s).badSlot = s.badSlot := rfl
@[simp] theorem setCtr_sync (k v : Nat) (s : State) : (setCtr k v s).sync = s.sync := rfl
@[simp] theorem setCtr_signals (k v : Nat) (s : State) : (setCtr k v s).signals = s.signals := rfl
@[simp] theorem setCtr_hbm (k v : Nat) (s : State) : (setCtr k v s).hbm = s.hbm := rfl
@[simp] theorem setCtr_stks (k v : Nat) (s : State) : (setCtr k v s).stks = s.stks := rfl
@[simp] theorem setCtr_recs (k v : Nat) (s : State) : (setCtr k v s).recs = s.recs := rfl
@[simp] theorem setCtr_upds (k v : Nat) (s : State) : (setCtr k v s).upds = s.upds := rfl
@[simp] theorem setCtr_nextUpd (k v : Nat) (s : State) : (setCtr k v s).nextUpd = s.nextUpd := rfl
@[simp] theorem setCtr_objs (k v : Nat) (s : State) : (setCtr k v s).objs = s.objs := rfl
@[simp] theorem setCtr_nextObj (k v : Nat) (s : State) : (setCtr k v s).nextObj = s.nextObj := rfl
@[simp] theorem setCtr_frames (k v : Nat) (s : State) : (setCtr k v s).frames = s.frames := rfl
@[simp] theorem setCtr_tables (k v : Nat) (s : State) : (setCtr k v s).tables = s.tables := rfl
@[simp] theorem setCtr_vault (k v : Nat) (s : State) : (setCtr k v s).vault = s.vault := rfl
@[simp] theorem setCtr_flash (k v : Nat) (s : State) : (setCtr k v s).flash = s.flash := rfl
@[simp] theorem setCtr_ephCnt (k v : Nat) (s : State) : (setCtr k v s).ephCnt = s.ephCnt := rfl
@[simp] theorem setCtr_edges (k v : Nat) (s : State) : (setCtr k v s).edges = s.edges := rfl
@[simp] theorem setCtr_staged (k v : Nat) (s : State) : (setCtr k v s).staged = s.staged := rfl
@[simp] theorem setCtr_ports (k v : Nat) (s : State) : (setCtr k v s).ports = s.ports := rfl
@[simp] theorem setCtr_taken (k v : Nat) (s : State) : (setCtr k v s).taken = s.taken := rfl
@[simp] theorem setCtr_spray (k v : Nat) (s : State) : (setCtr k v s).spray = s.spray := rfl
@[simp] theorem setCtr_puHead (k v : Nat) (s : State) : (setCtr k v s).puHead = s.puHead := rfl
@[simp] theorem setCtr_txHead (k v : Nat) (s : State) : (setCtr k v s).txHead = s.txHead := rfl
@[simp] theorem setCtr_mgt (k v : Nat) (s : State) : (setCtr k v s).mgt = s.mgt := rfl
@[simp] theorem setCtr_ctxs (k v : Nat) (s : State) : (setCtr k v s).ctxs = s.ctxs := rfl
@[simp] theorem setCtr_ctxGen (k v : Nat) (s : State) : (setCtr k v s).ctxGen = s.ctxGen := rfl
@[simp] theorem setCtr_regions (k v : Nat) (s : State) : (setCtr k v s).regions = s.regions := rfl
@[simp] theorem setCtr_regionCap (k v : Nat) (s : State) : (setCtr k v s).regionCap = s.regionCap := rfl
@[simp] theorem setCtr_held (k v : Nat) (s : State) : (setCtr k v s).held = s.held := rfl
@[simp] theorem setCtr_holds (k v : Nat) (s : State) : (setCtr k v s).holds = s.holds := rfl
@[simp] theorem setCtr_landing (k v : Nat) (s : State) : (setCtr k v s).landing = s.landing := rfl
@[simp] theorem setCtr_nextHold (k v : Nat) (s : State) : (setCtr k v s).nextHold = s.nextHold := rfl
@[simp] theorem setCtr_works (k v : Nat) (s : State) : (setCtr k v s).works = s.works := rfl
@[simp] theorem setCtr_nextWork (k v : Nat) (s : State) : (setCtr k v s).nextWork = s.nextWork := rfl
@[simp] theorem setCtr_pcie (k v : Nat) (s : State) : (setCtr k v s).pcie = s.pcie := rfl
@[simp] theorem setCtr_rings (k v : Nat) (s : State) : (setCtr k v s).rings = s.rings := rfl
@[simp] theorem setCtr_cmds (k v : Nat) (s : State) : (setCtr k v s).cmds = s.cmds := rfl
@[simp] theorem setCtr_nextCmd (k v : Nat) (s : State) : (setCtr k v s).nextCmd = s.nextCmd := rfl
@[simp] theorem setCtr_tenants (k v : Nat) (s : State) : (setCtr k v s).tenants = s.tenants := rfl
@[simp] theorem setCtr_census (k v : Nat) (s : State) : (setCtr k v s).census = s.census := rfl
@[simp] theorem setCtr_tallies (k v : Nat) (s : State) : (setCtr k v s).tallies = s.tallies := rfl
@[simp] theorem setCtr_snap (k v : Nat) (s : State) : (setCtr k v s).snap = s.snap := rfl
@[simp] theorem setCtr_snapM (k v : Nat) (s : State) : (setCtr k v s).snapM = s.snapM := rfl
@[simp] theorem setCtr_pho (k v : Nat) (s : State) : (setCtr k v s).pho = s.pho := rfl
@[simp] theorem setCtr_flt (k v : Nat) (s : State) : (setCtr k v s).flt = s.flt := rfl
@[simp] theorem setCtr_alm (k v : Nat) (s : State) : (setCtr k v s).alm = s.alm := rfl
@[simp] theorem setCtr_boot (k v : Nat) (s : State) : (setCtr k v s).boot = s.boot := rfl
@[simp] theorem setCtr_fw (k v : Nat) (s : State) : (setCtr k v s).fw = s.fw := rfl
@[simp] theorem setCtr_pwr (k v : Nat) (s : State) : (setCtr k v s).pwr = s.pwr := rfl
@[simp] theorem setCtr_out (k v : Nat) (s : State) : (setCtr k v s).out = s.out := rfl

/-! ### bump -/

@[simp] theorem bump_pending (k w n : Nat) (s : State) : (bump k w n s).pending = s.pending := rfl
@[simp] theorem bump_now (k w n : Nat) (s : State) : (bump k w n s).now = s.now := rfl
@[simp] theorem bump_free (k w n : Nat) (s : State) : (bump k w n s).free = s.free := rfl
@[simp] theorem bump_act (k w n : Nat) (s : State) : (bump k w n s).act = s.act := rfl
@[simp] theorem bump_shd (k w n : Nat) (s : State) : (bump k w n s).shd = s.shd := rfl
@[simp] theorem bump_latch (k w n : Nat) (s : State) : (bump k w n s).latch = s.latch := rfl
@[simp] theorem bump_hiHeld (k w n : Nat) (s : State) : (bump k w n s).hiHeld = s.hiHeld := rfl
@[simp] theorem bump_hwSet (k w n : Nat) (s : State) : (bump k w n s).hwSet = s.hwSet := rfl
@[simp] theorem bump_readData (k w n : Nat) (s : State) : (bump k w n s).readData = s.readData := rfl
@[simp] theorem bump_groups (k w n : Nat) (s : State) : (bump k w n s).groups = s.groups := rfl
@[simp] theorem bump_mer (k w n : Nat) (s : State) : (bump k w n s).mer = s.mer := rfl
@[simp] theorem bump_ptp (k w n : Nat) (s : State) : (bump k w n s).ptp = s.ptp := rfl
@[simp] theorem bump_jobs (k w n : Nat) (s : State) : (bump k w n s).jobs = s.jobs := rfl
@[simp] theorem bump_plans (k w n : Nat) (s : State) : (bump k w n s).plans = s.plans := rfl
@[simp] theorem bump_nextPlan (k w n : Nat) (s : State) : (bump k w n s).nextPlan = s.nextPlan := rfl
@[simp] theorem bump_cores (k w n : Nat) (s : State) : (bump k w n s).cores = s.cores := rfl
@[simp] theorem bump_threads (k w n : Nat) (s : State) : (bump k w n s).threads = s.threads := rfl
@[simp] theorem bump_sregs (k w n : Nat) (s : State) : (bump k w n s).sregs = s.sregs := rfl
@[simp] theorem bump_vregs (k w n : Nat) (s : State) : (bump k w n s).vregs = s.vregs := rfl
@[simp] theorem bump_sbusy (k w n : Nat) (s : State) : (bump k w n s).sbusy = s.sbusy := rfl
@[simp] theorem bump_vbusy (k w n : Nat) (s : State) : (bump k w n s).vbusy = s.vbusy := rfl
@[simp] theorem bump_ranges (k w n : Nat) (s : State) : (bump k w n s).ranges = s.ranges := rfl
@[simp] theorem bump_store (k w n : Nat) (s : State) : (bump k w n s).store = s.store := rfl
@[simp] theorem bump_badStore (k w n : Nat) (s : State) : (bump k w n s).badStore = s.badStore := rfl
@[simp] theorem bump_badVec (k w n : Nat) (s : State) : (bump k w n s).badVec = s.badVec := rfl
@[simp] theorem bump_acc (k w n : Nat) (s : State) : (bump k w n s).acc = s.acc := rfl
@[simp] theorem bump_badAcc (k w n : Nat) (s : State) : (bump k w n s).badAcc = s.badAcc := rfl
@[simp] theorem bump_slots (k w n : Nat) (s : State) : (bump k w n s).slots = s.slots := rfl
@[simp] theorem bump_badSlot (k w n : Nat) (s : State) : (bump k w n s).badSlot = s.badSlot := rfl
@[simp] theorem bump_sync (k w n : Nat) (s : State) : (bump k w n s).sync = s.sync := rfl
@[simp] theorem bump_signals (k w n : Nat) (s : State) : (bump k w n s).signals = s.signals := rfl
@[simp] theorem bump_hbm (k w n : Nat) (s : State) : (bump k w n s).hbm = s.hbm := rfl
@[simp] theorem bump_stks (k w n : Nat) (s : State) : (bump k w n s).stks = s.stks := rfl
@[simp] theorem bump_recs (k w n : Nat) (s : State) : (bump k w n s).recs = s.recs := rfl
@[simp] theorem bump_upds (k w n : Nat) (s : State) : (bump k w n s).upds = s.upds := rfl
@[simp] theorem bump_nextUpd (k w n : Nat) (s : State) : (bump k w n s).nextUpd = s.nextUpd := rfl
@[simp] theorem bump_objs (k w n : Nat) (s : State) : (bump k w n s).objs = s.objs := rfl
@[simp] theorem bump_nextObj (k w n : Nat) (s : State) : (bump k w n s).nextObj = s.nextObj := rfl
@[simp] theorem bump_frames (k w n : Nat) (s : State) : (bump k w n s).frames = s.frames := rfl
@[simp] theorem bump_tables (k w n : Nat) (s : State) : (bump k w n s).tables = s.tables := rfl
@[simp] theorem bump_vault (k w n : Nat) (s : State) : (bump k w n s).vault = s.vault := rfl
@[simp] theorem bump_flash (k w n : Nat) (s : State) : (bump k w n s).flash = s.flash := rfl
@[simp] theorem bump_ephCnt (k w n : Nat) (s : State) : (bump k w n s).ephCnt = s.ephCnt := rfl
@[simp] theorem bump_edges (k w n : Nat) (s : State) : (bump k w n s).edges = s.edges := rfl
@[simp] theorem bump_staged (k w n : Nat) (s : State) : (bump k w n s).staged = s.staged := rfl
@[simp] theorem bump_ports (k w n : Nat) (s : State) : (bump k w n s).ports = s.ports := rfl
@[simp] theorem bump_taken (k w n : Nat) (s : State) : (bump k w n s).taken = s.taken := rfl
@[simp] theorem bump_spray (k w n : Nat) (s : State) : (bump k w n s).spray = s.spray := rfl
@[simp] theorem bump_puHead (k w n : Nat) (s : State) : (bump k w n s).puHead = s.puHead := rfl
@[simp] theorem bump_txHead (k w n : Nat) (s : State) : (bump k w n s).txHead = s.txHead := rfl
@[simp] theorem bump_mgt (k w n : Nat) (s : State) : (bump k w n s).mgt = s.mgt := rfl
@[simp] theorem bump_ctxs (k w n : Nat) (s : State) : (bump k w n s).ctxs = s.ctxs := rfl
@[simp] theorem bump_ctxGen (k w n : Nat) (s : State) : (bump k w n s).ctxGen = s.ctxGen := rfl
@[simp] theorem bump_regions (k w n : Nat) (s : State) : (bump k w n s).regions = s.regions := rfl
@[simp] theorem bump_regionCap (k w n : Nat) (s : State) : (bump k w n s).regionCap = s.regionCap := rfl
@[simp] theorem bump_held (k w n : Nat) (s : State) : (bump k w n s).held = s.held := rfl
@[simp] theorem bump_holds (k w n : Nat) (s : State) : (bump k w n s).holds = s.holds := rfl
@[simp] theorem bump_landing (k w n : Nat) (s : State) : (bump k w n s).landing = s.landing := rfl
@[simp] theorem bump_nextHold (k w n : Nat) (s : State) : (bump k w n s).nextHold = s.nextHold := rfl
@[simp] theorem bump_works (k w n : Nat) (s : State) : (bump k w n s).works = s.works := rfl
@[simp] theorem bump_nextWork (k w n : Nat) (s : State) : (bump k w n s).nextWork = s.nextWork := rfl
@[simp] theorem bump_pcie (k w n : Nat) (s : State) : (bump k w n s).pcie = s.pcie := rfl
@[simp] theorem bump_rings (k w n : Nat) (s : State) : (bump k w n s).rings = s.rings := rfl
@[simp] theorem bump_cmds (k w n : Nat) (s : State) : (bump k w n s).cmds = s.cmds := rfl
@[simp] theorem bump_nextCmd (k w n : Nat) (s : State) : (bump k w n s).nextCmd = s.nextCmd := rfl
@[simp] theorem bump_tenants (k w n : Nat) (s : State) : (bump k w n s).tenants = s.tenants := rfl
@[simp] theorem bump_census (k w n : Nat) (s : State) : (bump k w n s).census = s.census := rfl
@[simp] theorem bump_tallies (k w n : Nat) (s : State) : (bump k w n s).tallies = s.tallies := rfl
@[simp] theorem bump_snap (k w n : Nat) (s : State) : (bump k w n s).snap = s.snap := rfl
@[simp] theorem bump_snapM (k w n : Nat) (s : State) : (bump k w n s).snapM = s.snapM := rfl
@[simp] theorem bump_pho (k w n : Nat) (s : State) : (bump k w n s).pho = s.pho := rfl
@[simp] theorem bump_flt (k w n : Nat) (s : State) : (bump k w n s).flt = s.flt := rfl
@[simp] theorem bump_alm (k w n : Nat) (s : State) : (bump k w n s).alm = s.alm := rfl
@[simp] theorem bump_boot (k w n : Nat) (s : State) : (bump k w n s).boot = s.boot := rfl
@[simp] theorem bump_fw (k w n : Nat) (s : State) : (bump k w n s).fw = s.fw := rfl
@[simp] theorem bump_pwr (k w n : Nat) (s : State) : (bump k w n s).pwr = s.pwr := rfl
@[simp] theorem bump_out (k w n : Nat) (s : State) : (bump k w n s).out = s.out := rfl

/-! ### setRing -/

@[simp] theorem setRing_pending (fn r : Nat) (g : Ring) (s : State) : (setRing fn r g s).pending = s.pending := rfl
@[simp] theorem setRing_now (fn r : Nat) (g : Ring) (s : State) : (setRing fn r g s).now = s.now := rfl
@[simp] theorem setRing_free (fn r : Nat) (g : Ring) (s : State) : (setRing fn r g s).free = s.free := rfl
@[simp] theorem setRing_act (fn r : Nat) (g : Ring) (s : State) : (setRing fn r g s).act = s.act := rfl
@[simp] theorem setRing_shd (fn r : Nat) (g : Ring) (s : State) : (setRing fn r g s).shd = s.shd := rfl
@[simp] theorem setRing_ctr (fn r : Nat) (g : Ring) (s : State) : (setRing fn r g s).ctr = s.ctr := rfl
@[simp] theorem setRing_latch (fn r : Nat) (g : Ring) (s : State) : (setRing fn r g s).latch = s.latch := rfl
@[simp] theorem setRing_hiHeld (fn r : Nat) (g : Ring) (s : State) : (setRing fn r g s).hiHeld = s.hiHeld := rfl
@[simp] theorem setRing_hwSet (fn r : Nat) (g : Ring) (s : State) : (setRing fn r g s).hwSet = s.hwSet := rfl
@[simp] theorem setRing_readData (fn r : Nat) (g : Ring) (s : State) : (setRing fn r g s).readData = s.readData := rfl
@[simp] theorem setRing_groups (fn r : Nat) (g : Ring) (s : State) : (setRing fn r g s).groups = s.groups := rfl
@[simp] theorem setRing_mer (fn r : Nat) (g : Ring) (s : State) : (setRing fn r g s).mer = s.mer := rfl
@[simp] theorem setRing_ptp (fn r : Nat) (g : Ring) (s : State) : (setRing fn r g s).ptp = s.ptp := rfl
@[simp] theorem setRing_jobs (fn r : Nat) (g : Ring) (s : State) : (setRing fn r g s).jobs = s.jobs := rfl
@[simp] theorem setRing_plans (fn r : Nat) (g : Ring) (s : State) : (setRing fn r g s).plans = s.plans := rfl
@[simp] theorem setRing_nextPlan (fn r : Nat) (g : Ring) (s : State) : (setRing fn r g s).nextPlan = s.nextPlan := rfl
@[simp] theorem setRing_cores (fn r : Nat) (g : Ring) (s : State) : (setRing fn r g s).cores = s.cores := rfl
@[simp] theorem setRing_threads (fn r : Nat) (g : Ring) (s : State) : (setRing fn r g s).threads = s.threads := rfl
@[simp] theorem setRing_sregs (fn r : Nat) (g : Ring) (s : State) : (setRing fn r g s).sregs = s.sregs := rfl
@[simp] theorem setRing_vregs (fn r : Nat) (g : Ring) (s : State) : (setRing fn r g s).vregs = s.vregs := rfl
@[simp] theorem setRing_sbusy (fn r : Nat) (g : Ring) (s : State) : (setRing fn r g s).sbusy = s.sbusy := rfl
@[simp] theorem setRing_vbusy (fn r : Nat) (g : Ring) (s : State) : (setRing fn r g s).vbusy = s.vbusy := rfl
@[simp] theorem setRing_ranges (fn r : Nat) (g : Ring) (s : State) : (setRing fn r g s).ranges = s.ranges := rfl
@[simp] theorem setRing_store (fn r : Nat) (g : Ring) (s : State) : (setRing fn r g s).store = s.store := rfl
@[simp] theorem setRing_badStore (fn r : Nat) (g : Ring) (s : State) : (setRing fn r g s).badStore = s.badStore := rfl
@[simp] theorem setRing_badVec (fn r : Nat) (g : Ring) (s : State) : (setRing fn r g s).badVec = s.badVec := rfl
@[simp] theorem setRing_acc (fn r : Nat) (g : Ring) (s : State) : (setRing fn r g s).acc = s.acc := rfl
@[simp] theorem setRing_badAcc (fn r : Nat) (g : Ring) (s : State) : (setRing fn r g s).badAcc = s.badAcc := rfl
@[simp] theorem setRing_slots (fn r : Nat) (g : Ring) (s : State) : (setRing fn r g s).slots = s.slots := rfl
@[simp] theorem setRing_badSlot (fn r : Nat) (g : Ring) (s : State) : (setRing fn r g s).badSlot = s.badSlot := rfl
@[simp] theorem setRing_sync (fn r : Nat) (g : Ring) (s : State) : (setRing fn r g s).sync = s.sync := rfl
@[simp] theorem setRing_signals (fn r : Nat) (g : Ring) (s : State) : (setRing fn r g s).signals = s.signals := rfl
@[simp] theorem setRing_hbm (fn r : Nat) (g : Ring) (s : State) : (setRing fn r g s).hbm = s.hbm := rfl
@[simp] theorem setRing_stks (fn r : Nat) (g : Ring) (s : State) : (setRing fn r g s).stks = s.stks := rfl
@[simp] theorem setRing_recs (fn r : Nat) (g : Ring) (s : State) : (setRing fn r g s).recs = s.recs := rfl
@[simp] theorem setRing_upds (fn r : Nat) (g : Ring) (s : State) : (setRing fn r g s).upds = s.upds := rfl
@[simp] theorem setRing_nextUpd (fn r : Nat) (g : Ring) (s : State) : (setRing fn r g s).nextUpd = s.nextUpd := rfl
@[simp] theorem setRing_objs (fn r : Nat) (g : Ring) (s : State) : (setRing fn r g s).objs = s.objs := rfl
@[simp] theorem setRing_nextObj (fn r : Nat) (g : Ring) (s : State) : (setRing fn r g s).nextObj = s.nextObj := rfl
@[simp] theorem setRing_frames (fn r : Nat) (g : Ring) (s : State) : (setRing fn r g s).frames = s.frames := rfl
@[simp] theorem setRing_tables (fn r : Nat) (g : Ring) (s : State) : (setRing fn r g s).tables = s.tables := rfl
@[simp] theorem setRing_vault (fn r : Nat) (g : Ring) (s : State) : (setRing fn r g s).vault = s.vault := rfl
@[simp] theorem setRing_flash (fn r : Nat) (g : Ring) (s : State) : (setRing fn r g s).flash = s.flash := rfl
@[simp] theorem setRing_ephCnt (fn r : Nat) (g : Ring) (s : State) : (setRing fn r g s).ephCnt = s.ephCnt := rfl
@[simp] theorem setRing_edges (fn r : Nat) (g : Ring) (s : State) : (setRing fn r g s).edges = s.edges := rfl
@[simp] theorem setRing_staged (fn r : Nat) (g : Ring) (s : State) : (setRing fn r g s).staged = s.staged := rfl
@[simp] theorem setRing_ports (fn r : Nat) (g : Ring) (s : State) : (setRing fn r g s).ports = s.ports := rfl
@[simp] theorem setRing_taken (fn r : Nat) (g : Ring) (s : State) : (setRing fn r g s).taken = s.taken := rfl
@[simp] theorem setRing_spray (fn r : Nat) (g : Ring) (s : State) : (setRing fn r g s).spray = s.spray := rfl
@[simp] theorem setRing_puHead (fn r : Nat) (g : Ring) (s : State) : (setRing fn r g s).puHead = s.puHead := rfl
@[simp] theorem setRing_txHead (fn r : Nat) (g : Ring) (s : State) : (setRing fn r g s).txHead = s.txHead := rfl
@[simp] theorem setRing_mgt (fn r : Nat) (g : Ring) (s : State) : (setRing fn r g s).mgt = s.mgt := rfl
@[simp] theorem setRing_ctxs (fn r : Nat) (g : Ring) (s : State) : (setRing fn r g s).ctxs = s.ctxs := rfl
@[simp] theorem setRing_ctxGen (fn r : Nat) (g : Ring) (s : State) : (setRing fn r g s).ctxGen = s.ctxGen := rfl
@[simp] theorem setRing_regions (fn r : Nat) (g : Ring) (s : State) : (setRing fn r g s).regions = s.regions := rfl
@[simp] theorem setRing_regionCap (fn r : Nat) (g : Ring) (s : State) : (setRing fn r g s).regionCap = s.regionCap := rfl
@[simp] theorem setRing_held (fn r : Nat) (g : Ring) (s : State) : (setRing fn r g s).held = s.held := rfl
@[simp] theorem setRing_holds (fn r : Nat) (g : Ring) (s : State) : (setRing fn r g s).holds = s.holds := rfl
@[simp] theorem setRing_landing (fn r : Nat) (g : Ring) (s : State) : (setRing fn r g s).landing = s.landing := rfl
@[simp] theorem setRing_nextHold (fn r : Nat) (g : Ring) (s : State) : (setRing fn r g s).nextHold = s.nextHold := rfl
@[simp] theorem setRing_works (fn r : Nat) (g : Ring) (s : State) : (setRing fn r g s).works = s.works := rfl
@[simp] theorem setRing_nextWork (fn r : Nat) (g : Ring) (s : State) : (setRing fn r g s).nextWork = s.nextWork := rfl
@[simp] theorem setRing_pcie (fn r : Nat) (g : Ring) (s : State) : (setRing fn r g s).pcie = s.pcie := rfl
@[simp] theorem setRing_cmds (fn r : Nat) (g : Ring) (s : State) : (setRing fn r g s).cmds = s.cmds := rfl
@[simp] theorem setRing_nextCmd (fn r : Nat) (g : Ring) (s : State) : (setRing fn r g s).nextCmd = s.nextCmd := rfl
@[simp] theorem setRing_tenants (fn r : Nat) (g : Ring) (s : State) : (setRing fn r g s).tenants = s.tenants := rfl
@[simp] theorem setRing_census (fn r : Nat) (g : Ring) (s : State) : (setRing fn r g s).census = s.census := rfl
@[simp] theorem setRing_tallies (fn r : Nat) (g : Ring) (s : State) : (setRing fn r g s).tallies = s.tallies := rfl
@[simp] theorem setRing_snap (fn r : Nat) (g : Ring) (s : State) : (setRing fn r g s).snap = s.snap := rfl
@[simp] theorem setRing_snapM (fn r : Nat) (g : Ring) (s : State) : (setRing fn r g s).snapM = s.snapM := rfl
@[simp] theorem setRing_pho (fn r : Nat) (g : Ring) (s : State) : (setRing fn r g s).pho = s.pho := rfl
@[simp] theorem setRing_flt (fn r : Nat) (g : Ring) (s : State) : (setRing fn r g s).flt = s.flt := rfl
@[simp] theorem setRing_alm (fn r : Nat) (g : Ring) (s : State) : (setRing fn r g s).alm = s.alm := rfl
@[simp] theorem setRing_boot (fn r : Nat) (g : Ring) (s : State) : (setRing fn r g s).boot = s.boot := rfl
@[simp] theorem setRing_fw (fn r : Nat) (g : Ring) (s : State) : (setRing fn r g s).fw = s.fw := rfl
@[simp] theorem setRing_pwr (fn r : Nat) (g : Ring) (s : State) : (setRing fn r g s).pwr = s.pwr := rfl
@[simp] theorem setRing_out (fn r : Nat) (g : Ring) (s : State) : (setRing fn r g s).out = s.out := rfl

/-! ### storeWrite -/

@[simp] theorem storeWrite_pending (core off : Nat) (bs : List Byte) (s : State) : (storeWrite core off bs s).pending = s.pending := rfl
@[simp] theorem storeWrite_now (core off : Nat) (bs : List Byte) (s : State) : (storeWrite core off bs s).now = s.now := rfl
@[simp] theorem storeWrite_free (core off : Nat) (bs : List Byte) (s : State) : (storeWrite core off bs s).free = s.free := rfl
@[simp] theorem storeWrite_act (core off : Nat) (bs : List Byte) (s : State) : (storeWrite core off bs s).act = s.act := rfl
@[simp] theorem storeWrite_shd (core off : Nat) (bs : List Byte) (s : State) : (storeWrite core off bs s).shd = s.shd := rfl
@[simp] theorem storeWrite_ctr (core off : Nat) (bs : List Byte) (s : State) : (storeWrite core off bs s).ctr = s.ctr := rfl
@[simp] theorem storeWrite_latch (core off : Nat) (bs : List Byte) (s : State) : (storeWrite core off bs s).latch = s.latch := rfl
@[simp] theorem storeWrite_hiHeld (core off : Nat) (bs : List Byte) (s : State) : (storeWrite core off bs s).hiHeld = s.hiHeld := rfl
@[simp] theorem storeWrite_hwSet (core off : Nat) (bs : List Byte) (s : State) : (storeWrite core off bs s).hwSet = s.hwSet := rfl
@[simp] theorem storeWrite_readData (core off : Nat) (bs : List Byte) (s : State) : (storeWrite core off bs s).readData = s.readData := rfl
@[simp] theorem storeWrite_groups (core off : Nat) (bs : List Byte) (s : State) : (storeWrite core off bs s).groups = s.groups := rfl
@[simp] theorem storeWrite_mer (core off : Nat) (bs : List Byte) (s : State) : (storeWrite core off bs s).mer = s.mer := rfl
@[simp] theorem storeWrite_ptp (core off : Nat) (bs : List Byte) (s : State) : (storeWrite core off bs s).ptp = s.ptp := rfl
@[simp] theorem storeWrite_jobs (core off : Nat) (bs : List Byte) (s : State) : (storeWrite core off bs s).jobs = s.jobs := rfl
@[simp] theorem storeWrite_plans (core off : Nat) (bs : List Byte) (s : State) : (storeWrite core off bs s).plans = s.plans := rfl
@[simp] theorem storeWrite_nextPlan (core off : Nat) (bs : List Byte) (s : State) : (storeWrite core off bs s).nextPlan = s.nextPlan := rfl
@[simp] theorem storeWrite_cores (core off : Nat) (bs : List Byte) (s : State) : (storeWrite core off bs s).cores = s.cores := rfl
@[simp] theorem storeWrite_threads (core off : Nat) (bs : List Byte) (s : State) : (storeWrite core off bs s).threads = s.threads := rfl
@[simp] theorem storeWrite_sregs (core off : Nat) (bs : List Byte) (s : State) : (storeWrite core off bs s).sregs = s.sregs := rfl
@[simp] theorem storeWrite_vregs (core off : Nat) (bs : List Byte) (s : State) : (storeWrite core off bs s).vregs = s.vregs := rfl
@[simp] theorem storeWrite_sbusy (core off : Nat) (bs : List Byte) (s : State) : (storeWrite core off bs s).sbusy = s.sbusy := rfl
@[simp] theorem storeWrite_vbusy (core off : Nat) (bs : List Byte) (s : State) : (storeWrite core off bs s).vbusy = s.vbusy := rfl
@[simp] theorem storeWrite_ranges (core off : Nat) (bs : List Byte) (s : State) : (storeWrite core off bs s).ranges = s.ranges := rfl
@[simp] theorem storeWrite_badVec (core off : Nat) (bs : List Byte) (s : State) : (storeWrite core off bs s).badVec = s.badVec := rfl
@[simp] theorem storeWrite_acc (core off : Nat) (bs : List Byte) (s : State) : (storeWrite core off bs s).acc = s.acc := rfl
@[simp] theorem storeWrite_badAcc (core off : Nat) (bs : List Byte) (s : State) : (storeWrite core off bs s).badAcc = s.badAcc := rfl
@[simp] theorem storeWrite_slots (core off : Nat) (bs : List Byte) (s : State) : (storeWrite core off bs s).slots = s.slots := rfl
@[simp] theorem storeWrite_badSlot (core off : Nat) (bs : List Byte) (s : State) : (storeWrite core off bs s).badSlot = s.badSlot := rfl
@[simp] theorem storeWrite_sync (core off : Nat) (bs : List Byte) (s : State) : (storeWrite core off bs s).sync = s.sync := rfl
@[simp] theorem storeWrite_signals (core off : Nat) (bs : List Byte) (s : State) : (storeWrite core off bs s).signals = s.signals := rfl
@[simp] theorem storeWrite_hbm (core off : Nat) (bs : List Byte) (s : State) : (storeWrite core off bs s).hbm = s.hbm := rfl
@[simp] theorem storeWrite_stks (core off : Nat) (bs : List Byte) (s : State) : (storeWrite core off bs s).stks = s.stks := rfl
@[simp] theorem storeWrite_recs (core off : Nat) (bs : List Byte) (s : State) : (storeWrite core off bs s).recs = s.recs := rfl
@[simp] theorem storeWrite_upds (core off : Nat) (bs : List Byte) (s : State) : (storeWrite core off bs s).upds = s.upds := rfl
@[simp] theorem storeWrite_nextUpd (core off : Nat) (bs : List Byte) (s : State) : (storeWrite core off bs s).nextUpd = s.nextUpd := rfl
@[simp] theorem storeWrite_objs (core off : Nat) (bs : List Byte) (s : State) : (storeWrite core off bs s).objs = s.objs := rfl
@[simp] theorem storeWrite_nextObj (core off : Nat) (bs : List Byte) (s : State) : (storeWrite core off bs s).nextObj = s.nextObj := rfl
@[simp] theorem storeWrite_frames (core off : Nat) (bs : List Byte) (s : State) : (storeWrite core off bs s).frames = s.frames := rfl
@[simp] theorem storeWrite_tables (core off : Nat) (bs : List Byte) (s : State) : (storeWrite core off bs s).tables = s.tables := rfl
@[simp] theorem storeWrite_vault (core off : Nat) (bs : List Byte) (s : State) : (storeWrite core off bs s).vault = s.vault := rfl
@[simp] theorem storeWrite_flash (core off : Nat) (bs : List Byte) (s : State) : (storeWrite core off bs s).flash = s.flash := rfl
@[simp] theorem storeWrite_ephCnt (core off : Nat) (bs : List Byte) (s : State) : (storeWrite core off bs s).ephCnt = s.ephCnt := rfl
@[simp] theorem storeWrite_edges (core off : Nat) (bs : List Byte) (s : State) : (storeWrite core off bs s).edges = s.edges := rfl
@[simp] theorem storeWrite_staged (core off : Nat) (bs : List Byte) (s : State) : (storeWrite core off bs s).staged = s.staged := rfl
@[simp] theorem storeWrite_ports (core off : Nat) (bs : List Byte) (s : State) : (storeWrite core off bs s).ports = s.ports := rfl
@[simp] theorem storeWrite_taken (core off : Nat) (bs : List Byte) (s : State) : (storeWrite core off bs s).taken = s.taken := rfl
@[simp] theorem storeWrite_spray (core off : Nat) (bs : List Byte) (s : State) : (storeWrite core off bs s).spray = s.spray := rfl
@[simp] theorem storeWrite_puHead (core off : Nat) (bs : List Byte) (s : State) : (storeWrite core off bs s).puHead = s.puHead := rfl
@[simp] theorem storeWrite_txHead (core off : Nat) (bs : List Byte) (s : State) : (storeWrite core off bs s).txHead = s.txHead := rfl
@[simp] theorem storeWrite_mgt (core off : Nat) (bs : List Byte) (s : State) : (storeWrite core off bs s).mgt = s.mgt := rfl
@[simp] theorem storeWrite_ctxs (core off : Nat) (bs : List Byte) (s : State) : (storeWrite core off bs s).ctxs = s.ctxs := rfl
@[simp] theorem storeWrite_ctxGen (core off : Nat) (bs : List Byte) (s : State) : (storeWrite core off bs s).ctxGen = s.ctxGen := rfl
@[simp] theorem storeWrite_regions (core off : Nat) (bs : List Byte) (s : State) : (storeWrite core off bs s).regions = s.regions := rfl
@[simp] theorem storeWrite_regionCap (core off : Nat) (bs : List Byte) (s : State) : (storeWrite core off bs s).regionCap = s.regionCap := rfl
@[simp] theorem storeWrite_held (core off : Nat) (bs : List Byte) (s : State) : (storeWrite core off bs s).held = s.held := rfl
@[simp] theorem storeWrite_holds (core off : Nat) (bs : List Byte) (s : State) : (storeWrite core off bs s).holds = s.holds := rfl
@[simp] theorem storeWrite_landing (core off : Nat) (bs : List Byte) (s : State) : (storeWrite core off bs s).landing = s.landing := rfl
@[simp] theorem storeWrite_nextHold (core off : Nat) (bs : List Byte) (s : State) : (storeWrite core off bs s).nextHold = s.nextHold := rfl
@[simp] theorem storeWrite_works (core off : Nat) (bs : List Byte) (s : State) : (storeWrite core off bs s).works = s.works := rfl
@[simp] theorem storeWrite_nextWork (core off : Nat) (bs : List Byte) (s : State) : (storeWrite core off bs s).nextWork = s.nextWork := rfl
@[simp] theorem storeWrite_pcie (core off : Nat) (bs : List Byte) (s : State) : (storeWrite core off bs s).pcie = s.pcie := rfl
@[simp] theorem storeWrite_rings (core off : Nat) (bs : List Byte) (s : State) : (storeWrite core off bs s).rings = s.rings := rfl
@[simp] theorem storeWrite_cmds (core off : Nat) (bs : List Byte) (s : State) : (storeWrite core off bs s).cmds = s.cmds := rfl
@[simp] theorem storeWrite_nextCmd (core off : Nat) (bs : List Byte) (s : State) : (storeWrite core off bs s).nextCmd = s.nextCmd := rfl
@[simp] theorem storeWrite_tenants (core off : Nat) (bs : List Byte) (s : State) : (storeWrite core off bs s).tenants = s.tenants := rfl
@[simp] theorem storeWrite_census (core off : Nat) (bs : List Byte) (s : State) : (storeWrite core off bs s).census = s.census := rfl
@[simp] theorem storeWrite_tallies (core off : Nat) (bs : List Byte) (s : State) : (storeWrite core off bs s).tallies = s.tallies := rfl
@[simp] theorem storeWrite_snap (core off : Nat) (bs : List Byte) (s : State) : (storeWrite core off bs s).snap = s.snap := rfl
@[simp] theorem storeWrite_snapM (core off : Nat) (bs : List Byte) (s : State) : (storeWrite core off bs s).snapM = s.snapM := rfl
@[simp] theorem storeWrite_pho (core off : Nat) (bs : List Byte) (s : State) : (storeWrite core off bs s).pho = s.pho := rfl
@[simp] theorem storeWrite_flt (core off : Nat) (bs : List Byte) (s : State) : (storeWrite core off bs s).flt = s.flt := rfl
@[simp] theorem storeWrite_alm (core off : Nat) (bs : List Byte) (s : State) : (storeWrite core off bs s).alm = s.alm := rfl
@[simp] theorem storeWrite_boot (core off : Nat) (bs : List Byte) (s : State) : (storeWrite core off bs s).boot = s.boot := rfl
@[simp] theorem storeWrite_fw (core off : Nat) (bs : List Byte) (s : State) : (storeWrite core off bs s).fw = s.fw := rfl
@[simp] theorem storeWrite_pwr (core off : Nat) (bs : List Byte) (s : State) : (storeWrite core off bs s).pwr = s.pwr := rfl
@[simp] theorem storeWrite_out (core off : Nat) (bs : List Byte) (s : State) : (storeWrite core off bs s).out = s.out := rfl

/-! ### hbmPut -/

@[simp] theorem hbmPut_pending (k : Nat) (bs : List Byte) (s : State) : (hbmPut k bs s).pending = s.pending := rfl
@[simp] theorem hbmPut_now (k : Nat) (bs : List Byte) (s : State) : (hbmPut k bs s).now = s.now := rfl
@[simp] theorem hbmPut_free (k : Nat) (bs : List Byte) (s : State) : (hbmPut k bs s).free = s.free := rfl
@[simp] theorem hbmPut_act (k : Nat) (bs : List Byte) (s : State) : (hbmPut k bs s).act = s.act := rfl
@[simp] theorem hbmPut_shd (k : Nat) (bs : List Byte) (s : State) : (hbmPut k bs s).shd = s.shd := rfl
@[simp] theorem hbmPut_ctr (k : Nat) (bs : List Byte) (s : State) : (hbmPut k bs s).ctr = s.ctr := rfl
@[simp] theorem hbmPut_latch (k : Nat) (bs : List Byte) (s : State) : (hbmPut k bs s).latch = s.latch := rfl
@[simp] theorem hbmPut_hiHeld (k : Nat) (bs : List Byte) (s : State) : (hbmPut k bs s).hiHeld = s.hiHeld := rfl
@[simp] theorem hbmPut_hwSet (k : Nat) (bs : List Byte) (s : State) : (hbmPut k bs s).hwSet = s.hwSet := rfl
@[simp] theorem hbmPut_readData (k : Nat) (bs : List Byte) (s : State) : (hbmPut k bs s).readData = s.readData := rfl
@[simp] theorem hbmPut_groups (k : Nat) (bs : List Byte) (s : State) : (hbmPut k bs s).groups = s.groups := rfl
@[simp] theorem hbmPut_mer (k : Nat) (bs : List Byte) (s : State) : (hbmPut k bs s).mer = s.mer := rfl
@[simp] theorem hbmPut_ptp (k : Nat) (bs : List Byte) (s : State) : (hbmPut k bs s).ptp = s.ptp := rfl
@[simp] theorem hbmPut_jobs (k : Nat) (bs : List Byte) (s : State) : (hbmPut k bs s).jobs = s.jobs := rfl
@[simp] theorem hbmPut_plans (k : Nat) (bs : List Byte) (s : State) : (hbmPut k bs s).plans = s.plans := rfl
@[simp] theorem hbmPut_nextPlan (k : Nat) (bs : List Byte) (s : State) : (hbmPut k bs s).nextPlan = s.nextPlan := rfl
@[simp] theorem hbmPut_cores (k : Nat) (bs : List Byte) (s : State) : (hbmPut k bs s).cores = s.cores := rfl
@[simp] theorem hbmPut_threads (k : Nat) (bs : List Byte) (s : State) : (hbmPut k bs s).threads = s.threads := rfl
@[simp] theorem hbmPut_sregs (k : Nat) (bs : List Byte) (s : State) : (hbmPut k bs s).sregs = s.sregs := rfl
@[simp] theorem hbmPut_vregs (k : Nat) (bs : List Byte) (s : State) : (hbmPut k bs s).vregs = s.vregs := rfl
@[simp] theorem hbmPut_sbusy (k : Nat) (bs : List Byte) (s : State) : (hbmPut k bs s).sbusy = s.sbusy := rfl
@[simp] theorem hbmPut_vbusy (k : Nat) (bs : List Byte) (s : State) : (hbmPut k bs s).vbusy = s.vbusy := rfl
@[simp] theorem hbmPut_ranges (k : Nat) (bs : List Byte) (s : State) : (hbmPut k bs s).ranges = s.ranges := rfl
@[simp] theorem hbmPut_store (k : Nat) (bs : List Byte) (s : State) : (hbmPut k bs s).store = s.store := rfl
@[simp] theorem hbmPut_badStore (k : Nat) (bs : List Byte) (s : State) : (hbmPut k bs s).badStore = s.badStore := rfl
@[simp] theorem hbmPut_badVec (k : Nat) (bs : List Byte) (s : State) : (hbmPut k bs s).badVec = s.badVec := rfl
@[simp] theorem hbmPut_acc (k : Nat) (bs : List Byte) (s : State) : (hbmPut k bs s).acc = s.acc := rfl
@[simp] theorem hbmPut_badAcc (k : Nat) (bs : List Byte) (s : State) : (hbmPut k bs s).badAcc = s.badAcc := rfl
@[simp] theorem hbmPut_slots (k : Nat) (bs : List Byte) (s : State) : (hbmPut k bs s).slots = s.slots := rfl
@[simp] theorem hbmPut_badSlot (k : Nat) (bs : List Byte) (s : State) : (hbmPut k bs s).badSlot = s.badSlot := rfl
@[simp] theorem hbmPut_sync (k : Nat) (bs : List Byte) (s : State) : (hbmPut k bs s).sync = s.sync := rfl
@[simp] theorem hbmPut_signals (k : Nat) (bs : List Byte) (s : State) : (hbmPut k bs s).signals = s.signals := rfl
@[simp] theorem hbmPut_stks (k : Nat) (bs : List Byte) (s : State) : (hbmPut k bs s).stks = s.stks := rfl
@[simp] theorem hbmPut_recs (k : Nat) (bs : List Byte) (s : State) : (hbmPut k bs s).recs = s.recs := rfl
@[simp] theorem hbmPut_upds (k : Nat) (bs : List Byte) (s : State) : (hbmPut k bs s).upds = s.upds := rfl
@[simp] theorem hbmPut_nextUpd (k : Nat) (bs : List Byte) (s : State) : (hbmPut k bs s).nextUpd = s.nextUpd := rfl
@[simp] theorem hbmPut_objs (k : Nat) (bs : List Byte) (s : State) : (hbmPut k bs s).objs = s.objs := rfl
@[simp] theorem hbmPut_nextObj (k : Nat) (bs : List Byte) (s : State) : (hbmPut k bs s).nextObj = s.nextObj := rfl
@[simp] theorem hbmPut_frames (k : Nat) (bs : List Byte) (s : State) : (hbmPut k bs s).frames = s.frames := rfl
@[simp] theorem hbmPut_tables (k : Nat) (bs : List Byte) (s : State) : (hbmPut k bs s).tables = s.tables := rfl
@[simp] theorem hbmPut_vault (k : Nat) (bs : List Byte) (s : State) : (hbmPut k bs s).vault = s.vault := rfl
@[simp] theorem hbmPut_flash (k : Nat) (bs : List Byte) (s : State) : (hbmPut k bs s).flash = s.flash := rfl
@[simp] theorem hbmPut_ephCnt (k : Nat) (bs : List Byte) (s : State) : (hbmPut k bs s).ephCnt = s.ephCnt := rfl
@[simp] theorem hbmPut_edges (k : Nat) (bs : List Byte) (s : State) : (hbmPut k bs s).edges = s.edges := rfl
@[simp] theorem hbmPut_staged (k : Nat) (bs : List Byte) (s : State) : (hbmPut k bs s).staged = s.staged := rfl
@[simp] theorem hbmPut_ports (k : Nat) (bs : List Byte) (s : State) : (hbmPut k bs s).ports = s.ports := rfl
@[simp] theorem hbmPut_taken (k : Nat) (bs : List Byte) (s : State) : (hbmPut k bs s).taken = s.taken := rfl
@[simp] theorem hbmPut_spray (k : Nat) (bs : List Byte) (s : State) : (hbmPut k bs s).spray = s.spray := rfl
@[simp] theorem hbmPut_puHead (k : Nat) (bs : List Byte) (s : State) : (hbmPut k bs s).puHead = s.puHead := rfl
@[simp] theorem hbmPut_txHead (k : Nat) (bs : List Byte) (s : State) : (hbmPut k bs s).txHead = s.txHead := rfl
@[simp] theorem hbmPut_mgt (k : Nat) (bs : List Byte) (s : State) : (hbmPut k bs s).mgt = s.mgt := rfl
@[simp] theorem hbmPut_ctxs (k : Nat) (bs : List Byte) (s : State) : (hbmPut k bs s).ctxs = s.ctxs := rfl
@[simp] theorem hbmPut_ctxGen (k : Nat) (bs : List Byte) (s : State) : (hbmPut k bs s).ctxGen = s.ctxGen := rfl
@[simp] theorem hbmPut_regions (k : Nat) (bs : List Byte) (s : State) : (hbmPut k bs s).regions = s.regions := rfl
@[simp] theorem hbmPut_regionCap (k : Nat) (bs : List Byte) (s : State) : (hbmPut k bs s).regionCap = s.regionCap := rfl
@[simp] theorem hbmPut_held (k : Nat) (bs : List Byte) (s : State) : (hbmPut k bs s).held = s.held := rfl
@[simp] theorem hbmPut_holds (k : Nat) (bs : List Byte) (s : State) : (hbmPut k bs s).holds = s.holds := rfl
@[simp] theorem hbmPut_landing (k : Nat) (bs : List Byte) (s : State) : (hbmPut k bs s).landing = s.landing := rfl
@[simp] theorem hbmPut_nextHold (k : Nat) (bs : List Byte) (s : State) : (hbmPut k bs s).nextHold = s.nextHold := rfl
@[simp] theorem hbmPut_works (k : Nat) (bs : List Byte) (s : State) : (hbmPut k bs s).works = s.works := rfl
@[simp] theorem hbmPut_nextWork (k : Nat) (bs : List Byte) (s : State) : (hbmPut k bs s).nextWork = s.nextWork := rfl
@[simp] theorem hbmPut_pcie (k : Nat) (bs : List Byte) (s : State) : (hbmPut k bs s).pcie = s.pcie := rfl
@[simp] theorem hbmPut_rings (k : Nat) (bs : List Byte) (s : State) : (hbmPut k bs s).rings = s.rings := rfl
@[simp] theorem hbmPut_cmds (k : Nat) (bs : List Byte) (s : State) : (hbmPut k bs s).cmds = s.cmds := rfl
@[simp] theorem hbmPut_nextCmd (k : Nat) (bs : List Byte) (s : State) : (hbmPut k bs s).nextCmd = s.nextCmd := rfl
@[simp] theorem hbmPut_tenants (k : Nat) (bs : List Byte) (s : State) : (hbmPut k bs s).tenants = s.tenants := rfl
@[simp] theorem hbmPut_census (k : Nat) (bs : List Byte) (s : State) : (hbmPut k bs s).census = s.census := rfl
@[simp] theorem hbmPut_tallies (k : Nat) (bs : List Byte) (s : State) : (hbmPut k bs s).tallies = s.tallies := rfl
@[simp] theorem hbmPut_snap (k : Nat) (bs : List Byte) (s : State) : (hbmPut k bs s).snap = s.snap := rfl
@[simp] theorem hbmPut_snapM (k : Nat) (bs : List Byte) (s : State) : (hbmPut k bs s).snapM = s.snapM := rfl
@[simp] theorem hbmPut_pho (k : Nat) (bs : List Byte) (s : State) : (hbmPut k bs s).pho = s.pho := rfl
@[simp] theorem hbmPut_flt (k : Nat) (bs : List Byte) (s : State) : (hbmPut k bs s).flt = s.flt := rfl
@[simp] theorem hbmPut_alm (k : Nat) (bs : List Byte) (s : State) : (hbmPut k bs s).alm = s.alm := rfl
@[simp] theorem hbmPut_boot (k : Nat) (bs : List Byte) (s : State) : (hbmPut k bs s).boot = s.boot := rfl
@[simp] theorem hbmPut_fw (k : Nat) (bs : List Byte) (s : State) : (hbmPut k bs s).fw = s.fw := rfl
@[simp] theorem hbmPut_pwr (k : Nat) (bs : List Byte) (s : State) : (hbmPut k bs s).pwr = s.pwr := rfl
@[simp] theorem hbmPut_out (k : Nat) (bs : List Byte) (s : State) : (hbmPut k bs s).out = s.out := rfl

/-! ### setVreg -/

@[simp] theorem setVreg_pending (k v : Nat) (l : List W32) (u : Nat) (s : State) : (setVreg k v l u s).pending = s.pending := rfl
@[simp] theorem setVreg_now (k v : Nat) (l : List W32) (u : Nat) (s : State) : (setVreg k v l u s).now = s.now := rfl
@[simp] theorem setVreg_free (k v : Nat) (l : List W32) (u : Nat) (s : State) : (setVreg k v l u s).free = s.free := rfl
@[simp] theorem setVreg_act (k v : Nat) (l : List W32) (u : Nat) (s : State) : (setVreg k v l u s).act = s.act := rfl
@[simp] theorem setVreg_shd (k v : Nat) (l : List W32) (u : Nat) (s : State) : (setVreg k v l u s).shd = s.shd := rfl
@[simp] theorem setVreg_ctr (k v : Nat) (l : List W32) (u : Nat) (s : State) : (setVreg k v l u s).ctr = s.ctr := rfl
@[simp] theorem setVreg_latch (k v : Nat) (l : List W32) (u : Nat) (s : State) : (setVreg k v l u s).latch = s.latch := rfl
@[simp] theorem setVreg_hiHeld (k v : Nat) (l : List W32) (u : Nat) (s : State) : (setVreg k v l u s).hiHeld = s.hiHeld := rfl
@[simp] theorem setVreg_hwSet (k v : Nat) (l : List W32) (u : Nat) (s : State) : (setVreg k v l u s).hwSet = s.hwSet := rfl
@[simp] theorem setVreg_readData (k v : Nat) (l : List W32) (u : Nat) (s : State) : (setVreg k v l u s).readData = s.readData := rfl
@[simp] theorem setVreg_groups (k v : Nat) (l : List W32) (u : Nat) (s : State) : (setVreg k v l u s).groups = s.groups := rfl
@[simp] theorem setVreg_mer (k v : Nat) (l : List W32) (u : Nat) (s : State) : (setVreg k v l u s).mer = s.mer := rfl
@[simp] theorem setVreg_ptp (k v : Nat) (l : List W32) (u : Nat) (s : State) : (setVreg k v l u s).ptp = s.ptp := rfl
@[simp] theorem setVreg_jobs (k v : Nat) (l : List W32) (u : Nat) (s : State) : (setVreg k v l u s).jobs = s.jobs := rfl
@[simp] theorem setVreg_plans (k v : Nat) (l : List W32) (u : Nat) (s : State) : (setVreg k v l u s).plans = s.plans := rfl
@[simp] theorem setVreg_nextPlan (k v : Nat) (l : List W32) (u : Nat) (s : State) : (setVreg k v l u s).nextPlan = s.nextPlan := rfl
@[simp] theorem setVreg_cores (k v : Nat) (l : List W32) (u : Nat) (s : State) : (setVreg k v l u s).cores = s.cores := rfl
@[simp] theorem setVreg_threads (k v : Nat) (l : List W32) (u : Nat) (s : State) : (setVreg k v l u s).threads = s.threads := rfl
@[simp] theorem setVreg_sregs (k v : Nat) (l : List W32) (u : Nat) (s : State) : (setVreg k v l u s).sregs = s.sregs := rfl
@[simp] theorem setVreg_sbusy (k v : Nat) (l : List W32) (u : Nat) (s : State) : (setVreg k v l u s).sbusy = s.sbusy := rfl
@[simp] theorem setVreg_ranges (k v : Nat) (l : List W32) (u : Nat) (s : State) : (setVreg k v l u s).ranges = s.ranges := rfl
@[simp] theorem setVreg_store (k v : Nat) (l : List W32) (u : Nat) (s : State) : (setVreg k v l u s).store = s.store := rfl
@[simp] theorem setVreg_badStore (k v : Nat) (l : List W32) (u : Nat) (s : State) : (setVreg k v l u s).badStore = s.badStore := rfl
@[simp] theorem setVreg_acc (k v : Nat) (l : List W32) (u : Nat) (s : State) : (setVreg k v l u s).acc = s.acc := rfl
@[simp] theorem setVreg_badAcc (k v : Nat) (l : List W32) (u : Nat) (s : State) : (setVreg k v l u s).badAcc = s.badAcc := rfl
@[simp] theorem setVreg_slots (k v : Nat) (l : List W32) (u : Nat) (s : State) : (setVreg k v l u s).slots = s.slots := rfl
@[simp] theorem setVreg_badSlot (k v : Nat) (l : List W32) (u : Nat) (s : State) : (setVreg k v l u s).badSlot = s.badSlot := rfl
@[simp] theorem setVreg_sync (k v : Nat) (l : List W32) (u : Nat) (s : State) : (setVreg k v l u s).sync = s.sync := rfl
@[simp] theorem setVreg_signals (k v : Nat) (l : List W32) (u : Nat) (s : State) : (setVreg k v l u s).signals = s.signals := rfl
@[simp] theorem setVreg_hbm (k v : Nat) (l : List W32) (u : Nat) (s : State) : (setVreg k v l u s).hbm = s.hbm := rfl
@[simp] theorem setVreg_stks (k v : Nat) (l : List W32) (u : Nat) (s : State) : (setVreg k v l u s).stks = s.stks := rfl
@[simp] theorem setVreg_recs (k v : Nat) (l : List W32) (u : Nat) (s : State) : (setVreg k v l u s).recs = s.recs := rfl
@[simp] theorem setVreg_upds (k v : Nat) (l : List W32) (u : Nat) (s : State) : (setVreg k v l u s).upds = s.upds := rfl
@[simp] theorem setVreg_nextUpd (k v : Nat) (l : List W32) (u : Nat) (s : State) : (setVreg k v l u s).nextUpd = s.nextUpd := rfl
@[simp] theorem setVreg_objs (k v : Nat) (l : List W32) (u : Nat) (s : State) : (setVreg k v l u s).objs = s.objs := rfl
@[simp] theorem setVreg_nextObj (k v : Nat) (l : List W32) (u : Nat) (s : State) : (setVreg k v l u s).nextObj = s.nextObj := rfl
@[simp] theorem setVreg_frames (k v : Nat) (l : List W32) (u : Nat) (s : State) : (setVreg k v l u s).frames = s.frames := rfl
@[simp] theorem setVreg_tables (k v : Nat) (l : List W32) (u : Nat) (s : State) : (setVreg k v l u s).tables = s.tables := rfl
@[simp] theorem setVreg_vault (k v : Nat) (l : List W32) (u : Nat) (s : State) : (setVreg k v l u s).vault = s.vault := rfl
@[simp] theorem setVreg_flash (k v : Nat) (l : List W32) (u : Nat) (s : State) : (setVreg k v l u s).flash = s.flash := rfl
@[simp] theorem setVreg_ephCnt (k v : Nat) (l : List W32) (u : Nat) (s : State) : (setVreg k v l u s).ephCnt = s.ephCnt := rfl
@[simp] theorem setVreg_edges (k v : Nat) (l : List W32) (u : Nat) (s : State) : (setVreg k v l u s).edges = s.edges := rfl
@[simp] theorem setVreg_staged (k v : Nat) (l : List W32) (u : Nat) (s : State) : (setVreg k v l u s).staged = s.staged := rfl
@[simp] theorem setVreg_ports (k v : Nat) (l : List W32) (u : Nat) (s : State) : (setVreg k v l u s).ports = s.ports := rfl
@[simp] theorem setVreg_taken (k v : Nat) (l : List W32) (u : Nat) (s : State) : (setVreg k v l u s).taken = s.taken := rfl
@[simp] theorem setVreg_spray (k v : Nat) (l : List W32) (u : Nat) (s : State) : (setVreg k v l u s).spray = s.spray := rfl
@[simp] theorem setVreg_puHead (k v : Nat) (l : List W32) (u : Nat) (s : State) : (setVreg k v l u s).puHead = s.puHead := rfl
@[simp] theorem setVreg_txHead (k v : Nat) (l : List W32) (u : Nat) (s : State) : (setVreg k v l u s).txHead = s.txHead := rfl
@[simp] theorem setVreg_mgt (k v : Nat) (l : List W32) (u : Nat) (s : State) : (setVreg k v l u s).mgt = s.mgt := rfl
@[simp] theorem setVreg_ctxs (k v : Nat) (l : List W32) (u : Nat) (s : State) : (setVreg k v l u s).ctxs = s.ctxs := rfl
@[simp] theorem setVreg_ctxGen (k v : Nat) (l : List W32) (u : Nat) (s : State) : (setVreg k v l u s).ctxGen = s.ctxGen := rfl
@[simp] theorem setVreg_regions (k v : Nat) (l : List W32) (u : Nat) (s : State) : (setVreg k v l u s).regions = s.regions := rfl
@[simp] theorem setVreg_regionCap (k v : Nat) (l : List W32) (u : Nat) (s : State) : (setVreg k v l u s).regionCap = s.regionCap := rfl
@[simp] theorem setVreg_held (k v : Nat) (l : List W32) (u : Nat) (s : State) : (setVreg k v l u s).held = s.held := rfl
@[simp] theorem setVreg_holds (k v : Nat) (l : List W32) (u : Nat) (s : State) : (setVreg k v l u s).holds = s.holds := rfl
@[simp] theorem setVreg_landing (k v : Nat) (l : List W32) (u : Nat) (s : State) : (setVreg k v l u s).landing = s.landing := rfl
@[simp] theorem setVreg_nextHold (k v : Nat) (l : List W32) (u : Nat) (s : State) : (setVreg k v l u s).nextHold = s.nextHold := rfl
@[simp] theorem setVreg_works (k v : Nat) (l : List W32) (u : Nat) (s : State) : (setVreg k v l u s).works = s.works := rfl
@[simp] theorem setVreg_nextWork (k v : Nat) (l : List W32) (u : Nat) (s : State) : (setVreg k v l u s).nextWork = s.nextWork := rfl
@[simp] theorem setVreg_pcie (k v : Nat) (l : List W32) (u : Nat) (s : State) : (setVreg k v l u s).pcie = s.pcie := rfl
@[simp] theorem setVreg_rings (k v : Nat) (l : List W32) (u : Nat) (s : State) : (setVreg k v l u s).rings = s.rings := rfl
@[simp] theorem setVreg_cmds (k v : Nat) (l : List W32) (u : Nat) (s : State) : (setVreg k v l u s).cmds = s.cmds := rfl
@[simp] theorem setVreg_nextCmd (k v : Nat) (l : List W32) (u : Nat) (s : State) : (setVreg k v l u s).nextCmd = s.nextCmd := rfl
@[simp] theorem setVreg_tenants (k v : Nat) (l : List W32) (u : Nat) (s : State) : (setVreg k v l u s).tenants = s.tenants := rfl
@[simp] theorem setVreg_census (k v : Nat) (l : List W32) (u : Nat) (s : State) : (setVreg k v l u s).census = s.census := rfl
@[simp] theorem setVreg_tallies (k v : Nat) (l : List W32) (u : Nat) (s : State) : (setVreg k v l u s).tallies = s.tallies := rfl
@[simp] theorem setVreg_snap (k v : Nat) (l : List W32) (u : Nat) (s : State) : (setVreg k v l u s).snap = s.snap := rfl
@[simp] theorem setVreg_snapM (k v : Nat) (l : List W32) (u : Nat) (s : State) : (setVreg k v l u s).snapM = s.snapM := rfl
@[simp] theorem setVreg_pho (k v : Nat) (l : List W32) (u : Nat) (s : State) : (setVreg k v l u s).pho = s.pho := rfl
@[simp] theorem setVreg_flt (k v : Nat) (l : List W32) (u : Nat) (s : State) : (setVreg k v l u s).flt = s.flt := rfl
@[simp] theorem setVreg_alm (k v : Nat) (l : List W32) (u : Nat) (s : State) : (setVreg k v l u s).alm = s.alm := rfl
@[simp] theorem setVreg_boot (k v : Nat) (l : List W32) (u : Nat) (s : State) : (setVreg k v l u s).boot = s.boot := rfl
@[simp] theorem setVreg_fw (k v : Nat) (l : List W32) (u : Nat) (s : State) : (setVreg k v l u s).fw = s.fw := rfl
@[simp] theorem setVreg_pwr (k v : Nat) (l : List W32) (u : Nat) (s : State) : (setVreg k v l u s).pwr = s.pwr := rfl
@[simp] theorem setVreg_out (k v : Nat) (l : List W32) (u : Nat) (s : State) : (setVreg k v l u s).out = s.out := rfl

/-! ### sendMsix -/

@[simp] theorem sendMsix_pending (fn vec : Nat) (s : State) : (sendMsix fn vec s).pending = s.pending := rfl
@[simp] theorem sendMsix_now (fn vec : Nat) (s : State) : (sendMsix fn vec s).now = s.now := rfl
@[simp] theorem sendMsix_free (fn vec : Nat) (s : State) : (sendMsix fn vec s).free = s.free := rfl
@[simp] theorem sendMsix_act (fn vec : Nat) (s : State) : (sendMsix fn vec s).act = s.act := rfl
@[simp] theorem sendMsix_shd (fn vec : Nat) (s : State) : (sendMsix fn vec s).shd = s.shd := rfl
@[simp] theorem sendMsix_ctr (fn vec : Nat) (s : State) : (sendMsix fn vec s).ctr = s.ctr := rfl
@[simp] theorem sendMsix_latch (fn vec : Nat) (s : State) : (sendMsix fn vec s).latch = s.latch := rfl
@[simp] theorem sendMsix_hiHeld (fn vec : Nat) (s : State) : (sendMsix fn vec s).hiHeld = s.hiHeld := rfl
@[simp] theorem sendMsix_hwSet (fn vec : Nat) (s : State) : (sendMsix fn vec s).hwSet = s.hwSet := rfl
@[simp] theorem sendMsix_readData (fn vec : Nat) (s : State) : (sendMsix fn vec s).readData = s.readData := rfl
@[simp] theorem sendMsix_groups (fn vec : Nat) (s : State) : (sendMsix fn vec s).groups = s.groups := rfl
@[simp] theorem sendMsix_mer (fn vec : Nat) (s : State) : (sendMsix fn vec s).mer = s.mer := rfl
@[simp] theorem sendMsix_ptp (fn vec : Nat) (s : State) : (sendMsix fn vec s).ptp = s.ptp := rfl
@[simp] theorem sendMsix_jobs (fn vec : Nat) (s : State) : (sendMsix fn vec s).jobs = s.jobs := rfl
@[simp] theorem sendMsix_plans (fn vec : Nat) (s : State) : (sendMsix fn vec s).plans = s.plans := rfl
@[simp] theorem sendMsix_nextPlan (fn vec : Nat) (s : State) : (sendMsix fn vec s).nextPlan = s.nextPlan := rfl
@[simp] theorem sendMsix_cores (fn vec : Nat) (s : State) : (sendMsix fn vec s).cores = s.cores := rfl
@[simp] theorem sendMsix_threads (fn vec : Nat) (s : State) : (sendMsix fn vec s).threads = s.threads := rfl
@[simp] theorem sendMsix_sregs (fn vec : Nat) (s : State) : (sendMsix fn vec s).sregs = s.sregs := rfl
@[simp] theorem sendMsix_vregs (fn vec : Nat) (s : State) : (sendMsix fn vec s).vregs = s.vregs := rfl
@[simp] theorem sendMsix_sbusy (fn vec : Nat) (s : State) : (sendMsix fn vec s).sbusy = s.sbusy := rfl
@[simp] theorem sendMsix_vbusy (fn vec : Nat) (s : State) : (sendMsix fn vec s).vbusy = s.vbusy := rfl
@[simp] theorem sendMsix_ranges (fn vec : Nat) (s : State) : (sendMsix fn vec s).ranges = s.ranges := rfl
@[simp] theorem sendMsix_store (fn vec : Nat) (s : State) : (sendMsix fn vec s).store = s.store := rfl
@[simp] theorem sendMsix_badStore (fn vec : Nat) (s : State) : (sendMsix fn vec s).badStore = s.badStore := rfl
@[simp] theorem sendMsix_badVec (fn vec : Nat) (s : State) : (sendMsix fn vec s).badVec = s.badVec := rfl
@[simp] theorem sendMsix_acc (fn vec : Nat) (s : State) : (sendMsix fn vec s).acc = s.acc := rfl
@[simp] theorem sendMsix_badAcc (fn vec : Nat) (s : State) : (sendMsix fn vec s).badAcc = s.badAcc := rfl
@[simp] theorem sendMsix_slots (fn vec : Nat) (s : State) : (sendMsix fn vec s).slots = s.slots := rfl
@[simp] theorem sendMsix_badSlot (fn vec : Nat) (s : State) : (sendMsix fn vec s).badSlot = s.badSlot := rfl
@[simp] theorem sendMsix_sync (fn vec : Nat) (s : State) : (sendMsix fn vec s).sync = s.sync := rfl
@[simp] theorem sendMsix_signals (fn vec : Nat) (s : State) : (sendMsix fn vec s).signals = s.signals := rfl
@[simp] theorem sendMsix_hbm (fn vec : Nat) (s : State) : (sendMsix fn vec s).hbm = s.hbm := rfl
@[simp] theorem sendMsix_stks (fn vec : Nat) (s : State) : (sendMsix fn vec s).stks = s.stks := rfl
@[simp] theorem sendMsix_recs (fn vec : Nat) (s : State) : (sendMsix fn vec s).recs = s.recs := rfl
@[simp] theorem sendMsix_upds (fn vec : Nat) (s : State) : (sendMsix fn vec s).upds = s.upds := rfl
@[simp] theorem sendMsix_nextUpd (fn vec : Nat) (s : State) : (sendMsix fn vec s).nextUpd = s.nextUpd := rfl
@[simp] theorem sendMsix_objs (fn vec : Nat) (s : State) : (sendMsix fn vec s).objs = s.objs := rfl
@[simp] theorem sendMsix_nextObj (fn vec : Nat) (s : State) : (sendMsix fn vec s).nextObj = s.nextObj := rfl
@[simp] theorem sendMsix_frames (fn vec : Nat) (s : State) : (sendMsix fn vec s).frames = s.frames := rfl
@[simp] theorem sendMsix_tables (fn vec : Nat) (s : State) : (sendMsix fn vec s).tables = s.tables := rfl
@[simp] theorem sendMsix_vault (fn vec : Nat) (s : State) : (sendMsix fn vec s).vault = s.vault := rfl
@[simp] theorem sendMsix_flash (fn vec : Nat) (s : State) : (sendMsix fn vec s).flash = s.flash := rfl
@[simp] theorem sendMsix_ephCnt (fn vec : Nat) (s : State) : (sendMsix fn vec s).ephCnt = s.ephCnt := rfl
@[simp] theorem sendMsix_edges (fn vec : Nat) (s : State) : (sendMsix fn vec s).edges = s.edges := rfl
@[simp] theorem sendMsix_staged (fn vec : Nat) (s : State) : (sendMsix fn vec s).staged = s.staged := rfl
@[simp] theorem sendMsix_ports (fn vec : Nat) (s : State) : (sendMsix fn vec s).ports = s.ports := rfl
@[simp] theorem sendMsix_taken (fn vec : Nat) (s : State) : (sendMsix fn vec s).taken = s.taken := rfl
@[simp] theorem sendMsix_spray (fn vec : Nat) (s : State) : (sendMsix fn vec s).spray = s.spray := rfl
@[simp] theorem sendMsix_puHead (fn vec : Nat) (s : State) : (sendMsix fn vec s).puHead = s.puHead := rfl
@[simp] theorem sendMsix_txHead (fn vec : Nat) (s : State) : (sendMsix fn vec s).txHead = s.txHead := rfl
@[simp] theorem sendMsix_mgt (fn vec : Nat) (s : State) : (sendMsix fn vec s).mgt = s.mgt := rfl
@[simp] theorem sendMsix_ctxs (fn vec : Nat) (s : State) : (sendMsix fn vec s).ctxs = s.ctxs := rfl
@[simp] theorem sendMsix_ctxGen (fn vec : Nat) (s : State) : (sendMsix fn vec s).ctxGen = s.ctxGen := rfl
@[simp] theorem sendMsix_regions (fn vec : Nat) (s : State) : (sendMsix fn vec s).regions = s.regions := rfl
@[simp] theorem sendMsix_regionCap (fn vec : Nat) (s : State) : (sendMsix fn vec s).regionCap = s.regionCap := rfl
@[simp] theorem sendMsix_held (fn vec : Nat) (s : State) : (sendMsix fn vec s).held = s.held := rfl
@[simp] theorem sendMsix_holds (fn vec : Nat) (s : State) : (sendMsix fn vec s).holds = s.holds := rfl
@[simp] theorem sendMsix_landing (fn vec : Nat) (s : State) : (sendMsix fn vec s).landing = s.landing := rfl
@[simp] theorem sendMsix_nextHold (fn vec : Nat) (s : State) : (sendMsix fn vec s).nextHold = s.nextHold := rfl
@[simp] theorem sendMsix_works (fn vec : Nat) (s : State) : (sendMsix fn vec s).works = s.works := rfl
@[simp] theorem sendMsix_nextWork (fn vec : Nat) (s : State) : (sendMsix fn vec s).nextWork = s.nextWork := rfl
@[simp] theorem sendMsix_rings (fn vec : Nat) (s : State) : (sendMsix fn vec s).rings = s.rings := rfl
@[simp] theorem sendMsix_cmds (fn vec : Nat) (s : State) : (sendMsix fn vec s).cmds = s.cmds := rfl
@[simp] theorem sendMsix_nextCmd (fn vec : Nat) (s : State) : (sendMsix fn vec s).nextCmd = s.nextCmd := rfl
@[simp] theorem sendMsix_tenants (fn vec : Nat) (s : State) : (sendMsix fn vec s).tenants = s.tenants := rfl
@[simp] theorem sendMsix_census (fn vec : Nat) (s : State) : (sendMsix fn vec s).census = s.census := rfl
@[simp] theorem sendMsix_tallies (fn vec : Nat) (s : State) : (sendMsix fn vec s).tallies = s.tallies := rfl
@[simp] theorem sendMsix_snap (fn vec : Nat) (s : State) : (sendMsix fn vec s).snap = s.snap := rfl
@[simp] theorem sendMsix_snapM (fn vec : Nat) (s : State) : (sendMsix fn vec s).snapM = s.snapM := rfl
@[simp] theorem sendMsix_pho (fn vec : Nat) (s : State) : (sendMsix fn vec s).pho = s.pho := rfl
@[simp] theorem sendMsix_flt (fn vec : Nat) (s : State) : (sendMsix fn vec s).flt = s.flt := rfl
@[simp] theorem sendMsix_alm (fn vec : Nat) (s : State) : (sendMsix fn vec s).alm = s.alm := rfl
@[simp] theorem sendMsix_boot (fn vec : Nat) (s : State) : (sendMsix fn vec s).boot = s.boot := rfl
@[simp] theorem sendMsix_fw (fn vec : Nat) (s : State) : (sendMsix fn vec s).fw = s.fw := rfl
@[simp] theorem sendMsix_pwr (fn vec : Nat) (s : State) : (sendMsix fn vec s).pwr = s.pwr := rfl

/-! ### irqUpdate -/

@[simp] theorem irqUpdate_pending (s : State) : (irqUpdate s).pending = s.pending := rfl
@[simp] theorem irqUpdate_now (s : State) : (irqUpdate s).now = s.now := rfl
@[simp] theorem irqUpdate_free (s : State) : (irqUpdate s).free = s.free := rfl
@[simp] theorem irqUpdate_act (s : State) : (irqUpdate s).act = s.act := rfl
@[simp] theorem irqUpdate_shd (s : State) : (irqUpdate s).shd = s.shd := rfl
@[simp] theorem irqUpdate_ctr (s : State) : (irqUpdate s).ctr = s.ctr := rfl
@[simp] theorem irqUpdate_latch (s : State) : (irqUpdate s).latch = s.latch := rfl
@[simp] theorem irqUpdate_hiHeld (s : State) : (irqUpdate s).hiHeld = s.hiHeld := rfl
@[simp] theorem irqUpdate_hwSet (s : State) : (irqUpdate s).hwSet = s.hwSet := rfl
@[simp] theorem irqUpdate_readData (s : State) : (irqUpdate s).readData = s.readData := rfl
@[simp] theorem irqUpdate_groups (s : State) : (irqUpdate s).groups = s.groups := rfl
@[simp] theorem irqUpdate_mer (s : State) : (irqUpdate s).mer = s.mer := rfl
@[simp] theorem irqUpdate_ptp (s : State) : (irqUpdate s).ptp = s.ptp := rfl
@[simp] theorem irqUpdate_jobs (s : State) : (irqUpdate s).jobs = s.jobs := rfl
@[simp] theorem irqUpdate_plans (s : State) : (irqUpdate s).plans = s.plans := rfl
@[simp] theorem irqUpdate_nextPlan (s : State) : (irqUpdate s).nextPlan = s.nextPlan := rfl
@[simp] theorem irqUpdate_cores (s : State) : (irqUpdate s).cores = s.cores := rfl
@[simp] theorem irqUpdate_threads (s : State) : (irqUpdate s).threads = s.threads := rfl
@[simp] theorem irqUpdate_sregs (s : State) : (irqUpdate s).sregs = s.sregs := rfl
@[simp] theorem irqUpdate_vregs (s : State) : (irqUpdate s).vregs = s.vregs := rfl
@[simp] theorem irqUpdate_sbusy (s : State) : (irqUpdate s).sbusy = s.sbusy := rfl
@[simp] theorem irqUpdate_vbusy (s : State) : (irqUpdate s).vbusy = s.vbusy := rfl
@[simp] theorem irqUpdate_ranges (s : State) : (irqUpdate s).ranges = s.ranges := rfl
@[simp] theorem irqUpdate_store (s : State) : (irqUpdate s).store = s.store := rfl
@[simp] theorem irqUpdate_badStore (s : State) : (irqUpdate s).badStore = s.badStore := rfl
@[simp] theorem irqUpdate_badVec (s : State) : (irqUpdate s).badVec = s.badVec := rfl
@[simp] theorem irqUpdate_acc (s : State) : (irqUpdate s).acc = s.acc := rfl
@[simp] theorem irqUpdate_badAcc (s : State) : (irqUpdate s).badAcc = s.badAcc := rfl
@[simp] theorem irqUpdate_slots (s : State) : (irqUpdate s).slots = s.slots := rfl
@[simp] theorem irqUpdate_badSlot (s : State) : (irqUpdate s).badSlot = s.badSlot := rfl
@[simp] theorem irqUpdate_sync (s : State) : (irqUpdate s).sync = s.sync := rfl
@[simp] theorem irqUpdate_signals (s : State) : (irqUpdate s).signals = s.signals := rfl
@[simp] theorem irqUpdate_hbm (s : State) : (irqUpdate s).hbm = s.hbm := rfl
@[simp] theorem irqUpdate_stks (s : State) : (irqUpdate s).stks = s.stks := rfl
@[simp] theorem irqUpdate_recs (s : State) : (irqUpdate s).recs = s.recs := rfl
@[simp] theorem irqUpdate_upds (s : State) : (irqUpdate s).upds = s.upds := rfl
@[simp] theorem irqUpdate_nextUpd (s : State) : (irqUpdate s).nextUpd = s.nextUpd := rfl
@[simp] theorem irqUpdate_objs (s : State) : (irqUpdate s).objs = s.objs := rfl
@[simp] theorem irqUpdate_nextObj (s : State) : (irqUpdate s).nextObj = s.nextObj := rfl
@[simp] theorem irqUpdate_frames (s : State) : (irqUpdate s).frames = s.frames := rfl
@[simp] theorem irqUpdate_tables (s : State) : (irqUpdate s).tables = s.tables := rfl
@[simp] theorem irqUpdate_vault (s : State) : (irqUpdate s).vault = s.vault := rfl
@[simp] theorem irqUpdate_flash (s : State) : (irqUpdate s).flash = s.flash := rfl
@[simp] theorem irqUpdate_ephCnt (s : State) : (irqUpdate s).ephCnt = s.ephCnt := rfl
@[simp] theorem irqUpdate_edges (s : State) : (irqUpdate s).edges = s.edges := rfl
@[simp] theorem irqUpdate_staged (s : State) : (irqUpdate s).staged = s.staged := rfl
@[simp] theorem irqUpdate_ports (s : State) : (irqUpdate s).ports = s.ports := rfl
@[simp] theorem irqUpdate_taken (s : State) : (irqUpdate s).taken = s.taken := rfl
@[simp] theorem irqUpdate_spray (s : State) : (irqUpdate s).spray = s.spray := rfl
@[simp] theorem irqUpdate_puHead (s : State) : (irqUpdate s).puHead = s.puHead := rfl
@[simp] theorem irqUpdate_txHead (s : State) : (irqUpdate s).txHead = s.txHead := rfl
@[simp] theorem irqUpdate_mgt (s : State) : (irqUpdate s).mgt = s.mgt := rfl
@[simp] theorem irqUpdate_ctxs (s : State) : (irqUpdate s).ctxs = s.ctxs := rfl
@[simp] theorem irqUpdate_ctxGen (s : State) : (irqUpdate s).ctxGen = s.ctxGen := rfl
@[simp] theorem irqUpdate_regions (s : State) : (irqUpdate s).regions = s.regions := rfl
@[simp] theorem irqUpdate_regionCap (s : State) : (irqUpdate s).regionCap = s.regionCap := rfl
@[simp] theorem irqUpdate_held (s : State) : (irqUpdate s).held = s.held := rfl
@[simp] theorem irqUpdate_holds (s : State) : (irqUpdate s).holds = s.holds := rfl
@[simp] theorem irqUpdate_landing (s : State) : (irqUpdate s).landing = s.landing := rfl
@[simp] theorem irqUpdate_nextHold (s : State) : (irqUpdate s).nextHold = s.nextHold := rfl
@[simp] theorem irqUpdate_works (s : State) : (irqUpdate s).works = s.works := rfl
@[simp] theorem irqUpdate_nextWork (s : State) : (irqUpdate s).nextWork = s.nextWork := rfl
@[simp] theorem irqUpdate_rings (s : State) : (irqUpdate s).rings = s.rings := rfl
@[simp] theorem irqUpdate_cmds (s : State) : (irqUpdate s).cmds = s.cmds := rfl
@[simp] theorem irqUpdate_nextCmd (s : State) : (irqUpdate s).nextCmd = s.nextCmd := rfl
@[simp] theorem irqUpdate_tenants (s : State) : (irqUpdate s).tenants = s.tenants := rfl
@[simp] theorem irqUpdate_census (s : State) : (irqUpdate s).census = s.census := rfl
@[simp] theorem irqUpdate_tallies (s : State) : (irqUpdate s).tallies = s.tallies := rfl
@[simp] theorem irqUpdate_snap (s : State) : (irqUpdate s).snap = s.snap := rfl
@[simp] theorem irqUpdate_snapM (s : State) : (irqUpdate s).snapM = s.snapM := rfl
@[simp] theorem irqUpdate_pho (s : State) : (irqUpdate s).pho = s.pho := rfl
@[simp] theorem irqUpdate_flt (s : State) : (irqUpdate s).flt = s.flt := rfl
@[simp] theorem irqUpdate_alm (s : State) : (irqUpdate s).alm = s.alm := rfl
@[simp] theorem irqUpdate_boot (s : State) : (irqUpdate s).boot = s.boot := rfl
@[simp] theorem irqUpdate_fw (s : State) : (irqUpdate s).fw = s.fw := rfl
@[simp] theorem irqUpdate_pwr (s : State) : (irqUpdate s).pwr = s.pwr := rfl

/-! ### irqSet -/

@[simp] theorem irqSet_pending (a m : Nat) (s : State) : (irqSet a m s).pending = s.pending := rfl
@[simp] theorem irqSet_now (a m : Nat) (s : State) : (irqSet a m s).now = s.now := rfl
@[simp] theorem irqSet_free (a m : Nat) (s : State) : (irqSet a m s).free = s.free := rfl
@[simp] theorem irqSet_shd (a m : Nat) (s : State) : (irqSet a m s).shd = s.shd := rfl
@[simp] theorem irqSet_ctr (a m : Nat) (s : State) : (irqSet a m s).ctr = s.ctr := rfl
@[simp] theorem irqSet_latch (a m : Nat) (s : State) : (irqSet a m s).latch = s.latch := rfl
@[simp] theorem irqSet_hiHeld (a m : Nat) (s : State) : (irqSet a m s).hiHeld = s.hiHeld := rfl
@[simp] theorem irqSet_readData (a m : Nat) (s : State) : (irqSet a m s).readData = s.readData := rfl
@[simp] theorem irqSet_groups (a m : Nat) (s : State) : (irqSet a m s).groups = s.groups := rfl
@[simp] theorem irqSet_mer (a m : Nat) (s : State) : (irqSet a m s).mer = s.mer := rfl
@[simp] theorem irqSet_ptp (a m : Nat) (s : State) : (irqSet a m s).ptp = s.ptp := rfl
@[simp] theorem irqSet_jobs (a m : Nat) (s : State) : (irqSet a m s).jobs = s.jobs := rfl
@[simp] theorem irqSet_plans (a m : Nat) (s : State) : (irqSet a m s).plans = s.plans := rfl
@[simp] theorem irqSet_nextPlan (a m : Nat) (s : State) : (irqSet a m s).nextPlan = s.nextPlan := rfl
@[simp] theorem irqSet_cores (a m : Nat) (s : State) : (irqSet a m s).cores = s.cores := rfl
@[simp] theorem irqSet_threads (a m : Nat) (s : State) : (irqSet a m s).threads = s.threads := rfl
@[simp] theorem irqSet_sregs (a m : Nat) (s : State) : (irqSet a m s).sregs = s.sregs := rfl
@[simp] theorem irqSet_vregs (a m : Nat) (s : State) : (irqSet a m s).vregs = s.vregs := rfl
@[simp] theorem irqSet_sbusy (a m : Nat) (s : State) : (irqSet a m s).sbusy = s.sbusy := rfl
@[simp] theorem irqSet_vbusy (a m : Nat) (s : State) : (irqSet a m s).vbusy = s.vbusy := rfl
@[simp] theorem irqSet_ranges (a m : Nat) (s : State) : (irqSet a m s).ranges = s.ranges := rfl
@[simp] theorem irqSet_store (a m : Nat) (s : State) : (irqSet a m s).store = s.store := rfl
@[simp] theorem irqSet_badStore (a m : Nat) (s : State) : (irqSet a m s).badStore = s.badStore := rfl
@[simp] theorem irqSet_badVec (a m : Nat) (s : State) : (irqSet a m s).badVec = s.badVec := rfl
@[simp] theorem irqSet_acc (a m : Nat) (s : State) : (irqSet a m s).acc = s.acc := rfl
@[simp] theorem irqSet_badAcc (a m : Nat) (s : State) : (irqSet a m s).badAcc = s.badAcc := rfl
@[simp] theorem irqSet_slots (a m : Nat) (s : State) : (irqSet a m s).slots = s.slots := rfl
@[simp] theorem irqSet_badSlot (a m : Nat) (s : State) : (irqSet a m s).badSlot = s.badSlot := rfl
@[simp] theorem irqSet_sync (a m : Nat) (s : State) : (irqSet a m s).sync = s.sync := rfl
@[simp] theorem irqSet_signals (a m : Nat) (s : State) : (irqSet a m s).signals = s.signals := rfl
@[simp] theorem irqSet_hbm (a m : Nat) (s : State) : (irqSet a m s).hbm = s.hbm := rfl
@[simp] theorem irqSet_stks (a m : Nat) (s : State) : (irqSet a m s).stks = s.stks := rfl
@[simp] theorem irqSet_recs (a m : Nat) (s : State) : (irqSet a m s).recs = s.recs := rfl
@[simp] theorem irqSet_upds (a m : Nat) (s : State) : (irqSet a m s).upds = s.upds := rfl
@[simp] theorem irqSet_nextUpd (a m : Nat) (s : State) : (irqSet a m s).nextUpd = s.nextUpd := rfl
@[simp] theorem irqSet_objs (a m : Nat) (s : State) : (irqSet a m s).objs = s.objs := rfl
@[simp] theorem irqSet_nextObj (a m : Nat) (s : State) : (irqSet a m s).nextObj = s.nextObj := rfl
@[simp] theorem irqSet_frames (a m : Nat) (s : State) : (irqSet a m s).frames = s.frames := rfl
@[simp] theorem irqSet_tables (a m : Nat) (s : State) : (irqSet a m s).tables = s.tables := rfl
@[simp] theorem irqSet_vault (a m : Nat) (s : State) : (irqSet a m s).vault = s.vault := rfl
@[simp] theorem irqSet_flash (a m : Nat) (s : State) : (irqSet a m s).flash = s.flash := rfl
@[simp] theorem irqSet_ephCnt (a m : Nat) (s : State) : (irqSet a m s).ephCnt = s.ephCnt := rfl
@[simp] theorem irqSet_edges (a m : Nat) (s : State) : (irqSet a m s).edges = s.edges := rfl
@[simp] theorem irqSet_staged (a m : Nat) (s : State) : (irqSet a m s).staged = s.staged := rfl
@[simp] theorem irqSet_ports (a m : Nat) (s : State) : (irqSet a m s).ports = s.ports := rfl
@[simp] theorem irqSet_taken (a m : Nat) (s : State) : (irqSet a m s).taken = s.taken := rfl
@[simp] theorem irqSet_spray (a m : Nat) (s : State) : (irqSet a m s).spray = s.spray := rfl
@[simp] theorem irqSet_puHead (a m : Nat) (s : State) : (irqSet a m s).puHead = s.puHead := rfl
@[simp] theorem irqSet_txHead (a m : Nat) (s : State) : (irqSet a m s).txHead = s.txHead := rfl
@[simp] theorem irqSet_mgt (a m : Nat) (s : State) : (irqSet a m s).mgt = s.mgt := rfl
@[simp] theorem irqSet_ctxs (a m : Nat) (s : State) : (irqSet a m s).ctxs = s.ctxs := rfl
@[simp] theorem irqSet_ctxGen (a m : Nat) (s : State) : (irqSet a m s).ctxGen = s.ctxGen := rfl
@[simp] theorem irqSet_regions (a m : Nat) (s : State) : (irqSet a m s).regions = s.regions := rfl
@[simp] theorem irqSet_regionCap (a m : Nat) (s : State) : (irqSet a m s).regionCap = s.regionCap := rfl
@[simp] theorem irqSet_held (a m : Nat) (s : State) : (irqSet a m s).held = s.held := rfl
@[simp] theorem irqSet_holds (a m : Nat) (s : State) : (irqSet a m s).holds = s.holds := rfl
@[simp] theorem irqSet_landing (a m : Nat) (s : State) : (irqSet a m s).landing = s.landing := rfl
@[simp] theorem irqSet_nextHold (a m : Nat) (s : State) : (irqSet a m s).nextHold = s.nextHold := rfl
@[simp] theorem irqSet_works (a m : Nat) (s : State) : (irqSet a m s).works = s.works := rfl
@[simp] theorem irqSet_nextWork (a m : Nat) (s : State) : (irqSet a m s).nextWork = s.nextWork := rfl
@[simp] theorem irqSet_rings (a m : Nat) (s : State) : (irqSet a m s).rings = s.rings := rfl
@[simp] theorem irqSet_cmds (a m : Nat) (s : State) : (irqSet a m s).cmds = s.cmds := rfl
@[simp] theorem irqSet_nextCmd (a m : Nat) (s : State) : (irqSet a m s).nextCmd = s.nextCmd := rfl
@[simp] theorem irqSet_tenants (a m : Nat) (s : State) : (irqSet a m s).tenants = s.tenants := rfl
@[simp] theorem irqSet_census (a m : Nat) (s : State) : (irqSet a m s).census = s.census := rfl
@[simp] theorem irqSet_tallies (a m : Nat) (s : State) : (irqSet a m s).tallies = s.tallies := rfl
@[simp] theorem irqSet_snap (a m : Nat) (s : State) : (irqSet a m s).snap = s.snap := rfl
@[simp] theorem irqSet_snapM (a m : Nat) (s : State) : (irqSet a m s).snapM = s.snapM := rfl
@[simp] theorem irqSet_pho (a m : Nat) (s : State) : (irqSet a m s).pho = s.pho := rfl
@[simp] theorem irqSet_flt (a m : Nat) (s : State) : (irqSet a m s).flt = s.flt := rfl
@[simp] theorem irqSet_alm (a m : Nat) (s : State) : (irqSet a m s).alm = s.alm := rfl
@[simp] theorem irqSet_boot (a m : Nat) (s : State) : (irqSet a m s).boot = s.boot := rfl
@[simp] theorem irqSet_fw (a m : Nat) (s : State) : (irqSet a m s).fw = s.fw := rfl
@[simp] theorem irqSet_pwr (a m : Nat) (s : State) : (irqSet a m s).pwr = s.pwr := rfl

/-! ### irqClear -/

@[simp] theorem irqClear_pending (a m : Nat) (s : State) : (irqClear a m s).pending = s.pending := rfl
@[simp] theorem irqClear_now (a m : Nat) (s : State) : (irqClear a m s).now = s.now := rfl
@[simp] theorem irqClear_free (a m : Nat) (s : State) : (irqClear a m s).free = s.free := rfl
@[simp] theorem irqClear_shd (a m : Nat) (s : State) : (irqClear a m s).shd = s.shd := rfl
@[simp] theorem irqClear_ctr (a m : Nat) (s : State) : (irqClear a m s).ctr = s.ctr := rfl
@[simp] theorem irqClear_latch (a m : Nat) (s : State) : (irqClear a m s).latch = s.latch := rfl
@[simp] theorem irqClear_hiHeld (a m : Nat) (s : State) : (irqClear a m s).hiHeld = s.hiHeld := rfl
@[simp] theorem irqClear_hwSet (a m : Nat) (s : State) : (irqClear a m s).hwSet = s.hwSet := rfl
@[simp] theorem irqClear_readData (a m : Nat) (s : State) : (irqClear a m s).readData = s.readData := rfl
@[simp] theorem irqClear_groups (a m : Nat) (s : State) : (irqClear a m s).groups = s.groups := rfl
@[simp] theorem irqClear_mer (a m : Nat) (s : State) : (irqClear a m s).mer = s.mer := rfl
@[simp] theorem irqClear_ptp (a m : Nat) (s : State) : (irqClear a m s).ptp = s.ptp := rfl
@[simp] theorem irqClear_jobs (a m : Nat) (s : State) : (irqClear a m s).jobs = s.jobs := rfl
@[simp] theorem irqClear_plans (a m : Nat) (s : State) : (irqClear a m s).plans = s.plans := rfl
@[simp] theorem irqClear_nextPlan (a m : Nat) (s : State) : (irqClear a m s).nextPlan = s.nextPlan := rfl
@[simp] theorem irqClear_cores (a m : Nat) (s : State) : (irqClear a m s).cores = s.cores := rfl
@[simp] theorem irqClear_threads (a m : Nat) (s : State) : (irqClear a m s).threads = s.threads := rfl
@[simp] theorem irqClear_sregs (a m : Nat) (s : State) : (irqClear a m s).sregs = s.sregs := rfl
@[simp] theorem irqClear_vregs (a m : Nat) (s : State) : (irqClear a m s).vregs = s.vregs := rfl
@[simp] theorem irqClear_sbusy (a m : Nat) (s : State) : (irqClear a m s).sbusy = s.sbusy := rfl
@[simp] theorem irqClear_vbusy (a m : Nat) (s : State) : (irqClear a m s).vbusy = s.vbusy := rfl
@[simp] theorem irqClear_ranges (a m : Nat) (s : State) : (irqClear a m s).ranges = s.ranges := rfl
@[simp] theorem irqClear_store (a m : Nat) (s : State) : (irqClear a m s).store = s.store := rfl
@[simp] theorem irqClear_badStore (a m : Nat) (s : State) : (irqClear a m s).badStore = s.badStore := rfl
@[simp] theorem irqClear_badVec (a m : Nat) (s : State) : (irqClear a m s).badVec = s.badVec := rfl
@[simp] theorem irqClear_acc (a m : Nat) (s : State) : (irqClear a m s).acc = s.acc := rfl
@[simp] theorem irqClear_badAcc (a m : Nat) (s : State) : (irqClear a m s).badAcc = s.badAcc := rfl
@[simp] theorem irqClear_slots (a m : Nat) (s : State) : (irqClear a m s).slots = s.slots := rfl
@[simp] theorem irqClear_badSlot (a m : Nat) (s : State) : (irqClear a m s).badSlot = s.badSlot := rfl
@[simp] theorem irqClear_sync (a m : Nat) (s : State) : (irqClear a m s).sync = s.sync := rfl
@[simp] theorem irqClear_signals (a m : Nat) (s : State) : (irqClear a m s).signals = s.signals := rfl
@[simp] theorem irqClear_hbm (a m : Nat) (s : State) : (irqClear a m s).hbm = s.hbm := rfl
@[simp] theorem irqClear_stks (a m : Nat) (s : State) : (irqClear a m s).stks = s.stks := rfl
@[simp] theorem irqClear_recs (a m : Nat) (s : State) : (irqClear a m s).recs = s.recs := rfl
@[simp] theorem irqClear_upds (a m : Nat) (s : State) : (irqClear a m s).upds = s.upds := rfl
@[simp] theorem irqClear_nextUpd (a m : Nat) (s : State) : (irqClear a m s).nextUpd = s.nextUpd := rfl
@[simp] theorem irqClear_objs (a m : Nat) (s : State) : (irqClear a m s).objs = s.objs := rfl
@[simp] theorem irqClear_nextObj (a m : Nat) (s : State) : (irqClear a m s).nextObj = s.nextObj := rfl
@[simp] theorem irqClear_frames (a m : Nat) (s : State) : (irqClear a m s).frames = s.frames := rfl
@[simp] theorem irqClear_tables (a m : Nat) (s : State) : (irqClear a m s).tables = s.tables := rfl
@[simp] theorem irqClear_vault (a m : Nat) (s : State) : (irqClear a m s).vault = s.vault := rfl
@[simp] theorem irqClear_flash (a m : Nat) (s : State) : (irqClear a m s).flash = s.flash := rfl
@[simp] theorem irqClear_ephCnt (a m : Nat) (s : State) : (irqClear a m s).ephCnt = s.ephCnt := rfl
@[simp] theorem irqClear_edges (a m : Nat) (s : State) : (irqClear a m s).edges = s.edges := rfl
@[simp] theorem irqClear_staged (a m : Nat) (s : State) : (irqClear a m s).staged = s.staged := rfl
@[simp] theorem irqClear_ports (a m : Nat) (s : State) : (irqClear a m s).ports = s.ports := rfl
@[simp] theorem irqClear_taken (a m : Nat) (s : State) : (irqClear a m s).taken = s.taken := rfl
@[simp] theorem irqClear_spray (a m : Nat) (s : State) : (irqClear a m s).spray = s.spray := rfl
@[simp] theorem irqClear_puHead (a m : Nat) (s : State) : (irqClear a m s).puHead = s.puHead := rfl
@[simp] theorem irqClear_txHead (a m : Nat) (s : State) : (irqClear a m s).txHead = s.txHead := rfl
@[simp] theorem irqClear_mgt (a m : Nat) (s : State) : (irqClear a m s).mgt = s.mgt := rfl
@[simp] theorem irqClear_ctxs (a m : Nat) (s : State) : (irqClear a m s).ctxs = s.ctxs := rfl
@[simp] theorem irqClear_ctxGen (a m : Nat) (s : State) : (irqClear a m s).ctxGen = s.ctxGen := rfl
@[simp] theorem irqClear_regions (a m : Nat) (s : State) : (irqClear a m s).regions = s.regions := rfl
@[simp] theorem irqClear_regionCap (a m : Nat) (s : State) : (irqClear a m s).regionCap = s.regionCap := rfl
@[simp] theorem irqClear_held (a m : Nat) (s : State) : (irqClear a m s).held = s.held := rfl
@[simp] theorem irqClear_holds (a m : Nat) (s : State) : (irqClear a m s).holds = s.holds := rfl
@[simp] theorem irqClear_landing (a m : Nat) (s : State) : (irqClear a m s).landing = s.landing := rfl
@[simp] theorem irqClear_nextHold (a m : Nat) (s : State) : (irqClear a m s).nextHold = s.nextHold := rfl
@[simp] theorem irqClear_works (a m : Nat) (s : State) : (irqClear a m s).works = s.works := rfl
@[simp] theorem irqClear_nextWork (a m : Nat) (s : State) : (irqClear a m s).nextWork = s.nextWork := rfl
@[simp] theorem irqClear_rings (a m : Nat) (s : State) : (irqClear a m s).rings = s.rings := rfl
@[simp] theorem irqClear_cmds (a m : Nat) (s : State) : (irqClear a m s).cmds = s.cmds := rfl
@[simp] theorem irqClear_nextCmd (a m : Nat) (s : State) : (irqClear a m s).nextCmd = s.nextCmd := rfl
@[simp] theorem irqClear_tenants (a m : Nat) (s : State) : (irqClear a m s).tenants = s.tenants := rfl
@[simp] theorem irqClear_census (a m : Nat) (s : State) : (irqClear a m s).census = s.census := rfl
@[simp] theorem irqClear_tallies (a m : Nat) (s : State) : (irqClear a m s).tallies = s.tallies := rfl
@[simp] theorem irqClear_snap (a m : Nat) (s : State) : (irqClear a m s).snap = s.snap := rfl
@[simp] theorem irqClear_snapM (a m : Nat) (s : State) : (irqClear a m s).snapM = s.snapM := rfl
@[simp] theorem irqClear_pho (a m : Nat) (s : State) : (irqClear a m s).pho = s.pho := rfl
@[simp] theorem irqClear_flt (a m : Nat) (s : State) : (irqClear a m s).flt = s.flt := rfl
@[simp] theorem irqClear_alm (a m : Nat) (s : State) : (irqClear a m s).alm = s.alm := rfl
@[simp] theorem irqClear_boot (a m : Nat) (s : State) : (irqClear a m s).boot = s.boot := rfl
@[simp] theorem irqClear_fw (a m : Nat) (s : State) : (irqClear a m s).fw = s.fw := rfl
@[simp] theorem irqClear_pwr (a m : Nat) (s : State) : (irqClear a m s).pwr = s.pwr := rfl

/-! ### setSreg, which writes nothing for s0 -/

@[simp] theorem setSreg_pending (k r : Nat) (v : W64) (u : Nat) (s : State) : (setSreg k r v u s).pending = s.pending := by unfold setSreg; split <;> rfl
@[simp] theorem setSreg_now (k r : Nat) (v : W64) (u : Nat) (s : State) : (setSreg k r v u s).now = s.now := by unfold setSreg; split <;> rfl
@[simp] theorem setSreg_free (k r : Nat) (v : W64) (u : Nat) (s : State) : (setSreg k r v u s).free = s.free := by unfold setSreg; split <;> rfl
@[simp] theorem setSreg_act (k r : Nat) (v : W64) (u : Nat) (s : State) : (setSreg k r v u s).act = s.act := by unfold setSreg; split <;> rfl
@[simp] theorem setSreg_shd (k r : Nat) (v : W64) (u : Nat) (s : State) : (setSreg k r v u s).shd = s.shd := by unfold setSreg; split <;> rfl
@[simp] theorem setSreg_ctr (k r : Nat) (v : W64) (u : Nat) (s : State) : (setSreg k r v u s).ctr = s.ctr := by unfold setSreg; split <;> rfl
@[simp] theorem setSreg_latch (k r : Nat) (v : W64) (u : Nat) (s : State) : (setSreg k r v u s).latch = s.latch := by unfold setSreg; split <;> rfl
@[simp] theorem setSreg_hiHeld (k r : Nat) (v : W64) (u : Nat) (s : State) : (setSreg k r v u s).hiHeld = s.hiHeld := by unfold setSreg; split <;> rfl
@[simp] theorem setSreg_hwSet (k r : Nat) (v : W64) (u : Nat) (s : State) : (setSreg k r v u s).hwSet = s.hwSet := by unfold setSreg; split <;> rfl
@[simp] theorem setSreg_readData (k r : Nat) (v : W64) (u : Nat) (s : State) : (setSreg k r v u s).readData = s.readData := by unfold setSreg; split <;> rfl
@[simp] theorem setSreg_groups (k r : Nat) (v : W64) (u : Nat) (s : State) : (setSreg k r v u s).groups = s.groups := by unfold setSreg; split <;> rfl
@[simp] theorem setSreg_mer (k r : Nat) (v : W64) (u : Nat) (s : State) : (setSreg k r v u s).mer = s.mer := by unfold setSreg; split <;> rfl
@[simp] theorem setSreg_ptp (k r : Nat) (v : W64) (u : Nat) (s : State) : (setSreg k r v u s).ptp = s.ptp := by unfold setSreg; split <;> rfl
@[simp] theorem setSreg_jobs (k r : Nat) (v : W64) (u : Nat) (s : State) : (setSreg k r v u s).jobs = s.jobs := by unfold setSreg; split <;> rfl
@[simp] theorem setSreg_plans (k r : Nat) (v : W64) (u : Nat) (s : State) : (setSreg k r v u s).plans = s.plans := by unfold setSreg; split <;> rfl
@[simp] theorem setSreg_nextPlan (k r : Nat) (v : W64) (u : Nat) (s : State) : (setSreg k r v u s).nextPlan = s.nextPlan := by unfold setSreg; split <;> rfl
@[simp] theorem setSreg_cores (k r : Nat) (v : W64) (u : Nat) (s : State) : (setSreg k r v u s).cores = s.cores := by unfold setSreg; split <;> rfl
@[simp] theorem setSreg_threads (k r : Nat) (v : W64) (u : Nat) (s : State) : (setSreg k r v u s).threads = s.threads := by unfold setSreg; split <;> rfl
@[simp] theorem setSreg_vregs (k r : Nat) (v : W64) (u : Nat) (s : State) : (setSreg k r v u s).vregs = s.vregs := by unfold setSreg; split <;> rfl
@[simp] theorem setSreg_vbusy (k r : Nat) (v : W64) (u : Nat) (s : State) : (setSreg k r v u s).vbusy = s.vbusy := by unfold setSreg; split <;> rfl
@[simp] theorem setSreg_ranges (k r : Nat) (v : W64) (u : Nat) (s : State) : (setSreg k r v u s).ranges = s.ranges := by unfold setSreg; split <;> rfl
@[simp] theorem setSreg_store (k r : Nat) (v : W64) (u : Nat) (s : State) : (setSreg k r v u s).store = s.store := by unfold setSreg; split <;> rfl
@[simp] theorem setSreg_badStore (k r : Nat) (v : W64) (u : Nat) (s : State) : (setSreg k r v u s).badStore = s.badStore := by unfold setSreg; split <;> rfl
@[simp] theorem setSreg_badVec (k r : Nat) (v : W64) (u : Nat) (s : State) : (setSreg k r v u s).badVec = s.badVec := by unfold setSreg; split <;> rfl
@[simp] theorem setSreg_acc (k r : Nat) (v : W64) (u : Nat) (s : State) : (setSreg k r v u s).acc = s.acc := by unfold setSreg; split <;> rfl
@[simp] theorem setSreg_badAcc (k r : Nat) (v : W64) (u : Nat) (s : State) : (setSreg k r v u s).badAcc = s.badAcc := by unfold setSreg; split <;> rfl
@[simp] theorem setSreg_slots (k r : Nat) (v : W64) (u : Nat) (s : State) : (setSreg k r v u s).slots = s.slots := by unfold setSreg; split <;> rfl
@[simp] theorem setSreg_badSlot (k r : Nat) (v : W64) (u : Nat) (s : State) : (setSreg k r v u s).badSlot = s.badSlot := by unfold setSreg; split <;> rfl
@[simp] theorem setSreg_sync (k r : Nat) (v : W64) (u : Nat) (s : State) : (setSreg k r v u s).sync = s.sync := by unfold setSreg; split <;> rfl
@[simp] theorem setSreg_signals (k r : Nat) (v : W64) (u : Nat) (s : State) : (setSreg k r v u s).signals = s.signals := by unfold setSreg; split <;> rfl
@[simp] theorem setSreg_hbm (k r : Nat) (v : W64) (u : Nat) (s : State) : (setSreg k r v u s).hbm = s.hbm := by unfold setSreg; split <;> rfl
@[simp] theorem setSreg_stks (k r : Nat) (v : W64) (u : Nat) (s : State) : (setSreg k r v u s).stks = s.stks := by unfold setSreg; split <;> rfl
@[simp] theorem setSreg_recs (k r : Nat) (v : W64) (u : Nat) (s : State) : (setSreg k r v u s).recs = s.recs := by unfold setSreg; split <;> rfl
@[simp] theorem setSreg_upds (k r : Nat) (v : W64) (u : Nat) (s : State) : (setSreg k r v u s).upds = s.upds := by unfold setSreg; split <;> rfl
@[simp] theorem setSreg_nextUpd (k r : Nat) (v : W64) (u : Nat) (s : State) : (setSreg k r v u s).nextUpd = s.nextUpd := by unfold setSreg; split <;> rfl
@[simp] theorem setSreg_objs (k r : Nat) (v : W64) (u : Nat) (s : State) : (setSreg k r v u s).objs = s.objs := by unfold setSreg; split <;> rfl
@[simp] theorem setSreg_nextObj (k r : Nat) (v : W64) (u : Nat) (s : State) : (setSreg k r v u s).nextObj = s.nextObj := by unfold setSreg; split <;> rfl
@[simp] theorem setSreg_frames (k r : Nat) (v : W64) (u : Nat) (s : State) : (setSreg k r v u s).frames = s.frames := by unfold setSreg; split <;> rfl
@[simp] theorem setSreg_tables (k r : Nat) (v : W64) (u : Nat) (s : State) : (setSreg k r v u s).tables = s.tables := by unfold setSreg; split <;> rfl
@[simp] theorem setSreg_vault (k r : Nat) (v : W64) (u : Nat) (s : State) : (setSreg k r v u s).vault = s.vault := by unfold setSreg; split <;> rfl
@[simp] theorem setSreg_flash (k r : Nat) (v : W64) (u : Nat) (s : State) : (setSreg k r v u s).flash = s.flash := by unfold setSreg; split <;> rfl
@[simp] theorem setSreg_ephCnt (k r : Nat) (v : W64) (u : Nat) (s : State) : (setSreg k r v u s).ephCnt = s.ephCnt := by unfold setSreg; split <;> rfl
@[simp] theorem setSreg_edges (k r : Nat) (v : W64) (u : Nat) (s : State) : (setSreg k r v u s).edges = s.edges := by unfold setSreg; split <;> rfl
@[simp] theorem setSreg_staged (k r : Nat) (v : W64) (u : Nat) (s : State) : (setSreg k r v u s).staged = s.staged := by unfold setSreg; split <;> rfl
@[simp] theorem setSreg_ports (k r : Nat) (v : W64) (u : Nat) (s : State) : (setSreg k r v u s).ports = s.ports := by unfold setSreg; split <;> rfl
@[simp] theorem setSreg_taken (k r : Nat) (v : W64) (u : Nat) (s : State) : (setSreg k r v u s).taken = s.taken := by unfold setSreg; split <;> rfl
@[simp] theorem setSreg_spray (k r : Nat) (v : W64) (u : Nat) (s : State) : (setSreg k r v u s).spray = s.spray := by unfold setSreg; split <;> rfl
@[simp] theorem setSreg_puHead (k r : Nat) (v : W64) (u : Nat) (s : State) : (setSreg k r v u s).puHead = s.puHead := by unfold setSreg; split <;> rfl
@[simp] theorem setSreg_txHead (k r : Nat) (v : W64) (u : Nat) (s : State) : (setSreg k r v u s).txHead = s.txHead := by unfold setSreg; split <;> rfl
@[simp] theorem setSreg_mgt (k r : Nat) (v : W64) (u : Nat) (s : State) : (setSreg k r v u s).mgt = s.mgt := by unfold setSreg; split <;> rfl
@[simp] theorem setSreg_ctxs (k r : Nat) (v : W64) (u : Nat) (s : State) : (setSreg k r v u s).ctxs = s.ctxs := by unfold setSreg; split <;> rfl
@[simp] theorem setSreg_ctxGen (k r : Nat) (v : W64) (u : Nat) (s : State) : (setSreg k r v u s).ctxGen = s.ctxGen := by unfold setSreg; split <;> rfl
@[simp] theorem setSreg_regions (k r : Nat) (v : W64) (u : Nat) (s : State) : (setSreg k r v u s).regions = s.regions := by unfold setSreg; split <;> rfl
@[simp] theorem setSreg_regionCap (k r : Nat) (v : W64) (u : Nat) (s : State) : (setSreg k r v u s).regionCap = s.regionCap := by unfold setSreg; split <;> rfl
@[simp] theorem setSreg_held (k r : Nat) (v : W64) (u : Nat) (s : State) : (setSreg k r v u s).held = s.held := by unfold setSreg; split <;> rfl
@[simp] theorem setSreg_holds (k r : Nat) (v : W64) (u : Nat) (s : State) : (setSreg k r v u s).holds = s.holds := by unfold setSreg; split <;> rfl
@[simp] theorem setSreg_landing (k r : Nat) (v : W64) (u : Nat) (s : State) : (setSreg k r v u s).landing = s.landing := by unfold setSreg; split <;> rfl
@[simp] theorem setSreg_nextHold (k r : Nat) (v : W64) (u : Nat) (s : State) : (setSreg k r v u s).nextHold = s.nextHold := by unfold setSreg; split <;> rfl
@[simp] theorem setSreg_works (k r : Nat) (v : W64) (u : Nat) (s : State) : (setSreg k r v u s).works = s.works := by unfold setSreg; split <;> rfl
@[simp] theorem setSreg_nextWork (k r : Nat) (v : W64) (u : Nat) (s : State) : (setSreg k r v u s).nextWork = s.nextWork := by unfold setSreg; split <;> rfl
@[simp] theorem setSreg_pcie (k r : Nat) (v : W64) (u : Nat) (s : State) : (setSreg k r v u s).pcie = s.pcie := by unfold setSreg; split <;> rfl
@[simp] theorem setSreg_rings (k r : Nat) (v : W64) (u : Nat) (s : State) : (setSreg k r v u s).rings = s.rings := by unfold setSreg; split <;> rfl
@[simp] theorem setSreg_cmds (k r : Nat) (v : W64) (u : Nat) (s : State) : (setSreg k r v u s).cmds = s.cmds := by unfold setSreg; split <;> rfl
@[simp] theorem setSreg_nextCmd (k r : Nat) (v : W64) (u : Nat) (s : State) : (setSreg k r v u s).nextCmd = s.nextCmd := by unfold setSreg; split <;> rfl
@[simp] theorem setSreg_tenants (k r : Nat) (v : W64) (u : Nat) (s : State) : (setSreg k r v u s).tenants = s.tenants := by unfold setSreg; split <;> rfl
@[simp] theorem setSreg_census (k r : Nat) (v : W64) (u : Nat) (s : State) : (setSreg k r v u s).census = s.census := by unfold setSreg; split <;> rfl
@[simp] theorem setSreg_tallies (k r : Nat) (v : W64) (u : Nat) (s : State) : (setSreg k r v u s).tallies = s.tallies := by unfold setSreg; split <;> rfl
@[simp] theorem setSreg_snap (k r : Nat) (v : W64) (u : Nat) (s : State) : (setSreg k r v u s).snap = s.snap := by unfold setSreg; split <;> rfl
@[simp] theorem setSreg_snapM (k r : Nat) (v : W64) (u : Nat) (s : State) : (setSreg k r v u s).snapM = s.snapM := by unfold setSreg; split <;> rfl
@[simp] theorem setSreg_pho (k r : Nat) (v : W64) (u : Nat) (s : State) : (setSreg k r v u s).pho = s.pho := by unfold setSreg; split <;> rfl
@[simp] theorem setSreg_flt (k r : Nat) (v : W64) (u : Nat) (s : State) : (setSreg k r v u s).flt = s.flt := by unfold setSreg; split <;> rfl
@[simp] theorem setSreg_alm (k r : Nat) (v : W64) (u : Nat) (s : State) : (setSreg k r v u s).alm = s.alm := by unfold setSreg; split <;> rfl
@[simp] theorem setSreg_boot (k r : Nat) (v : W64) (u : Nat) (s : State) : (setSreg k r v u s).boot = s.boot := by unfold setSreg; split <;> rfl
@[simp] theorem setSreg_fw (k r : Nat) (v : W64) (u : Nat) (s : State) : (setSreg k r v u s).fw = s.fw := by unfold setSreg; split <;> rfl
@[simp] theorem setSreg_pwr (k r : Nat) (v : W64) (u : Nat) (s : State) : (setSreg k r v u s).pwr = s.pwr := by unfold setSreg; split <;> rfl
@[simp] theorem setSreg_out (k r : Nat) (v : W64) (u : Nat) (s : State) : (setSreg k r v u s).out = s.out := by unfold setSreg; split <;> rfl

end Sys2Proof.Machine
end

