-- ==== Sys2Proof/Laws/Tab.lean ====
section
/-! SUPPORT. Sparse stores: a read after a write, and the operations that keep the canonical form. -/

namespace Sys2Proof.Machine

variable {α : Type}

/-! ### Reading after writing -/

@[simp] theorem look_nil (k : Nat) : look ([] : Tab α) k = none := rfl

theorem look_tput (m : Tab α) (k : Nat) (v : α) (j : Nat) :
    look (tput m k v) j = if j = k then some v else look m j := by
  induction m with
  | nil => simp [tput, look]
  | cons e m ih =>
    obtain ⟨x, u⟩ := e
    simp only [tput]
    split
    · simp only [look]
    · split
      · subst x; simp only [look]; split <;> rfl
      · simp only [look, ih]
        by_cases hx : j = x
        · rw [if_pos hx, if_neg (by omega), if_pos hx]
        · rw [if_neg hx, if_neg hx]

theorem look_tdel (m : Tab α) (k j : Nat) : look (tdel m k) j = if j = k then none else look m j := by
  induction m with
  | nil => simp [tdel]
  | cons e m ih =>
    obtain ⟨x, u⟩ := e
    simp only [tdel]
    split
    · rw [ih]; simp only [look]; split
      · rfl
      · rw [if_neg (by omega)]
    · simp only [look, ih]
      by_cases hx : j = x
      · rw [if_pos hx, if_neg (by omega), if_pos hx]
      · rw [if_neg hx, if_neg hx]

@[simp] theorem look_tput_self (m : Tab α) (k : Nat) (v : α) : look (tput m k v) k = some v := by
  simp [look_tput]

theorem look_tput_other (m : Tab α) {k j : Nat} (v : α) (h : j ≠ k) : look (tput m k v) j = look m j := by
  simp [look_tput, h]

@[simp] theorem tget_tput_self (m : Tab α) (k : Nat) (v d : α) : tget (tput m k v) k d = v := by simp [tget]

theorem tget_tput_other (m : Tab α) {k j : Nat} (v d : α) (h : j ≠ k) : tget (tput m k v) j d = tget m j d := by
  simp [tget, look_tput_other m v h]

@[simp] theorem tget_tset_self [DecidableEq α] (m : Tab α) (k : Nat) (v d : α) : tget (tset m k v d) k d = v := by
  unfold tset
  split
  · simp_all [tget, look_tdel]
  · simp [tget]

theorem tget_tset_other [DecidableEq α] (m : Tab α) {k j : Nat} (v d d' : α) (h : j ≠ k) :
    tget (tset m k v d) j d' = tget m j d' := by
  unfold tset
  split
  · simp [tget, look_tdel, h]
  · exact tget_tput_other m v d' h

theorem look_tmod (m : Tab α) (k : Nat) (f : α → α) (j : Nat) :
    look (tmod m k f) j = if j = k then (look m k).map f else look m j := by
  unfold tmod
  split
  · next v h => simp [look_tput, h]
  · next h => split <;> simp_all

@[simp] theorem look_tmap (m : Tab α) (f : Nat → α → α) (k : Nat) :
    look (tmap m f) k = (look m k).map (f k) := by
  induction m with
  | nil => simp [tmap]
  | cons e m ih =>
    obtain ⟨x, u⟩ := e
    simp only [tmap] at ih
    simp only [tmap, List.map_cons, look, ih]
    split <;> simp_all

theorem look_filter (m : Tab α) (p : Nat → Bool) (k : Nat) :
    look (m.filter (fun e => p e.1)) k = if p k then look m k else none := by
  induction m with
  | nil => simp
  | cons e m ih =>
    obtain ⟨x, u⟩ := e
    simp only [List.filter_cons]
    split
    · next hp =>
      simp only [look, ih]
      by_cases hx : k = x
      · subst hx; simp_all
      · simp [hx]
    · next hp =>
      rw [ih]; simp only [look]
      by_cases hx : k = x
      · subst hx; simp_all
      · simp [hx]

theorem look_append (m n : Tab α) (k : Nat) : look (m ++ n) k = (look m k).or (look n k) := by
  induction m with
  | nil => simp
  | cons e m ih =>
    obtain ⟨x, u⟩ := e
    simp only [List.cons_append, look]
    split
    · simp
    · exact ih

theorem look_trun [DecidableEq α] (d : α) (b : Nat) (vs : List α) (k : Nat) :
    (look (trun d b vs) k).getD d = if b ≤ k then vs.getD (k - b) d else d := by
  induction vs generalizing b with
  | nil => simp [trun]
  | cons v vs ih =>
    have hs := ih (b + 1)
    by_cases hk : k = b
    · subst hk
      have hn : ¬ (k + 1 ≤ k) := by omega
      rw [if_neg hn] at hs
      simp only [trun, Nat.le_refl, if_true, Nat.sub_self, List.getD_cons_zero]
      split
      · next h => rw [h]; exact hs
      · simp [look]
    · have : (look (trun d b (v :: vs)) k).getD d = (look (trun d (b + 1) vs) k).getD d := by
        simp only [trun]; split
        · rfl
        · simp [look, hk]
      rw [this, hs]
      by_cases hb : b ≤ k
      · rw [if_pos hb, if_pos (by omega), show k - b = (k - (b + 1)) + 1 by omega, List.getD_cons_succ]
      · rw [if_neg hb, if_neg (by omega)]

/-- A key of a replaced run reads its new value, every other key as before. -/
theorem tget_tsplice [DecidableEq α] (m : Tab α) (b : Nat) (vs : List α) (d : α) (k : Nat) :
    tget (tsplice m b vs d) k d = if b ≤ k ∧ k < b + vs.length then vs.getD (k - b) d else tget m k d := by
  have h1 := look_filter m (fun x => decide (x < b)) k
  have h2 := look_filter m (fun x => decide (b + vs.length ≤ x)) k
  have h3 := look_trun d b vs k
  simp only [tsplice, tget, look_append, h1, h2]
  by_cases hb : k < b
  · have hn : ¬ (b ≤ k) := by omega
    have he : ¬ (b + vs.length ≤ k) := by omega
    rw [if_neg hn] at h3
    simp only [hb, decide_true, if_true, he, decide_false, hn, false_and, if_false]
    cases hl : look m k <;> simp_all
  · by_cases he : b + vs.length ≤ k
    · have hn : b ≤ k := by omega
      rw [if_pos hn, List.getD_eq_default _ _ (by omega)] at h3
      have : ¬ (k < b + vs.length) := by omega
      simp only [hb, decide_false, he, decide_true, if_true, this, and_false, if_false]
      cases hl : look (trun d b vs) k with
      | none => simp
      | some v =>
        exfalso
        have : ∀ (c : Nat) (us : List α), c + us.length ≤ k → look (trun d c us) k = none := by
          intro c us
          induction us generalizing c with
          | nil => simp [trun]
          | cons u us ih =>
            intro h
            simp only [List.length_cons] at h
            simp only [trun]; split
            · exact ih _ (by omega)
            · simp only [look]; rw [if_neg (by omega)]; exact ih _ (by omega)
        rw [this b vs he] at hl; exact absurd hl (by simp)
    · have hn : b ≤ k := by omega
      have hl : k < b + vs.length := by omega
      rw [if_pos hn] at h3
      simp only [hb, decide_false, he, hn, hl, and_self, if_true]
      simpa using h3

/-! ### The canonical form -/

theorem twf_nil (d : α) : twf d ([] : Tab α) := by simp [twf]

theorem twf_filter {d : α} {m : Tab α} (p : Nat × α → Bool) (h : twf d m) : twf d (m.filter p) :=
  ⟨h.1.filter p, fun e he => h.2 e (List.mem_filter.1 he).1⟩

theorem twf_tclear {d : α} {m : Tab α} (b n : Nat) (h : twf d m) : twf d (tclear m b n) := twf_filter _ h

theorem mem_tput {m : Tab α} {k : Nat} {v : α} {e : Nat × α} (h : e ∈ tput m k v) : e = (k, v) ∨ e ∈ m := by
  induction m with
  | nil => simpa [tput] using h
  | cons x m ih =>
    obtain ⟨j, u⟩ := x
    simp only [tput] at h
    split at h
    · simpa using h
    · split at h
      · rcases List.mem_cons.1 h with h | h
        · exact .inl h
        · exact .inr (List.mem_cons_of_mem _ h)
      · rcases List.mem_cons.1 h with h | h
        · exact .inr (by simp [h])
        · rcases ih h with h | h
          · exact .inl h
          · exact .inr (List.mem_cons_of_mem _ h)

theorem twf_tput {d : α} {m : Tab α} (k : Nat) {v : α} (hv : v ≠ d) (h : twf d m) : twf d (tput m k v) := by
  refine ⟨?_, fun e he => ?_⟩
  · have h1 := h.1
    clear h
    induction m with
    | nil => simp [tput]
    | cons x m ih =>
      obtain ⟨j, u⟩ := x
      have hx := List.pairwise_cons.1 h1
      simp only [tput]
      split
      · next hk =>
        refine List.pairwise_cons.2 ⟨fun e he => ?_, h1⟩
        rcases List.mem_cons.1 he with rfl | he
        · exact hk
        · exact Nat.lt_trans hk (hx.1 e he)
      · split
        · next hk => subst hk; exact List.pairwise_cons.2 ⟨fun e he => hx.1 e he, hx.2⟩
        · next hk hj =>
          refine List.pairwise_cons.2 ⟨fun e he => ?_, ih hx.2⟩
          rcases mem_tput he with rfl | he
          · show j < k; omega
          · exact hx.1 e he
  · rcases mem_tput he with rfl | he
    · exact hv
    · exact h.2 e he

theorem tdel_sublist (m : Tab α) (k : Nat) : (tdel m k).Sublist m := by
  induction m with
  | nil => simp [tdel]
  | cons x m ih =>
    obtain ⟨j, u⟩ := x
    simp only [tdel]
    split
    · exact ih.cons _
    · exact ih.cons_cons _

theorem twf_tdel {d : α} {m : Tab α} (k : Nat) (h : twf d m) : twf d (tdel m k) :=
  ⟨h.1.sublist (tdel_sublist m k), fun e he => h.2 e ((tdel_sublist m k).subset he)⟩

theorem twf_tset [DecidableEq α] {m : Tab α} (k : Nat) (v d : α) (h : twf d m) : twf d (tset m k v d) := by
  unfold tset
  split
  · exact twf_tdel k h
  · next hv => exact twf_tput k hv h

theorem mem_trun [DecidableEq α] {d : α} {b : Nat} {vs : List α} {e : Nat × α} (h : e ∈ trun d b vs) :
    b ≤ e.1 ∧ e.1 < b + vs.length ∧ e.2 ≠ d := by
  induction vs generalizing b with
  | nil => simp [trun] at h
  | cons v vs ih =>
    simp only [trun] at h
    split at h
    · have := ih h
      exact ⟨by omega, by simp only [List.length_cons]; omega, this.2.2⟩
    · next hv =>
      rcases List.mem_cons.1 h with rfl | h
      · exact ⟨Nat.le_refl _, by simp, hv⟩
      · have := ih h
        exact ⟨by omega, by simp only [List.length_cons]; omega, this.2.2⟩

theorem twf_trun [DecidableEq α] (d : α) (b : Nat) (vs : List α) : twf d (trun d b vs) := by
  refine ⟨?_, fun e he => (mem_trun he).2.2⟩
  induction vs generalizing b with
  | nil => simp [trun]
  | cons v vs ih =>
    simp only [trun]
    split
    · exact ih _
    · exact List.pairwise_cons.2 ⟨fun e he => by have := (mem_trun he).1; show b < e.1; omega, ih _⟩

theorem twf_tsplice [DecidableEq α] {m : Tab α} (b : Nat) (vs : List α) (d : α) (h : twf d m) :
    twf d (tsplice m b vs d) := by
  refine ⟨?_, fun e he => ?_⟩
  · refine List.pairwise_append.2 ⟨List.pairwise_append.2 ⟨h.1.filter _, (twf_trun d b vs).1, ?_⟩, h.1.filter _, ?_⟩
    · intro x hx y hy
      have h1 : x.1 < b := by simpa using (List.mem_filter.1 hx).2
      have h2 := (mem_trun hy).1
      omega
    · intro x hx y hy
      have h2 : b + vs.length ≤ y.1 := by simpa using (List.mem_filter.1 hy).2
      rcases List.mem_append.1 hx with hx | hx
      · have h1 : x.1 < b := by simpa using (List.mem_filter.1 hx).2
        omega
      · have := (mem_trun hx).2.1; omega
  · rcases List.mem_append.1 he with he | he
    · rcases List.mem_append.1 he with he | he
      · exact h.2 e (List.mem_filter.1 he).1
      · exact (mem_trun he).2.2
    · exact h.2 e (List.mem_filter.1 he).1

end Sys2Proof.Machine
end

