-- ==== Sys2Proof/Laws/Issue.lean ====
section
/-! SUPPORT. What an issue does, once: the frame of every instruction, and its book-keeping. -/

namespace Sys2Proof.Machine

/-- An instruction that issues has its own effect on the state after the book-keeping. -/
theorem issue_runs {cls op : Nat} {i : Issue} {s : State} {th : Thread} {j : Job}
    (h : Issues cls op i (tick i.t s) th j) (f : Ctx' → State → State) :
    issue cls op i f s = f (ctxAt i (tick i.t s) th j) (afterIssue cls i (tick i.t s)) := by
  obtain ⟨h1, h2, h3, h4, h5, h6, h7, h8, h9, h10, h11, h12, h13⟩ := h
  have hs : strike i.core.val (thrKey i.core.val i.thr.val) i.upsets (tick i.t s) = tick i.t s := by
    rw [h10]; rfl
  unfold issue
  simp only [h1, h2, h3, h6, h7, h8, h9, hs, h11, h13]
  rw [if_neg (by simp [← h5]; omega), if_neg (by simp), if_neg (by simp), if_neg (by simp; omega)]
  simp only [afterIssue, ctxAt, h1, Option.map_some, Option.getD_some]

/-- A word of another class or opcode, presented to a context, changes nothing but the clock. -/
theorem issue_other {cls op : Nat} {i : Issue} {s : State} {th : Thread} {j : Job} {w : W64}
    (h1 : look (tick i.t s).threads (thrKey i.core.val i.thr.val) = some th)
    (h2 : look (tick i.t s).jobs th.slot = some j)
    (h3 : (programOf (tick i.t s) j i.core.val)[th.pc]? = some w)
    (h4 : w ≠ i.word ∨ opClass w ≠ cls ∨ opCode w ≠ op) (f : Ctx' → State → State) :
    issue cls op i f s = tick i.t s := by
  unfold issue
  simp only [h1, h2, h3, if_pos h4, ite_self]

/-! ### The book-keeping of an issue -/

theorem afterIssue_sregs (cls : Nat) (i : Issue) (s : State) : (afterIssue cls i s).sregs = s.sregs := rfl
theorem afterIssue_jobs (cls : Nat) (i : Issue) (s : State) : (afterIssue cls i s).jobs = s.jobs := rfl
theorem afterIssue_sync (cls : Nat) (i : Issue) (s : State) : (afterIssue cls i s).sync = s.sync := rfl
theorem afterIssue_store (cls : Nat) (i : Issue) (s : State) : (afterIssue cls i s).store = s.store := rfl

/-- The book-keeping changes the class's count, the core's issue times, the thread and the ranges, and nothing else. -/
theorem afterIssue_frame (cls : Nat) (i : Issue) (s : State) :
    afterIssue cls i s = { s with
      ctr := (afterIssue cls i s).ctr, cores := (afterIssue cls i s).cores,
      threads := (afterIssue cls i s).threads, ranges := (afterIssue cls i s).ranges } := rfl

/-- A write of a scalar register is read back, s0 apart, which reads 0. -/
theorem sreg_setSreg (k r : Nat) (v : W64) (u : Nat) (s : State) :
    sreg (setSreg k r v u s) k r = if r = 0 then 0 else v := by
  unfold sreg setSreg
  split <;> simp

/-- A write of a scalar register leaves every other register of every context. -/
theorem sreg_setSreg_other {k r k' r' : Nat} (v : W64) (u : Nat) (s : State) (hr : r < 64) (hr' : r' < 64)
    (h : ¬ (k' = k ∧ r' = r)) : sreg (setSreg k r v u s) k' r' = sreg s k' r' := by
  unfold sreg setSreg
  split
  · rfl
  · split
    · rfl
    · exact tget_tset_other _ _ _ _ (by omega)

end Sys2Proof.Machine
end

