-- ==== Sys2Proof/Laws/Memory.lean ====
section
/-! SUPPORT. The memories: HBM, core stores and flash keep their canonical form under every operation that writes them, a read
after a write gives the bytes written, and every other byte stays. -/

namespace Sys2Proof.Machine

/-! ### Runs of bytes -/

theorem tread_length {α : Type} (m : Tab α) (b n : Nat) (d : α) : (tread m b n d).length = n := by simp [tread]

theorem tread_getD {α : Type} (m : Tab α) (b n i : Nat) (d : α) (h : i < n) :
    (tread m b n d)[i]?.getD d = tget m (b + i) d := by simp [tread, h]

/-- A run that was just written reads as written. -/
theorem tread_tsplice_self {α : Type} [DecidableEq α] (m : Tab α) (b : Nat) (vs : List α) (d : α) :
    tread (tsplice m b vs d) b vs.length d = vs := by
  apply List.ext_getElem (by simp [tread])
  intro i h1 h2
  simp only [tread, List.getElem_map, List.getElem_range, tget_tsplice]
  rw [if_pos ⟨by omega, by omega⟩, Nat.add_sub_cancel_left]
  simp [List.getD_eq_getElem?_getD, h2]

/-- A run apart from the one written reads as before. -/
theorem tread_tsplice_apart {α : Type} [DecidableEq α] (m : Tab α) (b : Nat) (vs : List α) (d : α) (a n : Nat)
    (h : a + n ≤ b ∨ b + vs.length ≤ a) : tread (tsplice m b vs d) a n d = tread m a n d := by
  apply List.ext_getElem (by simp [tread])
  intro i h1 h2
  have hi : i < n := by simpa [tread] using h2
  simp only [tread, List.getElem_map, List.getElem_range, tget_tsplice]
  rw [if_neg (by omega)]

/-! ### HBM -/

theorem hbmPut_wf (k : Nat) (bs : List Byte) (s : State) (h : Memory.wf s.hbm) : Memory.wf (hbmPut k bs s).hbm :=
  twf_tsplice _ _ _ h

theorem hbmWrite_wf (k first : Nat) (bs : List Byte) (s : State) (h : Memory.wf s.hbm) :
    Memory.wf (hbmWrite k first bs s).hbm := twf_tsplice _ _ _ h

@[simp] theorem hbmRead_hbmPut_self (k : Nat) (bs : List Byte) (s : State) :
    hbmRead (hbmPut k bs s) k bs.length = bs := tread_tsplice_self _ _ _ _

theorem hbmRead_hbmPut_apart (k : Nat) (bs : List Byte) (s : State) (a n : Nat) (h : a + n ≤ k ∨ k + bs.length ≤ a) :
    hbmRead (hbmPut k bs s) a n = hbmRead s a n := tread_tsplice_apart _ _ _ _ _ _ h

@[simp] theorem hbmRead_hbmWrite_self (k first : Nat) (bs : List Byte) (s : State) :
    hbmRead (hbmWrite k first bs s) k bs.length = bs := tread_tsplice_self _ _ _ _

theorem hbmRead_hbmWrite_apart (k first : Nat) (bs : List Byte) (s : State) (a n : Nat)
    (h : a + n ≤ k ∨ k + bs.length ≤ a) : hbmRead (hbmWrite k first bs s) a n = hbmRead s a n :=
  tread_tsplice_apart _ _ _ _ _ _ h

/-- A write to a page in HBM changes its bytes and its frame record, and nothing else. -/
theorem hbmWrite_frame (k first : Nat) (bs : List Byte) (s : State) :
    hbmWrite k first bs s = { s with hbm := (hbmWrite k first bs s).hbm, frames := (hbmWrite k first bs s).frames } := rfl

/-! ### Core stores -/

theorem storeWrite_wf (core off : Nat) (bs : List Byte) (s : State) (h : Memory.wf s.store) :
    Memory.wf (storeWrite core off bs s).store := twf_tsplice _ _ _ h

theorem clearStore_wf (core off n : Nat) (s : State) (h : Memory.wf s.store) :
    Memory.wf (clearStore core off n s).store := twf_tclear _ _ h

@[simp] theorem storeRead_storeWrite_self (core off : Nat) (bs : List Byte) (s : State) :
    storeRead (storeWrite core off bs s) core off bs.length = bs := tread_tsplice_self _ _ _ _

theorem storeRead_storeWrite_apart (core off : Nat) (bs : List Byte) (s : State) (core' a n : Nat)
    (h : core' * 2 ^ 25 + a + n ≤ core * 2 ^ 25 + off ∨ core * 2 ^ 25 + off + bs.length ≤ core' * 2 ^ 25 + a) :
    storeRead (storeWrite core off bs s) core' a n = storeRead s core' a n := tread_tsplice_apart _ _ _ _ _ _ h

/-- A write to a core store changes its bytes and their parity, and nothing else. -/
theorem storeWrite_frame (core off : Nat) (bs : List Byte) (s : State) :
    storeWrite core off bs s =
      { s with store := (storeWrite core off bs s).store, badStore := (storeWrite core off bs s).badStore } := rfl

/-! ### Registers of a context -/

theorem setSreg_wf (k r : Nat) (v : W64) (u : Nat) (s : State) (h : twf 0 s.sregs) : twf 0 (setSreg k r v u s).sregs := by
  unfold setSreg
  split
  · exact h
  · exact twf_tset _ _ _ h

theorem setVreg_wf (k v : Nat) (lanes : List W32) (u : Nat) (s : State) (h : twf 0 s.vregs) :
    twf 0 (setVreg k v lanes u s).vregs := twf_tsplice _ _ _ h

theorem vreg_setVreg_self (k v : Nat) (lanes : List W32) (u : Nat) (s : State) (h : lanes.length = 256) :
    vreg (setVreg k v lanes u s) k v = lanes := by
  have := tread_tsplice_self s.vregs ((k * 8 + v) * 256) lanes 0
  rw [h] at this
  exact this

theorem vreg_setVreg_other (k v k' v' : Nat) (lanes : List W32) (u : Nat) (s : State) (h : lanes.length = 256)
    (hne : k' * 8 + v' ≠ k * 8 + v) : vreg (setVreg k v lanes u s) k' v' = vreg s k' v' :=
  tread_tsplice_apart _ _ _ _ _ _ (by omega)

/-! ### Reset -/

theorem reset_memory_wf :
    Memory.wf State.reset.hbm ∧ Memory.wf State.reset.store ∧ Memory.wf State.reset.flash :=
  ⟨twf_nil 0, twf_nil 0, twf_nil 0⟩

end Sys2Proof.Machine
end

