-- ==== Sys2Proof/Laws/Ops.lean ====
section
/-! SUPPORT. What the shared operations do, once: counters, interrupt bits, the records of cores, stacks, ports and jobs,
frames queued at a port, ring slots, synchronisation objects, and stores that land. -/

namespace Sys2Proof.Machine

/-! ### Counters and status bits -/

theorem ctrOf_bump (k w n : Nat) (s : State) (k' : Nat) :
    ctrOf (bump k w n s) k' = if k' = k then satAdd w (ctrOf s k) n else ctrOf s k' := by
  unfold ctrOf bump
  split
  · subst_vars; simp [ctrOf]
  · exact tget_tset_other _ _ _ _ ‹_›

theorem ctrOf_setCtr (k v : Nat) (s : State) (k' : Nat) :
    ctrOf (setCtr k v s) k' = if k' = k then v else ctrOf s k' := by
  unfold ctrOf setCtr
  split
  · subst_vars; simp
  · exact tget_tset_other _ _ _ _ ‹_›

/-- Counting changes the counters and nothing else. -/
theorem bump_frame (k w n : Nat) (s : State) : bump k w n s = { s with ctr := (bump k w n s).ctr } := rfl
theorem setCtr_frame (k v : Nat) (s : State) : setCtr k v s = { s with ctr := (setCtr k v s).ctr } := rfl

/-- An event leaves its bits set in the status register, whatever else was set, and no other register changes (R498). -/
theorem regA_irqSet (a mask : Nat) (s : State) (k : Nat) :
    look (irqSet a mask s).act k = if k = a then some (regA s a ||| mask) else look s.act k := by
  unfold irqSet irqUpdate
  exact look_tput _ _ _ _

/-- Setting a status bit touches registers, the rise of the summary and what leaves the module, and nothing else. -/
theorem irqSet_frame (a mask : Nat) (s : State) :
    irqSet a mask s = { s with
      act := (irqSet a mask s).act, hwSet := (irqSet a mask s).hwSet
      pcie := (irqSet a mask s).pcie, out := (irqSet a mask s).out } := rfl

/-! ### Records of cores, stacks, ports and jobs -/

theorem coreOf_modCore (c : Nat) (f : CoreSt → CoreSt) (s : State) (d : Nat) :
    coreOf (modCore c f s) d = if d = c then f (coreOf s c) else coreOf s d := by
  unfold modCore
  split
  · subst_vars; simp [coreOf]
  · simp only [coreOf]; rw [look_tput_other _ _ ‹_›]

theorem stackOf_modStack (c : Nat) (f : StackSt → StackSt) (s : State) (d : Nat) :
    stackOf (modStack c f s) d = if d = c then f (stackOf s c) else stackOf s d := by
  unfold modStack
  split
  · subst_vars; simp [stackOf]
  · simp only [stackOf]; rw [look_tput_other _ _ ‹_›]

theorem portOf_modPort (c : Nat) (f : Port → Port) (s : State) (d : Nat) :
    portOf (modPort c f s) d = if d = c then f (portOf s c) else portOf s d := by
  unfold modPort
  split
  · subst_vars; simp [portOf]
  · simp only [portOf]; rw [look_tput_other _ _ ‹_›]

theorem jobs_modJob (slot : Nat) (f : Job → Job) (s : State) (k : Nat) :
    look (modJob slot f s).jobs k = if k = slot then (look s.jobs slot).map f else look s.jobs k := by
  unfold modJob
  exact look_tmod _ _ _ _

theorem modCore_frame (c : Nat) (f : CoreSt → CoreSt) (s : State) :
    modCore c f s = { s with cores := (modCore c f s).cores } := rfl
theorem modStack_frame (c : Nat) (f : StackSt → StackSt) (s : State) :
    modStack c f s = { s with stks := (modStack c f s).stks } := rfl
theorem modPort_frame (c : Nat) (f : Port → Port) (s : State) :
    modPort c f s = { s with ports := (modPort c f s).ports } := rfl
theorem modJob_frame (slot : Nat) (f : Job → Job) (s : State) :
    modJob slot f s = { s with jobs := (modJob slot f s).jobs } := rfl

/-! ### Frames that leave -/

/-- A frame waits last at its sub-port, as that sub-port queues it; every other sub-port keeps its queue. -/
theorem portOf_queueTx (c : Nat) (f : TxFrame) (s : State) (d : Nat) :
    (portOf (queueTx c f s) d).queue = if d = c then (portOf s c).queue ++ [queued s c f] else (portOf s d).queue := by
  unfold queueTx
  rw [portOf_modPort]
  split <;> rfl

theorem queueTx_frame (c : Nat) (f : TxFrame) (s : State) :
    queueTx c f s = { s with ports := (queueTx c f s).ports } := rfl

/-! ### Ring slots (R90, R98, R108) -/

theorem slotState_freeSlot (core i : Nat) (s : State) : slotState (freeSlot core i s) core i = 0 := by
  unfold slotState freeSlot
  simp [look_tdel]

/-- A released slot is free where it held or had lost a row, and drops its next row where it was free. -/
theorem slotState_releaseSlot (core i : Nat) (s : State) :
    slotState (releaseSlot core i s) core i =
      if slotState s core i = 0 then 2 else if slotState s core i = 2 then 2 else 0 := by
  unfold releaseSlot
  split
  · simp [slotState]
  · split
    · assumption
    · exact slotState_freeSlot core i s

/-- A row that arrives makes its slot valid, or frees it where the slot was to drop its next row. -/
theorem slotState_deliver (core i : Nat) (vals side : List Byte) (s : State) :
    slotState (deliver core i vals side s) core i = if slotState s core i = 2 then 0 else 1 := by
  have h : slotState (passRing core (i + 1) s) core i = slotState s core i := rfl
  unfold deliver
  simp only [h]
  split
  · exact slotState_freeSlot core i _
  · simp [slotState]

/-! ### Sync objects (R137, R138) -/

/-- An operation of one cc reaches its own object alone. -/
theorem sync_syncOp_absent {obj : Nat} {s : State} (h : look s.sync obj = none) (reset : Option (Nat × Nat))
    (add src : Nat) : syncOp obj reset add src s = s := by
  unfold syncOp
  rw [h]

/-- An addition that does not saturate gives the object its joined value and changes no other object. -/
theorem sync_syncOp {obj : Nat} {o : SyncObj} {s : State} (h : look s.sync obj = some o) (reset : Option (Nat × Nat))
    (add src : Nat) (hs : (o.join s.now reset add src).saturates = false) :
    syncOp obj reset add src s = { s with sync := tput s.sync obj (o.join s.now reset add src) } := by
  unfold syncOp
  simp [h, hs]

/-! ### Stores that land (R121, R122) -/

/-- A store that lands writes its bytes and lists one range of its own thread in flight. -/
theorem landStore_store (c : Ctx') (lo hi until_ : Nat) (bs : List Byte) (s : State) :
    (landStore c lo hi until_ bs s).store = (storeWrite c.core lo bs s).store := rfl

theorem landStore_ranges (c : Ctx') (lo hi until_ : Nat) (bs : List Byte) (s : State) :
    (landStore c lo hi until_ bs s).ranges = s.ranges ++
      [{ core := c.core, thr := c.thr, lo, hi, until_, panel := false, old := storeRead s c.core lo bs.length }] := rfl

theorem addRange_frame (c : Ctx') (lo hi until_ : Nat) (panel : Bool) (s : State) :
    addRange c lo hi until_ panel s = { s with ranges := (addRange c lo hi until_ panel s).ranges } := rfl

/-- A read that no other thread's store crosses takes the bytes that stand there, and changes nothing (R122). -/
theorem threadRead_alone {s : State} {core own thr t off n : Nat} (h : crossing s core own thr t off n = []) :
    threadRead core own thr t off n s = (storeRead s core off n, s) := by
  unfold threadRead
  simp [h]

/-! ### Launch (R115) -/

/-- A launched context stands at its entry word, RUNNING, from 33 cc after the meridian. -/
theorem launch_thread (slot : Nat) (j : Job) (l : Launch) (s : State) :
    look (launch slot j l s).threads (thrKey l.core l.thread) =
      some { state := 1, pc := l.entry, slot, tenant := j.tenant, stream := l.stream, draws := 0, readyAt := s.now + 33 } := by
  unfold launch thrKey
  simp

/-! ### Aborts (R448) -/

/-- A job that is aborted already stays as it is. -/
theorem abortJob_again {slot src : Nat} {j : Job} {s : State} (h : look s.jobs slot = some j) (ha : j.aborted.isSome) :
    abortJob slot src s = s := by
  unfold abortJob
  simp [h, ha]

theorem abortJob_absent {slot src : Nat} {s : State} (h : look s.jobs slot = none) : abortJob slot src s = s := by
  unfold abortJob
  simp [h]

end Sys2Proof.Machine
end

