-- ==== Sys2Proof/WellFormed.lean ====
section
/-! DEFINITION. Well-formed commands: every number an operand gives lies in the field that carries it. Cores, threads and
stacks are bounded by their types. -/

namespace Sys2Proof

/-- Job slots 0 to 4,095 (R44), syncs objects 0 to 8,191 (R135), and module IDs (R316). -/
def slotOk (n : Nat) : Bool := decide (n < 4096)
def syncOk (n : Nat) : Bool := decide (n < 8192)
def moduleOk (n : Nat) : Bool := decide (n < 4096)

/-- Ports, their sub-ports by port code, and their lanes (R298, R301). -/
def portOk (n : Nat) : Bool := decide (n < 24)
def codeOk (n : Nat) : Bool := decide (n < 96)
def laneOk (n : Nat) : Bool := decide (n < 4)

/-- PFC priorities (R311). -/
def prioOk (n : Nat) : Bool := decide (n < 8)

/-- PF0 and the VFs, one VF, and ring pairs (R372, R378). -/
def fnOk (n : Nat) : Bool := decide (n ≤ 4096)
def vfOk (n : Nat) : Bool := decide (1 ≤ n ∧ n ≤ 4096)
def ringOk (n : Nat) : Bool := decide (n < 64)

/-- IDE streams (R376), quarantine records (R450), energy accounts (R443), queue edges (R292), image types (R407). -/
def ideOk (n : Nat) : Bool := decide (n < 9)
def recordOk (n : Nat) : Bool := decide (n < 64)
def accountOk (n : Nat) : Bool := decide (n ≤ 4096)
def edgeOk (n : Nat) : Bool := decide (n < 64)
def typeOk (n : Nat) : Bool := decide (1 ≤ n ∧ n ≤ 4)

/-- Sensors of the thermal samples (R430; the numbering is the model's, log 18). -/
def sensorOk (n : Nat) : Bool := decide (n < 80)

/-- Fields of 8, 16, 24, 32 and 64 bits, and the byte enables of a word (R492). -/
def byteOk (n : Nat) : Bool := decide (n < 2 ^ 8)
def halfOk (n : Nat) : Bool := decide (n < 2 ^ 16)
def psnOk (n : Nat) : Bool := decide (n < 2 ^ 24)
def wordOk (n : Nat) : Bool := decide (n < 2 ^ 32)
def longOk (n : Nat) : Bool := decide (n < 2 ^ 64)
def beOk (n : Nat) : Bool := decide (n < 16)

/-- The fields of a Barfeos base header (R341). -/
def bthOk (h : Bth) : Bool :=
  byteOk h.flags && wordOk h.dcid && psnOk h.psn && psnOk h.sbase && wordOk h.seg && moduleOk h.src && decide (h.die < 2)

/-- The fields of a command header (R383). -/
def headerOk (h : Header) : Bool :=
  halfOk h.opcode && halfOk h.flags && halfOk h.tenant && longOk h.requestId && wordOk h.length && longOk h.param &&
  longOk h.p0 && longOk h.p1 && longOk h.p2 && longOk h.p3

def headerOpt (h : Option Header) : Bool := h.all headerOk

/-- MAC addresses (48 bits), VLAN tags (12) and IP addresses (128). -/
def macOk (n : Nat) : Bool := decide (n < 2 ^ 48)
def vidOk (n : Option Nat) : Bool := n.all (fun v => decide (v < 4096))
def ipOk (n : Nat) : Bool := decide (n < 2 ^ 128)

/-- The fields of a received frame (R305 to R311). -/
def rxOk (f : RxFrame) : Bool :=
  macOk f.mac && vidOk f.vid && prioOk f.pcp && halfOk f.etherType && ipOk f.ipDst && byteOk f.hop && decide (f.ecn < 4) &&
  f.udpPort.all halfOk && halfOk f.ipCsum && halfOk f.udpCsum && byteOk f.opcode &&
  f.quanta.all (fun q => prioOk q.1 && halfOk q.2) && f.stray.all bthOk

/-- The fields of the frames of the host's transmit ring (R309, R312). -/
def txOk (l : List HostTx) : Bool :=
  l.all (fun f => halfOk f.flags && halfOk f.port && halfOk f.length && prioOk f.pcp && decide (f.dscp < 64) && decide (f.ecn < 4) &&
    macOk f.mac && macOk f.srcMac && vidOk f.vid && halfOk f.etherType && ipOk f.ipSrc && ipOk f.ipDst && byteOk f.hop)

/-- The fields of CONNECT and ACCEPT (R343), and of an ACK (R345). -/
def connOk (b : ConnBody) : Bool :=
  wordOk b.ctx && wordOk b.incarnation && slotOk b.sTenant && slotOk b.dTenant && halfOk b.jobId
def connectOk (p : Connect) : Bool := bthOk p.hdr && connOk p.body
def ackOk (b : AckBody) : Bool :=
  halfOk b.ce && b.sack.all psnOk && b.errors.all (fun e => psnOk e.1 && byteOk e.2) && decide (b.errors.length ≤ 8)

/-- The fields of a PTP message and of its announce (R327). -/
def annOk (a : Announce) : Bool :=
  byteOk a.prio1 && byteOk a.cls && byteOk a.accuracy && halfOk a.variance && byteOk a.prio2 && longOk a.identity &&
  halfOk a.steps && decide (a.sender < 2 ^ 80)
def ptpOk (m : PtpMsg) : Bool := codeOk m.port && decide (m.kind < 3) && byteOk m.domain && longOk m.sent && annOk m.ann

/-- The head of a datagram of the management segment (R485). -/
def mgtOk (h : MgtHead) : Bool := halfOk h.seq

/-- What the host configures: payloads of 128 to 512 bytes, read requests of 128 to 4,096, BAR4 of 1 GiB to 1 TiB (R369, R373), and
functions (R372). -/
def linkConfOk (l : LinkConf) : Bool :=
  decide (l.conf.payload < 3) && decide (l.conf.readReq < 6) && l.conf.ats.all fnOk && l.conf.bar4.all (fun b => fnOk b.1 && decide (30 ≤ b.2 ∧ b.2 ≤ 40)) &&
  l.conf.masked.all (fun m => fnOk m.1)

/-- What a slice measured: sub-units of a fail map (R463, R464). -/
def resOk (r : Measured) : Bool := r.bad.all halfOk

/-- A packet's name: its DCID, of 32 bits, and its PSN (R341). -/
def pktOk (p : PktName) : Bool := wordOk p.ctx && psnOk p.psn

/-- A command whose operands fit their fields. -/
def Instr.wf : Instr → Bool
  | .meridian _ _ _ _ _ => true
  | .twilightSlotStart _ => true
  | .twilightSlotEnd _ => true
  | .merHoldoverExpiry _ => true
  | .jobDeadline _ slot => slotOk slot
  | .slipRequestReceive _ _ job sender _ _ _ _ => halfOk job && moduleOk sender
  | .jobAbortReceive _ job sender => halfOk job && moduleOk sender
  | .mac _ => true
  | .drain _ => true
  | .release _ => true
  | .opeStepEntry _ _ => true
  | .streamRowWrite _ _ => true
  | .add _ => true
  | .sub _ => true
  | .mul _ => true
  | .mulh _ => true
  | .and _ => true
  | .or _ => true
  | .xor _ => true
  | .shl _ => true
  | .shr _ => true
  | .sra _ => true
  | .slt _ => true
  | .sltu _ => true
  | .min _ => true
  | .max _ => true
  | .movi _ => true
  | .movhi _ => true
  | .scvtf _ => true
  | .scvti _ => true
  | .rdspec _ => true
  | .vadd _ => true
  | .vsub _ => true
  | .vmul _ => true
  | .vfma _ => true
  | .vmax _ => true
  | .vmin _ => true
  | .vabs _ => true
  | .vneg _ => true
  | .vcvt _ => true
  | .vscale _ => true
  | .vbcast _ => true
  | .vextr _ => true
  | .vsel _ => true
  | .vcmplt _ => true
  | .vcmpeq _ => true
  | .vredsum _ => true
  | .vredmax _ => true
  | .vexp2 _ => true
  | .vlog2 _ => true
  | .vrecip _ => true
  | .vrsqrt _ => true
  | .vrand _ => true
  | .vmov _ => true
  | .mldv _ => true
  | .mstv _ => true
  | .mlds _ => true
  | .msts _ => true
  | .mldvx _ => true
  | .mcopy _ => true
  | .mstream _ => true
  | .mOpComplete _ _ _ _ => true
  | .ysig _ => true
  | .ywge _ => true
  | .yweq _ => true
  | .yrst _ => true
  | .yarm _ => true
  | .yread _ => true
  | .nop _ => true
  | .endThread _ => true
  | .br _ => true
  | .brc _ => true
  | .mile _ => true
  | .call _ => true
  | .ret _ => true
  | .triggerFire _ obj _ _ => syncOk obj
  | .workRequestComplete _ _ _ _ => true
  | .seStream _ slot _ => slotOk slot
  | .seAccum _ slot _ => slotOk slot
  | .seUpdate _ slot _ => slotOk slot
  | .sePack _ slot _ => slotOk slot
  | .seUnpack _ slot _ => slotOk slot
  | .seZero _ slot _ => slotOk slot
  | .stripPhaseComplete _ _ _ _ => true
  | .accumulateWrite _ _ _ _ _ => true
  | .pageFillComplete _ _ => true
  | .patrolScrubRead _ _ _ _ => true
  | .promotionComplete _ _ _ _ => true
  | .demotionCopyComplete _ _ _ => true
  | .ephEntryArm _ slot _ => slotOk slot
  | .ephDeadlineFallback _ slot _ => slotOk slot
  | .ephPageFail _ slot _ _ => slotOk slot
  | .vaultFlush _ => true
  | .vaultErase _ _ => true
  | .wearLevelMove _ _ _ _ => true
  | .allreduce _ slot _ => slotOk slot
  | .reduceScatter _ slot _ => slotOk slot
  | .allgather _ slot _ => slotOk slot
  | .alltoall _ slot _ => slotOk slot
  | .permute _ slot _ => slotOk slot
  | .ringRotate _ slot _ => slotOk slot
  | .verdict _ slot _ => slotOk slot
  | .qsend _ slot _ => slotOk slot
  | .qrecv _ slot _ => slotOk slot
  | .corOpComplete _ slot _ => slotOk slot
  | .corDataGranule _ h _ _ _ => bthOk h
  | .corVerdictFrame _ h _ _ => bthOk h
  | .corPermuteGo _ h _ _ => bthOk h
  | .corCreditFrame _ h _ edge => bthOk h && edgeOk edge
  | .creditRepeat _ slot edge => slotOk slot && edgeOk edge
  | .linkUp _ code => codeOk code
  | .linkDown _ code => codeOk code
  | .laneFail _ port lane _ _ _ => portOk port && laneOk lane
  | .sprayRejoin _ code => codeOk code
  | .preemptVerify _ port _ => portOk port
  | .frameReceive _ code f => codeOk code && rxOk f
  | .pfcPauseExpire _ code prio => codeOk code && prioOk prio
  | .frameTransmit _ code => codeOk code
  | .finderSend _ code => codeOk code
  | .finderReceive _ code _ => codeOk code
  | .finderHoldExpiry _ code => codeOk code
  | .mgtFinderSend _ => true
  | .ptpMessageReceive _ m => ptpOk m
  | .ptpMessageSend _ port _ => codeOk port
  | .ptpAnnounceTimeout _ port _ => codeOk port
  | .syncInEdge _ _ _ => true
  | .syncOutPulse _ => true
  | .ptpTimeSet _ _ => true
  | .txRingDoorbell _ tail frames => halfOk tail && txOk frames
  | .puTailWrite _ tail => halfOk tail
  | .mgtTransmit _ _ _ => true
  | .mgtBackoffExpiry _ _ _ => true
  | .connect _ p => connectOk p
  | .accept _ h b => bthOk h && connOk b
  | .refuse _ h _ => bthOk h
  | .close _ h => bthOk h
  | .write _ h key _ _ => bthOk h && wordOk key
  | .readReq _ h key _ _ => bthOk h && wordOk key
  | .readResp _ h _ _ => bthOk h
  | .atomic _ h key _ _ _ _ => bthOk h && wordOk key
  | .atomicResp _ h _ => bthOk h
  | .sync _ h key obj _ value _ => bthOk h && wordOk key && syncOk obj && longOk value
  | .ack _ h b => bthOk h && ackOk b
  | .nak _ h code _ => bthOk h && byteOk code
  | .bftWriteLand _ pkt _ _ => pktOk pkt
  | .bftHoldRelease _ _ => true
  | .bftHoldExpiry _ _ => true
  | .bftContextFetch _ ctx _ => psnOk ctx
  | .bftRtoExpiry _ ctx psn => psnOk ctx && psnOk psn
  | .bftRetryAfterExpiry _ ctx psn => psnOk ctx && psnOk psn
  | .bftAckTimer _ ctx => psnOk ctx
  | .bftIdleClose _ ctx => psnOk ctx
  | .bftCwndIncrease _ ctx => psnOk ctx
  | .perstAssert _ => true
  | .perstRelease _ => true
  | .pcieLinkUp _ _ _ link => linkConfOk link
  | .vfFlr _ vf => vfOk vf
  | .pf0Flr _ => true
  | .vfEnableClear _ => true
  | .d3hotEntry _ fn => fnOk fn
  | .sqDoorbell _ fn ring tail => fnOk fn && ringOk ring && halfOk tail
  | .cqHeadWrite _ fn ring head => fnOk fn && ringOk ring && halfOk head
  | .ringEnableWrite _ fn ring value => fnOk fn && ringOk ring && wordOk value
  | .commandFetch _ fn ring h => fnOk fn && ringOk ring && headerOpt h
  | .commandStartedTimeout _ _ => true
  | .irqCoalesceExpiry _ fn ring => fnOk fn && ringOk ring
  | .bar4Read _ fn _ _ _ => fnOk fn
  | .bar4Write _ fn _ _ => fnOk fn
  | .bar4ReadTimeout _ _ => true
  | .atsInvalidation _ fn _ _ => fnOk fn
  | .ideIntegrityFail _ stream => ideOk stream
  | .ideKeyLoad _ stream => ideOk stream
  | .planLoad _ _ _ => true
  | .planUnload _ _ => true
  | .jobStart _ _ _ => true
  | .jobStop _ _ => true
  | .jobStopAbort _ _ => true
  | .tierSetup _ _ => true
  | .objMap _ _ _ => true
  | .objMapExisting _ _ _ => true
  | .baseObjectSeal _ _ _ => true
  | .objUnmap _ _ => true
  | .objPlace _ _ => true
  | .objPin _ _ => true
  | .objVote _ _ => true
  | .objQuery _ _ => true
  | .window _ _ => true
  | .ephLoad _ _ _ => true
  | .rgnSetup _ _ => true
  | .rgnRegister _ _ _ => true
  | .rgnRevoke _ _ => true
  | .tenantCreate _ _ => true
  | .tenantDestroy _ _ => true
  | .partition _ _ => true
  | .powerShare _ _ => true
  | .lsRule _ _ => true
  | .censusRead _ _ => true
  | .energyQuery _ _ => true
  | .attest _ _ _ => true
  | .fwStage _ _ _ => true
  | .fwActivate _ _ _ => true
  | .selftest _ _ => true
  | .spareRetire _ _ => true
  | .spareRetireForce _ _ => true
  | .logRead _ _ => true
  | .voltageSample _ _ _ => true
  | .surgeTimeout _ => true
  | .sagTimeout _ => true
  | .sagRelease _ => true
  | .uvloRelease _ => true
  | .uvloLatchClear _ => true
  | .bringupStart _ => true
  | .inrushCharged _ => true
  | .currentLimitTrip _ => true
  | .supplyLoss _ => true
  | .safeNAssert _ => true
  | .safeStopConvertersOff _ => true
  | .grantFrame _ => true
  | .powerControlPeriod _ _ => true
  | .phaseDemandUpdate _ slot _ _ => slotOk slot
  | .thermalSample _ sensor _ => sensorOk sensor
  | .thermalCeilingStep _ => true
  | .meterOutOfRange _ => true
  | .receiptSigned _ => true
  | .receiptCheckpoint _ account => accountOk account
  | .ackWindowExpiry _ record => recordOk record
  | .fltAck _ record => recordOk record
  | .nightLogDrain _ => true
  | .beaconGenerate _ => true
  | .sliceComplete _ slice inst sig res => byteOk slice && halfOk inst && longOk sig && resOk res
  | .sliceBudgetExpiry _ slice inst => byteOk slice && halfOk inst
  | .channelPairCopyComplete _ _ => true
  | .almanacWriteComplete _ => true
  | .bringupRails _ _ => true
  | .bringupBootRom _ _ => true
  | .bringupAlmanac _ _ _ => true
  | .bringupImages _ => true
  | .bringupSelfTest _ _ => true
  | .bringupFill _ => true
  | .bringupRelease _ _ => true
  | .bringupReady _ => true
  | .bringupStopBeacon _ => true
  | .mgtFwStage _ h image offset _ => mgtOk h && longOk image && wordOk offset
  | .mgtFwActivate _ h image _ => mgtOk h && longOk image
  | .mgtFwQuery _ h image => mgtOk h && longOk image
  | .commitRegisterWrite _ _ value => wordOk value
  | .commitGroupMemberWrite _ _ value => wordOk value
  | .registerPairHiWrite _ _ value => wordOk value
  | .registerPairLoRead _ _ => true
  | .irqStatusW1c _ _ value => wordOk value
  | .registerWrite _ _ be value => beOk be && wordOk value
  | .d3hotExit _ fn => fnOk fn
  | .vfEnableSet _ n => fnOk n
  | .pcieLinkDown _ => true
  | .doeSpdmRequest _ _ => true
  | .imageWriteComplete _ type => typeOk type
  | .syncInAbsent _ => true

/-- The cc at which a command happens. -/
def Instr.stamp : Instr → Nat
  | .meridian t _ _ _ _ => t
  | .twilightSlotStart t => t
  | .twilightSlotEnd t => t
  | .merHoldoverExpiry t => t
  | .jobDeadline t _ => t
  | .slipRequestReceive t _ _ _ _ _ _ _ => t
  | .jobAbortReceive t _ _ => t
  | .mac i => i.t
  | .drain i => i.t
  | .release i => i.t
  | .opeStepEntry t _ => t
  | .streamRowWrite t _ => t
  | .add i => i.t
  | .sub i => i.t
  | .mul i => i.t
  | .mulh i => i.t
  | .and i => i.t
  | .or i => i.t
  | .xor i => i.t
  | .shl i => i.t
  | .shr i => i.t
  | .sra i => i.t
  | .slt i => i.t
  | .sltu i => i.t
  | .min i => i.t
  | .max i => i.t
  | .movi i => i.t
  | .movhi i => i.t
  | .scvtf i => i.t
  | .scvti i => i.t
  | .rdspec i => i.t
  | .vadd i => i.t
  | .vsub i => i.t
  | .vmul i => i.t
  | .vfma i => i.t
  | .vmax i => i.t
  | .vmin i => i.t
  | .vabs i => i.t
  | .vneg i => i.t
  | .vcvt i => i.t
  | .vscale i => i.t
  | .vbcast i => i.t
  | .vextr i => i.t
  | .vsel i => i.t
  | .vcmplt i => i.t
  | .vcmpeq i => i.t
  | .vredsum i => i.t
  | .vredmax i => i.t
  | .vexp2 i => i.t
  | .vlog2 i => i.t
  | .vrecip i => i.t
  | .vrsqrt i => i.t
  | .vrand i => i.t
  | .vmov i => i.t
  | .mldv i => i.t
  | .mstv i => i.t
  | .mlds i => i.t
  | .msts i => i.t
  | .mldvx i => i.t
  | .mcopy i => i.t
  | .mstream i => i.t
  | .mOpComplete t _ _ _ => t
  | .ysig i => i.t
  | .ywge i => i.t
  | .yweq i => i.t
  | .yrst i => i.t
  | .yarm i => i.t
  | .yread i => i.t
  | .nop i => i.t
  | .endThread i => i.t
  | .br i => i.t
  | .brc i => i.t
  | .mile i => i.t
  | .call i => i.t
  | .ret i => i.t
  | .triggerFire t _ _ _ => t
  | .workRequestComplete t _ _ _ => t
  | .seStream t _ _ => t
  | .seAccum t _ _ => t
  | .seUpdate t _ _ => t
  | .sePack t _ _ => t
  | .seUnpack t _ _ => t
  | .seZero t _ _ => t
  | .stripPhaseComplete t _ _ _ => t
  | .accumulateWrite t _ _ _ _ => t
  | .pageFillComplete t _ => t
  | .patrolScrubRead t _ _ _ => t
  | .promotionComplete t _ _ _ => t
  | .demotionCopyComplete t _ _ => t
  | .ephEntryArm t _ _ => t
  | .ephDeadlineFallback t _ _ => t
  | .ephPageFail t _ _ _ => t
  | .vaultFlush f => f.t
  | .vaultErase t _ => t
  | .wearLevelMove t _ _ _ => t
  | .allreduce t _ _ => t
  | .reduceScatter t _ _ => t
  | .allgather t _ _ => t
  | .alltoall t _ _ => t
  | .permute t _ _ => t
  | .ringRotate t _ _ => t
  | .verdict t _ _ => t
  | .qsend t _ _ => t
  | .qrecv t _ _ => t
  | .corOpComplete t _ _ => t
  | .corDataGranule t _ _ _ _ => t
  | .corVerdictFrame t _ _ _ => t
  | .corPermuteGo t _ _ _ => t
  | .corCreditFrame t _ _ _ => t
  | .creditRepeat t _ _ => t
  | .linkUp t _ => t
  | .linkDown t _ => t
  | .laneFail t _ _ _ _ _ => t
  | .sprayRejoin t _ => t
  | .preemptVerify t _ _ => t
  | .frameReceive t _ _ => t
  | .pfcPauseExpire t _ _ => t
  | .frameTransmit t _ => t
  | .finderSend t _ => t
  | .finderReceive t _ _ => t
  | .finderHoldExpiry t _ => t
  | .mgtFinderSend t => t
  | .ptpMessageReceive t _ => t
  | .ptpMessageSend t _ _ => t
  | .ptpAnnounceTimeout t _ _ => t
  | .syncInEdge t _ _ => t
  | .syncOutPulse t => t
  | .ptpTimeSet t _ => t
  | .txRingDoorbell t _ _ => t
  | .puTailWrite t _ => t
  | .mgtTransmit t _ _ => t
  | .mgtBackoffExpiry t _ _ => t
  | .connect t _ => t
  | .accept t _ _ => t
  | .refuse t _ _ => t
  | .close t _ => t
  | .write t _ _ _ _ => t
  | .readReq t _ _ _ _ => t
  | .readResp t _ _ _ => t
  | .atomic t _ _ _ _ _ _ => t
  | .atomicResp t _ _ => t
  | .sync t _ _ _ _ _ _ => t
  | .ack t _ _ => t
  | .nak t _ _ _ => t
  | .bftWriteLand t _ _ _ => t
  | .bftHoldRelease t _ => t
  | .bftHoldExpiry t _ => t
  | .bftContextFetch t _ _ => t
  | .bftRtoExpiry t _ _ => t
  | .bftRetryAfterExpiry t _ _ => t
  | .bftAckTimer t _ => t
  | .bftIdleClose t _ => t
  | .bftCwndIncrease t _ => t
  | .perstAssert t => t
  | .perstRelease t => t
  | .pcieLinkUp t _ _ _ => t
  | .vfFlr t _ => t
  | .pf0Flr t => t
  | .vfEnableClear t => t
  | .d3hotEntry t _ => t
  | .sqDoorbell t _ _ _ => t
  | .cqHeadWrite t _ _ _ => t
  | .ringEnableWrite t _ _ _ => t
  | .commandFetch t _ _ _ => t
  | .commandStartedTimeout t _ => t
  | .irqCoalesceExpiry t _ _ => t
  | .bar4Read t _ _ _ _ => t
  | .bar4Write t _ _ _ => t
  | .bar4ReadTimeout t _ => t
  | .atsInvalidation t _ _ _ => t
  | .ideIntegrityFail t _ => t
  | .ideKeyLoad t _ => t
  | .planLoad t _ _ => t
  | .planUnload t _ => t
  | .jobStart t _ _ => t
  | .jobStop t _ => t
  | .jobStopAbort t _ => t
  | .tierSetup t _ => t
  | .objMap t _ _ => t
  | .objMapExisting t _ _ => t
  | .baseObjectSeal t _ _ => t
  | .objUnmap t _ => t
  | .objPlace t _ => t
  | .objPin t _ => t
  | .objVote t _ => t
  | .objQuery t _ => t
  | .window t _ => t
  | .ephLoad t _ _ => t
  | .rgnSetup t _ => t
  | .rgnRegister t _ _ => t
  | .rgnRevoke t _ => t
  | .tenantCreate t _ => t
  | .tenantDestroy t _ => t
  | .partition t _ => t
  | .powerShare t _ => t
  | .lsRule t _ => t
  | .censusRead t _ => t
  | .energyQuery t _ => t
  | .attest t _ _ => t
  | .fwStage t _ _ => t
  | .fwActivate t _ _ => t
  | .selftest t _ => t
  | .spareRetire t _ => t
  | .spareRetireForce t _ => t
  | .logRead t _ => t
  | .voltageSample t _ _ => t
  | .surgeTimeout t => t
  | .sagTimeout t => t
  | .sagRelease t => t
  | .uvloRelease t => t
  | .uvloLatchClear t => t
  | .bringupStart t => t
  | .inrushCharged t => t
  | .currentLimitTrip t => t
  | .supplyLoss t => t
  | .safeNAssert t => t
  | .safeStopConvertersOff t => t
  | .grantFrame t => t
  | .powerControlPeriod t _ => t
  | .phaseDemandUpdate t _ _ _ => t
  | .thermalSample t _ _ => t
  | .thermalCeilingStep t => t
  | .meterOutOfRange t => t
  | .receiptSigned t => t
  | .receiptCheckpoint t _ => t
  | .ackWindowExpiry t _ => t
  | .fltAck t _ => t
  | .nightLogDrain t => t
  | .beaconGenerate t => t
  | .sliceComplete t _ _ _ _ => t
  | .sliceBudgetExpiry t _ _ => t
  | .channelPairCopyComplete t _ => t
  | .almanacWriteComplete t => t
  | .bringupRails t _ => t
  | .bringupBootRom t _ => t
  | .bringupAlmanac t _ _ => t
  | .bringupImages t => t
  | .bringupSelfTest t _ => t
  | .bringupFill t => t
  | .bringupRelease t _ => t
  | .bringupReady t => t
  | .bringupStopBeacon t => t
  | .mgtFwStage t _ _ _ _ => t
  | .mgtFwActivate t _ _ _ => t
  | .mgtFwQuery t _ _ => t
  | .commitRegisterWrite t _ _ => t
  | .commitGroupMemberWrite t _ _ => t
  | .registerPairHiWrite t _ _ => t
  | .registerPairLoRead t _ => t
  | .irqStatusW1c t _ _ => t
  | .registerWrite t _ _ _ => t
  | .d3hotExit t _ => t
  | .vfEnableSet t _ => t
  | .pcieLinkDown t => t
  | .doeSpdmRequest t _ => t
  | .imageWriteComplete t _ => t
  | .syncInAbsent t => t

end Sys2Proof
end

