-- ==== Sys2Proof/Tests/Slice0.lean ====
section
/-! SUPPORT. Small tests, with values taken from the spec, and a witness for each statement's hypotheses. -/

namespace Sys2Proof.Tests

open Sys2Proof Machine

/-! ### Small operands and states -/

def wIssue : Issue := { t := 0, core := 0, thr := 0, word := 0, upsets := [] }

def wBth : Bth := { version := 1, flags := 0, dcid := 1, psn := 0, sbase := 0, seg := 0, src := 2, die := 0, ce := false,
                    bit := 0 }

def wCor : CorHdr := { jobId := 7, op := 0, seg := 0, srank := 1, kind := 1, granule := 0, chunk := 0, step := 0 }

def wRx : RxFrame :=
  { len := 64, fecCorr := 0, fecUncorr := 0, stay := 0, fragBad := false, fcsBad := false, mac := 0, vid := none, pcp := 0,
    etherType := 0x9000, ipDst := 0, hop := 64, ecn := 0, udpPort := none, ipv6 := false, ipCsum := 0,
    udpCsum := 0, opcode := 0, quanta := [], err := 0, stray := none }

def wHdr : Header :=
  { ioOk := true, opcode := 0x0801, flags := 0, tenant := 0, rsv := 0, requestId := 5, length := 0, param := 0, p0 := 0,
    p1 := 0, p2 := 0, p3 := 0 }

def wFinder : FinderRec :=
  { type := 1, hold := 3, serial := 9, module := 0x1002, port := 0, mode := 1, caps := 0, srcMac := 0 }

def wConn : ConnBody :=
  { ctx := 4, incarnation := 1, sTenant := 1, dTenant := 0, jobId := 0, job := false, bigP := false }

def wAck : AckBody := { ce := 0, sack := [], errors := [] }

def wAnn : Announce :=
  { prio1 := 1, cls := 6, accuracy := 0x21, variance := 0, prio2 := 1, identity := 7, steps := 0, sender := 9 }

def wPtp : PtpMsg := { port := 0, kind := 0, domain := 0, sent := 0, err := 0, ann := wAnn }

def wBlock : JobBlock :=
  { plan := 1, jobId := 7, flags := 1, firstSeg := 0, loopSeg := 0, seed := 0, g0 := 0, scale := 0, hyp := 0, optStep := 0,
    stepBase := 0, wrt := 0, wrEntries := 8, sync0 := 2, sync1 := 0, arms := [], armCount := 0, startM := 0, rsv := 0 }

def wSegment : Segment :=
  { launches := [{ core := 0, thread := 0, entry := 0, stream := 0 }], finish := 300000, milestones := [50], ops := [],
    entries := [], streams := [], phases := [], critical := [], uses := [], refetch := [], stepEnd := false,
    updateStart := false }

def wProgram (ws : List W64) : PlanImage :=
  { magic := 0x4C505850, version := 1, period := 26, n0 := 2, n1 := 0, rsv := 0, length := 0, sections := [],
    words := [(0, ws)], indexed := [], segments := [wSegment], tags := [], groups := [], cor := [], edges := [], se := [],
    streams := [], pages := [], maps := [] }

def wJob : Job :=
  { tenant := 0, id := 7, plan := 1, cmd := none, request := 0, block := wBlock, base0 := 0, base1 := 4096, phase := 1,
    segs := 1, seg := 0, segAt := 0, segM := 0, deadline := 90, lateness := 0, finish := 0, stopping := false,
    abortNext := false, aborted := none, honoured := [], requested := false, overdue := false, run := 0, seen := [], step := 0, optStep := 0,
    ls := 0, clean := 0, lsPar := { ls0 := 0, lsMin := 0, lsMax := 0, nClean := 0, enable := false }, lsNext := none,
    lastSkip := false, dirty := false, verdict := none, amax := [], hist := [], scales := [], clamped := [], hyps := [],
    eph := [], cor := [], busy := [], demand := [], direct := 0 }

def wThread : Thread :=
  { state := 1, pc := 0, slot := 0, tenant := 0, stream := 0, draws := 0, readyAt := 0 }

/-- A module in service. -/
def up : State :=
  let s := State.reset
  { s with now := 100, pwr := { s.pwr with phase := 2 }, boot := { s.boot with stage := 0xFF } }

/-- The same with job 0, its thread 0.00.000 at the first of some words, and scalars s1 = 5, s2 = −1, s3 = 7. -/
def prog (ws : List W64) : State :=
  let s := up
  { s with
    cores := [(0, coreOf s 0)], jobs := [(0, wJob)]
    plans := [(1, { tenant := 0, image := wProgram ws, eph := [], status := 0 })]
    threads := [(0, wThread)]
    sregs := [(1, 5), (2, BitVec.ofInt 64 (-1)), (3, 7)]
    sync := [(0, freshSync 0 0 0)] }

/-- The instruction word of a class and opcode with other fields. -/
def iw (cls op rest : Nat) : W64 := BitVec.ofNat 64 (cls * 2 ^ 60 + op * 2 ^ 54 + rest)

/-- It issues on thread 0.00.000 at cc 100. -/
def at100 (w : W64) : Issue := { t := 100, core := 0, thr := 0, word := w, upsets := [] }

/-- The next state of a command, where it answers one. -/
def after (c : Instr) (s : State) : Option State := match exec c s with | .next t => some t | _ => none

/-- What an instruction leaves in a scalar register of its thread. -/
def sres (c : Issue → Instr) (w : W64) (r : Nat) : Option W64 := (after (c (at100 w)) (prog [w])).map (fun s => sreg s 0 r)

/-- What it leaves in a lane of a vector register. -/
def vres (c : Issue → Instr) (w : W64) (r l : Nat) (f : State → State := id) : Option W32 :=
  (after (c (at100 w)) (f (prog [w]))).bind (fun s => (vreg s 0 r)[l]?)

/-- S format: SD, SA, SB, IMM, W and the rest. -/
def fS (sd sa sb : Nat) (imm w : Bool) (rest : Nat) : Nat :=
  sd * 2 ^ 48 + sa * 2 ^ 42 + sb * 2 ^ 36 + (if imm then 2 ^ 35 else 0) + (if w then 2 ^ 34 else 0) + rest

/-- V format: FMT, TFMT, RM, VD, VA, VB, VC, SS. -/
def fV (fmt tf rm vd va vb vc ss : Nat) : Nat :=
  fmt * 2 ^ 50 + tf * 2 ^ 46 + rm * 2 ^ 44 + vd * 2 ^ 41 + va * 2 ^ 38 + vb * 2 ^ 35 + vc * 2 ^ 32 + ss * 2 ^ 26

/-! ### Instructions of the S format (R123, R128) -/

theorem test_add_narrow : sres .add (iw 2 0x01 (fS 4 1 2 false false 0)) 4 = some 4 := by decide

theorem test_add_immediate : sres .add (iw 2 0x01 (fS 4 1 0 true true 0xFFFFFFFE)) 4 = some 3 := by decide

theorem test_sub_wraps : sres .sub (iw 2 0x02 (fS 4 1 3 false true 0)) 4 = some (BitVec.ofInt 64 (-2)) := by decide

theorem test_mul_low : sres .mul (iw 2 0x03 (fS 4 2 3 false true 0)) 4 = some (BitVec.ofInt 64 (-7)) := by decide

theorem test_mulh_signed : sres .mulh (iw 2 0x04 (fS 4 2 3 false true 0)) 4 = some (BitVec.ofInt 64 (-1)) := by decide

theorem test_and : sres .and (iw 2 0x05 (fS 4 1 3 false true 0)) 4 = some 5 := by decide

theorem test_or : sres .or (iw 2 0x06 (fS 4 1 3 false true 0)) 4 = some 7 := by decide

theorem test_xor : sres .xor (iw 2 0x07 (fS 4 1 3 false true 0)) 4 = some 2 := by decide

theorem test_shl_modulo : sres .shl (iw 2 0x08 (fS 4 1 0 true true 65)) 4 = some 10 := by decide

theorem test_shr_narrow : sres .shr (iw 2 0x09 (fS 4 2 0 true false 31)) 4 = some 1 := by decide

theorem test_sra : sres .sra (iw 2 0x0A (fS 4 2 1 false true 0)) 4 = some (BitVec.ofInt 64 (-1)) := by decide

theorem test_slt_signed : sres .slt (iw 2 0x0B (fS 4 2 1 false true 0)) 4 = some 1 := by decide

theorem test_sltu_unsigned : sres .sltu (iw 2 0x0C (fS 4 2 1 false true 0)) 4 = some 0 := by decide

theorem test_min_signed : sres .min (iw 2 0x0D (fS 4 1 2 false true 0)) 4 = some (BitVec.ofInt 64 (-1)) := by decide

theorem test_max_signed : sres .max (iw 2 0x0E (fS 4 1 2 false true 0)) 4 = some 5 := by decide

theorem test_movi_extends : sres .movi (iw 2 0x0F (fS 4 0 0 false false 0x80000000)) 4 =
    some (BitVec.ofInt 64 (-2147483648)) := by decide

theorem test_movhi_keeps_low : sres .movhi (iw 2 0x10 (fS 1 0 0 false false 0x12)) 1 = some 0x1200000005 := by decide

theorem test_scvtf_three : sres .scvtf (iw 2 0x11 (fS 4 3 0 false true 0)) 4 = some 0x40B00000 := by decide

set_option exponentiation.threshold 600 in
theorem test_scvti_back : (after (.scvti (at100 (iw 2 0x12 (fS 4 3 0 false true 0))))
    { prog [iw 2 0x12 (fS 4 3 0 false true 0)] with sregs := [(3, 0x40B00000)] }).map (fun s => sreg s 0 4) = some 7 := by
  decide

theorem test_rdspec_segment_cc : sres .rdspec (iw 2 0x13 (fS 4 0 0 false false 1)) 4 = some 100 := by decide

theorem test_rdspec_reserved : sres .rdspec (iw 2 0x13 (fS 1 0 0 false false 6)) 1 = some 0 := by decide

theorem test_s0_reads_zero : sres .add (iw 2 0x01 (fS 0 1 3 false true 0)) 0 = some 0 := by decide

/-! ### Formats (R86; the numbers are its rows) -/

theorem test_r86_linear : [linLog (logVal fmtL8 0 0x40), linLog (logVal fmtL8 0 0x41), linLog (logVal fmtL8 0 0xC4),
    linLog (logVal fmtL8 0 0x01), linLog (logVal fmtL8 0 0x7E), linLog (logVal fmtL8 0 0xFF),
    linLog (logVal fmtL8 0 0x80), linLog (logVal fmtL4 0 1), linLog (logVal fmtL4 (-3) 5)] =
    [0x40000000, 0x4005CAE1, 0xC01A827A, 0x3E05CAE1, 0x41EBA27E, 0xFFC00000, 0x7FE00000, 0x3F9A827A, 0x3F5A827A] := by
  decide +kernel

theorem test_r86_l16_to_l8 : [(0x4020, 0), (0x4060, 0), (0x6000, 0), (0x6000, 1), (0xB020, 0), (0x3021, 0)].map
    (fun x => (convLog fmtL8 x.2 0 (logVal fmtL16 0 x.1)).code) = [0x40, 0x42, 0x7F, 0x7E, 0x00, 0x01] := by decide +kernel

theorem test_r86_x32 : [(convVal fmtL8 0 0 (x32Val 0x40200000)).code, (convVal fmtL8 2 0x5000 (x32Val 0x40200000)).code,
    (convVal fmtL8 2 0x6000 (x32Val 0x40200000)).code, (convVal fmtL16 0 0 (.fin false 3 0)).code,
    (convVal fmtL8 0 0 (x32Val 0x80000000)).code] = [0x45, 0x44, 0x45, 0x432C, 0x00] := by decide +kernel

theorem test_r86_products : [linLog (mulLog (logVal fmtL8 0 0x44) (logVal fmtL8 0 0x44)),
    linLog (mulLog (logVal fmtL8 0 0) (logVal fmtL8 0 0x7F))] = [0x40400000, 0x7FE00000] := by decide +kernel

/-! ### The witness of an issue -/

/-- The conditions of `Issues`, decided. -/
def issuesB (cls op : Nat) (i : Issue) (s : State) (th : Thread) (j : Job) : Bool :=
  decide (look s.threads (thrKey i.core.val i.thr.val) = some th) && decide (look s.jobs th.slot = some j) &&
  decide (th.state = 1) && decide (th.readyAt ≤ i.t) && decide (i.t = s.now) && live s &&
  decide ((programOf s j i.core.val)[th.pc]? = some i.word) && decide (opClass i.word = cls) &&
  decide (opCode i.word = op) && decide (i.upsets = []) && decide (thrState s i.core.val i.thr.val i.t = 1) &&
  decide (((coreOf s i.core.val).issued[cls]?).getD 0 ≤ i.t) && !(outranked s i.core.val i.thr.val i.t cls th)

theorem issues_of {cls op : Nat} {i : Issue} {s : State} {th : Thread} {j : Job} (h : issuesB cls op i s th j = true) :
    Issues cls op i s th j := by
  simp only [issuesB, Bool.and_eq_true, decide_eq_true_eq, Bool.not_eq_true'] at h
  obtain ⟨⟨⟨⟨⟨⟨⟨⟨⟨⟨⟨⟨h1, h2⟩, h3⟩, h4⟩, h5⟩, h6⟩, h7⟩, h8⟩, h9⟩, h10⟩, h11⟩, h12⟩, h13⟩ := h
  exact ⟨h1, h2, h3, h4, h5, h6, h7, h8, h9, h10, h11, h12, h13⟩

/-- The first word of the small program issues. -/
def runs (cls op : Nat) (w : W64) (f : State → State := id) : Bool :=
  issuesB cls op (at100 w) (tick 100 (f (prog [w]))) wThread wJob

theorem witness_ScalarPairs : ∀ op ∈ [1, 2, 3, 4, 5, 6, 7, 8, 9, 10, 11, 12, 13, 14],
    runs 2 op (iw 2 op (fS 4 1 2 false true 0)) = true := by decide

theorem witness_ScalarMoves : (∀ op ∈ [0x0F, 0x10, 0x11, 0x12], runs 2 op (iw 2 op (fS 4 1 0 false true 0)) = true) ∧
    ∀ n ∈ [0, 1, 2, 3, 4, 5, 6, 2 ^ 32 - 1], runs 2 0x13 (iw 2 0x13 (fS 4 0 0 false false n)) = true := by decide

theorem witness_VectorLanes : (∀ op ∈ [1, 2, 3, 5, 6, 7, 8, 0x0A, 0x0B, 0x0D, 0x0E, 0x0F, 0x11, 0x17],
      runs 1 op (iw 1 op (fV 2 0 0 1 2 3 4 5)) = true) ∧
    (∀ op ∈ [4, 0x10, 0x12, 0x13, 0x14, 0x15], runs 1 op (iw 1 op (fV 3 0 0 7 0 7 0 5)) = true) ∧
    ∀ v, goodVec (prog []) 0 v := by
  exact ⟨by decide, by decide, fun v => by simp [goodVec, prog, up, State.reset, State.cold]⟩

theorem witness_VectorOthers : (∀ rm ∈ [0, 1, 2, 3], runs 1 0x09 (iw 1 0x09 (fV 3 2 rm 1 2 0 0 5)) = true) ∧
    runs 1 0x0C (iw 1 0x0C (fV 2 0 0 0 2 0 0 5 + 255 * 2 ^ 7)) = true ∧ runs 1 0x16 (iw 1 0x16 (fV 4 0 0 1 0 0 0 0)) = true ∧
    bitOf wJob.block.flags 0 = true ∧ bitOf { wBlock with flags := 0 }.flags 0 = false := by decide

/-- M format: FMT, VR, SA, SB, SC. -/
def fM (fmt vr sa sb sc rest : Nat) : Nat :=
  fmt * 2 ^ 50 + vr * 2 ^ 47 + sa * 2 ^ 41 + sb * 2 ^ 35 + sc * 2 ^ 29 + rest

/-- Scalars s10 to s13 name the store's first bytes, its last vector of 1,024 bytes, the core-store window and an HBM
address. -/
def addrs (s : State) : State :=
  { s with sregs := s.sregs ++ [(10, 0x100), (11, 0x17FFC00), (12, 0x1FF000000000000), (13, 0x10000)] }

theorem witness_LoadsAndStores : (∀ op ∈ [1, 2, 3, 4], ∀ a ∈ [10, 11], runs 3 op (iw 3 op (fM 3 1 a 4 0 0)) addrs = true) ∧
    runs 3 5 (iw 3 5 (fM 3 1 12 0 0 0)) addrs = true ∧
    (let s := addrs (prog [iw 3 5 (fM 3 1 12 0 0 0)])
     placeCore (jobCores s 0) 0x1FF000000000000 = some (0, 0) ∧ badBlocks s 0 0x17FFC00 1024 = [] ∧
     crossing s 0 0 0 100 0x17FFC00 1024 = [] ∧ localRange s 0 (iw 3 1 (fM 3 1 11 0 0 0)) = (0x17FFC00, 0x1800000)) := by
  decide

theorem test_mlds : (after (.mlds (at100 (iw 3 3 (fM 0 0 10 4 0 0))))
    (storeWrite 0 0x100 [1, 2, 0, 0, 0, 0, 0, 0x80] (addrs (prog [iw 3 3 (fM 0 0 10 4 0 0)])))).map
    (fun s => sreg s 0 4) = some 0x8000000000000201 := by decide

theorem test_msts : (after (.msts (at100 (iw 3 4 (fM 0 0 10 2 0 0)))) (addrs (prog [iw 3 4 (fM 0 0 10 2 0 0)]))).map
    (fun s => storeRead s 0 0xFF 10) = some [0, 255, 255, 255, 255, 255, 255, 255, 255, 0] := by decide

set_option maxRecDepth 8000 in
theorem test_mldv_last_lane : (after (.mldv (at100 (iw 3 1 (fM 1 3 10 0 0 0))))
    (storeWrite 0 0x1FF [0x45] (addrs (prog [iw 3 1 (fM 1 3 10 0 0 0)])))).bind (fun s => (vreg s 0 3)[255]?) = some 0x45 := by
  decide

set_option maxRecDepth 8000 in
theorem test_mstv_packs : (after (.mstv (at100 (iw 3 2 (fM 2 3 10 0 0 0))))
    (setVreg 0 3 [0x4000, 0x1FFFF] 0 (addrs (prog [iw 3 2 (fM 2 3 10 0 0 0)])))).map (fun s => storeRead s 0 0x0 6) =
    some [0, 0x40, 0xFF, 0xFF, 0, 0] := by decide

set_option maxRecDepth 8000 in
theorem test_mldvx_own_core : (after (.mldvx (at100 (iw 3 5 (fM 1 3 12 0 0 0))))
    (storeWrite 0 0 [0x45] (addrs (prog [iw 3 5 (fM 1 3 12 0 0 0)])))).map
    (fun s => ((vreg s 0 3)[0]?, look s.vbusy 3)) = some (some 0x45, some 109) := by decide

theorem witness_CopiesQueue : runs 3 6 (iw 3 6 (fM 0 0 10 1 11 0)) addrs = true ∧
    (let s := addrs (prog [])
     badOf (placesOf s 0 (jobCores s 0) 0x1FF000000000100 5 false ++
       placesOf s 0 (jobCores s 0) (writeRange s 0 0x1FF0000017FFC00 5).1 (writeRange s 0 0x1FF0000017FFC00 5).2 true) = none) ∧
    runs 3 7 (iw 3 7 (fM 0 0 10 1 0 0)) addrs = true ∧
    (∀ c ∈ streamDests 0 1, c ∈ jobCores (prog []) 0) := by decide

/-- A copy within core 0's store, at the head of its queue. -/
def copyOp (len : Nat) : MOp :=
  { slot := 0, thr := 0, stream := false, src := 0x1FF000000000100, dst := 0x1FF000000000200, len, sig := true, obj := 0,
    msg := 8, sp := [(.core 0x100, len)], dp := [(.core 0x200, len)], dests := [], first := 0, left := 0, side := none,
    due := 0, exact := false }

def withCopy (x : MOp) : State := modCore 0 (fun c => { c with mq := [x] }) (prog [])

theorem witness_CopiesComplete : (coreOf (tick 200 (withCopy (copyOp 4))) 0).mq = [copyOp 4] ∧
    look (tick 200 (withCopy (copyOp 4))).jobs 0 = some wJob ∧ (copyOp 4).stream = false ∧
    (let x := copyOp 4
     let s := tick 200 (withCopy x)
     badOf (x.sp ++ x.dp) = none ∧ waitsOf (x.sp ++ x.dp) = [] ∧ copyStrip s 0 x = false ∧ msgOpen s x.msg = false ∧
     x.due ≤ s.now ∧ landedBy s x.msg + farLand x.dp ≤ s.now ∧ (checkSpans 0 0 x.sp .ok s).1 = true ∧
     (checkSpans 0 0 x.sp .ok s).2 = s) ∧
    { copyOp 4 with stream := true }.left = 0 ∧ { copyOp 4 with left := 1 }.left = 1 := by decide

theorem test_copy_moves : (after (.mOpComplete 200 0 [] 0) (storeWrite 0 0x100 [1, 2, 3, 4] (withCopy (copyOp 4)))).map
    (fun s => (storeRead s 0 0x200 4, (coreOf s 0).mq, (look s.sync 0).map (·.value))) = some ([1, 2, 3, 4], [], some 1) := by
  decide

/-- Y format: OBJ, SV, IMM, REM, IMM20. -/
def fY (obj sv : Nat) (imm rem : Bool) (imm20 : Nat) : Nat :=
  obj * 2 ^ 41 + sv * 2 ^ 35 + (if imm then 2 ^ 34 else 0) + (if rem then 2 ^ 32 else 0) + imm20

theorem witness_SyncObjects : (∀ op ∈ [1, 3, 4, 5, 6], runs 4 op (iw 4 op (fY 0 4 true false 0)) = true) ∧
    runs 4 2 (iw 4 2 (fY 0 4 true false 0)) = true ∧
    (let w := iw 4 1 (fY 0 4 true false 5)
     let s := tick 100 (prog [w])
     yREM w = false ∧ yArgs s wJob 0 false w = (some 0, 5) ∧ look s.sync 0 = some (freshSync 0 0 0) ∧
     (freshSync 0 0 0).stamp ≠ 100 ∧ (freshSync 0 0 0).value + 5 < 2 ^ 64 ∧
     look s.jobs (freshSync 0 0 0).owner = some wJob ∧ (freshSync 0 0 0).trigs.length < 4 ∧ 5 < wJob.block.wrEntries) := by
  decide

theorem test_ysig_adds : (after (.ysig (at100 (iw 4 1 (fY 0 1 false false 0)))) (prog [iw 4 1 (fY 0 1 false false 0)])).map
    (fun s => (look s.sync 0).map (·.value)) = some (some 5) := by decide

theorem test_yrst_sets : (after (.yrst (at100 (iw 4 4 (fY 0 0 true false 9)))) (prog [iw 4 4 (fY 0 0 true false 9)])).map
    (fun s => (look s.sync 0).map (·.value)) = some (some 9) := by decide

theorem test_ywge_waits : (after (.ywge (at100 (iw 4 2 (fY 0 0 true false 1)))) (prog [iw 4 2 (fY 0 0 true false 1)])).map
    (fun s => (look s.threads 0).map (·.pc)) = some (some 0) := by decide

theorem test_yweq_passes : (after (.yweq (at100 (iw 4 3 (fY 0 0 true false 0)))) (prog [iw 4 3 (fY 0 0 true false 0)])).map
    (fun s => (look s.threads 0).map (·.pc)) = some (some 1) := by decide

theorem test_yarm_attaches : (after (.yarm (at100 (iw 4 5 (fY 0 1 false false 2)))) (prog [iw 4 5 (fY 0 1 false false 2)])).bind
    (fun s => (look s.sync 0).map (fun o => o.trigs.map (fun g => (g.threshold, g.handle)))) = some [(5, 2)] := by decide

theorem test_yread_latency : (after (.yread (at100 (iw 4 6 (fY 0 4 false false 0)))) (prog [iw 4 6 (fY 0 4 false false 0)])).map
    (fun s => (sreg s 0 4, look s.sbusy 4)) = some (0, some 109) := by decide

/-- Four triggers on object 0 (R137: no fifth). -/
def full (s : State) : State :=
  { s with sync := [(0, { freshSync 0 0 0 with
      trigs := List.replicate 4 { threshold := 9, handle := 0, slot := 0, armedAt := 0 } })] }

theorem witness_SyncElsewhere : (∀ op ∈ [1, 4, 5, 6], runs 4 op (iw 4 op (fY 2 4 true false 0)) = true) ∧
    (yArgs (prog []) wJob 0 false (iw 4 1 (fY 2 4 true false 0))).1 = none ∧
    (yArgs (prog []) wJob 0 false (iw 4 1 (fY 1 4 true false 0))).1 = some 1 ∧
    runs 4 5 (iw 4 5 (fY 0 4 true false 0)) full = true ∧ (∀ op ∈ [1, 4, 5], runs 4 op (iw 4 op (fY 0 4 true true 0)) = true) := by
  decide

theorem test_object_outside : (after (.ysig (at100 (iw 4 1 (fY 2 0 true false 1)))) (prog [iw 4 1 (fY 2 0 true false 1)])).map
    (fun s => (s.flt.fifo.map (·.source), (look s.jobs 0).map (·.aborted))) = some ([0x046], some (some (102, 0x046))) := by
  decide

/-- C format: SA, SB, COND, OFFSET. -/
def fC (sa sb cond off : Nat) : Nat := sa * 2 ^ 48 + sb * 2 ^ 42 + cond * 2 ^ 39 + off

def pcAfter (c : Issue → Instr) (w : W64) : Option (Nat × Nat) :=
  (after (c (at100 w)) (prog [w, w, w])).bind (fun s => (look s.threads 0).map (fun t => (t.pc, t.readyAt)))

theorem witness_ControlFlow : (∀ op ∈ [1, 2], runs 5 op (iw 5 op 0) = true) ∧
    (∀ op ∈ [3, 6], ∀ off ∈ [0, 2 ^ 24 - 1, 1], runs 5 op (iw 5 op off) = true) ∧
    (∀ c ∈ [0, 1, 2, 3, 4, 5], runs 5 4 (iw 5 4 (fC 1 2 c 0)) = true) ∧ runs 5 7 (iw 5 7 (fC 0 0 0 0)) = true ∧
    (programOf (prog [0]) wJob 0).length = 1 := by decide

theorem test_br_back : pcAfter .br (iw 5 3 2) = some (2, 102) := by decide

theorem test_brc_unsigned : pcAfter .brc (iw 5 4 (fC 2 1 5 1)) = some (1, 102) ∧ pcAfter .brc (iw 5 4 (fC 2 1 3 1)) = some (1, 101) := by
  decide

theorem test_br_outside : (after (.br (at100 (iw 5 3 3))) (prog [iw 5 3 3])).map (fun s => s.flt.fifo.map (·.source)) = some [0x044] := by
  decide

theorem test_call_link : sres .call (iw 5 6 0) 63 = some 1 := by decide

theorem test_ret : pcAfter .ret (iw 5 7 (fC 0 0 0 0)) = some (0, 102) := by decide

theorem test_nop : pcAfter .nop (iw 5 1 0) = some (1, 101) := by decide

theorem test_end_done : (after (.endThread (at100 (iw 5 2 0))) (prog [iw 5 2 0])).map
    (fun s => ((look s.threads 0).map (·.state), (look s.jobs 0).map (·.phase))) = some (some 5, some 2) := by decide

theorem witness_Milestone : runs 5 5 (iw 5 5 0) = true ∧
    (segOf (tick 100 (prog [iw 5 5 0])) wJob).bind (fun g => g.milestones[cMile (iw 5 5 0)]?) = some 50 := by decide

theorem test_milestone_lateness : (after (.mile (at100 (iw 5 5 0))) (prog [iw 5 5 0])).bind
    (fun s => (look s.jobs 0).map (·.lateness)) = some 50 := by decide

/-- T format: FMT, INIT, K − 1, RA, RSA, SCA, ROWPOS, REL. -/
def fT (fmt km1 ra rsa sca pos : Nat) (init rel : Bool) : Nat :=
  fmt * 2 ^ 50 + (if init then 2 ^ 48 else 0) + km1 * 2 ^ 36 + ra * 2 ^ 30 + rsa * 2 ^ 24 + sca * 2 ^ 21 + pos * 2 ^ 10 +
    (if rel then 2 ^ 9 else 0)

theorem witness_TileOps : runs 0 1 (iw 0 1 (fT 1 3 10 0 0 254 true true)) addrs = true ∧
    runs 0 1 (iw 0 1 (fT 1 4 11 0 0 0 true true)) addrs = true ∧
    (∀ x ∈ macRanges (addrs (prog [])) 0 (iw 0 1 (fT 1 3 11 0 0 254 true true)), x.2 ≤ 0x1800000) ∧
    (∃ x ∈ macRanges (addrs (prog [])) 0 (iw 0 1 (fT 1 4 11 0 0 0 true true)), 0x1800000 < x.2) ∧
    runs 0 2 (iw 0 2 (10 * 2 ^ 23)) addrs = true ∧ (drainRange (addrs (prog [])) 0 (iw 0 2 (10 * 2 ^ 23))).2 ≤ 0x1800000 ∧
    runs 0 3 (iw 0 3 (255 * 2 ^ 40 + 2 ^ 32)) = true ∧ (prog []).badAcc = [] := by decide

theorem test_release_wraps : (after (.release (at100 (iw 0 3 (255 * 2 ^ 40 + 2 ^ 32)))) (prog [iw 0 3 (255 * 2 ^ 40 + 2 ^ 32)])).map
    (fun s => (slotState s 0 255, slotState s 0 0, slotState s 0 1)) = some (2, 2, 0) := by decide

theorem test_drain_x32 : (after (.drain (at100 (iw 0 2 (10 * 2 ^ 23)))) { addrs (prog [iw 0 2 (10 * 2 ^ 23)]) with
    acc := [(1, 0x40000000)] }).map (fun s => storeRead s 0 0x100 8) = some [0, 0, 0, 0, 0, 0, 0, 0x40] := by decide

theorem test_mac_starts : (after (.mac (at100 (iw 0 1 (fT 2 3 10 0 0 254 true true)))) (addrs (prog [iw 0 1 (fT 2 3 10 0 0 254 true true)]))).map
    (fun s => ((coreOf s 0).opeFree, (coreOf s 0).mac.map (·.due))) = some (116, some 104) := by decide

theorem witness_SlotRelease : slotState (prog []) 0 3 = 0 ∧ slotState (releaseSlot 0 3 (prog [])) 0 3 = 2 ∧
    slotState (deliver 0 3 [] [] (prog [])) 0 3 = 1 := by decide

/-- A MAC of one L8 step in flight, its row in slot 254. -/
def macRun (fmt total pos : Nat) : MacRun :=
  { slot := 0, thr := 0, bank := 0, fmt, total, col := 0x100, scale := 0, sca := 0, scb := 0, rowPos := pos, rel := true,
    step := 0, due := 100 }

def withMac (m : MacRun) : State := modCore 0 (fun c => { c with mac := some m }) (prog [])

theorem witness_StepEntry : (let s := tick 100 (deliver 0 254 [] [] (withMac (macRun 1 1 254)))
     (coreOf s 0).mac = some (macRun 1 1 254) ∧ look s.jobs 0 = some wJob ∧ 100 = s.now ∧ live s = true ∧
     grantLeft s 0 0 = true ∧ (∀ x ∈ slotsNow (macRun 1 1 254), slotState s 0 x = 1) ∧ s.badSlot = [] ∧ s.badAcc = [] ∧
     badBlocks s 0 0x100 256 = []) ∧
    (let s := tick 100 (withMac (macRun 2 1 255))
     slotsNow (macRun 2 1 255) = [255, 0] ∧ (∀ x ∈ [255, 0], slotState s 0 x < 2) ∧ slotState s 0 255 = 0) ∧
    (slotsNow (macRun 0 2 7)).find? (fun y => slotState (releaseSlot 0 7 (withMac (macRun 0 2 7))) 0 y = 2) = some 7 := by
  decide

theorem test_step_waits : (after (.opeStepEntry 100 ⟨0, .ok⟩) (withMac (macRun 1 1 254))).map
    (fun s => (ctrOf s 0x103010, (coreOf s 0).mac.map (·.due))) = some (1, some 101) := by decide

theorem test_step_lost_row : (after (.opeStepEntry 100 ⟨0, .ok⟩) (releaseSlot 0 254 (withMac (macRun 1 1 254)))).map
    (fun s => (s.flt.fifo.map (·.source), (coreOf s 0).mac)) = some ([0x041], none) := by decide

/-- A stream of one row to core 0's slot 5. -/
def streamOp : MOp :=
  { slot := 0, thr := 0, stream := true, src := 0x100, dst := 0, len := 0, sig := false, obj := 0, msg := 0, sp := [], dp := [],
    dests := [0], first := 261, left := 1, side := none, due := 0, exact := false }

/-- A weight stream of two L8 rows to core 0, on stack 0. -/
def wStream : StreamEntry :=
  { stack := 0, object := 1, va := 0, stride := 256, rows := 2, mode := 1, tag := 0, dests := [0], firstSlot := 5,
    armCc := 50, d0 := 300, interval := 1, gen := 0, shared := false, base := none,
    reads := [] }

/-- Its run, with both rows read. -/
def wStreamRun : StreamRun :=
  { slot := 0, entry := 0, at_ := 0, row := 0, due := 0, buf := [[], []], next := 2, bound := [] }

def streaming : State :=
  let s := prog []
  { s with
    plans := [(1, { tenant := 0, image := { wProgram [] with streams := [wStream] }, eph := [], status := 0 })]
    stks := [(0, { emptyStack with streams := [wStreamRun] })] }

theorem witness_StreamRows : (let s := tick 100 (withCopy streamOp)
     live s = true ∧ (coreOf s 0).mq = [streamOp] ∧ look s.jobs 0 = some wJob ∧ streamOp.left ≠ 0 ∧
     badBlocks s 0 0x100 256 = [] ∧ s.ranges = [] ∧ streamOp.due ≤ s.now ∧ slotState s 0 5 = 0 ∧
     slotState (deliver 0 5 [] [] s) 0 (streamOp.first % 256) = 1) ∧
    (let s := tick 100 streaming
     (stackOf s 0).streams[0]? = some wStreamRun ∧
     streamEntry s wStreamRun = some (wJob, wStream) ∧ wStream.shared = false ∧ wStreamRun.bound = [] ∧
     slotsPer wStream = 1 ∧ wStreamRun.due ≤ s.now ∧ wStreamRun.row + rowsPer wStream ≤ wStreamRun.next ∧
     slotState s 0 5 = 0) := by decide

theorem test_stream_row : (after (.streamRowWrite 100 (.copy ⟨0, .ok⟩)) (storeWrite 0 0x100 [7] (withCopy streamOp))).map
    (fun s => (slotState s 0 5, (look s.slots 5).map (fun x => x.vals.take 2))) = some (1, some [7, 0]) := by decide

theorem test_stream_holds : (after (.streamRowWrite 100 (.copy ⟨0, .ok⟩)) (deliver 0 5 [] [] (withCopy streamOp))).map
    (fun s => (coreOf s 0).mq.map (·.left)) = some [1] := by decide

/-! ### Meridians, ports, time -/

/-- The meridian grid placed, the timebase at a whole multiple of the period. -/
def placed : State :=
  let s := prog []
  { s with mer := { s.mer with placing := true, next := 99840, due := 100 }, ptp := { s.ptp with ns := 99840, nsAt := 100 } }

theorem witness_MeridianFalls : (let s := tick 100 placed
     meridianFalls s 99840 = true ∧ lengthFits (applyShadows s) 329472 (nextInstant (applyShadows s) 99840 false - 99840) = true ∧
     errFits s 99840 0 = true ∧ (groupSt s 0).state ≠ 2) ∧ meridianNo placed 99840 = 1 := by decide

theorem test_meridian_number : (after (.meridian 100 329472 99840 0 true) placed).map
    (fun s => (s.mer.count, s.mer.at_, s.mer.length, tget s.act 0x10044 0 % 2)) = some (1, 100, 329472, 1) := by decide

theorem test_meridian_overrun : (after (.meridian 100 329472 99840 0 true) placed).map
    (fun s => s.flt.fifo.map (·.source)) = some [0x025] := by decide

/-- Cc 11,616 of an exposure of 26 twilight periods (R193): the slot of period 0. -/
def inSlotAt (cc : Nat) : State :=
  let s := up
  { s with now := cc, mer := { s.mer with placing := true, at_ := 0, length := 329472 }, stks := [(3, emptyStack)] }

theorem witness_TwilightSlots : slotAt (tick 0 (inSlotAt 11616)) = some (0, 11616) ∧
    (tick 0 (inSlotAt 11616)).now = (inSlotAt 11616).mer.at_ + 11616 ∧
    slotAt { tick 0 (inSlotAt 12672) with now := 12672 - 1056 } = some (0, 11616) ∧
    slotAt (tick 0 (inSlotAt (5 * 12672 + 11616))) = some (5, 5 * 12672 + 11616) := by decide

theorem test_twilight_group : (after (.twilightSlotStart 0) (inSlotAt (5 * 12672 + 11616))).map
    (fun s => ((stackOf s 3).group, (stackOf s 3).inSlot)) = some (1, true) := by decide

theorem test_twilight_over : (after (.twilightSlotEnd 0) (inSlotAt 12672)).map (fun s => (stackOf s 3).inSlot) = some false := by
  decide

theorem witness_Slips : (let s := tick 100 (prog [])
     look s.jobs 0 = some wJob ∧ wJob.phase = 1 ∧ wJob.aborted = none ∧ ({ wJob with deadline := 100 }.deadline : Int) = 100 ∧ s.now = 100 ∧ jobById s 7 = some (0, wJob) ∧
     live s = true ∧ (9, 1) ∉ wJob.seen ∧ (tick 500 (prog [])).now = 100 + 400 ∧ s.mer.count < 1 ∧ 26 = cfg s 0x10000 0 16 ∧
     0 = wJob.segs - 1 ∧ (0 : Int) ≤ s.mer.count ∧ 25 ≠ cfg s 0x10000 0 16 ∧ 4095 ≤ 4095 ∧ (1 : Int) ∉ wJob.honoured) := by
  decide

theorem test_slip_honoured : (after (.slipRequestReceive 500 100 7 9 1 0 40 ⟨26, 1⟩) (prog [])).map
    (fun s => ((look s.jobs 0).map (·.honoured), s.flt.fifo.length)) = some (some [1], 0) := by decide

theorem test_slip_late_overruns : (after (.slipRequestReceive 500 100 7 9 1 0 40 ⟨26, 1⟩) { prog [] with
    mer := { (prog []).mer with count := 1 } }).map (fun s => s.flt.fifo.map (·.source)) = some [0x024, 0x025] := by decide

theorem test_slip_mismatch : (after (.slipRequestReceive 500 100 7 9 1 1 40 ⟨26, 1⟩) (prog [])).map
    (fun s => s.flt.fifo.map (·.source)) = some [0x023] := by decide

theorem test_deadline_slips : (after (.jobDeadline 100 0) { prog [] with jobs := [(0, { wJob with deadline := 100 })] }).bind (fun s => (look s.jobs 0).map (·.honoured)) = some [1] := by
  decide

theorem test_abort_frame : (after (.jobAbortReceive 100 7 9) (prog [])).map (fun s => s.flt.fifo.map (·.source)) = some [0x025] := by
  decide

/-- Sub-port 0 up since cc 0 with one frame queued. -/
def wFrame : TxFrame := express 90 (.ptp 0 0 wAnn)

def portUp (p : Port → Port) : State :=
  modPort 0 (fun x => p { x with up := true, queue := [wFrame] }) { up with mer := { up.mer with placing := true } }

theorem witness_PortEvents : (let s := tick 100 up
     portsOn s = true ∧ hasSub s 0 = true ∧ (portOf s 0).up = false ∧ (portOf s 0).failed = false ∧ 0 < nPorts s ∧
     portMode s 0 = 1) ∧
    (portOf (tick 0 (portUp id)) 0).up = true ∧
    (∀ n ∈ [2, 3], portMode { up with act := [(0x700000, n)] } 0 = n) ∧
    (let s := tick (3300000 * 65535) (portUp id)
     (portOf s 0).upAt + 3300000 * cfg s 0x700008 0 16 ≤ s.now ∧ (portOf s 0).loop = false ∧ blockHeld s .port 0 = false ∧
     (portOf s 0).inSpray = false ∧ cfg s 0x700000 4 1 = 1) := by decide

theorem test_link_up : (after (.linkUp 100 0) up).map (fun s => ((portOf s 0).up, tget s.act 0x700184 0)) = some (true, 1) := by
  decide

theorem test_link_down_counts : (after (.linkDown 100 0) (portUp id)).map
    (fun s => ((portOf s 0).up, ctrOf s 0x700058, s.flt.fifo.map (·.source))) = some (false, 1, [0x100]) := by decide

theorem test_lane_fail_fallback : (after (.laneFail 100 0 3 true false true) (portUp id)).map
    (fun s => ((portOf s 0).degraded, s.flt.fifo.map (·.source))) = some (some 0, [0x100, 0x101]) := by decide

theorem test_spray_rejoins : (after (.sprayRejoin (3300000 * 65535) 0) (portUp id)).map (fun s => (portOf s 0).inSpray) = some true := by
  decide

theorem test_preempt : (after (.preemptVerify 100 0 true) (portUp id)).map (fun s => (portOf s 0).preempt) = some true := by decide

theorem witness_FramesInAndOut : (let s := tick 100 (portUp id)
     (portOf s 0).up = true ∧ portsOn s = true ∧ 64 ≤ wRx.len ∧ cfg s 0x700004 0 14 ≥ wRx.len ∧ Machine.macOk s 0 wRx.mac = true ∧
     vlanOk s 0 wRx = true ∧ Machine.macOk s 0 1 = false ∧ vlanOk s 0 { wRx with vid := some 7 } = false ∧
     wRx.fecUncorr = 0 ∧ wRx.fragBad = false ∧ wRx.etherType ≠ 0x86DD ∧ wRx.etherType ≠ 0x8808 ∧
     grantAt s 0 = some (0, wFrame) ∧ wFrame.len ≤ cfg s 0x700004 0 14 ∧
     ingressFull (bump 0x700030 32 1 s) 0 wRx = false ∧ ownPort s 319 = true ∧ ownPort s 7 = false ∧
     (let f := { wRx with etherType := 0x0800, ipDst := 0xE0000181, udpPort := some 319 }
      ownIp s 0 f = true ∧ csumBad f = false) ∧
     ownIp s 0 { wRx with etherType := 0x0800, ipDst := 5 } = false ∧
     (let a := fabricAddr s 9 0xFF
      localDst a = false ∧ fabricModule s a = some 9 ∧ ownIp s 0 { wRx with etherType := 0x86DD, ipv6 := true, ipDst := a } = false)) ∧
    (let s := tick 100 (portUp (fun p => { p with ingress := [(0, 262144)] }))
     ingressFull s 0 wRx = true) ∧
    (portOf up 0).up = false ∧
    (∀ x ∈ (portOf (portUp (fun p => { p with paused := [(3, 500)] })) 0).paused, x.1 = 3 → 100 < x.2) ∧
    (∃ x ∈ (portOf (portUp (fun p => { p with paused := [(3, 50)] })) 0).paused, x.1 = 3 ∧ x.2 ≤ 100) := by decide

theorem test_runt : (after (.frameReceive 100 0 { wRx with len := 63 }) (portUp id)).map (fun s => ctrOf s 0x700044) = some 1 := by
  decide

theorem test_bad_fcs_control : (after (.frameReceive 100 0 { wRx with etherType := 0x8808, fcsBad := true }) (portUp id)).map
    (fun s => ctrOf s 0x700038) = some 1 := by decide

theorem test_transmit : (after (.frameTransmit 100 0) (portUp id)).map (fun s => (s.out, (portOf s 0).queue)) =
    some ([.frame 0 0 wFrame], []) := by decide

theorem test_pause_ends : (after (.pfcPauseExpire 100 0 3) (portUp (fun p => { p with paused := [(3, 50)] }))).map
    (fun s => (portOf s 0).paused) = some [] := by decide

theorem witness_Finder : (let s := tick 100 (portUp (fun p => { p with nbr := some (wFinder, 0), nbrOk := true }))
     (portOf s 0).up = true ∧ portsOn s = true ∧ (portOf s 0).nbrOk = true ∧ { wFinder with type := 2 }.type = 2 ∧
     wFinder.serial ≠ s.alm.serial ∧ { wFinder with serial := s.alm.serial }.serial = s.alm.serial ∧ (portOf s 0).loop = false ∧
     live s = true ∧ s.mgt.gasp = none) ∧
    0 + 3300000 * (1000 * wFinder.hold) < (tick (3300000 * 3000 + 1) (portUp id)).now := by decide

theorem test_finder_neighbour : (after (.finderReceive 100 0 wFinder) (portUp id)).map
    (fun s => (portOf s 0).nbr) = some (some (wFinder, 100)) := by decide

theorem test_finder_loop : (after (.finderReceive 100 0 { wFinder with serial := up.alm.serial }) (portUp id)).map
    (fun s => ((portOf s 0).loop, s.flt.fifo.map (·.source))) = some (true, [0x104]) := by decide

theorem test_finder_withdraw : (after (.finderReceive 100 0 { wFinder with type := 2 })
    (portUp (fun p => { p with nbr := some (wFinder, 0), nbrOk := true }))).map (fun s => ((portOf s 0).nbrOk, s.flt.fifo.map (·.source))) =
    some (false, [0x103]) := by decide

theorem test_finder_stale : (after (.finderHoldExpiry (3300000 * 3000 + 1) 0)
    (portUp (fun p => { p with nbr := some (wFinder, 0), nbrOk := true }))).map (fun s => (portOf s 0).nbrOk) = some false := by decide

/-- Sub-port 0 the slave, its messages long away; and the SYNC_IN reference chosen. -/
def slaved : State :=
  modPort 4 (fun p => { p with up := true }) (portUp (fun p => p)) |> fun s => { s with
    ptp := { s.ptp with slave := 0, heard := [(0, (wAnn, 0))], lastMsg := 0 } }

def byPin : State := { up with act := [(0x719040, 1 + 2 * 4)], ptp := { up.ptp with slave := 0xFE, inPresent := true, lock := 0, lastEdge := 0 } }

theorem witness_Timebases : (let s := tick (3300000 * 1000) slaved
     live s = true ∧ s.ptp.lastMsg + 3300000 * cfg s 0x10034 0 16 ≤ s.now ∧ ptpPort s 0 = true ∧ cfg s 0x719000 0 2 = 1 ∧
     wPtp.domain = cfg s 0x719000 6 7 ∧ wPtp.ann.sender ≠ s.alm.macBase ∧ s.ptp.slave = 0 ∧ portsOn s = true ∧
     isMaster s 4 = true ∧ ptpPort s 4 = true ∧ s.ptp.sentAt = []) ∧
    (let s := tick (3300000 * 3000) slaved
     look s.ptp.heard 0 = some (wAnn, 0) ∧ 0 + 3300000 * 3000 ≤ s.now) ∧
    (let s := tick (3300000 * 1100) byPin
     live s = true ∧ cfg s 0x719040 0 2 = 1 ∧ (1000 : Int).natAbs ≤ 1000 ∧ s.ptp.inPresent = true ∧
     s.ptp.lastEdge + 3300000 * 1100 ≤ s.now ∧ cfg s 0x719040 2 2 = 2) ∧
    (let s := tick 100 { byPin with mer := { byPin.mer with at_ := 100 } }
     s.now = s.mer.at_) ∧
    (let s := tick 100 { up with pcie := { up.pcie with up := true, perst := false } }
     barServed s = true ∧ s.jobs = [] ∧ 96 ≤ s.ptp.slave) := by decide

theorem test_holdover : (after (.merHoldoverExpiry (3300000 * 1000)) { slaved with ptp := { slaved.ptp with lock := 1 } }).map
    (fun s => s.ptp.lock) = some 2 := by decide

theorem test_sync_absent : (after (.syncInAbsent (3300000 * 1100)) byPin).map (fun s => (s.ptp.inPresent, s.ptp.lock)) = some (false, 1) := by
  decide

theorem witness_HostRingsAndMac : (let s := tick 100 { up with pcie := { up.pcie with up := true, perst := false }, act := [(0x718200, 2)] }
     barServed s = true ∧ cfg (liveWrite 0x718230 3 s) 0x718200 1 1 ≠ 0) ∧
    (let s := tick 100 { up with mgt := { up.mgt with q2 := [.finder [1]] } }
     2 ≤ s.pwr.phase ∧ s.mgt.backoff = false ∧ inPlca s = false ∧ (mgtTake s).1 = some (2, .finder [1]) ∧
     cfg s 0x71A000 0 2 = 0 ∧ (mgtTake s).2.mgt.tries < 15) ∧
    (let s := tick 100 { up with mgt := { up.mgt with q2 := [.finder [1]], backoff := true } }
     s.mgt.backoff = true ∧ s.mgt.backUntil ≤ s.now ∧
     (mgtTake { s with mgt := { s.mgt with backoff := false } }).1 = some (2, .finder [1])) ∧
    (let s := tick 100 { up with act := [(0x71A000, 1 + 3 * 4 + 8 * 1024)] }
     inPlca s = true ∧ s.mgt.opAt = none) := by decide

theorem test_mgt_sends : (after (.mgtTransmit 100 false false) { up with mgt := { up.mgt with q2 := [.finder [1]] } }).map
    (fun s => (s.out.map (fun o => match o with | .mgt _ port m => (port, m == .finder [1]) | _ => (0, false)), s.mgt.q2)) =
    some ([(46580, true)], []) := by decide

theorem test_mgt_collides : (after (.mgtTransmit 100 false true) { up with mgt := { up.mgt with q2 := [.finder [1]] } }).map
    (fun s => (s.mgt.tries, s.mgt.backoff, ctrOf s 0x71A048)) = some (1, true, 1) := by decide

/-! ### Connections, packets, memory -/

/-- Object 1: one 64-KiB page of tenant 0 at address 0x10000, in frame 5 of stack 0 (key 5), writable. -/
def wObj : Obj :=
  { pages := 2, psize := 0, home := 0, policy := 0, stks := 1, stripe := 1, shelf := 0, homeLoc := 0, key := 0, module := 0,
    peer := 0, accSr := false, accX := false, tag := 0, desc := none, sealHash := none,
    maps := [{ tenant := 0, base := 0x10000, w := true, acc := false, pins := [] }], lost := [], loc := [(0, 5)] }

def wTenant : Tenant :=
  { strict := false, destroying := false, hostBase := 0, hostLen := 0, cores := 0, stks := 0, share := 0, power := 0,
    nextPart := none, nextPower := none }

def wRegion : RegionBlock :=
  { sync := false, r := true, w := true, a := true, trig := true, dp := false, peer := 2, peerTenant := 1,
    anyModule := false, anyTenant := false, base := 0x10000, length := 0x10000, trigObj := none }

def wSyncRegion : RegionBlock := { wRegion with sync := true, base := 0, length := 1 }

def wReg (b : RegionBlock) : Region :=
  { valid := true, revoking := false, gen := 0, tenant := 0, block := b, inflight := 0, cmd := none }

/-- Context 1, OPEN with module 2, tenant 1 there. -/
def wCtx : Ctx := { freshCtx with state := 2, peer := 2, pTenant := 1, cwnd := 1024, rtoUs := 32 }

/-- A module with a tenant, an object, a region (key 0x100) and an open connection. -/
def served : State :=
  let s := prog []
  { s with
    tenants := [(0, wTenant)], objs := [(1, wObj)], ctxs := [(1, wCtx)]
    frames := [(5, freshFrame 2 1 0 0)]
    regions := [(1, (wReg wRegion))]
    pcie := { s.pcie with up := true, perst := false, numVfs := 4 } }

def onCtx (f : Ctx → Ctx) : State := modCtx 1 f served

/-- A CONNECT from module 2. -/
def wConnect : Connect := { hdr := { wBth with sbase := 0 }, body := wConn }

theorem witness_Triggers : (let s := tick 100 { served with sync := [(0, { freshSync 0 0 0 with
       value := 5, trigs := [{ threshold := 5, handle := 1, slot := 0, armedAt := 99 }] })] }
     (look s.sync 0).bind (fun o => o.trigs[0]?) = some { threshold := 5, handle := 1, slot := 0, armedAt := 99 } ∧
     5 ≤ ((look s.sync 0).map (·.value)).getD 0 ∧ 99 < s.now ∧ look s.jobs 0 = some wJob) ∧
    (let w : WorkRun := { held := none, slot := 0, handle := 1, kind := 2, flags := 4, peer := 2, local_ := 0x10000, len := 4, done := 0 }
     let s := tick 100 { served with works := [(3, w)] }
     landedBy s (8 * 3 + 1) ≤ s.now ∧
     heldWaits s { tenant := some 0, slot := 0, va := 0x10000, ecc := .ok, src := some (.remote 2 0 0 0), data := [9, 8, 7, 6] } = false ∧
     look s.works 3 = some w ∧ look s.jobs w.slot = some wJob ∧ msgOpen s (8 * 3 + 1) = false ∧ bitOf w.flags 2 = true ∧
     bitOf { w with flags := 0 }.flags 2 = false ∧ absObj s wJob w.done = some 0) := by decide

theorem test_work_signals : (after (.workRequestComplete 100 3 0 ⟨[9, 8, 7, 6], .ok⟩) { served with works := [(3,
    { held := none, slot := 0, handle := 1, kind := 2, flags := 4, peer := 2, local_ := 0x10000, len := 4, done := 0 })] }).map
    (fun s => (hbmRead s 0x50000 4, (look s.sync 0).map (·.value), s.works)) = some ([9, 8, 7, 6], some 1, []) := by decide

theorem witness_Connections : (let s := tick 100 { served with ctxs := [] }
     ready s = true ∧ look s.tenants 9 = none ∧ (look s.tenants wConn.dTenant).isSome = true ∧ wConn.job = false ∧
     answered s wConnect = none ∧ wConnect.hdr.flags = 0 ∧
     findCtx s 0 2 1 none = none ∧ (allocCtx (answerCtx wConnect true) s).1 = some 0) ∧
    answered (tick 100 (onCtx (fun c => { c with peerCtx := 4, incarnation := 1 }))) wConnect = some 1 ∧
    ctxNamed (tick 100 { served with ctxs := [] }) 1 = none ∧
    (let s := tick 100 (onCtx (fun c => { c with state := 1 }))
     ctxNamed s 1 = some (1, { wCtx with state := 1 })) ∧
    (let s := tick 100 served
     ctxNamed s 1 = some (1, wCtx) ∧ wCtx.unacked = []) := by decide

theorem look_range_map {α : Type} (f : Nat → α) (n k : Nat) (h : k < n) :
    look ((List.range n).map (fun i => (i, f i))) k = some (f k) := by
  induction n with
  | zero => omega
  | succ n ih =>
    rw [List.range_succ, List.map_append, look_append]
    by_cases hk : k < n
    · rw [ih hk]; rfl
    · have e : k = n := by omega
      subst e
      have h0 : look ((List.range k).map (fun i => (i, f i))) k = none := by
        have : ∀ m, m ≤ k → look ((List.range m).map (fun i => (i, f i))) k = none := by
          intro m
          induction m with
          | zero => intro _; rfl
          | succ m ihm =>
            intro hm
            rw [List.range_succ, List.map_append, look_append, ihm (by omega)]
            simp [look, show k ≠ m by omega]
        exact this k (Nat.le_refl k)
      rw [h0]
      simp [look]

theorem freeIndex_full (n : Nat) : freeIndex ((List.range n).map (fun i => (i, wCtx))) n = none := by
  unfold freeIndex
  rw [List.find?_eq_none]
  intro i hi
  simp only [List.length_map, List.length_range, List.mem_range] at hi
  rw [look_range_map (fun _ => wCtx) n i (by omega)]
  decide

theorem allocCtx_full {c : Ctx} {s : State} (h : freeIndex s.ctxs (max 16384 (cfg s 0x800038 0 21)) = none) :
    (allocCtx c s).1 = none := by
  unfold allocCtx
  rw [h]

/-- With a table of as many contexts as the module may hold, all in use, no context is free (R337, R338). -/
theorem witness_Connections_full : ∃ l, (allocCtx (answerCtx wConnect true) { served with ctxs := l }).1 = none := by
  have h : ∀ l, cfg { served with ctxs := l } 0x800038 0 21 = cfg served 0x800038 0 21 := fun _ => rfl
  generalize hn : max 16384 (cfg served 0x800038 0 21) = n at h
  refine ⟨(List.range n).map (fun i => (i, wCtx)), allocCtx_full ?_⟩
  rw [h, hn]
  exact freeIndex_full n

def wPkt (op : Nat) : TxPkt :=
  { psn := 0, opcode := op, flags := 0, seg := 0, hdr := [], cor := none, data := [], msg := 8, sent := true, sentAt := 0, lead := 0,
    retx := false, expiries := 0, rnr := none, path := 0 }

theorem test_connect_refused : (after (.connect 100 { wConnect with body := { wConn with dTenant := 9 } }) { served with
    act := [(0x718000, 0x80000001)] }).map (fun s => s.ctxs.length) = some 1 := by decide

theorem test_close_frees : (after (.close 100 wBth) served).map (fun s => s.ctxs) = some [] := by decide

theorem test_close_waits : (after (.close 100 wBth) (onCtx (fun c => { c with unacked := [wPkt 1] }))).map
    (fun s => s.ctxs.map (fun c => c.2.state)) = some [4] := by decide

theorem witness_PacketsTested : (let u := bump 0x800204 32 1 (tick 400 served)
     ready (tick 400 served) = true ∧ (tick 400 served).now = wBth.bit + 400 ∧ wBth.version = 1 ∧ look u.ctxs 1 = some wCtx ∧ wBth.dcid % 2 ^ 24 = 1 ∧
     wCtx.gen = wBth.dcid / 2 ^ 24 % 256 ∧ wCtx.state = 2 ∧ wCtx.host = false ∧ wBth.src = wCtx.peer ∧ wCtx.job = false ∧
     psnSub 1023 wCtx.cum < 1024 ∧ look wCtx.outcomes 0 = none ∧ inHand u 1 0 = false ∧
     fieldsOk wCtx (mkPkt u { wBth with flags := 1 } 1 0x100 0 1 [7] 0 0) = true ∧
     fieldsOk wCtx (mkPkt u wBth 2 0x100 0 4096 [] 0 0) = true ∧ fieldsOk wCtx (mkPkt u wBth 4 0x100 0 3 [] 0 0) = true ∧
     fieldsOk wCtx (mkPkt u wBth 6 0x100 0 1 [] 0 0) = true) := by decide

theorem witness_PacketsAdmitted : (let u := tick 100 served
     let p := mkPkt u { wBth with flags := 1 } 1 0x100 0xFFFF 1 [7] 0 0
     look u.ctxs p.ctx = some wCtx ∧ (regionOf u p.key).map (·.block) = some wRegion ∧ regionTest u wCtx p = none ∧
     regionTest u wCtx { p with off := 0x10000 } = some 5 ∧ lowPages u 0 (0x10000, 1) = [] ∧
     canServe u (wReg wRegion)
       (mkPkt u wBth 2 0x100 0 4 [] 0 0) = true ∧
     needsOutside u (wReg wRegion)
       (mkPkt u wBth 2 0x100 0 4 [] 0 0) = false) ∧
    (let u := { served with regions := [(1, (wReg wSyncRegion))] }
     regionTest u wCtx (mkPkt u wBth 6 0x100 0 1 [] 0 0) = none) := by decide

theorem test_write_lands : ((after (.write 400 { wBth with flags := 1 } 0x100 ⟨2, 2⟩ [7, 8]) served).bind
    (after (.bftWriteLand 1560 ⟨1, 0⟩ [] .ok))).map (fun s => (hbmRead s 0x50000 5, s.landing)) = some ([0, 0, 7, 8, 0], []) := by decide

theorem test_write_bounds : (after (.write 400 { wBth with flags := 1 } 0x100 ⟨0xFFFF, 2⟩ [7, 8]) served).map
    (fun s => (hbmRead s 0x5FFFE 4, s.landing, s.regions.map (·.2.inflight))) = some ([0, 0, 0, 0], [], [0]) := by
  decide

theorem test_sync_signals : (after (.sync 400 wBth 0x100 0 1 3 0) { served with regions := [(1, wReg wSyncRegion)] }).map
    (fun s => (look (tick 420 s).sync 0).map (·.value)) = some (some 3) := by decide

theorem test_atomic_adds : ((after (.atomic 400 wBth 0x100 8 1 ⟨5, 0⟩ .ok) served).bind
    (fun s => some (hbmRead s 0x50008 8))) = some [5, 0, 0, 0, 0, 0, 0, 0] := by decide

def wHeld : HeldPkt := mkPkt served { wBth with flags := 1 } 1 0x100 0 1 [7] 0 0

theorem witness_HeldAndLanding : (let s := tick 200 { served with landing := [(2 ^ 24, wHeld)] }
     look s.landing (1 * 2 ^ 24 + 0) = some wHeld ∧ look s.ctxs 1 = some wCtx ∧ (regionOf s wHeld.key).isSome = true ∧
     wHeld.due = 0 ∧ canServe s (wReg wRegion) wHeld = true ∧ ctxNamed s 1 = some (1, wCtx) ∧
     (let q := { wHeld with hdr := { wHeld.hdr with dcid := 5, flags := 1 } }
      ctxNamed s q.hdr.dcid = none ∧ fenced q = true) ∧
     canServe { s with taken := [(takenKey s (some 0) 2 0, 2 ^ 40)] } (wReg wRegion) wHeld = false ∧
     badOf (placesOf s 0 [] 0x10000 1 true) = none ∧ badOf (placesOf { s with objs := [] } 0 [] 0x10000 1 true) ≠ none) ∧
    (let s := tick (3300 * 1023 + 100) { served with holds := [(9, { wHeld with pages := [(1, 0)] })] }
     (look s.holds 9).map (·.fetch) = some false ∧ (∀ x ∈ [(1, 0)], ∀ o ∈ look s.objs x.1, (look o.loc x.2).isSome = true) ∧
     wHeld.at_ + 3300 * cfg s 0x800008 0 10 ≤ s.now) ∧
    (let s := tick 100 (onCtx (fun c => { c with host := true }))
     (look s.ctxs 1).map (·.host) = some true ∧ ctxCached (evictCtx s) < 16384) := by decide

theorem witness_SenderAnswers : (let c := { wCtx with unacked := [wPkt 1] }
     let u := bump 0x800204 32 1 (tick 400 (onCtx (fun _ => c)))
     ready (tick 400 served) = true ∧ u.now = wBth.bit + 400 ∧ ctxNamed u 1 = some (1, c) ∧ c.state = 2 ∧ wBth.src = c.peer ∧ wAck.errors = [] ∧ wAck.ce = 0 ∧
     (∀ p ∈ c.unacked, p.sent = true ∧ 2 ^ 23 ≤ psnSub p.psn 1 ∧ p.opcode ≠ 2 ∧ p.opcode ≠ 4) ∧
     c.unacked.find? (fun q => q.sent && q.lead = 0) = some (wPkt 1) ∧ wBth.flags = 0 ∧
     (let q := { wPkt 2 with hdr := [0x100, 0, 4, 0] }
      [7, 8, 9, 6].length = min (payload c) (q.field 2 - q.field 3 * payload c) ∧ 0 = q.field 3 * payload c) ∧ (wPkt 1).rnr = none ∧ c.host = false ∧
     ({ c with unacked := [wPkt 2] }.unacked.find? (fun p => p.psn = 0 && p.opcode = 2)) = some (wPkt 2) ∧
     ({ c with unacked := [wPkt 4] }.unacked.find? (fun p => p.psn = 0 && p.opcode = 4)) = some (wPkt 4)) := by decide

theorem test_ack_clears : (after (.ack 100 { wBth with psn := 1 } wAck) (onCtx (fun c => { c with unacked := [wPkt 1] }))).map
    (fun s => (look s.ctxs 1).map (fun c => c.unacked.length)) = some (some 0) := by decide

theorem test_nak_not_ready : (after (.nak 100 wBth 1 50) (onCtx (fun c => { c with unacked := [wPkt 1] }))).bind
    (fun s => (look s.ctxs 1).map (fun c => c.unacked.map (·.rnr))) = some [some (100, 165100)] := by decide

theorem witness_ContextTimers : (let c := { wCtx with unacked := [wPkt 1] }
     look (tick 200000 (onCtx (fun _ => c))).ctxs 1 = some c ∧ (wPkt 1).sentAt + 3300 * c.rtoUs ≤ 200000 ∧
     cfg up 0x80000C 16 4 ≤ 7 + 1 ∧ 0 + 1 < cfg up 0x80000C 16 4) ∧
    (let p := { wPkt 1 with rnr := some (0, 100) }
     p.rnr = some (0, 100) ∧ 100 ≤ 100 ∧ 100 ≤ 0 + 3300000 * cfg up 0x800014 0 14) ∧
    0 < { wCtx with unreported := 1 }.unreported ∧ 0 + 3300 * 2 ≤ (tick 6600 served).now ∧
    wCtx.lastUse + 3300000 * (1000 * cfg up 0x800004 0 16) ≤ (tick (3300000 * 1000 * 65535) served).now ∧
    wCtx.cwndAt + wCtx.srtt * 33 / 10 ≤ 100 := by decide

theorem test_rto_doubles : (after (.bftRtoExpiry 200000 1 0) (onCtx (fun c => { c with unacked := [wPkt 1] }))).bind
    (fun s => (look s.ctxs 1).map (fun c => (c.rtoUs, c.cwnd))) = some (64, 16) := by decide

/-! ### Stack engines, tiers, the correlator -/

/-- A stack-engine entry of the job's segment. -/
def wSe (op : Nat) : SeEntry :=
  { op, stack := 0, object := 1, va := 0x10000, srcVa := 0x10100, count := 4, tag := 3, form := 3, srcFmt := 1, gen := 0,
    startBp := 0, firstStrip := 0, strips := 1, prep := false, waitOp := none, alloc := 64 }

def wDesc (rule : Nat) : Descriptor :=
  { master := 1, grad := 1, mom1 := 0, mom2 := 0, x0 := 0, out := 0, rows := 1, cols := 4, rule, e := 0, rank := 1, flags := 0,
    hyp := 0, mtag := 0 }

/-- A job with one stack-engine entry and one stream still to run. -/
def worked (e : SeEntry) (j : Job := wJob) (o : Obj := wObj) : State :=
  { served with
    jobs := [(0, { j with busy := [(0, 0), (65536, 0)] })]
    plans := [(1, { tenant := 0, image := { wProgram [] with se := [e], streams := [wStream], tags := [(3, 0), (4, 256)] }, eph := [], status := 0 })]
    objs := [(1, o)], stks := [(0, { emptyStack with ready := true })] }

def wBusy : Job := { wJob with busy := [(0, 0), (65536, 0)] }

theorem witness_StackEntries : (let s := tick 100 (worked (wSe 4))
     look s.jobs 0 = some wBusy ∧ (imageOf s wBusy).bind (fun p => p.streams[0]?) = some wStream ∧
     look wBusy.busy (65536 + 0) = some 0 ∧ 0 + wStream.armCc ≤ 100 ∧ wStream.base = none ∧ live s = true ∧
     (stackOf s 0).streams = [] ∧ objTorn s 1 = false ∧ rollsOn s 0 7 0 = false ∧ stopped s .stack 0 = false) ∧
    (∀ op ∈ [2, 4, 5, 6], seEntry (tick 100 (worked (wSe op))) 0 0 op = some (wBusy, wSe op, 0)) ∧
    (∀ f ∈ [0, 1, 2, 3], ({ wSe 4 with form := f }).form = f) ∧ (zrlObject [0, 0, 0, 0]).length ≤ ({ wSe 4 with alloc := 65536 }).alloc ∧
    ({ wSe 4 with alloc := 0 }).alloc < (zrlObject [0, 0, 0, 0]).length := by decide

theorem witness_StackEntries_ended : (∀ op ∈ [2, 4, 5, 6], let s := tick 100 (worked (wSe op))
     let ps := placesOf s 0 [] 0x10100 64 false ++ placesOf s 0 [] 0x10000 8 true
     (∀ f ∈ [0, 1, 2, 3], let e := { wSe op with form := f }
       (entryPhases s ((tagWord s wBusy e.tag).getD 0) 8 e).all (fun p =>
         decide (0 + 33 * (phaseEnd (cfg s 0x10000 0 16) e.startBp p.ranges p.lanes).1 ≤ s.now)) = true) ∧
     badOf ps = none ∧ tiersOff ps = []) ∧
    (engErr 0 0 .lane (tick 100 (worked (wSe 2)))).1 = false := by decide

theorem test_se_zero : (after (.seZero 100 0 0) (hbmPut 0x50000 [1, 2, 3, 4, 5] (worked (wSe 6)))).map
    (fun s => hbmRead s 0x50000 5) = some [0, 0, 0, 0, 5] := by decide

theorem test_se_copy : (after (.sePack 100 0 ⟨0, .ok⟩) (hbmPut 0x50100 [1, 2, 3, 4, 5] (worked (wSe 4)))).map
    (fun s => hbmRead s 0x50000 5) = some [1, 2, 3, 4, 0] := by decide

theorem test_se_stream_arms : (after (.seStream 100 0 0) (worked (wSe 4))).map (fun s => (stackOf s 0).streams.length) = some 1 := by
  decide

/-- An update of four values under rule 0, and its run. -/
def updating (rule : Nat) (e : SeEntry) (j : Job := wJob) : State := worked e j { wObj with desc := some (wDesc rule) }

def wStrip (phase : Nat) : StripRun :=
  { idx := 0, phase, buffer := 0, ready := 0, due := some 0, w := [], g := [], m1 := [], m2 := [], o := [], deferred := 0, seen := [] }

def wRun (phase : Nat) : UpdRun :=
  { slot := 0, entry := 0, stack := 0, step := 0, n := 1, status := 1, mode := 0, next := 1, done := 0,
    strips := [wStrip phase], job := 7, master := 1, rerun := false, torn := false, part := wSe 3, sketch := [], sched := [],
    retimed := false, readAt := 0, tenant := 0, kick := 0 }

def stripAt (phase : Nat) : State := { updating 0 (wSe 3) with upds := [(4, wRun phase)] }

theorem witness_UpdatesBegin : (∀ prep ∈ [false, true],
     seEntry (tick 100 (updating 0 { wSe 3 with prep })) 0 0 3 = some (wBusy, { wSe 3 with prep }, 0)) ∧
    descOf (tick 100 (updating 0 (wSe 3))) 1 = some (wDesc 0) ∧ (wSe 3).waitOp = none ∧ (updating 0 (wSe 3)).upds = [] ∧
    verdictDirty (updating 0 (wSe 3)) wBusy = false ∧ verdictDirty (updating 0 (wSe 3)) { wBusy with dirty := true } = true ∧
    partLost (tick 100 (updating 0 (wSe 3))) (wSe 3) = false ∧
    partLost { updating 0 (wSe 3) with upds := [(4, { wRun 0 with status := 4 })] } (wSe 3) = true ∧
    (hasSketch 4 || hasX0 4) = true ∧ (hasSketch 0 || hasX0 0) = false ∧
    (prepHeader (tick 100 (updating 4 (wSe 3))) (wDesc 4) (wSe 3)).state ≠ 1 ∧
    headerOf (leBytes 8 3 ++ leBytes 4 0x10007 ++ leBytes 4 1) = { step := 3, job := 7, state := 1, slot := 0, object := 1 } ∧
    partWaits (tick 100 (updating 0 (wSe 3))) (wDesc 0) (wSe 3) = [] ∧
    partWaits (tick 100 { updating 0 (wSe 3) with objs := [(1, { wObj with loc := [], desc := some (wDesc 0) })] }) (wDesc 0) (wSe 3) ≠ [] := by decide

theorem test_update_reads : (after (.seUpdate 100 0 ⟨0, .ok⟩) (updating 0 (wSe 3))).map
    (fun s => s.upds.map (fun u => (u.2.status, u.2.strips.map (·.phase)))) = some [(1, [0])] := by decide

theorem test_update_skips_dirty : (after (.seUpdate 100 0 ⟨0, .ok⟩) (updating 0 (wSe 3) { wJob with dirty := true })).map
    (fun s => s.upds.map (fun u => (u.2.mode, u.2.strips.map (·.phase)))) = some [(1, [5])] := by decide

theorem witness_StripPhases : (∀ ph ∈ [0, 1, 2, 3, 4, 5, 6], let s := tick 100 (stripAt ph)
     s.flt.c4 = none ∧ look s.upds 4 = some (wRun ph) ∧ (wRun ph).strips.find? (·.idx = 0) = some (wStrip ph) ∧
     (wStrip ph).due = some 0 ∧ 0 ≤ s.now ∧ descOf s (wRun ph).master = some (wDesc 0) ∧ look s.jobs 0 = some wBusy ∧
     (wRun ph).mode = 0 ∧ (wRun ph).kick = 0 ∧ (wRun ph).rerun = false) ∧
    (readStrip (tick 100 (stripAt 0)) (wDesc 0) (wSe 3) (wStrip 0)).g.any wild16 = false ∧
    (readStrip (tick 100 (hbmPut 0x50000 [0, 0x80] (stripAt 0))) (wDesc 0) (wSe 3) (wStrip 0)).g.any wild16 = true ∧
    (hasM1 0 = false ∧ hasM2 0 = false ∧ hasM1 1 = true ∧ hasM2 1 = false ∧ hasM1 2 = true ∧ hasM2 2 = true) := by decide

theorem witness_StripPhases_computed :
    (computeStrip wBusy (wDesc 0) (wRun 1) { wStrip 1 with w := [0, 0, 0, 0], g := [0, 0, 0, 0] } (tick 100 (stripAt 1))).1.isSome =
      true ∧
    (computeStrip wBusy (wDesc 0) (wRun 1) { wStrip 1 with w := [0x8000, 0, 0, 0], g := [0, 0, 0, 0] } (tick 100 (stripAt 1))).1 =
      none := by decide

theorem test_gradient_nan : (after (.stripPhaseComplete 100 4 0 .ok) (hbmPut 0x50000 [0, 0x80] (stripAt 0))).map
    (fun s => s.flt.fifo.map (·.source)) = some [0x182] := by decide

theorem test_strip_finishes : (after (.stripPhaseComplete 100 4 0 .ok) (stripAt 6)).map
    (fun s => (s.upds.map (fun u => (u.2.done, u.2.status)), ctrOf s (rkey 0x400110 0))) = some ([(1, 2)], 1) := by decide

/-- The object takes sums. -/
def summingObj : Obj := { wObj with policy := 1, maps := [{ tenant := 0, base := 0x10000, w := true, acc := true, pins := [] }] }

def summing : State := { worked (wSe 2) with objs := [(1, summingObj)] }

theorem witness_StackEntries_sums : accAt (tick 100 summing) 0 0x10000 = some summingObj ∧
    objTorn (tick 100 { worked (wSe 4) with upds := [(4, { wRun 0 with status := 3 })] }) 1 = true := by decide

theorem witness_StackMemory : (let s := tick 100 summing
     (hitAt s 0 0x10010).map (fun h => (h.map.acc, h.map.w, look h.obj.loc h.page)) = some (true, true, some 5) ∧
     stripWaitVa s 0 0x10010 4 true = false ∧
     openNow s (some 0) [] (placesOf s 0 [] (writeRange s 0 0x10010 4).1 (writeRange s 0 0x10010 4).2 true) = true ∧
     look s.jobs 0 = some wBusy) ∧
    (let s := tick 100 { up with stks := [(2, { emptyStack with ready := true, fill := [(2 * 2 ^ 20, 1)] })] }
     (stackOf s 2).fill = [(2 * 2 ^ 20, 1)] ∧ live s = true ∧ openSlot s none (2 + 2) 0 s.now = true ∧ hasStack s 2 = true ∧
     (stackOf s 2).ready = true ∧ cfg s 0x420010 0 1 = 1 ∧ openNow s none [(.hbm (2 * 2 ^ 36 + 0 * 64) 0, 64)] [] = true ∧
     underUpdate s (2 * 2 ^ 20 + 0) = false ∧ frameOwner s (2 * 2 ^ 20 + 0) = none) ∧
    (frameOwner (tick 100 served) 5).isSome = true ∧
    (let s := tick 100 { stripAt 1 with objs := [(1, { wObj with desc := some (wDesc 0) })] }
     underUpdate s 5 = true) := by decide

theorem test_page_fill : (after (.pageFillComplete 100 2) (hbmPut (2 * 2 ^ 36) [9] { up with
    stks := [(2, { emptyStack with ready := true, fill := [(2 * 2 ^ 20, 1)] })] })).map
    (fun s => (s.hbm, (stackOf s 2).fill)) = some ([], []) := by decide

/-- A page on its way up from the vault, and one on its way down. -/
def moving (st : Nat) : State :=
  { served with
    objs := [(1, { wObj with home := 2, policy := 3, loc := if st = 4 then [(0, 5)] else [] })]
    frames := [(5, freshFrame st 1 0 0)], flash := [(0, 0xAA)] }

theorem witness_PagesMove : (∀ st ∈ [3, 4], look (tick 100 (moving st)).frames 5 = some (freshFrame st 1 0 0)) ∧
    (freshFrame 3 1 0 0).touched ≤ 100 ∧ Machine.promoting (tick 100 (moving 3)) 1 0 = some 5 ∧ msgOpen (tick 100 (moving 3)) 44 = false ∧
    wObj.lost = [] ∧ (freshFrame 4 1 0 0).copied = false ∧ (look (tick 100 (moving 4)).objs 1).bind (fun o => look o.loc 0) = some 5 ∧
    flushing (tick 100 (moving 4)) 5 = false ∧
    (let s := tick 100 { moving 4 with vault := { served.vault with ready := true, blocks :=
       [(0, { erases := 0, erased := true, retired := false, used := 0 })] } }
     s.vault.readOnly = false ∧ (look s.objs 1).map (fun o => homeWaits o 0 5 s) = some false) := by decide

def wEph (priv : Bool) (dst : Nat) : EphEntry :=
  { seg := 0, armCc := 50, object := 1, page := 0, pages := 1, src := 0, dst, priv, pin := false, sig := false, sync := 0,
    dlCc := 90, dlSegs := 0, rsv := 0 }

def wEphRun (armed : Bool) : EphRun :=
  { entry := 0, armed, armAt := 60, armM := 0, going := false, mismatch := false, left := [0], done := 0, ended := false }

def ephState (priv : Bool) (dst : Nat) (armed : Bool) : State :=
  { served with
    jobs := [(0, { wJob with eph := [wEphRun armed] })]
    plans := [(1, { tenant := 0, image := wProgram [], eph := [wEph priv dst], status := 0 })] }

theorem witness_EphemerisEntries : (∀ priv ∈ [false, true], ∀ dst ∈ [0, 1], ∀ armed ∈ [false, true],
     let s := tick 100 (ephState priv dst armed)
     let j := { wJob with eph := [wEphRun armed] }
     look s.jobs 0 = some j ∧ j.eph.find? (·.entry = 0) = some (wEphRun armed) ∧ ephEntry s j 0 = some (wEph priv dst) ∧
     j.phase = 1 ∧ j.aborted = none ∧ j.segAt + (wEph priv dst).armCc ≤ s.now ∧ pastDeadline s j (wEph priv dst) = true ∧
     0 ∈ (wEphRun armed).left ∧ look s.objs 1 = some wObj) := by decide

theorem test_eph_demotion_votes : (after (.ephEntryArm 100 0 0) (ephState false 1 false)).map
    (fun s => ((look s.frames 5).map (·.vote), (look s.jobs 0).map (fun j => j.eph.map (·.armed)))) =
    some (some true, some [true]) := by decide

/-- A vault with superblock 0 in use, 1 erased and 3 much worn. -/
def vaulted : State :=
  { served with
    objs := [(1, { wObj with home := 2, policy := 3 })]
    frames := [(5, { freshFrame 2 1 0 0 with dirty := true })], alm := { served.alm with erases := [(3, 5000)] }
    vault := { served.vault with ready := true, map := [(0, 5)], blocks :=
      [(0, { erases := 0, erased := true, retired := false, used := 6 }), (1, { erases := 0, erased := true, retired := false, used := 0 }),
       (3, { erases := 5000, erased := false, retired := false, used := 0 })] } }

theorem witness_VaultWork : (let s := tick 100 vaulted
     oldestDirty s = some (1, 0, 5) ∧ s.vault.flushing = none ∧ s.vault.readOnly = false ∧ s.vault.ready = true ∧
     openBlock s ≠ none ∧ hasVault s = true ∧ live s = true ∧ 3 < superblocks s ∧ (blockOf s 3).erased = false ∧
     (blockOf s 3).retired = false ∧ (∀ m ∈ s.vault.map, m.2 / 1024 ≠ 3) ∧ (blockOf s 1).erased = true ∧ (0 : Nat) ≠ 1 ∧
     (blockOf s 0).retired = false ∧ (blockOf s 1).retired = false ∧ (blockOf s 0).erases + cfg s 0x500300 0 10 < (wearSpan s).2 ∧
     (blockOf s 0).erases ≤ (wearSpan s).1 ∧ leastWorn s 0 1 = true ∧
     (blockOf s 1).used + (s.vault.map.filter (fun m => m.2 / 1024 = 0)).length ≤ 1024) ∧
    (tick 100 { vaulted with vault := { vaulted.vault with readOnly := true } }).vault.readOnly = true ∧
    (let s := tick 100 { vaulted with
       vault := { vaulted.vault with flushing := some (1, 0, 5) }, frames := [(5, { freshFrame 4 1 0 0 with dirty := true })] }
     s.vault.flushing = some (1, 0, 5) ∧ (look s.objs 1).isSome = true ∧
     (look s.frames 5).map (fun r => (r.state, r.obj, r.page)) = some (4, 1, 0) ∧
     (look s.objs 1).map (fun o => homeWaits o 0 5 s) = some false) := by decide

theorem test_erase_counts : (after (.vaultErase 100 ⟨3, false⟩) vaulted).map
    (fun s => ((blockOf s 3).erases, (blockOf s 3).erased, tget s.alm.erases 3 0)) = some (5001, true, 5001) := by decide

theorem test_wear_moves_pages : (after (.wearLevelMove 100 0 1 false) vaulted).map
    (fun s => (s.vault.map, (blockOf s 0).erased, (blockOf s 1).used)) = some ([(0, 1024)], false, 1) := by decide

def wEntry (op : Nat) : CorEntry :=
  { op, red := 0, part16 := false, inFmt := 3, outFmt := 3, sig := false, sigSrc := false, keep := false, tagEn := false,
    group := 0, queue := 0, tag := 0, armCc := 100, gate := 0, gateVal := 0, src := 0x10000, dst := 0x10100, count := 8,
    sync := 0, syncSrc := 0, rsv := 0 }

def wEdge : QEdge := { group := 0, up := 0, down := 1, ringVa := 0x10000, ringBytes := 4096, arrive := 0 }

/-- An operation of a group of modules 1 and 2, this one module 1. -/
def grouped (op phase : Nat) : State :=
  { served with
    jobs := [(0, { wJob with cor := [{ freshCor 0 with phase }] })]
    plans := [(1, { tenant := 0, image := { wProgram [] with
      cor := [wEntry op], groups := [{ members := [1, 2], rank := 0 }], edges := [wEdge] }, eph := [], status := 0 })]
    ctxs := [(1, { wCtx with job := true, jobId := 7 })] }

def begins (op : Nat) : Bool :=
  let s := tick 100 (grouped op 0)
  (corOf s 0 0).any (fun c => c.e == wEntry op && c.job.phase == 1 && c.job.aborted.isNone && c.job.segAt == 0 && beginsNow s c) &&
  (corRun s 0 0).any (fun r => r.phase == 0)

theorem witness_CorrelatorBegins : ∀ op ∈ [1, 2, 3, 4, 5, 6, 7, 8, 9], begins op = true := by decide

theorem test_gate_after_64 : (let c : Cor := { slot := 0, job := wJob, e := { wEntry 3 with gateVal := 1 }, op := 0, ms := [1, 2], rank := 0 }
    let s := { grouped 3 0 with now := 164, sync := [(0, { freshSync 0 0 0 with hist := [(100, 1, [])] })] }
    (gateOpen s c 163, gateOpen s c 164)) = (false, true) := by decide

def takes (op : Nat) : Bool :=
  let s := grouped op 1
  let u := bump 0x800204 32 1 (tick 400 s)
  let x := { wCtx with job := true, jobId := 7 }
  ready (tick 400 s) && u.now == wBth.bit + 400 && look u.ctxs 1 == some x && x.gen == wBth.dcid / 2 ^ 24 % 256 && !x.host &&
  x.state == 2 && wBth.src == x.peer && decide (psnSub wBth.psn x.cum < 1024) && look x.outcomes 0 == none &&
  ctxJob u x == some (0, (look s.jobs 0).getD wJob) && flagsOk 6 wBth.flags && wCor.seg == wJob.segs - 1 &&
  (corOf u 0 0).any (·.e == wEntry op) &&
  (corRun u 0 0).any (fun r => r.phase == 1 && look r.chunks (granKey 1 0 0) == none && look r.chunks (granKey 2 0 0) == none &&
    look r.chunks (granKey 3 0 0) == none) &&
  wCor.step == wJob.step && edgeOf u wJob 0 == some wEdge

theorem witness_CorrelatorFrames : ∀ op ∈ [1, 2, 3, 4, 5, 6, 9], takes op = true := by decide

theorem witness_CorrelatorFrames_credit : (let s := tick 60000 { grouped 9 2 with edges := [(0, { freshEdge wEdge with freed := 3 })] }
     (look s.edges (edgeKey 0 0)).map (fun y => (y.freed, decide (y.creditAt + 3300 * cfg s 0x600010 0 16 ≤ s.now))) = some (3, true) ∧
     (List.range 1).find? (fun k => ([wEntry 9][k]?).any (fun e => e.op = 9 && e.queue = 0)) = some 0 ∧
     (corOf s 0 0).isSome = true ∧ (corRun s 0 0).map (·.held) = some 0) := by decide

theorem witness_CorrelatorFrames_complete : (let s := tick 500 { grouped 7 1 with
       jobs := [(0, { wJob with cor := [{ freshCor 0 with phase := 1, verdicts := [(1, false)] }] })] }
     (corOf s 0 0).map (fun c => (corIn c s, srcLeft c s, corSent c s)) = some (true, true, true) ∧
     (corRun s 0 0).map (fun r => (r.landed, r.sent)) = some (false, false)) := by decide

theorem test_verdict_kept : (after (.corVerdictFrame 400 wBth { wCor with kind := 7 } true) (grouped 7 1)).bind
    (fun s => (corRun s 0 0).map (·.verdicts)) = some [(1, true)] := by decide

theorem test_verdict_combines : (after (.corOpComplete 500 0 ⟨0, .ok⟩) { grouped 7 1 with
    jobs := [(0, { wJob with cor := [{ freshCor 0 with phase := 1, verdicts := [(1, true)] }] })] }).bind
    (fun s => (look s.jobs 0).map (fun j => (j.verdict, j.cor.map (·.phase)))) = some (some true, [2]) := by decide

/-! ### Host and commands -/

/-- Command 0, of a function's ring 0 for tenant 0, in execution: its opcode and parameters. -/
def wCmd (op p0 p1 p2 p3 len : Nat) : Exec :=
  { hdr := { wHdr with opcode := op, p0, p1, p2, p3, length := len }, fn := if ownerOnly op then 0 else 1, ring := 0, index := 0, tenant := 0, bell := 0,
    started := false, begun := false, mute := false, echo := none, at_ := 0, obj := 0, left := [] }

def withCmd (x : Exec) (f : State → State := id) : State :=
  { f served with cmds := [(0, x)], rings := [(x.fn * 64, resetRing)] }

/-- What a command leaves: its reply's status and echo, in the ring of its function. -/
def replied (c : Instr) (x : Exec) (f : State → State := id) : Option (List (Nat × Nat)) :=
  (after c (withCmd x f)).map (fun s => s.out.filterMap (fun o => match o with
    | .reply _ _ r => some (r.status, r.echo)
    | _ => none))

/-- The premises that every command's clause shares. -/
def mayGo (x : Exec) (f : State → State := id) : Bool :=
  let s := tick 100 (withCmd x f)
  let u := refuseHeaders s
  decide (look s.cmds 0 = some x ∧ look u.cmds 0 = some x) && mayBegin u 0 x && ready u

/-- The command once it has begun, and the state its refusals are judged in. -/
def begunCmd (x : Exec) (f : State → State := id) : Exec :=
  { x with begun := true, at_ := ptpNs (refuseHeaders (tick 100 (withCmd x f))) }

def begunIn (x : Exec) (f : State → State := id) : State :=
  let s := refuseHeaders (tick 100 (withCmd x f))
  openReq x { s with cmds := tput s.cmds 0 (begunCmd x f) }

theorem witness_HostLink : (let s := tick 100 served
     s.pwr.phase ≠ 3 ∧ ready s = true ∧ live s = true ∧ 1 ≤ s.pcie.numVfs ∧ 0 ∉ s.pcie.d3 ∧ linkOk s 1 = true ∧
     hostInUse s 1 0x1000 64 = false ∧ s.pcie.up = true ∧ s.pcie.perst = false) ∧
    (tick 100 { served with pwr := { served.pwr with phase := 3 } }).pwr.phase = 3 ∧
    (let s := tick 100 { served with boot := { served.boot with stage := 6 } }
     ready s = false ∧ s.pcie.up = true ∧ replyLost s 1 = false) ∧
    (let s := tick 100 { served with pcie := { served.pcie with up := false } }
     live s = true ∧ 6 ≤ s.boot.stage ∧ s.pcie.perst = false ∧ s.pcie.up = false ∧ 1 ≤ 6 ∧ 6 ≤ 7 ∧ 16 ∈ [1, 2, 4, 8, 16]) ∧
    (let s := tick 100 { served with pcie := { served.pcie with ide := [(8, 1)], spdm := some 1 } }
     8 < 9 ∧ tget s.pcie.ide 8 0 = 1 ∧ ready s = true ∧ s.pcie.up = true ∧ s.pcie.spdm.isSome = true) := by decide

theorem test_ide_fails : (after (.ideIntegrityFail 100 8) { served with pcie := { served.pcie with ide := [(8, 1)] } }).map
    (fun s => (tget s.pcie.ide 8 0, s.flt.fifo.map (·.source))) = some (2, [0x161]) := by decide

theorem test_vf_enable : (after (.vfEnableSet 100 5000) served).map (fun s => s.pcie.numVfs) = some 4096 := by decide

/-- Ring 0 of PF0 with one command visible. -/
def ringed : State :=
  setRing 0 0 { resetRing with enable := true, sqTail := 1, bells := [(1, 90)], cqBase := 0x1000 } served

theorem witness_CommandRings : (let s := tick 100 ringed
     let u := { s with pcie := { s.pcie with rot := tput s.pcie.rot (fetchClass s 0) 0, visit := 1 } }
     0 < ringCount 0 ∧ memOk s 0 = true ∧ (ringOf s 0 0).enable = true ∧ nextVisit s = some 0 ∧
     visitClass s 0 = fetchClass s 0 ∧ nextPair s (fetchClass s 0) = some (0 * 64 + 0) ∧ s.boot.cpPending = false ∧
     s.pho.queue.length ≤ 61440 ∧ slotHeader u 0 (ringOf s 0 0) none = none ∧
     slotHeader u 0 (ringOf s 0 0) (some wHdr) = some wHdr) ∧
    (let s := tick (usCc 1000 + 100) (setRing 0 0 { resetRing with unsignalled := 1, firstAt := 0, coalUs := 1000 } served)
     (ringOf s 0 0).unsignalled ≠ 0 ∧ (ringOf s 0 0).firstAt + usCc (ringOf s 0 0).coalUs ≤ s.now) ∧
    (let s := tick (msCc 1500) (withCmd (wCmd 0x0801 0 0 0 0 0))
     look s.cmds 0 = some (wCmd 0x0801 0 0 0 0 0) ∧ (wCmd 0x0801 0 0 0 0 0).started = false ∧
     (wCmd 0x0801 0 0 0 0 0).bell + msCc 1500 ≤ s.now) := by decide

theorem test_fetch : (after (.commandFetch 100 0 0 (some wHdr)) ringed).map
    (fun s => (s.cmds.map (fun c => (c.1, c.2.hdr.requestId)), (ringOf s 0 0).sqHead)) = some ([(0, 5)], 1) := by decide

theorem test_doorbell : (after (.sqDoorbell 100 0 0 3) ringed).map (fun s => (ringOf s 0 0).bells) = some [(1, 90), (2, 100)] := by
  decide

/-- Function 1's window starts at the object; a page of it is lost from HBM. -/
def windowed : State := { served with pcie := { served.pcie with windows := [(1, 0x10000)] } }

/-- Two bytes that function 1 writes at the address va, through BAR4. -/
def wHeldTwo (va : Nat) : HeldWrite :=
  { tenant := some 0, slot := 4096, va, data := [1, 2], ecc := .ok, src := some hostBar }

theorem witness_DeviceWindow : (let s := tick 100 windowed
     memOk s 1 = true ∧ memOk s 0 = true ∧ tget s.pcie.windows 1 0 + 0 = 0x10000 ∧ 0 + 8 ≤ barBytes s 1 ∧
     0x10000 + 8 ≤ barBytes s 1 ∧ 0 + 2 ≤ barBytes s 0 ∧
     barPlaces s 0 0x10000 8 false = some [(5 * 65536, 8, 5)] ∧ tenantWaits s 0 0x10000 8 false = false ∧
     barPlaces s 0 0x20000 8 false = none ∧ s.held = [] ∧
     hostMisses s 0 (wHeldTwo 0x10000) = false ∧ heldWaits s (wHeldTwo 0x10000) = false ∧
     hostMisses s 0 (wHeldTwo 0x20000) = true ∧ ownerWaits s 0 2 true = false) ∧
    (let s := tick (msCc 1) { windowed with pcie := { windowed.pcie with reads := [(0, (1, 0, 8, 0))] } }
     look s.pcie.reads 0 = some (1, 0, 8, 0) ∧ 0 + msCc 1 ≤ s.now) ∧
    (let s := tick 11700 { windowed with mer := { windowed.mer with placing := true } }
     tenantWaits s 0 0x10000 8 false = true ∧ hostMisses s 0 (wHeldTwo 0x10000) = false ∧
     heldWaits s (wHeldTwo 0x10000) = true) := by decide

theorem test_bar_write : (after (.bar4Write 100 1 0 ⟨[1, 2], .ok⟩) windowed).map (fun s => hbmRead s (5 * 65536) 2) = some [1, 2] := by decide

theorem test_bar_miss : (after (.bar4Read 100 1 0x10000 4 .ok) windowed).map
    (fun s => (s.out, ctrOf s 0x900108)) = some ([.completion 0 true []], 1) := by decide

/-! ### Commands on memory -/

def wMap : MapBlock :=
  { handle := 0, base := 0x40000, size := 0x10000, page := 0, home := 0, policy := 0, stks := 1, stripe := 1, shelf := 0,
    rights := 0, extra := 0, tag := 0, homeLoc := 0, key := 0, module := 0, peer := 0, desc := none, hash := 0, rsv := 0 }

/-- Tables on stack 1, and a partition with stack 0; object 1 as another tenant's, not mapped here. -/
def tabled (s : State) : State :=
  { s with nextObj := 2, tables := some (2 ^ 31, 2), tenants := [(0, { wTenant with stks := 1, hostLen := 1 })] }

def unmapped (s : State) : State := { tabled s with objs := [(1, { wObj with maps := [] })] }

def wPage : EphEntry :=
  { seg := 0, armCc := 1, object := 1, page := 0, pages := 1, src := 1, dst := 0, priv := false, pin := false, sig := false,
    sync := 0, dlCc := 2, dlSegs := 0, rsv := 0 }

/-- Object 1 under the policy EPHEMERIS, home in host memory. -/
def paged (s : State) : State :=
  { tabled s with objs := [(1, { wObj with policy := 2, home := 1 })], frames := [(5, freshFrame 2 1 0 0)] }

/-- Page 0 of it is being promoted. -/
def promoting (s : State) : State := { paged s with frames := [(5, freshFrame 3 1 0 0)] }

def noJobs (f : State → State) (s : State) : State := { f s with jobs := [] }

theorem witness_MemoryCommands_tables : (let x := wCmd 0x0301 0 1 0 0 0
     let u := begunIn x
     let least := frameTableBytes u + vaultMapBytes u + 64 * 2 ^ 20
     let bytes := clampNat least (max least (offeredFrames u * 65536 / 4)) x.hdr.p0
     let mask := stacksOf u (x.hdr.p1 % 4096)
     let v := { u with tables := some (bytes, mask), flt := { u.flt with ringSet := true } }
     mayGo x = true ∧ u.tables = none ∧ maskStacks mask = [0] ∧ tableRun v 0 ≤ frameLimit) ∧
    (∀ f ∈ heldFrames (begunIn (wCmd 0x0301 0 2 0 0 0) (fun s => { s with frames := [] })) 1, 16384 ≤ f.1) := by decide

theorem witness_MemoryCommands_maps : (let x := wCmd 0x0302 0 0 0 0 256
     let u := begunIn x tabled
     mayGo x tabled = true ∧ blockOk u (begunCmd x tabled) = true ∧ mapBlockBad (begunCmd x tabled) wMap = false ∧ wMap.handle = 0 ∧ bitOf wMap.extra 1 = false ∧
     mapReason u 0 { wTenant with stks := 1, hostLen := 1 } wMap = none ∧
     (homeFrames (newObject 0 wMap (stacksOf u (wMap.stks % 4096)) 1 0 wMap.homeLoc) u.nextObj 1 u).isSome = true ∧
     mapReason u 0 { wTenant with stks := 1, hostLen := 1 } { wMap with policy := 3 } = some 0x15 ∧
     mapBlockBad (begunCmd x tabled) { wMap with policy := 3 } = false) ∧
    (let x := wCmd 0x0302 0 0 0 0 256
     let s0 := tick 100 (withCmd x unmapped)
     let v := refuseHeaders (modCmd 0 (fun z => if z.begun then z else { z with obj := 1 }) s0)
     let x' := { x with obj := 1 }
     let z := { x' with begun := true, at_ := ptpNs v }
     let w := openReq x' { v with cmds := tput v.cmds 0 z }
     let f := { w with free := w.free + 1 }
     let te := { wTenant with stks := 1, hostLen := 1 }
     let o := { wObj with maps := [] }
     let b := { wMap with handle := 1, base := 0x10000 }
     look v.cmds 0 = some x' ∧ mayBegin v 0 x' = true ∧ look w.tenants 0 = some te ∧ te.destroying = false ∧
     blockOk w z = true ∧ mapBlockBad z b = false ∧ mapBlockBad z { b with extra := 2 } = false ∧ look w.objs 1 = some o ∧
     remapReason w 0 te o b = none ∧ remapReason w 0 te o { b with extra := 2 } = none ∧ seals s0 b = false ∧
     seals s0 { b with extra := 2 } = true ∧ holdsScales f 1 none = false) := by decide

-- The hash of the block is the one the object's contents give.
theorem witness_MemoryCommands_hash : let f := { begunIn (wCmd 0x0302 0 0 0 0 256) unmapped with free := 1 }
    let o := { wObj with maps := [] }
    objHash f o = { wMap with handle := 1, extra := 2, hash := objHash f o }.hash := rfl

theorem witness_MemoryCommands_pages : (let x := wCmd 0x0303 1 0 0 0 0
     let u := begunIn x paged
     mayGo x paged = true ∧ (look u.objs 1).isSome = true ∧ ((look u.objs 1).bind (fun o => mapOf o 0)).isSome = true ∧
     segmentLists u 1 0 = false ∧ holdsScales u 1 (some 0) = false ∧ movingPages u 1 = [] ∧
     movingPages (begunIn x promoting) 1 = [0]) ∧
    (let x := { wCmd 0x0303 1 0 0 0 0 with begun := true }
     mayGo x paged = true ∧ movingPages (tick 100 (withCmd x paged)) 1 = []) ∧
    (let o := { wObj with policy := 2, home := 1 }
     let u := begunIn (wCmd 0x0304 1 0 2 0 0) paged
     look u.objs 1 = some o ∧ mayGo (wCmd 0x0304 1 0 2 0 0) paged = true ∧ pageRun o 0 2 = some [0, 1] ∧ o.policy ≠ 0 ∧
     look o.loc 1 = none ∧ bits (2 ^ 32 + 2) 32 3 = o.home ∧ bits (2 ^ 32 + 2) 0 32 = 2 ∧ bits 2 32 3 = 0 ∧ bitOf 2 40 = false ∧
     mayGo (wCmd 0x0305 1 0 2 0 0) paged = true ∧ mayGo (wCmd 0x0306 1 0 2 0 0) paged = true ∧
     mayGo (wCmd 0x0307 0x10000 0 0 0 0) paged = true) := by decide

theorem witness_MemoryCommands_rest : (let x := wCmd 0x0401 1 0 1 0 256
     let u := begunIn x (noJobs paged)
     mayGo x (noJobs paged) = true ∧ blockOk u (begunCmd x (noJobs paged)) = true ∧ (look u.plans 1).map (·.tenant) = some 0 ∧ planRuns u 1 = false ∧
     clampNat 1 (min 65536 (256 / 32)) 1 = 1 ∧ firstBad ([wPage].map (fun e => (ephReason u 0 2 e).toList)) = none) ∧
    (let f := fun (s : State) => { s with regions := [], regionCap := 4 }
     let x := wCmd 0x0502 0 0 0 0 256
     let u := begunIn x f
     mayGo x f = true ∧ blockOk u (begunCmd x f) = true ∧ regionBad u 0 { wRegion with trig := false } = false ∧ freeRegion u = some 1 ∧
     mayGo (wCmd 0x0501 4 0 0 0 0) f = true ∧ ∀ r ∈ u.regions, r.2.valid = false) ∧
    (let u := begunIn (wCmd 0x0503 0x100 0 0 0 0)
     mayGo (wCmd 0x0503 0x100 0 0 0 0) = true ∧ look u.regions (0x100 / 256) = some (wReg wRegion) ∧
     (wReg wRegion).valid = true ∧ (wReg wRegion).revoking = false ∧ (wReg wRegion).gen = 0x100 % 256) := by decide

theorem test_map : replied (.objMap 100 0 wMap) (wCmd 0x0302 0 0 0 0 256) tabled = some [(0, 2)] := by decide

theorem test_map_refused : replied (.objMap 100 0 { wMap with policy := 3 }) (wCmd 0x0302 0 0 0 0 256) tabled =
    some [(0x17, 0xFFFFFFFF00000015)] := by decide

theorem test_register : replied (.rgnRegister 100 0 { wRegion with trig := false }) (wCmd 0x0502 0 0 0 0 256)
    (fun s => { s with regions := [], regionCap := 4 }) = some [(0, 0x100)] := by decide

theorem test_pin : (after (.objPin 100 0) (withCmd (wCmd 0x0305 1 0 1 0 0) paged)).map
    (fun s => (look s.objs 1).map (fun o => o.maps.map (·.pins))) = some (some [[0]]) := by decide

/-! ### Commands on plans, jobs, tenants and records -/

/-- Core 0 is enabled and in tenant 0's partition, and no job runs. -/
def cored (s : State) : State :=
  { s with
    cores := [(0, { coreOf s 0 with enabled := true })], jobs := []
    tenants := [(0, { wTenant with cores := 1, stks := 1, hostLen := 1 })] }

/-- A plan whose one thread ends, loaded or not; a scale table. -/
def wEnds : PlanImage :=
  { wProgram [iw 5 0x02 0] with sections := [⟨1, 0, 0⟩, ⟨2, 0, 0⟩], segments := [{ wSegment with milestones := [] }] }

def planned (s : State) : State :=
  { cored s with
    plans := [(1, { tenant := 0, image := wEnds, eph := [], status := 0 })]
    objs := [(1, { wObj with loc := [(0, 5), (1, 6)] })] }

def wStart : JobBlock := { wBlock with jobId := 9, wrEntries := 0, scale := 0x10000 }

def strictly (s : State) : State := { s with tenants := [(0, { wTenant with strict := true, power := 100 })], jobs := [] }

theorem witness_JobCommands_plans : (let x := wCmd 0x0101 0 0 0 0 64
     let u := begunIn x cored
     mayGo x cored = true ∧ blockOk u (begunCmd x cored) = true ∧ wEnds.magic = 0x4C505850 ∧ wEnds.version = 1 ∧ wEnds.rsv = 0 ∧ wEnds.length ≤ 64 ∧
     planRefusal u 0 wEnds = none ∧ wordsFit u wEnds = true ∧ planRefusal u 0 { wEnds with period := 27 } = some (1, 0, 0xFFFFFFFF)) ∧
    (mayGo (wCmd 0x0102 1 0 0 0 0) planned = true ∧ planRuns (begunIn (wCmd 0x0102 1 0 0 0 0) planned) 1 = false) := by decide

theorem witness_JobCommands_starts : (let x := wCmd 0x0201 0 0 0 0 128
     let u := begunIn x planned
     let v := clampedBack (begunCmd x planned) wStart (clampBlock wStart) u
     mayGo x planned = true ∧ rollsForward (tick 100 (withCmd x planned)) 0 9 = false ∧ blockOk u (begunCmd x planned) = true ∧ wStart.flags < 4 ∧ wStart.rsv = 0 ∧
     startReason v 0 wEnds (clampBlock wStart) = none ∧ startReason v 0 wEnds (clampBlock { wStart with sync0 := 1 }) = some 0x0D) ∧
    (mayGo (wCmd 0x0202 0 0 0 0 0) = true ∧ look (begunIn (wCmd 0x0202 0 0 0 0 0)).jobs 0 = some wJob ∧
     bitOf 0 16 = false ∧ bitOf 0x10000 16 = true ∧ mayGo (wCmd 0x0801 0 0 0 0 0) = true ∧ wJob.segs ≠ 0) := by decide

theorem witness_JobCommands_tenants : mayGo (wCmd 0x0601 7 0 0 0 0) = true ∧ look served.tenants 7 = none ∧
    mayGo (wCmd 0x0602 0 0 0 0 0) = true ∧ look served.tenants 0 = some wTenant ∧
    (let u := begunIn (wCmd 0x0701 0 1 1 0 0)
     mayGo (wCmd 0x0701 0 1 1 0 0) = true ∧ bits 1 12 4 = 0 ∧ partitionBad u 0 wTenant 1 1 0 = false ∧
     partitionBusy u 0 wTenant 1 1 0 = false ∧ partitionBad u 0 wTenant 1 1 5 = true) ∧
    mayGo (wCmd 0x0702 0 50 0 0 0) = true ∧ wTenant.strict = false ∧ mayGo (wCmd 0x0702 0 50 0 0 0) strictly = true ∧
    (∀ j ∈ (begunIn (wCmd 0x0702 0 50 0 0 0) strictly).jobs, j.2.tenant ≠ 0) := by decide

theorem test_plan_load : replied (.planLoad 100 0 wEnds) (wCmd 0x0101 0 0 0 0 64) cored = some [(0, 1)] := by decide

theorem test_plan_period : replied (.planLoad 100 0 { wEnds with period := 27 }) (wCmd 0x0101 0 0 0 0 64) cored =
    some [(0x17, 0xFFFFFFFF00000001)] := by decide

theorem test_start : (after (.jobStart 100 0 wStart) (withCmd (wCmd 0x0201 0 0 0 0 128) planned)).map
    (fun s => s.jobs.map (fun j => (j.1, j.2.id, j.2.phase))) = some [(0, 9, 0)] := by decide

theorem test_partition : replied (.partition 100 0) (wCmd 0x0701 0 1 1 0 0) = some [(0, 1)] := by decide

def wImage : Image := { type := 2, svn := 0, bodyLen := 0, keySlot := some 0, sigOk := true, hashOk := true, digest := 7 }

theorem witness_RecordCommands : mayGo (wCmd 0x0901 0 1 0x10000 0 0) = true ∧ mayGo (wCmd 0x0A01 7 0x10000 0 0 0) = true ∧
    mayGo (wCmd 0x0B01 0 0x10000 0 0 32) = true ∧ blockOk (begunIn (wCmd 0x0B01 0 0x10000 0 0 32)) (begunCmd (wCmd 0x0B01 0 0x10000 0 0 32)) = true ∧
    mayGo (wCmd 0x0F01 0 1 0 0 0) = true ∧ mayGo (wCmd 0x0C01 2 0 0 0 4) = true ∧
    blockOk (begunIn (wCmd 0x0C01 2 0 0 0 4)) (begunCmd (wCmd 0x0C01 2 0 0 0 4)) = true ∧ mayGo (wCmd 0x0C02 2 0 0 0 0) = true ∧
    (let u := begunIn (wCmd 0x0D01 0 0x04 0 0 0) cored
     mayGo (wCmd 0x0D01 0 0x04 0 0 0) cored = true ∧ sliceKind 0x04 = some .core ∧ inService 0x04 = true ∧
     blockBusy u .core (nearBlock u .core 0 % 256) = false ∧ u.boot.slices = []) ∧
    (holdsBlock 0x40 = false ∧ sliceKind 0x40 = some .meter ∧ inService 0x40 = true) ∧
    (let u := begunIn (wCmd 0x0E01 1 0 0 0 0) cored
     mayGo (wCmd 0x0E01 1 0 0 0 0) cored = true ∧ bits 0 16 4 ≤ 6 ∧ bits (9 * 2 ^ 16) 16 4 = 9 ∧
     blockBusy u (catKind 0) (nearBlock u (catKind 0) 0 % 256) = false ∧ u.boot.slices = [] ∧
     mayGo (wCmd 0x0E01 2 0 0 0 0) cored = true) := by decide

theorem test_slice_requested : (after (.selftest 100 0) (withCmd (wCmd 0x0D01 0 0x04 0 0 0) cored)).map
    (fun s => s.boot.slices) = some [{ slice := 0x04, inst := 0, cmd := 0, at_ := none }] := by decide

/-! ### Power, heat, records -/

def inPwr (f : Power → Power) (s : State := up) : State := { s with pwr := f s.pwr }

def held (k since : Nat) (phase : Nat) : State := inPwr (fun p => { p with phase, volts := [(k, (since, 5))] })

theorem witness_PowerInput : (let s := tick 100 (inPwr (fun p => { p with phase := 1, volts := nextVolts 39000 90 [] }))
     let u := fun mv => { s with pwr := { s.pwr with volts := nextVolts mv s.now s.pwr.volts } }
     s.pwr.phase = 1 ∧ look (u 39000).pwr.volts 0 = none ∧ crossed (u 39000) 4 = true ∧ crossed (u 48000) 4 = false) ∧
    (let s := tick 100 (inPwr (fun p => { p with phase := 1, volts := nextVolts 81000 90 [] }))
     s.pwr.phase = 1 ∧ look { s with pwr := { s.pwr with volts := nextVolts 81000 s.now s.pwr.volts } }.pwr.volts 0 = some (90, 2)) ∧
    (∀ ph ∈ [0, 1, 2, 3, 4, 5], (tick 100 (inPwr (fun p => { p with phase := ph }))).pwr.phase = ph) ∧
    (let s := tick (msCc 200) (held 1 0 2)
     regions s = true ∧ heldFor s 1 (msCc 100 + 1) = true) ∧
    (let s := tick (msCc 200) (held 2 0 2)
     regions s = true ∧ heldFor s 2 (msCc 20 + 1) = true) ∧
    (let s := tick (msCc 200) (inPwr (fun p => { p with sag := true, volts := [(7, (0, 5))] }))
     s.pwr.sag = true ∧ heldFor s 7 (msCc 1) = true) ∧
    (tick 100 State.reset).pwr.charged = none ∧
    (let s := tick (msCc 200) (inPwr (fun p => { p with volts := [(5, (0, 5))], charged := some 100 }) State.reset)
     s.pwr.phase = 0 ∧ s.pwr.latched = false ∧ heldFor s 5 (msCc 100) = true ∧ s.pwr.charged = some 100 ∧
     100 + msCc 100 ≤ s.now) ∧
    (let s := tick (msCc 200) (inPwr (fun p => { p with volts := [(4, (0, 5))], latched := true }) State.reset)
     s.pwr.latched = true ∧ heldFor s 4 (msCc 10) = true) ∧
    (let s := tick (msCc 200) (held 6 0 1)
     s.pwr.phase = 1 ∧ heldFor s 6 (msCc 10) = true) ∧
    (let s := tick (msCc 200) (inPwr (fun p => { p with phase := 3, stopAt := 0 }))
     s.pwr.phase = 3 ∧ s.pwr.stopAt + msCc 2 ≤ s.now) := by decide

theorem test_uvlo_release : (after (.uvloRelease (msCc 200)) (inPwr (fun p => { p with
    volts := [(5, (0, 5))], charged := some 100 }) State.reset)).map (fun s => s.pwr.phase) = some 1 := by decide

theorem test_two_low_samples : (after (.voltageSample 100 39000 0)
    (inPwr (fun p => { p with phase := 1, volts := nextVolts 39000 90 [] }))).map (fun s => s.pwr.phase) = some 0 := by decide

theorem test_supply_loss : (after (.supplyLoss 100) (prog [])).map (fun s => (s.jobs, s.sregs, s.pwr.phase)) =
    some ([], [], 0) := by decide

/-- A strict tenant 3 with 1,000 W and core 0. -/
def strictOne : State :=
  { up with tenants := [(3, { wTenant with strict := true, power := 1000, cores := 1 })], cores := [(0, coreOf up 0)] }

theorem witness_GrantsAndHeat : (let s := tick 128 { prog [] with tenants := [] }
     live s = true ∧ regions s = true ∧ (s.now - s.mer.at_) % 64 = 0 ∧ hasSensor s 0 = true ∧ hasSensor s 79 = true) ∧
    (let s := tick 5000 { strictOne with pwr := { strictOne.pwr with ctlAt := some 1700, ceilAt := none } }
     live s = true ∧ spaced s.pwr.ctlAt 3300 s.now = true ∧ spaced s.pwr.ceilAt 330000 s.now = true ∧
     s.tenants = [(3, { wTenant with strict := true, power := 1000, cores := 1 })] ∧ 0 < 1000) := by decide

theorem test_grant_sag : (after (.grantFrame 128) { prog [] with pwr := { (prog []).pwr with sag := true } }).map
    (fun s => (coreOf s 0).grant) = some 16 := by decide

theorem test_throttle : (after (.thermalCeilingStep 128) { prog [] with pwr := { (prog []).pwr with hot := [0] } }).map
    (fun s => (coreOf s 0).ceiling) = some 63 := by decide

theorem test_hot_core : (after (.thermalSample 100 0 950) up).map
    (fun s => (s.pwr.hot, s.flt.fifo.map (·.source))) = some ([0], [0x1A4]) := by decide

def wReceipt : Receipt :=
  { account := 1, seq := 3, meta_ := 0, unc := 0, id := 5, tStart := 0, tEnd := 9, eDirect := 1, eShared := 2, eIdle := 3,
    fwm := 0, prev := 0, sig := 0 }

def wNote : Entry :=
  { seq := 4, time := 0, mer := 0, cc := 0, source := 0x1A6, cls := 3, flags := 0, inst := 0, jobId := 0, slot := 0,
    tenant := 0, coalesced := 0, quar := 0, detail := 0 }

def wQuar : Quar := { state := 1, source := 0x020, inst := 0, until_ := 90, seq := 4 }

def recorded : State :=
  { up with
    pho := { up.pho with queue := [wReceipt], accounts := [(1, freshAccount)] }
    flt := { up.flt with ringSet := true, fifo := [{ wNote with cls := 1 }], quars := [(63, wQuar)] }
    pcie := { up.pcie with up := true, perst := false } }

theorem witness_ReceiptsAndLog : (let s := tick 100 recorded
     s.pho.queue = wReceipt :: [] ∧ live s = true ∧ receiptRoom s = true ∧ wReceipt.seq % 65536 ≠ 0 ∧
     look s.pho.accounts 1 = some freshAccount ∧ spaced freshAccount.checkAt (msCc 600000) s.now = true ∧
     look s.flt.quars 63 = some wQuar ∧ wQuar.state = 1 ∧ wQuar.until_ ≤ s.now ∧
     barServed s = true ∧ 63 < 64 ∧ s.flt.fifo = { wNote with cls := 1 } :: [] ∧ s.flt.ringSet = true ∧
     drainOpen s { wNote with cls := 1 } = true ∧ needsBeacon s { wNote with cls := 1 } = false) ∧
    (let s := tick 100 { up with flt := { up.flt with fifo := [wNote] } }
     s.flt.fifo.find? (needsBeacon s) = some wNote ∧ live s = true ∧ s.mgt.q1.length < 32) ∧
    (let s := tick 100 (inPwr (fun p => { p with phase := 4 }) recorded)
     s.pwr.phase = 4 ∧ look s.flt.quars 63 = some wQuar ∧ wQuar.until_ ≤ s.now) := by decide

theorem test_window_ends : (after (.ackWindowExpiry 100 63) recorded).map
    (fun s => ((look s.flt.quars 63).map (·.state), s.flt.fifo.map (·.source))) = some (some 3, [0x1A6, 0x001]) := by decide

theorem test_beacon : (after (.beaconGenerate 100) { up with flt := { up.flt with fifo := [wNote] } }).map
    (fun s => (s.mgt.q1, s.flt.beacons)) = some ([.beacon 1 wNote], 5) := by decide

/-! ### Bring-up, firmware, registers -/

def stageAt (n : Nat) (f : State → State := id) : State :=
  f { State.reset with now := 100, pwr := { Power.reset with phase := 2 }, boot := { Boot.reset with stage := n } }

theorem witness_BringUp : (∀ n ∈ [1, 2, 3, 4, 5, 6, 7], let s := tick 100 (stageAt n)
     live s = true ∧ s.boot.stage = n) ∧
    (let u := { tick 100 (stageAt 2) with boot := { (tick 100 (stageAt 2)).boot with seOk := true } }
     (chosenCopy u 1).isSome = true) ∧
    (let u := { stageAt 2 with alm := { (stageAt 2).alm with images := [] } }
     chosenCopy u 1 = none ∧ chosenCopy u 2 = none) ∧
    (stageAt 3 (fun s => { s with alm := { s.alm with field := { s.alm.field with seq := 1 } } })).alm.field.seq ≠ 0 ∧
    (let s := stageAt 4
     (chosenCopy s 2).isSome = true ∧ ∀ x y, chosenCopy s 2 = some x →
       let u := useImage 2 x s
       let v := { useImage 3 y u with stks := tmap u.stks (fun _ k => { k with micro := y.2.digest }) }
       chosenCopy u 3 = some y → (chosenCopy u 3).isSome = true ∧ v.alm = v.alm) ∧
    (stageAt 7).mer.placing = false ∧ (stageAt 7 (fun s => { s with mer := { s.mer with placing := true } })).mer.placing = true ∧
    (let s := tick (msCc 1000) (stageAt 3 (fun s => { s with
       pwr := { s.pwr with phase := 5 }, boot := { s.boot with cause := some 0x84 } }))
     s.boot.cause = some 0x84 ∧ s.pwr.phase = 5 ∧ s.pwr.stopAt + msCc 1000 ≤ s.now) ∧
    (let run := { slice := 0x02, inst := 0, cmd := 3, at_ := some 50 : SliceRun }
     let s := tick 100 { up with cores := [(0, { coreOf up 0 with enabled := true })], boot := { up.boot with slices := [run] } }
     run.at_ = some 50 ∧ s.boot.slices.find? (fun y => y.slice = 0x02 && y.inst = 0 && y.at_.isSome) = some run ∧
     sliceFails s 0x02 0 { bad := [] } = [] ∧ s.now ≤ 50 + sliceBudget 0x02 ∧ sliceFails s 0x02 0 { bad := [11] } = [11] ∧
     blockRetired s 0x02 0 = false ∧ (∀ k ∈ sliceFails s 0x02 0 { bad := [11] }, inQuarantine (sliceEv 0x02 0 k) s = false) ∧
     inQuarantine (sliceEv 0x02 0 0) s = false ∧ 50 + sliceBudget 0x02 ≤ (tick (50 + msCc 2) s).now) ∧
    blockRetired (tick 100 { up with cores := [(0, { coreOf up 0 with retired := true })] }) 0x02 0 = true ∧
    (let f := { FieldPart.built 0xFFFF with seq := 9 }
     let s := tick (msCc 80) { up with boot := { up.boot with writing := some f } }
     s.boot.writing = some f ∧ 2 ≤ s.pwr.phase ∧ s.boot.writeAt + msCc 80 ≤ s.now) := by
  refine ⟨by decide, by decide, by decide, by decide, ⟨by decide, ?_⟩, by decide⟩
  intro x y _ _ _ h
  exact ⟨by rw [h]; rfl, rfl⟩

/-- The images of the module as built are all accepted, one after the other. -/
theorem witness_BringUp_images : (let s := stageAt 4
     (chosenCopy s 2).any (fun x => (chosenCopy (useImage 2 x s) 3).any (fun y =>
       let u := useImage 2 x s
       (chosenCopy { useImage 3 y u with stks := tmap u.stks (fun _ k => { k with micro := y.2.digest }) } 4).isSome))) = true := by
  decide

theorem test_rails_fail : (after (.bringupRails 100 false) (stageAt 1)).map (fun s => (s.pwr.phase, s.boot.cause)) =
    some (5, some 0x81) := by decide

theorem test_no_cp_image : (after (.bringupImages 100) (stageAt 4 (fun s => { s with alm := { s.alm with images := [] } }))).map
    (fun s => s.boot.cause) = some (some 0x85) := by decide

theorem test_slice_fails : (after (.sliceComplete 100 0x02 0 0 { bad := [11] })
    { up with cores := [(0, coreOf up 0)], boot := { up.boot with slices := [{ slice := 0x02, inst := 0, cmd := 3, at_ := some 50 }] } }).map
    (fun s => (s.boot.slices, ctrOf s 0xB10200, ctrOf s 0xB10204, s.flt.fifo.map (·.source))) = some ([], 1, 1, [0x1D0]) := by decide

def openFw (x : Session) (s : State := up) : State := { s with act := [(0x23000, 1)], fw := [(2, x)] }

def recovering (x : Session) : State :=
  openFw x { up with pwr := { up.pwr with phase := 5 }, boot := { up.boot with cause := some 0x85 } }

theorem witness_Firmware : (let s := tick 100 (openFw { freshSession with writing := 1, pendBytes := 4, cmd := some 3 })
     mgtOpen s 2 = true ∧ mgtOpen (bump 0x71A044 32 1 s) 2 = true ∧ recovery (bump 0x71A044 32 1 s) 2 = false ∧ (sessionOf s 2).writing = 1 ∧ askerOf (sessionOf s 2) = some (.cmd 3) ∧
     s.pwr.phase = 2 ∧ s.boot.writing = none) ∧
    (MgtHead.mk 9 true).bad = true ∧ imageType 2 = 2 ∧ imageRsv 2 = false ∧ 1 ≤ [0x55#8].length ∧ [0x55#8].length ≤ 1024 ∧ imageType 0 = 0 ∧
    imageRsv 18 = true ∧ 1 ≤ imageType 18 ∧ imageType 18 ≤ 4 ∧
    (let s := tick 100 (openFw { freshSession with state := 1, bytes := 8 })
     mgtOpen s 2 = true ∧ (sessionOf s 2).state ≠ 2 ∧ (4 : Nat) ≠ (sessionOf s 2).bytes ∧ (sessionOf s 2).bytes = 8 ∧
     (sessionOf s 2).writing = 0) ∧
    (let s := tick 100 (openFw { freshSession with state := 2 })
     mgtOpen s 2 = true ∧ (sessionOf s 2).state = 2) ∧
    (let s := tick 100 (recovering { freshSession with state := 1, bytes := 256 })
     let u := bump 0x71A044 32 1 s
     mgtOpen s 2 = true ∧ recovery u 2 = true ∧ accepted u 2 { wImage with sigOk := false } = false ∧ (sessionOf u 2).state ≠ 0 ∧
     (sessionOf u 2).writing = 0 ∧ 256 + wImage.bodyLen ≤ (sessionOf u 2).bytes ∧ s.pwr.phase = 5 ∧ accepted u 2 wImage = true) ∧
    (let s := tick 100 (openFw { freshSession with state := 1, writing := 2, img := some wImage })
     (sessionOf s 2).writing = 2 ∧ (sessionOf s 2).img = some wImage ∧ (sessionOf s 2).commit = false) := by decide

theorem test_fw_staged : (after (.imageWriteComplete 100 2)
    (openFw { freshSession with writing := 1, pendBytes := 4, mgt := some (1, 9, 2) })).map
    (fun s => ((sessionOf s 2).bytes, s.mgt.q4)) = some (4, [.fwReply 0x81 9 2 0 4]) := by decide

theorem test_fw_query : (after (.mgtFwQuery 100 ⟨9, false⟩ 2) (openFw { freshSession with state := 1, bytes := 77 })).map
    (fun s => s.mgt.q4) = some [.fwReply 0x83 9 2 0 77] := by decide

/-- A module whose BAR0 is served. -/
def served0 : State := { up with pcie := { up.pcie with up := true, perst := false } }

theorem witness_Registers : (let s := tick 100 served0
     barServed s = true ∧ target s 0x10010 = some 0x10010 ∧ commitOf 0x10010 = some 0 ∧ pairOfHi 0x10010 = none ∧
     hiOf 0x10010 = none ∧ target s 0x10000 = some 0x10000 ∧ groupOf 0x10000 = some 0 ∧ pairOfHi 0x10000 = none ∧
     target s 0x1000C = some 0x1000C ∧ pairOfHi 0x1000C = some 0x10008 ∧ target s 0x900184 = some 0x900184 ∧
     isStatus s 0x900184 = true ∧ target s 0x10034 = some 0x10034 ∧ ownRow s 0x10034 = false ∧ target s 0xFFFFFFFC = none) ∧
    target (tick 100 served0) 0x18010 = none := by decide

theorem test_commit_arms : (after (.commitGroupMemberWrite 100 0x10000 30) served0).map (fun s =>
    ((groupSt s 0).state, (after (.commitRegisterWrite 100 0x10010 1) s).map (fun u => (groupSt u 0).state))) =
    some (1, some 2) := by decide

theorem test_w1c : (after (.irqStatusW1c 200 0x900184 1) (irqSet 0x900184 3 served0)).map (fun s => regA s 0x900184) = some 2 := by
  decide

theorem test_reads_counter : (after (.registerPairLoRead 100 0x900108) (bump 0x900108 32 1 served0)).map
    (fun s => s.readData) = some 1 := by decide

theorem witness_StatusBits : bitOf 4 2 = true := by decide

theorem witness_IdleAndClock : Quiet 100 up ∧ State.reset.pending = [] ∧ 100 ≤ up.now := by
  unfold Quiet
  decide

theorem witness_LogCodes : 1 ≤ 1 ∧ 126 ≤ 126 ∧ 1 ≤ 32766 := by decide

theorem witness_RoundTrip : (fmtL8 = fmtL4 ∨ fmtL8 = fmtL8 ∨ fmtL8 = fmtL16) ∧ 255 < 2 ^ fmtL8.width ∧ 65535 < 2 ^ 16 := by decide

theorem witness_ThreadFrame : (after (.add (at100 (iw 2 0x01 (fS 4 1 2 false false 0)))) (prog [iw 2 0x01 (fS 4 1 2 false false 0)])).isSome = true := by
  decide

theorem witness_EveryStepKeeps : Canonical State.reset ∧ step State.reset = .next State.reset := by
  refine ⟨?_, rfl⟩
  unfold Canonical
  decide

/-! ### Instructions of the V format (R146 to R152) -/

/-- Lane 0 of some vector registers of the thread. -/
def lanes (vs : List (Nat × W32)) (s : State) : State := { s with vregs := vs.map (fun x => (x.1 * 256, x.2)) }

/-- Lane 0 of v4 after an instruction on v1, v2 and v3, scalar s5. -/
def v4 (c : Issue → Instr) (op fmt tf : Nat) (a b d : W32) : Option W32 :=
  vres c (iw 1 op (fV fmt tf 0 4 1 2 3 5)) 4 0 (lanes [(1, a), (2, b), (3, d)])

theorem test_vadd_wraps : v4 .vadd 0x01 4 0 0xFFFFFFFF 3 0 = some 2 := by decide

theorem test_vsub_x32 : v4 .vsub 0x02 3 0 0x40600000 0x40000000 0 = some 0x40400000 := by decide +kernel

theorem test_vmul_l16 : v4 .vmul 0x03 2 0 0x4200 0xC400 0 = some 0xC600 := by decide

theorem test_vmul_x32 : v4 .vmul 0x03 3 0 0x40600000 0x40400000 0 = some 0x40A00000 := by decide +kernel

theorem test_vfma : v4 .vfma 0x04 3 0 0x40600000 0x40400000 0x40000000 = some 0x40B00000 := by decide +kernel

theorem test_vmax_signed : v4 .vmax 0x05 4 0 0xFFFFFFFF 3 0 = some 3 := by decide

theorem test_vmin_signed : v4 .vmin 0x06 4 0 0xFFFFFFFF 3 0 = some 0xFFFFFFFF := by decide

theorem test_vabs : v4 .vabs 0x07 3 0 0xC0000000 0 0 = some 0x40000000 := by decide

theorem test_vneg : v4 .vneg 0x08 3 0 0x40000000 0 0 = some 0xC0000000 := by decide

theorem test_vcvt_exact : v4 .vcvt 0x09 1 2 0x41 0 0 = some 0x4040 := by decide

theorem test_vsel_zero : v4 .vsel 0x0D 4 0 7 9 0 = some 9 := by decide

theorem test_vcmplt : v4 .vcmplt 0x0E 3 0 0xC0000000 0x40000000 0 = some 0x40000000 := by decide

theorem test_vrecip_l16 : v4 .vrecip 0x14 2 0 0x4200 0 0 = some 0x3E00 := by decide

theorem test_vrsqrt_l16 : v4 .vrsqrt 0x15 2 0 0x4400 0 0 = some 0x3E00 := by decide

theorem test_vmov_zero : v4 .vmov 0x17 3 0 0x00000005 0 0 = some 0 := by decide +kernel

theorem test_vextr : (after (.vextr (at100 (iw 1 0x0C (fV 4 0 0 0 1 0 0 6)))) (lanes [(1, 0xFFFFFFFE)]
    (prog [iw 1 0x0C (fV 4 0 0 0 1 0 0 6)]))).map (fun s => (sreg s 0 6).toNat % 2 ^ 32) = some 0xFFFFFFFE := by decide

/-! ### Ill-formed commands -/

def wLink : LinkConf := ⟨false, { payload := 2, readReq := 5, ats := [], bar4 := [], masked := [] }⟩

def wTx : HostTx :=
  { flags := 0, port := 0, length := 64, pcp := 0, dscp := 0, ecn := 0, mac := 0, srcMac := 0, vid := none, etherType := 0,
    ipSrc := 0, ipDst := 0, hop := 0 }

theorem test_wf_job_slots : (([.jobDeadline 0 4096, .seStream 0 4096 0, .seAccum 0 4096 ⟨0, .ok⟩, .seUpdate 0 4096 ⟨0, .ok⟩,
     .sePack 0 4096 ⟨0, .ok⟩, .seUnpack 0 4096 ⟨0, .ok⟩, .seZero 0 4096 0, .ephEntryArm 0 4096 0,
     .ephDeadlineFallback 0 4096 0, .ephPageFail 0 4096 0 0, .allreduce 0 4096 0, .reduceScatter 0 4096 0,
     .allgather 0 4096 0, .alltoall 0 4096 0, .permute 0 4096 0, .ringRotate 0 4096 0, .verdict 0 4096 0,
     .qsend 0 4096 0, .qrecv 0 4096 0, .corOpComplete 0 4096 ⟨0, .ok⟩, .creditRepeat 0 4096 0,
     .phaseDemandUpdate 0 4096 0 []] :
    List Instr).all (fun c => !c.wf)) = true := by decide

theorem test_wf_halfwords : (([.slipRequestReceive 0 0 65536 0 0 0 0 ⟨26, 1⟩, .jobAbortReceive 0 65536 0, .txRingDoorbell 0 65536 [],
     .puTailWrite 0 65536, .sqDoorbell 0 0 0 65536, .cqHeadWrite 0 0 0 65536, .sliceComplete 0 0 65536 0 {},
     .sliceBudgetExpiry 0 0 65536] :
    List Instr).all (fun c => !c.wf)) = true := by decide

theorem test_wf_modules : (([.slipRequestReceive 0 0 0 4096 0 0 0 ⟨26, 1⟩, .jobAbortReceive 0 0 4096] :
    List Instr).all (fun c => !c.wf)) = true := by decide

theorem test_wf_sync_objects : (([.triggerFire 0 8192 0 ⟨[], .ok⟩, .sync 0 wBth 0 8192 0 0 0] :
    List Instr).all (fun c => !c.wf)) = true := by decide

theorem test_wf_packet_headers : (([.corDataGranule 0 { wBth with psn := 2 ^ 24 } wCor none ⟨[], .ok⟩,
     .corVerdictFrame 0 { wBth with psn := 2 ^ 24 } wCor false,
     .corPermuteGo 0 { wBth with psn := 2 ^ 24 } wCor none, .corCreditFrame 0 { wBth with psn := 2 ^ 24 } wCor 0,
     .accept 0 { wBth with psn := 2 ^ 24 } wConn, .refuse 0 { wBth with psn := 2 ^ 24 } 0,
     .close 0 { wBth with psn := 2 ^ 24 }, .write 0 { wBth with psn := 2 ^ 24 } 0 ⟨0, 0⟩ [],
     .readReq 0 { wBth with psn := 2 ^ 24 } 0 ⟨0, 0⟩ .ok, .readResp 0 { wBth with psn := 2 ^ 24 } 0 [],
     .atomic 0 { wBth with psn := 2 ^ 24 } 0 0 0 ⟨0, 0⟩ .ok, .atomicResp 0 { wBth with psn := 2 ^ 24 } 0,
     .sync 0 { wBth with psn := 2 ^ 24 } 0 0 0 0 0, .ack 0 { wBth with psn := 2 ^ 24 } wAck,
     .nak 0 { wBth with psn := 2 ^ 24 } 0 0] :
    List Instr).all (fun c => !c.wf)) = true := by decide

theorem test_wf_edges : (([.corCreditFrame 0 wBth wCor 64, .creditRepeat 0 0 64] :
    List Instr).all (fun c => !c.wf)) = true := by decide

theorem test_wf_port_codes : (([.linkUp 0 96, .linkDown 0 96, .sprayRejoin 0 96, .frameReceive 0 96 wRx, .pfcPauseExpire 0 96 0,
     .frameTransmit 0 96, .finderSend 0 96, .finderReceive 0 96 wFinder, .finderHoldExpiry 0 96,
     .ptpMessageSend 0 96 0, .ptpAnnounceTimeout 0 96 none] :
    List Instr).all (fun c => !c.wf)) = true := by decide

theorem test_wf_ports : (([.laneFail 0 24 0 false false false, .preemptVerify 0 24 false] :
    List Instr).all (fun c => !c.wf)) = true := by decide

theorem test_wf_lanes : (([.laneFail 0 0 4 false false false] :
    List Instr).all (fun c => !c.wf)) = true := by decide

theorem test_wf_frames : (([.frameReceive 0 0 { wRx with pcp := 8 }] :
    List Instr).all (fun c => !c.wf)) = true := by decide

theorem test_wf_priorities : (([.pfcPauseExpire 0 0 8] :
    List Instr).all (fun c => !c.wf)) = true := by decide

theorem test_wf_ptp_messages : (([.ptpMessageReceive 0 { wPtp with kind := 3 }] :
    List Instr).all (fun c => !c.wf)) = true := by decide

theorem test_wf_host_frames : (([.txRingDoorbell 0 0 [{ wTx with pcp := 8 }]] :
    List Instr).all (fun c => !c.wf)) = true := by decide

theorem test_wf_connects : (([.connect 0 { wConnect with hdr := { wBth with psn := 2 ^ 24 } }] :
    List Instr).all (fun c => !c.wf)) = true := by decide

theorem test_wf_connection_bodies : (([.accept 0 wBth { wConn with ctx := 2 ^ 32 }] :
    List Instr).all (fun c => !c.wf)) = true := by decide

theorem test_wf_words : (([.write 0 wBth (2 ^ 32) ⟨0, 0⟩ [], .readReq 0 wBth (2 ^ 32) ⟨0, 0⟩ .ok, .atomic 0 wBth (2 ^ 32) 0 0 ⟨0, 0⟩ .ok,
     .sync 0 wBth (2 ^ 32) 0 0 0 0, .ringEnableWrite 0 0 0 (2 ^ 32), .mgtFwStage 0 ⟨0, false⟩ 0 (2 ^ 32) [],
     .commitRegisterWrite 0 0 (2 ^ 32), .commitGroupMemberWrite 0 0 (2 ^ 32), .registerPairHiWrite 0 0 (2 ^ 32),
     .irqStatusW1c 0 0 (2 ^ 32), .registerWrite 0 0 0 (2 ^ 32)] :
    List Instr).all (fun c => !c.wf)) = true := by decide

theorem test_wf_longs : (([.sync 0 wBth 0 0 0 (2 ^ 64) 0, .sliceComplete 0 0 0 (2 ^ 64) {}, .mgtFwStage 0 ⟨0, false⟩ (2 ^ 64) 0 [],
     .mgtFwActivate 0 ⟨0, false⟩ (2 ^ 64) wImage, .mgtFwQuery 0 ⟨0, false⟩ (2 ^ 64)] :
    List Instr).all (fun c => !c.wf)) = true := by decide

theorem test_wf_acks : (([.ack 0 wBth { wAck with ce := 65536 }] :
    List Instr).all (fun c => !c.wf)) = true := by decide

theorem test_wf_bytes : (([.nak 0 wBth 256 0, .sliceComplete 0 256 0 0 {}, .sliceBudgetExpiry 0 256 0] :
    List Instr).all (fun c => !c.wf)) = true := by decide

theorem test_wf_packet_names : (([.bftWriteLand 0 ⟨2 ^ 32, 0⟩ [] .ok] :
    List Instr).all (fun c => !c.wf)) = true := by decide

theorem test_wf_psns : (([.bftContextFetch 0 (2 ^ 24) false, .bftRtoExpiry 0 (2 ^ 24) 0, .bftRtoExpiry 0 0 (2 ^ 24),
     .bftRetryAfterExpiry 0 (2 ^ 24) 0, .bftRetryAfterExpiry 0 0 (2 ^ 24), .bftAckTimer 0 (2 ^ 24),
     .bftIdleClose 0 (2 ^ 24), .bftCwndIncrease 0 (2 ^ 24)] :
    List Instr).all (fun c => !c.wf)) = true := by decide

theorem test_wf_link_configurations : (([.pcieLinkUp 0 0 0 { wLink with conf := { wLink.conf with payload := 3 } }] :
    List Instr).all (fun c => !c.wf)) = true := by decide

theorem test_wf_virtual_functions : (([.vfFlr 0 0] :
    List Instr).all (fun c => !c.wf)) = true := by decide

theorem test_wf_functions : (([.d3hotEntry 0 4097, .sqDoorbell 0 4097 0 0, .cqHeadWrite 0 4097 0 0, .ringEnableWrite 0 4097 0 0,
     .commandFetch 0 4097 0 none, .irqCoalesceExpiry 0 4097 0, .bar4Read 0 4097 0 0 .ok,
     .bar4Write 0 4097 0 ⟨[], .ok⟩, .atsInvalidation 0 4097 0 0, .d3hotExit 0 4097, .vfEnableSet 0 4097] :
    List Instr).all (fun c => !c.wf)) = true := by decide

theorem test_wf_rings : (([.sqDoorbell 0 0 64 0, .cqHeadWrite 0 0 64 0, .ringEnableWrite 0 0 64 0, .commandFetch 0 0 64 none,
     .irqCoalesceExpiry 0 0 64] :
    List Instr).all (fun c => !c.wf)) = true := by decide

theorem test_wf_command_headers : (([.commandFetch 0 0 0 (some { wHdr with opcode := 65536 })] :
    List Instr).all (fun c => !c.wf)) = true := by decide

theorem test_wf_ide_streams : (([.ideIntegrityFail 0 9, .ideKeyLoad 0 9] :
    List Instr).all (fun c => !c.wf)) = true := by decide

theorem test_wf_sensors : (([.thermalSample 0 80 0] :
    List Instr).all (fun c => !c.wf)) = true := by decide

theorem test_wf_accounts : (([.receiptCheckpoint 0 4097] :
    List Instr).all (fun c => !c.wf)) = true := by decide

theorem test_wf_records : (([.ackWindowExpiry 0 64, .fltAck 0 64] :
    List Instr).all (fun c => !c.wf)) = true := by decide

theorem test_wf_slice_results : (([.sliceComplete 0 0 0 0 { bad := [65536] }] :
    List Instr).all (fun c => !c.wf)) = true := by decide

theorem test_wf_datagrams : (([.mgtFwStage 0 ⟨65536, false⟩ 0 0 [], .mgtFwActivate 0 ⟨65536, false⟩ 0 wImage, .mgtFwQuery 0 ⟨65536, false⟩ 0] :
    List Instr).all (fun c => !c.wf)) = true := by decide

theorem test_wf_byte_enables : (([.registerWrite 0 0 16 0] :
    List Instr).all (fun c => !c.wf)) = true := by decide

theorem test_wf_image_types : (([.imageWriteComplete 0 5] :
    List Instr).all (fun c => !c.wf)) = true := by decide

theorem test_wf_fitting : (([.jobDeadline 0 0, .slipRequestReceive 0 0 0 0 0 0 0 ⟨26, 1⟩, .jobAbortReceive 0 0 0,
     .triggerFire 0 0 0 ⟨[], .ok⟩, .seStream 0 0 0, .seAccum 0 0 ⟨0, .ok⟩, .seUpdate 0 0 ⟨0, .ok⟩,
     .sePack 0 0 ⟨0, .ok⟩, .seUnpack 0 0 ⟨0, .ok⟩, .seZero 0 0 0, .ephEntryArm 0 0 0, .ephDeadlineFallback 0 0 0,
     .ephPageFail 0 0 0 0, .allreduce 0 0 0, .reduceScatter 0 0 0, .allgather 0 0 0, .alltoall 0 0 0, .permute 0 0 0,
     .ringRotate 0 0 0, .verdict 0 0 0, .qsend 0 0 0, .qrecv 0 0 0, .corOpComplete 0 0 ⟨0, .ok⟩,
     .corDataGranule 0 wBth wCor none ⟨[], .ok⟩, .corVerdictFrame 0 wBth wCor false, .corPermuteGo 0 wBth wCor none,
     .corCreditFrame 0 wBth wCor 0, .creditRepeat 0 0 0, .linkUp 0 0, .linkDown 0 0,
     .laneFail 0 0 0 false false false, .sprayRejoin 0 0, .preemptVerify 0 0 false, .frameReceive 0 0 wRx,
     .pfcPauseExpire 0 0 0, .frameTransmit 0 0, .finderSend 0 0, .finderReceive 0 0 wFinder, .finderHoldExpiry 0 0,
     .ptpMessageReceive 0 wPtp, .ptpMessageSend 0 0 0, .ptpAnnounceTimeout 0 0 none, .txRingDoorbell 0 0 [],
     .puTailWrite 0 0, .connect 0 wConnect, .accept 0 wBth wConn, .refuse 0 wBth 0, .close 0 wBth,
     .write 0 wBth 0 ⟨0, 0⟩ [], .readReq 0 wBth 0 ⟨0, 0⟩ .ok, .readResp 0 wBth 0 [], .atomic 0 wBth 0 0 0 ⟨0, 0⟩ .ok,
     .atomicResp 0 wBth 0, .sync 0 wBth 0 0 0 0 0, .ack 0 wBth wAck, .nak 0 wBth 0 0, .bftWriteLand 0 ⟨0, 0⟩ [] .ok,
     .bftContextFetch 0 0 false, .bftRtoExpiry 0 0 0, .bftRetryAfterExpiry 0 0 0, .bftAckTimer 0 0,
     .bftIdleClose 0 0, .bftCwndIncrease 0 0, .pcieLinkUp 0 0 0 wLink, .vfFlr 0 1, .d3hotEntry 0 0,
     .sqDoorbell 0 0 0 0, .cqHeadWrite 0 0 0 0, .ringEnableWrite 0 0 0 0, .commandFetch 0 0 0 none,
     .irqCoalesceExpiry 0 0 0, .bar4Read 0 0 0 0 .ok, .bar4Write 0 0 0 ⟨[], .ok⟩, .atsInvalidation 0 0 0 0,
     .ideIntegrityFail 0 0, .ideKeyLoad 0 0, .phaseDemandUpdate 0 0 0 [], .thermalSample 0 0 0,
     .receiptCheckpoint 0 0, .ackWindowExpiry 0 0, .fltAck 0 0, .sliceComplete 0 0 0 0 {}, .sliceBudgetExpiry 0 0 0,
     .mgtFwStage 0 ⟨0, false⟩ 0 0 [], .mgtFwActivate 0 ⟨0, false⟩ 0 wImage, .mgtFwQuery 0 ⟨0, false⟩ 0,
     .commitRegisterWrite 0 0 0, .commitGroupMemberWrite 0 0 0, .registerPairHiWrite 0 0 0, .irqStatusW1c 0 0 0,
     .registerWrite 0 0 0 0, .d3hotExit 0 0, .vfEnableSet 0 0, .imageWriteComplete 0 1] :
    List Instr).all (fun c => c.wf)) = true := by decide

theorem test_wf_header_fields : ([{ wHdr with opcode := 2 ^ 16 }, { wHdr with flags := 2 ^ 16 }, { wHdr with tenant := 2 ^ 16 },
    { wHdr with requestId := 2 ^ 64 }, { wHdr with length := 2 ^ 32 }, { wHdr with param := 2 ^ 64 },
    { wHdr with p0 := 2 ^ 64 }, { wHdr with p1 := 2 ^ 64 }, { wHdr with p2 := 2 ^ 64 }, { wHdr with p3 := 2 ^ 64 }]).all
    (fun h => !headerOk h) = true := by decide

theorem test_wf_packet_fields : ([{ wBth with flags := 256 }, { wBth with dcid := 2 ^ 32 }, { wBth with psn := 2 ^ 24 },
    { wBth with sbase := 2 ^ 24 }, { wBth with seg := 2 ^ 32 }, { wBth with src := 4096 }, { wBth with die := 2 }]).all
    (fun h => !bthOk h) = true := by decide

theorem test_wf_frame_fields : ([{ wRx with pcp := 8 }, { wRx with etherType := 65536 }, { wRx with hop := 256 },
    { wRx with mac := 2 ^ 48 }, { wRx with vid := some 4096 }, { wRx with ipDst := 2 ^ 128 }, { wRx with ecn := 4 }]).all
    (fun f => !rxOk f) = true := by decide

theorem test_wf_host_fields : ([{ wTx with dscp := 64 }, { wTx with ecn := 4 }, { wTx with mac := 2 ^ 48 }, { wTx with hop := 256 },
    { wTx with port := 65536 }, { wTx with vid := some 4096 }]).all (fun f => !txOk [f]) = true := by decide

end Sys2Proof.Tests
end

section
/-! The input voltage (spec/00 R2, R30; spec/16 R414 to R419; spec/20 R476; spec/22 R509): O48. -/

namespace Sys2Proof.Machine

/-! ### Samples -/

/-- The state in which a sample is judged: the conditions on the input voltage have moved. -/
def sampled (mv : Nat) (s : State) : State :=
  { s with pwr := { s.pwr with volts := nextVolts mv s.now s.pwr.volts } }

@[simp] theorem sampled_phase (mv : Nat) (s : State) : (sampled mv s).pwr.phase = s.pwr.phase := rfl

/-- The phases in which the regions of R414 apply. -/
theorem regions_of_phase {s : State} (h : s.pwr.phase = 2 ∨ s.pwr.phase = 4 ∨ s.pwr.phase = 5) : regions s = true := by
  simpa only [regions, Bool.or_eq_true, decide_eq_true_eq, or_assoc] using h

theorem regions_sampled_false {mv n : Nat} {s : State} (h : s.pwr.phase = n) (hn : n = 0 ∨ n = 1 ∨ n = 3) :
    regions (sampled mv s) = false := by
  rcases hn with rfl | rfl | rfl <;> simp [regions, h]

/-- What a sample does, by the phase of the supply. -/
theorem exec_voltageSample (t mv ma : Nat) (s : State) :
    exec (.voltageSample t mv ma) s =
      let u := sampled mv (tick t s)
      .next (
        if u.pwr.phase = 4 ∧ crossed u 4 then lockOut false u
        else if regions u then regionStep (meter mv ma u)
        else if u.pwr.phase = 1 then
          if (look u.pwr.volts 0).any (fun x => decide (2 ≤ x.2)) then lockOut true u
          else if crossed u 4 then lockOut false u else meter mv ma u
        else if u.pwr.phase = 0 then u
        else meter mv ma u) := rfl

section Sample
variable {t : Nat} {s : State} (mv ma : Nat)

/-- In the running module and after a stop of bring-up the regions react (R414). -/
theorem voltageSample_regions (h : (tick t s).pwr.phase = 2 ∨ (tick t s).pwr.phase = 5) :
    exec (.voltageSample t mv ma) s = .next (regionStep (meter mv ma (sampled mv (tick t s)))) := by
  have h4 : (tick t s).pwr.phase ≠ 4 := by omega
  have hr : regions (sampled mv (tick t s)) = true := regions_of_phase (h.imp id Or.inr)
  simp [exec_voltageSample, h4, hr]

/-- In the halted state under-voltage engages the lockout first (R416). -/
theorem voltageSample_halted (h : (tick t s).pwr.phase = 4) :
    exec (.voltageSample t mv ma) s = .next (
      if crossed (sampled mv (tick t s)) 4 then lockOut false (sampled mv (tick t s))
      else regionStep (meter mv ma (sampled mv (tick t s)))) := by
  have hr : regions (sampled mv (tick t s)) = true := regions_of_phase (.inr (.inl h))
  simp [exec_voltageSample, h, hr]

/-- Before bring-up over-voltage and under-voltage engage the lockout (R415). -/
theorem voltageSample_beforeBringup (h : (tick t s).pwr.phase = 1) :
    exec (.voltageSample t mv ma) s = .next (
      if (look (sampled mv (tick t s)).pwr.volts 0).any (fun x => decide (2 ≤ x.2)) then lockOut true (sampled mv (tick t s))
      else if crossed (sampled mv (tick t s)) 4 then lockOut false (sampled mv (tick t s))
      else meter mv ma (sampled mv (tick t s))) := by
  have hr := regions_sampled_false (mv := mv) h (.inr (.inl rfl))
  simp [exec_voltageSample, h, hr]

/-- While the lockout is engaged nothing but its own circuit sees the sample (R2). -/
theorem voltageSample_lockedOut (h : (tick t s).pwr.phase = 0) :
    exec (.voltageSample t mv ma) s = .next (sampled mv (tick t s)) := by
  have hr := regions_sampled_false (mv := mv) h (.inl rfl)
  simp [exec_voltageSample, h, hr]

/-- In a safe stop the meter alone takes the sample. -/
theorem voltageSample_safeStop (h : (tick t s).pwr.phase = 3) :
    exec (.voltageSample t mv ma) s = .next (meter mv ma (sampled mv (tick t s))) := by
  have hr := regions_sampled_false (mv := mv) h (.inr (.inr rfl))
  simp [exec_voltageSample, h, hr]

end Sample

/-! ### Rows that wait for a condition on the voltage -/

/-- A lockout that is not latched is released 100 ms after the later of the end of charging and the rise to 50 V (R415,
R417). -/
theorem uvloRelease_due {t c : Nat} {s : State} (hp : (tick t s).pwr.phase = 0) (hl : (tick t s).pwr.latched = false)
    (hv : heldFor (tick t s) 5 (msCc 100) = true) (hc : (tick t s).pwr.charged = some c) (hd : c + msCc 100 ≤ (tick t s).now) :
    exec (.uvloRelease t) s = .next { tick t s with pwr := { (tick t s).pwr with phase := 1 } } := by
  have hcharged : (tick t s).pwr.charged.any (fun c => decide (c + msCc 100 ≤ (tick t s).now)) = true := by
    rw [hc, Option.any_some, decide_eq_true hd]
  exact congrArg Host.Outcome.next (if_pos ⟨hp, Bool.eq_false_iff.1 hl, hv, hcharged⟩)

/-- PWR_SAFE_N starts a safe stop from the release of the lockout on (R419). -/
theorem safeNAssert_released {t : Nat} {s : State} (h : regions (tick t s) = true ∨ (tick t s).pwr.phase = 1) :
    exec (.safeNAssert t) s = .next (raise { src := 0x1A6 } (tick t s)) :=
  congrArg Host.Outcome.next (if_pos h)

/-- Settles O48: a sample is judged by the phase of the supply, and each other row acts where its condition has held. -/
theorem powerInput : Obligations.PowerInput := by
  intro t s s1
  refine ⟨?sample, ?surge, ?sag, ?sagRelease, ?charged, ?release, ?latchClear, ?start, ?loss, safeNAssert_released, ?safeStop⟩
  case sample =>
    exact fun mv ma => ⟨voltageSample_regions mv ma, voltageSample_halted mv ma, voltageSample_beforeBringup mv ma,
      voltageSample_lockedOut mv ma, voltageSample_safeStop mv ma⟩
  case surge => exact fun hr hv => congrArg Host.Outcome.next (if_pos ⟨hr, hv⟩)
  case sag => exact fun hr hv => congrArg Host.Outcome.next (if_pos ⟨hr, hv⟩)
  case sagRelease => exact fun hs hv => congrArg Host.Outcome.next (if_pos ⟨hs, hv⟩)
  case charged => exact fun hn => congrArg Host.Outcome.next (if_pos (Option.isNone_iff_eq_none.2 hn))
  case release => exact fun c hp hl hv hc hd => uvloRelease_due hp hl hv hc hd
  case latchClear => exact fun hl hv => congrArg Host.Outcome.next (if_pos ⟨hl, hv⟩)
  case start => exact fun hp hv => congrArg Host.Outcome.next (if_pos ⟨hp, hv⟩)
  case loss => exact ⟨rfl, rfl⟩
  case safeStop => exact fun hp hd => congrArg Host.Outcome.next (if_pos ⟨hp, hd⟩)

end Sys2Proof.Machine
end

section
/-! The stages of bring-up, slices in service and field parts (spec/00 R8; spec/19 R463 to R473; spec/20 R476 to R480): O51. -/

namespace Sys2Proof.Machine

/-! ### Stages -/

theorem atStage_of {s : State} {n : Nat} (h : live s = true ∧ s.boot.stage = n) : atStage s n = true := by
  simp [atStage, h]

/-- The work of a stage is done where that stage is in progress. -/
theorem stage_works {s u : State} {n : Nat} (h : live s = true ∧ s.boot.stage = n) :
    (if ¬ atStage s n then s else u) = u :=
  if_neg (not_not.2 (atStage_of h))

/-- The secure element has answered (R476). -/
def seAnswered (s : State) : State := { s with boot := { s.boot with seOk := true } }

/-- Stack engines take their microcode, or none of them is usable (R408). -/
def microcodeLoaded (s : State) : State :=
  match chosenCopy s 3 with
  | some y => { useImage 3 y s with stks := tmap s.stks (fun _ k => { k with micro := y.2.digest }) }
  | none => { s with stks := tmap s.stks (fun _ k => { k with unusable := true }) }

/-- Ports take their firmware, or all of them have failed (R408). -/
def portFirmwareLoaded (s : State) : State :=
  match chosenCopy s 4 with
  | some z => (List.range (4 * nPorts s)).foldl (fun w c => modPort c (fun p => { p with serdes := z.2.digest }) w) (useImage 4 z s)
  | none => (List.range (4 * nPorts s)).foldl (fun w c => modPort c (fun p => { p with failed := true }) w) s

/-- The power-on slices have been judged: failures are served, and the meter is good unless its own slice failed (R435, R468). -/
def postJudged (results : List (Nat × Nat × SliceRes)) (s : State) : State :=
  let failed := postFails s results
  let u := failed.foldl (fun v x => postFailure x.1 x.2.1 x.2.2 v) (bump 0xB10200 32 results.length s)
  { u with
    pho := { u.pho with meterOk := !failed.any (fun x => x.1 = 0x40 && x.2.2 = 0) }
    boot := { u.boot with postDone := true, postClean := failed.isEmpty } }

section Stage
variable {t : Nat} {s s1 : State} (hs : tick t s = s1)
include hs

theorem bringupRails_ends (good : Bool) (h : live s1 = true ∧ s1.boot.stage = 1) :
    exec (.bringupRails t good) s = .next (if good then toStage 2 s1 else stopBringup 0x81 s1) := by
  subst hs
  exact congrArg Host.Outcome.next (stage_works h)

theorem bringupBootRom_silent (h : live s1 = true ∧ s1.boot.stage = 2) :
    exec (.bringupBootRom t false) s = .next (stopBringup 0x82 s1) := by
  subst hs
  exact congrArg Host.Outcome.next (stage_works h)

theorem bringupBootRom_answered (h : live s1 = true ∧ s1.boot.stage = 2) :
    exec (.bringupBootRom t true) s = .next (match chosenCopy (seAnswered s1) 1 with
      | some x => toStage 3 (useImage 1 x (seAnswered s1))
      | none => stopBringup 0x83 (seAnswered s1)) := by
  subst hs
  exact congrArg Host.Outcome.next (stage_works h)

theorem bringupBootRom_verified {x : Nat × Image} (h : live s1 = true ∧ s1.boot.stage = 2)
    (hx : chosenCopy (seAnswered s1) 1 = some x) :
    exec (.bringupBootRom t true) s = .next (toStage 3 (useImage 1 x (seAnswered s1))) := by
  rw [bringupBootRom_answered hs h, hx]

theorem bringupBootRom_unverified (h : live s1 = true ∧ s1.boot.stage = 2) (hn : chosenCopy (seAnswered s1) 1 = none) :
    exec (.bringupBootRom t true) s = .next (stopBringup 0x83 (seAnswered s1)) := by
  rw [bringupBootRom_answered hs h, hn]

theorem bringupImages_unverified (h : live s1 = true ∧ s1.boot.stage = 4) (hn : chosenCopy s1 2 = none) :
    exec (.bringupImages t) s = .next (stopBringup 0x85 s1) := by
  subst hs
  exact congrArg Host.Outcome.next ((stage_works h).trans (by rw [hn]))

theorem bringupImages_verified {x : Nat × Image} (h : live s1 = true ∧ s1.boot.stage = 4) (hx : chosenCopy s1 2 = some x) :
    exec (.bringupImages t) s = .next (toStage 5 (portFirmwareLoaded (microcodeLoaded (useImage 2 x s1)))) := by
  subst hs
  exact congrArg Host.Outcome.next ((stage_works h).trans (by rw [hx]; rfl))

theorem bringupSelfTest_ends (results : List (Nat × Nat × SliceRes)) (h : live s1 = true ∧ s1.boot.stage = 5) :
    exec (.bringupSelfTest t results) s = .next (
      if (postFails s1 results).any (fun x => postStops x.1 x.2.2) then stopBringup 0x86 (postJudged results s1)
      else toStage 6 (startField (postJudged results s1))) := by
  subst hs
  exact congrArg Host.Outcome.next (stage_works h)

theorem bringupReady_ends (h : live s1 = true ∧ s1.boot.stage = 7) (hp : s1.mer.placing = true) :
    exec (.bringupReady t) s = .next { s1 with boot := { s1.boot with
      stage := 0xFF, bringupMs := min 65535 ((s1.now - s1.boot.startAt) / msCc 1) } } := by
  subst hs
  have hgo : ¬ (¬ atStage (tick t s) 7 = true ∨ ¬ (tick t s).mer.placing = true) := by simp [atStage_of h, hp]
  exact congrArg Host.Outcome.next (if_neg hgo)

/-- A stopped bring-up sends a beacon where a second has passed (R480). -/
theorem bringupStopBeacon_due {c : Nat} (hc : s1.boot.cause = some c) (hp : s1.pwr.phase = 5)
    (hd : s1.pwr.stopAt + msCc 1000 ≤ s1.now) :
    exec (.bringupStopBeacon t) s = .next (queueMgt 1 (.stopBeacon (c + s1.boot.stage * 256))
      { s1 with pwr := { s1.pwr with stopAt := s1.now } }) := by
  subst hs
  have hgo : ¬ ((tick t s).pwr.phase ≠ 5 ∨ (tick t s).now < (tick t s).pwr.stopAt + msCc 1000) :=
    not_or.2 ⟨not_not.2 hp, Nat.not_lt.2 hd⟩
  refine congrArg Host.Outcome.next ?_
  rw [hc]
  exact if_neg hgo

/-- A field part's write ends 80 ms or more after it began (R410, R472). -/
theorem almanacWriteComplete_due {f : FieldPart} (hf : s1.boot.writing = some f) (hp : 2 ≤ s1.pwr.phase)
    (hd : s1.boot.writeAt + msCc 80 ≤ s1.now) :
    exec (.almanacWriteComplete t) s = .next (startField (bump 0xB10210 32 1 { s1 with
      alm := { s1.alm with field := f }
      boot := { s1.boot with writing := none, fieldOk := true, field := { s1.boot.field with seq := f.seq } } })) := by
  subst hs
  have hgo : ¬ ((tick t s).pwr.phase < 2 ∨ (tick t s).now < (tick t s).boot.writeAt + msCc 80) :=
    not_or.2 ⟨Nat.not_lt.2 hp, Nat.not_lt.2 hd⟩
  refine congrArg Host.Outcome.next ?_
  rw [hf]
  exact if_neg hgo

end Stage

/-! ### The end of a slice -/

/-- A slice that has ended is counted and no longer runs. -/
def sliceCounted (slice inst : Nat) (s : State) : State :=
  irqSet 0xB10184 1 (bump 0xB10200 32 1 { s with boot := { s.boot with
    slices := s.boot.slices.filter (fun y => !(y.slice = slice && y.inst = inst)) } })

/-- A failed slice is counted as one. -/
def sliceFailCounted (slice inst : Nat) (s : State) : State :=
  irqSet 0xB10184 2 (bump 0xB10204 32 1 (sliceCounted slice inst s))

/-- The result of a slice is kept for its command. -/
def sliceKept (slice inst cmd res : Nat) (s : State) : State :=
  { s with boot := { s.boot with
    lastSlice := slice, lastResult := res, lastInst := inst
    returning := s.boot.returning ++ [{ cmd, slice, inst, res := if res = 1 then 0xFF else res, idx := 0xFFFF }] } }

/-- A slice that runs ends with its failures: none and the result is 0, or the result is 3 where its block is retired or in
quarantine, or each failure is raised (R449, R464, R465, R467). -/
def sliceEnds (slice inst : Nat) (x : SliceRun) (fails : List Nat) (s : State) : State :=
  let dead := blockRetired s slice inst
  let old := dead || fails.any (fun k => inQuarantine (sliceEv slice inst k) s)
  let u := if fails.isEmpty then sliceCounted slice inst s else sliceFailCounted slice inst s
  let v := sliceKept slice inst x.cmd (if old then 3 else if fails.isEmpty then 0 else 1) u
  if dead then v
  else if old then fails.foldl (fun v k => raise (sliceEv slice inst k) v) v
  else fails.foldl (fun v k => sliceFailed slice inst k v) v

theorem sliceEnds_passed (slice inst : Nat) (x : SliceRun) (s : State) :
    sliceEnds slice inst x [] s =
      sliceKept slice inst x.cmd (if blockRetired s slice inst then 3 else 0) (sliceCounted slice inst s) := by
  simp [sliceEnds]

theorem sliceEnds_retired {slice inst : Nat} {fails : List Nat} {s : State} (x : SliceRun) (hf : fails ≠ [])
    (hr : blockRetired s slice inst = true) :
    sliceEnds slice inst x fails s = sliceKept slice inst x.cmd 3 (sliceFailCounted slice inst s) := by
  simp [sliceEnds, hr, hf]

theorem sliceEnds_failed {slice inst : Nat} {fails : List Nat} {s : State} (x : SliceRun) (hf : fails ≠ [])
    (hr : blockRetired s slice inst = false) (hq : ∀ k ∈ fails, inQuarantine (sliceEv slice inst k) s = false) :
    sliceEnds slice inst x fails s =
      fails.foldl (fun v k => sliceFailed slice inst k v) (sliceKept slice inst x.cmd 1 (sliceFailCounted slice inst s)) := by
  have hany : fails.any (fun k => inQuarantine (sliceEv slice inst k) s) = false := by simpa using hq
  simp [sliceEnds, hr, hf, hany]

section Slice
variable {s : State} {slice inst a : Nat} {x : SliceRun}
  (hx : s.boot.slices.find? (fun y => y.slice = slice && y.inst = inst && y.at_.isSome) = some x) (ha : x.at_ = some a)
include hx

/-- The end of a slice that runs: nothing where it is said to be late and is not, failure 0 where it ends late with none (R463). -/
theorem endSlice_of_running (late : Bool) (fails : List Nat) :
    endSlice slice inst late fails s =
      if late ∧ ¬ x.at_.any (fun a => decide (a + sliceBudget slice ≤ s.now)) then s
      else sliceEnds slice inst x (if (late || x.at_.any (fun a => decide (a + sliceBudget slice < s.now))) && fails.isEmpty
        then [0] else fails) s := by
  unfold endSlice
  rw [hx]
  rfl

include ha

/-- A slice that ends with failures, or with none within its budget, ends with just these. -/
theorem endSlice_in_budget {fails : List Nat} (hb : fails = [] → s.now ≤ a + sliceBudget slice) :
    endSlice slice inst false fails s = sliceEnds slice inst x fails s := by
  rw [endSlice_of_running hx, ha, Option.any_some, Option.any_some]
  generalize a + sliceBudget slice = due at hb ⊢
  cases fails with
  | nil => simp [Nat.not_lt.2 (hb rfl)]
  | cons k ks => simp

/-- A slice that has not finished within its budget ends with failure 0 (R463). -/
theorem endSlice_overdue (hd : a + sliceBudget slice ≤ s.now) :
    endSlice slice inst true [] s = sliceEnds slice inst x [0] s := by
  rw [endSlice_of_running hx, ha, Option.any_some, Option.any_some]
  generalize a + sliceBudget slice = due at hd ⊢
  simp [hd]

end Slice

/-- Settles O51: each stage's command runs the stage's work, and a slice's command ends the slice that runs. -/
theorem bringUp : Obligations.BringUp := by
  intro t s s1
  have hs : tick t s = s1 := rfl
  clear_value s1
  intro at_ next stop
  refine ⟨?rails, ?bootRom, ?almanac, ?images, ?selfTest, ?fill, ?release, ?ready, ?beacon, ?slices, ?pairCopy, ?fieldPart⟩
  case rails => exact fun h => ⟨bringupRails_ends hs true h, bringupRails_ends hs false h⟩
  case bootRom =>
    exact fun h => ⟨bringupBootRom_silent hs h, fun x => bringupBootRom_verified hs h, bringupBootRom_unverified hs h⟩
  case almanac =>
    subst hs
    exact fun h => ⟨fun _ => congrArg Host.Outcome.next (stage_works h), fun _ => congrArg Host.Outcome.next (stage_works h)⟩
  case images => exact fun h => ⟨bringupImages_unverified hs h, fun x => bringupImages_verified hs h⟩
  case selfTest =>
    exact fun results h => (bringupSelfTest_ends hs results h).trans (apply_ite Host.Outcome.next _ _ _)
  case fill =>
    subst hs
    exact fun h => congrArg Host.Outcome.next (stage_works h)
  case release =>
    subst hs
    intro rngOk h hp
    have hgo : ¬ (¬ atStage (tick t s) 7 = true ∨ (tick t s).mer.placing = true) := by simp [atStage_of h, hp]
    exact congrArg Host.Outcome.next (if_neg hgo)
  case ready => exact bringupReady_ends hs
  case beacon => exact fun c => bringupStopBeacon_due hs
  case slices =>
    subst hs
    intro slice inst x a ha hx kept ended bad
    refine ⟨fun res hf hb => ?passes, fun res hf hr => ?retired, fun res hf hr hq => ?fails, fun hd hr hq => ?overdue⟩
    case passes =>
      have hend := endSlice_in_budget (fails := []) hx ha (fun _ => hb)
      have hnone := congrArg (endSlice slice inst false · (tick t s)) hf
      exact congrArg Host.Outcome.next (hnone.trans (hend.trans (sliceEnds_passed ..)))
    case retired =>
      have hend := endSlice_in_budget hx ha (fun h => absurd h hf)
      exact congrArg Host.Outcome.next (hend.trans (sliceEnds_retired x hf hr))
    case fails =>
      have hend := endSlice_in_budget hx ha (fun h => absurd h hf)
      exact congrArg Host.Outcome.next (hend.trans (sliceEnds_failed x hf hr hq))
    case overdue =>
      have hfail := sliceEnds_failed x (List.cons_ne_nil 0 []) hr (by simpa using hq)
      exact congrArg Host.Outcome.next ((endSlice_overdue hx ha hd).trans hfail)
  case pairCopy =>
    subst hs
    exact fun _ => rfl
  case fieldPart => exact fun f => almanacWriteComplete_due hs

end Sys2Proof.Machine
end

section
/-! Register writes and reads, and the status bits that hardware sets and software clears (spec/00 R10, R12; spec/02 R40, R41;
spec/21 R490 to R498): O53 and O56. -/

namespace Sys2Proof.Machine

/-! ### Status bits -/

theorem bitOf_eq_testBit (x i : Nat) : bitOf x i = x.testBit i := by
  rw [Nat.testBit_eq_decide_div_mod_eq, bitOf, beq_eq_decide]

theorem bitOf_or (x y i : Nat) : bitOf (x ||| y) i = (bitOf x i || bitOf y i) := by
  simp only [bitOf_eq_testBit, Nat.testBit_or]

theorem bitOf_and (x y i : Nat) : bitOf (x &&& y) i = (bitOf x i && bitOf y i) := by
  simp only [bitOf_eq_testBit, Nat.testBit_and]

theorem regA_of_look {s : State} {k v : Nat} (h : look s.act k = some v) : regA s k = v := by
  rw [regA, h, Option.getD_some]

/-- A status register whose bits an event sets reads what stood in it and those bits. -/
theorem regA_irqSet_self (a mask : Nat) (s : State) : regA (irqSet a mask s) a = regA s a ||| mask :=
  regA_of_look (by rw [regA_irqSet, if_pos rfl])

/-- A status register that software clears keeps what is not written 1, and what hardware set in this cc (R12). -/
theorem regA_irqClear_self (a v : Nat) (s : State) :
    regA (irqClear a v s) a = (regA s a - (regA s a &&& v)) ||| (regA s a &&& hwNow s a) :=
  regA_of_look (look_tput_self _ _ _)

/-- The bits that an event sets are remembered as set by hardware in this cc. -/
theorem bitOf_hwNow_irqSet {mask b : Nat} (h : bitOf mask b = true) (a : Nat) (s : State) :
    bitOf (hwNow (irqSet a mask s) a) b = true := by
  have hw : hwNow (irqSet a mask s) a =
      if (tget s.hwSet a (0, 0)).1 = s.now then (tget s.hwSet a (0, 0)).2 ||| mask else mask := by
    simp only [hwNow, irqSet, irqUpdate, tget_tput_self, if_true]
  rw [hw]
  split
  · rw [bitOf_or, h, Bool.or_true]
  · exact h

/-- Settles O56: a clear keeps what hardware set in this cc, and a set after the clear sets it again. -/
theorem statusBits : Obligations.StatusBits := by
  intro a mask v b s hb
  have hset : ∀ u : State, bitOf (regA (irqSet a mask u) a) b = true := fun u => by
    rw [regA_irqSet_self, bitOf_or, hb, Bool.or_true]
  refine ⟨?setThenClear, hset _⟩
  rw [regA_irqClear_self, bitOf_or, bitOf_and, hset, bitOf_hwNow_irqSet hb, Bool.and_true, Bool.or_true]

/-! ### Register writes and reads -/

/-- A write that reaches a register of its row's kind, while BAR0 is served. -/
theorem onWrite_reaches {s : State} {addr a : Nat} {k : Nat → Bool} {f : Nat → State → State}
    (ht : target s addr = some a) (hs : barServed s = true) (hk : k a = true) : onWrite addr k f s = f a s := by
  simp [onWrite, ht, hs, hk]

theorem onWrite_no_register {s : State} {addr : Nat} (k : Nat → Bool) (f : Nat → State → State)
    (ht : target s addr = none) : onWrite addr k f s = s := by
  simp [onWrite, ht]

/-- A commit register that is no half of a pair arms its group where bit 0 is written 1 (R41). -/
theorem writeReg_commit {a g v : Nat} (s : State) (hc : commitOf a = some g) (hv : v % 2 = 1)
    (hp : pairOfHi a = none) (hh : hiOf a = none) : writeReg a v s = commitWrite g s := by
  simp [writeReg, hp, hh, writeWord, hc, bitOf, hv]

/-- HI of a pair is held (R495). -/
theorem writeReg_hi {a lo : Nat} (v : Nat) (s : State) (hp : pairOfHi a = some lo) :
    writeReg a v s = { s with hiHeld := tput s.hiHeld lo v } := by
  simp [writeReg, hp]

/-- A whole aligned word in BAR0 is written as software writes it (R492). -/
theorem exec_registerWrite {addr : Nat} (t value : Nat) (s : State) (ha : addr < 2 ^ 32) (h4 : addr % 4 = 0) :
    exec (.registerWrite t addr 0xF value) s = .next (onWrite addr (fun a => !ownRow (tick t s) a)
      (fun a u => setSeconds a (value % 2 ^ 32) (writeReg a (value % 2 ^ 32) u)) (tick t s)) := by
  have aligned : ¬ (0xF ≠ 0xF ∨ addr % 4 ≠ 0) := by simp [h4]
  exact congrArg Host.Outcome.next ((if_neg aligned).trans (if_neg (Nat.not_le.2 ha)))

/-- An aligned address is read as the one word that stands there (R492). -/
theorem readBytes_aligned {addr : Nat} (s : State) (h4 : addr % 4 = 0) : readBytes addr s = readReg addr s := by
  simp [readBytes, h4]

/-- An aligned word in BAR0 is read whole, and the read latches what `readReg` says (R492, R495). -/
theorem exec_registerPairLoRead {addr t : Nat} {s : State} (ha : addr < 2 ^ 32) (h4 : addr % 4 = 0)
    (hs : barServed (tick t s) = true) : exec (.registerPairLoRead t addr) s =
      .next { (readReg addr (tick t s)).2 with readData := (readReg addr (tick t s)).1 } := by
  have hr : barReads (tick t s) addr = true := by rw [barReads, hs, Bool.true_or]
  rw [← readBytes_aligned (tick t s) h4]
  exact congrArg Host.Outcome.next ((if_neg (Nat.not_le.2 ha)).trans (if_pos hr))

/-- Settles O53: each row writes the register that the address reaches where that is of the row's kind. -/
theorem registers : Obligations.Registers := by
  intro t addr value s s1 hs ha h4
  refine ⟨fun a ht => ⟨?commit, ?member, ?hi, ?status, ?plain⟩, ?noRegister, exec_registerPairLoRead ha h4 hs⟩
  case commit =>
    intro g hc hv hp hh
    rw [← writeReg_commit s1 hc hv hp hh]
    exact congrArg Host.Outcome.next (onWrite_reaches ht hs (Option.isSome_of_eq_some hc))
  case member =>
    intro g hg hp
    exact congrArg Host.Outcome.next (onWrite_reaches ht hs (by simp [hg, hp]))
  case hi =>
    intro lo hp
    rw [← writeReg_hi _ _ hp]
    exact congrArg Host.Outcome.next (onWrite_reaches ht hs (Option.isSome_of_eq_some hp))
  case status =>
    intro h
    exact congrArg Host.Outcome.next (onWrite_reaches ht hs h)
  case plain =>
    intro ho
    rw [exec_registerWrite t value s ha h4]
    exact congrArg Host.Outcome.next (onWrite_reaches ht hs (by rw [ho, Bool.not_false]))
  case noRegister =>
    intro ht
    rw [exec_registerWrite t value s ha h4]
    exact congrArg Host.Outcome.next (onWrite_no_register _ _ ht)

end Sys2Proof.Machine
end

section
/-! Meridians and twilight slots (spec/02 R32 to R38, R42, R43; spec/08 R193): O18 and O19. -/

namespace Sys2Proof.Machine

/-! ### Meridians (R32 to R38) -/

/-- Nothing is slewed in no time. -/
@[simp] theorem slewBy_zero (owed : Int) : slewBy owed 0 = 0 := by
  simp only [slewBy, clampInt, Nat.zero_mul, Nat.zero_div, Nat.cast_zero, neg_zero]
  split_ifs <;> omega

/-- The time of a timebase that has run at its rate, and slewed, for `d` cc (R36). -/
theorem ptpFine_after {s : State} {d : Nat} (hns : s.now = s.ptp.nsAt + d) (hslew : s.now = s.ptp.slewAt + d) :
    ptpFine s = ((s.ptp.ns * 100000 + d * s.ptp.rate / s.ptp.rateCc : Nat) + s.ptp.frac + slewBy s.ptp.owed d).toNat := by
  rw [ptpFine, Nat.sub_eq_of_eq_add' hns, Nat.sub_eq_of_eq_add' hslew]

/-- At the moment it is anchored, the timebase shows what it is anchored to. -/
theorem ptpFine_anchored {s : State} (hns : s.now = s.ptp.nsAt) (hslew : s.now = s.ptp.slewAt) :
    ptpFine s = ((s.ptp.ns * 100000 : Nat) + s.ptp.frac).toNat := by
  simp [ptpFine_after (d := 0) hns hslew]

/-- A meridian leaves the time of day unbroken (R35, R36). -/
theorem ptpFine_steady (len : Nat) (next : Int) (s : State) : ptpFine (steady len next s) = ptpFine s := by
  rw [ptpFine_anchored (s := steady len next s) rfl rfl]
  simp only [steady]
  omega

/-- At the end of the length the timebase has reached the next instant, where that lies no nearer than what it slews (R35,
R36). -/
theorem ptpFine_steady_end {len : Nat} {next : Int} {s u : State} (hptp : u.ptp = (steady len next s).ptp)
    (hnow : u.now = s.now + len) (hlen : 0 < len) (hslew : (ptpFine s : Int) + slewBy u.ptp.owed len ≤ next * 100000) :
    ptpFine u = (next * 100000).toNat := by
  obtain ⟨hnsAt, hslewAt⟩ : u.ptp.nsAt = s.now ∧ u.ptp.slewAt = s.now := by rw [hptp]; exact ⟨rfl, rfl⟩
  obtain ⟨hns, hfrac⟩ : u.ptp.ns = ptpFine s / 100000 ∧ u.ptp.frac = (ptpFine s % 100000 : Nat) := by
    rw [hptp]; exact ⟨rfl, rfl⟩
  have hrate : u.ptp.rate = (next * 100000 - ptpFine s - slewBy u.ptp.owed len).toNat := by rw [hptp]; rfl
  have hcc : u.ptp.rateCc = len := by rw [hptp]; exact Nat.max_eq_right hlen
  rw [ptpFine_after (hnsAt ▸ hnow) (hslewAt ▸ hnow), hcc, Nat.mul_div_cancel_left _ hlen, hrate, hns, hfrac]
  omega

/-- The time of day is the next instant when its cc edge comes. -/
theorem ptpNs_steady_end {len : Nat} {next : Int} {s u : State} (hptp : u.ptp = (steady len next s).ptp)
    (hnow : u.now = s.now + len) (hlen : 0 < len) (hslew : (ptpFine s : Int) + slewBy u.ptp.owed len ≤ next * 100000)
    (hnext : 0 ≤ next) : (ptpNs u : Int) = next := by
  rw [ptpNs, ptpFine_steady_end hptp hnow hlen hslew]
  omega

/-- The exposure that starts has its number, length and next instant, and the new active values apply (R33 to R39). -/
def exposureStarts (len ns : Nat) (err : Int) (s closed : State) : State :=
  let changed : Prop := (groupSt s 0).state = 2
  applyTenants (applyRegisters
    (placeMeridian len (nextInstant (applyShadows s) ns changed) err changed (meridianNo s ns) closed))

/-- In a changeover exposure MER_PERIOD_CHANGE is raised against every job in progress (R37). -/
def changeoverRaised (changed : Prop) [Decidable changed] (s : State) : State :=
  if changed then ((s.jobs.filter (fun e => e.2.phase ≠ 0)).map (·.1)).foldl (fun u k => raiseJob 0x022 k u) s else s

/-- The jobs move on, segments are dispatched, pages locked and demoted (R38). -/
def jobsMoveOn (rngOk : Bool) (running : List Nat) (s : State) : State :=
  demote (lockPages (dispatch rngOk (restartTwilight (running.foldl (fun u k => jobAtMeridian k u) s))))

/-- What waits for a meridian is served, and the meridian's interrupt is set. -/
def meridianServed (rngOk : Bool) (s : State) : State :=
  irqSet 0x10044 1 (serveMeridian { s with boot := { s.boot with rngOk } })

theorem meridianServed_eq (rngOk : Bool) (s : State) :
    irqSet 0x10044 1 (serveMeridian { s with boot := { s.boot with rngOk } }) = meridianServed rngOk s := rfl

/-- A meridian that falls does all its work, in order. -/
theorem exec_meridian_falls {t len ns : Nat} {err : Int} {rngOk : Bool} {s s1 closed : State} (hs : tick t s = s1)
    (hclosed : snapshotCensus (receiptsAt ns (apportion s1)) = closed)
    (hfalls : meridianFalls s1 ns = true) (herr : errFits s1 ns err = true)
    (hlen : lengthFits (applyShadows s1) len
      (nextInstant (applyShadows s1) ns (decide ((groupSt s1 0).state = 2)) - ns) = true) :
    exec (.meridian t len ns err rngOk) s = .next (meridianServed rngOk (jobsMoveOn rngOk (closed.jobs.map (·.1))
      (changeoverRaised ((groupSt s1 0).state = 2) (exposureStarts len ns err s1 closed)))) := by
  have hexec : exec (.meridian t len ns err rngOk) s = execMeridian t len ns err rngOk s := rfl
  rw [hexec, execMeridian, hs, hclosed]
  refine congrArg Host.Outcome.next ((if_neg ?fits).trans (meridianServed_eq _ _))
  simp [hfalls, herr, hlen]

/-- Settles O18: a meridian that may fall does all its work in order, one that may not does nothing, and the timebase is
steered to the next instant. -/
theorem meridianFalls_holds : Obligations.MeridianFalls := by
  intro t len ns err rngOk s s1 changed next e a b c
  refine ⟨fun hfalls herr hlen => ?falls, fun hf => ?nothing, ?places⟩
  case falls =>
    have hraised : changeoverRaised ((groupSt s1 0).state = 2) a = b := by
      simp only [changeoverRaised, b, changed, decide_eq_true_eq]
    have hmoved : jobsMoveOn rngOk (e.jobs.map (·.1))
        (changeoverRaised ((groupSt s1 0).state = 2) (exposureStarts len ns err s1 e)) = c :=
      congrArg (jobsMoveOn rngOk _) hraised
    rw [exec_meridian_falls rfl rfl hfalls herr hlen, hmoved]
    rfl
  case nothing => exact congrArg Host.Outcome.next (if_pos (.inl (Bool.eq_false_iff.1 hf)))
  case places =>
    intro m n u
    have hfine : ptpFine u = ptpFine s := ptpFine_steady len n s
    have hreaches (hlen : 0 < len) (hslew : (ptpFine s : Int) + slewBy u.ptp.owed len ≤ n * 100000) (hn : 0 ≤ n) :
        (ptpNs { u with now := u.mer.due } : Int) = n := ptpNs_steady_end rfl rfl hlen hslew hn
    exact ⟨rfl, rfl, rfl, rfl, rfl, rfl, rfl, rfl, hfine, hreaches, rfl⟩

/-! ### Twilight slots (R42, R43, R193) -/

/-- The refresh of group `g` begins on every stack. -/
def refreshBegins (g : Nat) (s : State) : State :=
  { s with stks := tmap s.stks (fun _ k => { k with group := g, inSlot := true }) }

/-- The refresh is over on every stack. -/
def refreshEnds (s : State) : State := { s with stks := tmap s.stks (fun _ k => { k with inSlot := false }) }

theorem look_refreshBegins {g n : Nat} {s : State} {k : StackSt} (h : look (refreshBegins g s).stks n = some k) :
    k.group = g ∧ k.inSlot = true := by
  rw [refreshBegins, look_tmap, Option.map_eq_some_iff] at h
  obtain ⟨x, -, rfl⟩ := h
  exact ⟨rfl, rfl⟩

theorem look_refreshEnds {n : Nat} {s : State} {k : StackSt} (h : look (refreshEnds s).stks n = some k) : k.inSlot = false := by
  rw [refreshEnds, look_tmap, Option.map_eq_some_iff] at h
  obtain ⟨x, -, rfl⟩ := h
  rfl

theorem twilightSlotStart_at {t j c : Nat} {s : State} (hj : slotAt (tick t s) = some (j, c))
    (hc : (tick t s).now = (tick t s).mer.at_ + c) :
    exec (.twilightSlotStart t) s = .next (refreshBegins (j % 4) (tick t s)) := by
  refine congrArg Host.Outcome.next ?_
  rw [hj]
  exact if_pos hc

theorem twilightSlotEnd_at {t j c : Nat} {s : State} (hj : slotAt { tick t s with now := (tick t s).now - 1056 } = some (j, c))
    (hc : (tick t s).now = (tick t s).mer.at_ + c + 1056) :
    exec (.twilightSlotEnd t) s = .next (refreshEnds (tick t s)) := by
  refine congrArg Host.Outcome.next ?_
  rw [hj]
  exact if_pos hc

/-- Settles O19: the slot of the twilight period is entered and left on every stack, and nothing but the stacks changes. -/
theorem twilightSlots : Obligations.TwilightSlots := by
  intro t s j c s1
  exact ⟨fun hj hc => ⟨_, twilightSlotStart_at hj hc, fun _ _ => look_refreshBegins, rfl⟩,
    fun hj hc => ⟨_, twilightSlotEnd_at hj hc, fun _ _ => look_refreshEnds, rfl⟩⟩

end Sys2Proof.Machine
end

section
/-! Milestones and slips (spec/02 R50 to R57): O13 and O20. -/

namespace Sys2Proof.Machine

/-! ### Milestones (R50, R51) -/

/-- The record of a job that is there may be named in place of the function that changes it. -/
theorem modJob_of_look {slot : Nat} {j : Job} {s : State} (h : look s.jobs slot = some j) (f : Job → Job) :
    modJob slot f s = modJob slot (fun _ => f j) s := by
  simp only [modJob, tmod, h]

/-- The segment that a job runs is no part of the book-keeping of an issue. -/
theorem segOf_afterIssue (cls : Nat) (i : Issue) (s : State) (j : Job) : segOf (afterIssue cls i s) j = segOf s j := rfl

/-- The job's record after a milestone at cc `t` that was expected at cc `e` (R50). -/
def madeLate (t e : Nat) (j : Job) : Job := { j with lateness := max j.lateness ((t : Int) - j.segAt - e) }

theorem madeLate_eq (t e : Nat) (j : Job) :
    madeLate t e j =
      { j with lateness := if j.lateness < (t : Int) - j.segAt - e then (t : Int) - j.segAt - e else j.lateness } := by
  rw [madeLate, max_def_lt]

/-- The MER block's look at a job in the cc after a milestone (R51). -/
def lookAt (i : Issue) (slot : Nat) : Signal := { at_ := i.t + 1, slot, obj := 0, src := i.core.val, act := .slip }

/-- A milestone that issues raises the lateness to what its expected cc gives, and the MER block looks at the job in the next
cc. -/
theorem exec_mile {i : Issue} {s s1 : State} {th : Thread} {j : Job} {e : Nat} (hs : tick i.t s = s1)
    (hi : Issues 5 5 i s1 th j) (he : (segOf s1 j).bind (fun g => g.milestones[cMile i.word]?) = some e) :
    exec (.mile i) s = .next
      (let u := modJob th.slot (fun _ => madeLate i.t e j) (afterIssue 5 i s1)
      { u with signals := u.signals ++ [lookAt i th.slot] }) := by
  have hjob : look (afterIssue 5 i s1).jobs th.slot = some j := hi.job
  subst hs
  have hrun := issue_runs hi
  rw [← segOf_afterIssue 5 i] at he
  generalize afterIssue 5 i (tick i.t s) = m at he hjob hrun
  refine congrArg Host.Outcome.next ((hrun _).trans ?_)
  simp only [ctxAt, he]
  rw [modJob_of_look hjob, madeLate_eq]
  rfl

/-- The look at a job that is there requests a slip exactly where its running segment is predicted to pass the deadline. -/
theorem slipCheck_of_look {slot : Nat} {k : Job} {v : State} (h : look v.jobs slot = some k) :
    slipCheck slot v =
      if k.phase = 1 ∧ k.aborted = none ∧ 0 < predictedExcess v k then requestSlip slot (predictedExcess v k).toNat v
      else v := by
  simp only [slipCheck, h, Option.isNone_iff_eq_none]

/-- Settles O13: the milestone's own effect, and the look that it asks for. -/
theorem milestone : Obligations.Milestone := by
  intro i s th j e s1 late j' u look'
  exact ⟨exec_mile rfl, fun v k => slipCheck_of_look⟩

/-! ### Slips (R51 to R57) -/

/-- Registers of one item are told apart by their addresses. -/
theorem rkey_inj {a b item : Nat} : rkey a item = rkey b item ↔ a = b := Nat.add_right_cancel_iff

theorem jobDeadline_due {t slot : Nat} {s s1 : State} {j : Job} (hs : tick t s = s1) (hj : look s1.jobs slot = some j)
    (hp : j.phase = 1) (ha : j.aborted = none) (hd : j.deadline = s1.now) :
    exec (.jobDeadline t slot) s = .next (requestSlip slot 0 s1) := by
  subst hs
  refine congrArg Host.Outcome.next ?_
  rw [hj]
  exact if_pos ⟨hp, Option.isNone_iff_eq_none.2 ha, hd⟩

/-- A job that has requested its slip requests no other for the same meridian (R51). -/
theorem requestSlip_again {slot excess : Nat} {s : State} {j : Job} (hj : look s.jobs slot = some j) (hr : j.requested = true) :
    requestSlip slot excess s = s := by
  simp only [requestSlip, hj, if_pos hr]

/-- A slip beyond MER_SLIP_MAX in a row is not sent: the job will overrun (R54). -/
theorem requestSlip_beyond {slot excess : Nat} {s : State} {j : Job} (hj : look s.jobs slot = some j) (hr : j.requested = false)
    (hm : cfg s 0x10038 16 8 < j.run + 1) :
    requestSlip slot excess s = modJob slot (fun x => { x with overdue := true }) s := by
  simp only [requestSlip, hj, if_neg (Bool.eq_false_iff.1 hr), if_pos hm]

/-- The job has seen a module's request for a meridian (R53). -/
def requestSeen (slot sender : Nat) (mer : Int) (s : State) : State :=
  modJob slot (fun x => { x with seen := x.seen ++ [(sender, mer)] }) s

/-- What a request that is no duplicate does when it reaches the MER block. -/
theorem slipRequestReceive_new {t bit job sender segment excess slot : Nat} {mer : Int} {tail : SlipTail} {s s1 : State} {j : Job}
    (hs : tick t s = s1) (hj : jobById s1 job = some (slot, j)) (hl : live s1 = true) (hb : s1.now = bit + 400)
    (hn : (sender, mer) ∉ j.seen) :
    exec (.slipRequestReceive t bit job sender mer segment excess tail) s = .next (
      if mer ≤ s1.mer.count then lateSlip slot j sender mer (requestSeen slot sender mer s1)
      else if tail.period ≠ cfg s1 0x10000 0 16 ∨ segment ≠ j.segs - 1 then mismatch slot (requestSeen slot sender mer s1)
      else honour slot mer sender excess (requestSeen slot sender mer s1)) := by
  subst hs
  refine congrArg Host.Outcome.next ?_
  rw [hj]
  refine if_neg ?_
  rw [List.contains_iff_mem]
  exact not_or.2 ⟨not_not.2 hl, not_or.2 ⟨not_not.2 hb, hn⟩⟩

theorem jobAbortReceive_known {t job sender slot : Nat} {s s1 : State} {j : Job} (hs : tick t s = s1)
    (hj : jobById s1 job = some (slot, j)) (hl : live s1 = true) (ha : j.aborted = none) (hm : sender ≤ 4095) :
    exec (.jobAbortReceive t job sender) s = .next (raiseJob 0x025 slot s1) := by
  subst hs
  refine congrArg Host.Outcome.next ?_
  rw [hj]
  refine if_neg ?_
  rw [ha]
  exact not_or.2 ⟨not_not.2 hl, not_or.2 ⟨Bool.false_ne_true, Nat.not_lt.2 hm⟩⟩

section Honour
variable {slot : Nat} {mer : Int} {s : State} {j : Job} (sender excess : Nat)
  (hj : look s.jobs slot = some j)
include hj

/-- A slip that the job holds already changes nothing (R53). -/
theorem honour_held (hm : mer ∈ j.honoured) : honour slot mer sender excess s = s := by
  simp [honour, hj, hm]

variable (hm : mer ∉ j.honoured)
include hm

/-- A slip that the job does not hold yet is entered, counted and recorded, and SLIP is set. -/
theorem honour_new : honour slot mer sender excess s =
    irqSet 0x10044 2 (setCtr (rkey 0x1011C slot) excess (setCtr (rkey 0x10118 slot) sender (bump (rkey 0x10104 slot) 32 1
      (modJob slot (fun x => { x with honoured := x.honoured ++ [mer] }) s)))) := by
  simp [honour, hj, hm]

theorem look_jobs_honour :
    look (honour slot mer sender excess s).jobs slot = some { j with honoured := j.honoured ++ [mer] } := by
  rw [honour_new sender excess hj hm]
  simp [jobs_modJob, hj]

theorem ctrOf_honour (k : Nat) : ctrOf (honour slot mer sender excess s) k =
    if k = rkey 0x1011C slot then excess else if k = rkey 0x10118 slot then sender
    else if k = rkey 0x10104 slot then satAdd 32 (ctrOf s (rkey 0x10104 slot)) 1 else ctrOf s k := by
  have hirq (u : State) : ctrOf (irqSet 0x10044 2 u) k = ctrOf u k := rfl
  rw [honour_new sender excess hj hm, hirq, ctrOf_setCtr, ctrOf_setCtr, ctrOf_bump]
  rfl

/-- SLIP stands in the interrupt status. -/
theorem bitOf_honour : bitOf (regA (honour slot mer sender excess s) 0x10044) 1 = true := by
  rw [honour_new sender excess hj hm, regA_irqSet_self, bitOf_or]
  exact Bool.or_true _

theorem honour_honour : honour slot mer sender excess (honour slot mer sender excess s) = honour slot mer sender excess s :=
  honour_held sender excess (look_jobs_honour sender excess hj hm) (List.mem_append_right _ (List.mem_singleton_self mer))

end Honour

/-- Settles O20: each row of the MER block's slips, and a slip that is honoured once. -/
theorem slips : Obligations.Slips := by
  intro t s slot j s1
  refine ⟨jobDeadline_due rfl, fun excess hj => ⟨requestSlip_again hj, requestSlip_beyond hj⟩, ?receive,
    fun job sender => jobAbortReceive_known rfl,
    fun sender excess mer hj => ⟨honour_held sender excess hj, fun hm => ?honoured⟩⟩
  case receive =>
    intro bit job sender mer segment excess period run u got hj hl hb hn
    have hgot := slipRequestReceive_new (segment := segment) (excess := excess) (tail := ⟨period, run⟩) rfl hj hl hb hn
    refine ⟨fun hm hp hg => hgot.trans (congrArg _ ?inTime), fun hm => hgot.trans (congrArg _ (if_pos hm)),
      fun hm hd => hgot.trans (congrArg _ ?disagrees)⟩
    case inTime => exact (if_neg (Int.not_le.2 hm)).trans (if_neg (not_or.2 ⟨not_not.2 hp, not_not.2 hg⟩))
    case disagrees => exact (if_neg (Int.not_le.2 hm)).trans (if_pos hd)
  case honoured =>
    have hctr := ctrOf_honour sender excess hj hm
    refine ⟨look_jobs_honour sender excess hj hm, ?count, ?sender, ?excess, bitOf_honour sender excess hj hm,
      honour_honour sender excess hj hm⟩
    case count => simp [hctr, rkey_inj, satAdd]
    case sender => simp [hctr, rkey_inj]
    case excess => simp [hctr]

end Sys2Proof.Machine
end

section
/-! The timebase: its choice of a reference, its setting, its states and its pins (spec/02 R36; spec/12 R327 to R330): O24. -/

namespace Sys2Proof.Machine

/-! ### Steps, slews and states (R36) -/

/-- A timebase that was just set shows what it was set to. -/
theorem ptpNs_set {u : State} (hns : u.now = u.ptp.nsAt) (hslew : u.now = u.ptp.slewAt) (hfrac : u.ptp.frac = 0) :
    ptpNs u = u.ptp.ns := by
  rw [ptpNs, ptpFine_anchored hns hslew, hfrac]
  omega

/-- A time that is set is the time of day, whether the next meridian is placed anew or not. -/
theorem ptpNs_stepTime (ns : Nat) (s : State) : ptpNs (stepTime ns s) = ns := by
  have hplaced (u : State) : ptpNs (if u.mer.placing then placeNext u else u) = ptpNs u := by split <;> rfl
  exact (hplaced _).trans (ptpNs_set rfl rfl rfl)

/-- A slew leaves the time unbroken: what was slewed until now is kept. -/
theorem ptpFine_slewTime (offset : Int) (s : State) : ptpFine (slewTime offset s) = ptpFine s := by
  have hkept : ptpFine (slewTime offset s) =
      ((s.ptp.ns * 100000 + (s.now - s.ptp.nsAt) * s.ptp.rate / s.ptp.rateCc : Nat) +
        (s.ptp.frac + slewBy s.ptp.owed (s.now - s.ptp.slewAt)) + slewBy (-offset * 100000) (s.now - s.now)).toNat := rfl
  rw [hkept, Nat.sub_self, slewBy_zero, add_zero, ptpFine, add_assoc]

/-- The timebase steps only with no job and an offset above 1 µs, and slews in every other case. -/
theorem servo_eq (offset : Int) (s : State) :
    servo offset s =
      let u := { s with ptp := { s.ptp with offset, lastMsg := s.now } }
      setLock (if 2 * offset.natAbs ≤ 25 then 0 else if offset.natAbs ≤ 1000 then 1 else 2)
        (if 1000 < offset.natAbs ∧ s.jobs = [] then stepTime ((ptpNs s : Int) - offset).toNat u else slewTime offset u) := by
  simp only [servo, List.isEmpty_iff]
  rfl

theorem setLock_same {l : Nat} {s : State} (h : s.ptp.lock = l) : setLock l s = s := if_pos h

/-- The timebase has entered a state, and the interrupt is set. -/
def lockEntered (l : Nat) (s : State) : State := irqSet 0x10044 4 { s with ptp := { s.ptp with lock := l } }

theorem setLock_enters {l : Nat} {s : State} (h : s.ptp.lock ≠ l) :
    setLock l s =
      if l = 1 then raise { src := 0x020 } (lockEntered l s)
      else if l = 2 then (multiJobs (lockEntered l s)).foldl (fun v k => raiseJob 0x021 k v) (lockEntered l s)
      else lockEntered l s := if_neg h

/-! ### The rows of the timebase (R327 to R330) -/

section Rows
variable {t : Nat} {s s1 : State} (hs : tick t s = s1)
include hs

theorem merHoldoverExpiry_due (hl : live s1 = true) (hd : s1.ptp.lastMsg + 3300000 * cfg s1 0x10034 0 16 ≤ s1.now) :
    exec (.merHoldoverExpiry t) s = .next (setLock 2 s1) := by
  subst hs
  rw [Nat.mul_comm] at hd
  exact congrArg Host.Outcome.next (if_pos ⟨hl, hd⟩)

/-- What a PTP message of the module's domain from another node does, by its kind. -/
theorem ptpMessageReceive_heard {m : PtpMsg} (hl : live s1 = true) (hp : ptpPort s1 m.port = true) (hr : cfg s1 0x719000 0 2 = 1)
    (hd : m.domain = cfg s1 0x719000 6 7) (hm : m.ann.sender ≠ s1.alm.macBase) :
    exec (.ptpMessageReceive t m) s = .next (
      if m.kind = 0 then ptpSelect { s1 with ptp := { s1.ptp with heard := tput s1.ptp.heard m.port (m.ann, s1.now) } }
      else if s1.ptp.slave ≠ m.port then s1
      else if m.kind = 1 then servo (ptpStamp s1 m - m.sent - s1.ptp.path)
        { s1 with ptp := { s1.ptp with t1 := m.sent, t2 := ptpStamp s1 m } }
      else { s1 with ptp := { s1.ptp with
        path := (if cfg s1 0x719000 3 1 = 1 then ptpStamp s1 m - s1.ptp.t3 - m.sent
          else (s1.ptp.t2 - s1.ptp.t1) + (m.sent - s1.ptp.t3)) / 2
        lastMsg := s1.now } }) := by
  subst hs
  exact congrArg Host.Outcome.next (if_neg (by simp [hl, hp, hr, hd, hm]))

/-- A PTP message whose sender it is, and whose time has come, leaves; a sync of two steps with its follow-up. -/
theorem ptpMessageSend_due {port kind : Nat} (ho : portsOn s1 = true) (hp : ptpPort s1 port = true)
    (hmay : if kind = 2 then s1.ptp.slave = port else kind < 2 ∧ isMaster s1 port = true)
    (hdue : ∀ c, look s1.ptp.sentAt (4 * port + kind) = some c → c + ptpEvery s1 kind ≤ s1.now) :
    exec (.ptpMessageSend t port kind) s = .next (
      let u := queueTx port (ptpFrame s1 kind)
        { s1 with ptp := { s1.ptp with sentAt := tput s1.ptp.sentAt (4 * port + kind) s1.now } }
      if kind = 1 ∧ cfg u 0x719000 2 1 = 0 then queueTx port (ptpFrame u 3) u else u) := by
  have hall : (look s1.ptp.sentAt (4 * port + kind)).all (fun c => decide (c + ptpEvery s1 kind ≤ s1.now)) = true := by
    simpa [Option.all_eq_true] using hdue
  subst hs
  exact congrArg Host.Outcome.next (if_pos ⟨ho, hp, hmay, hall⟩)

/-- A master heard for the last time three announce intervals ago is dropped, and a locked timebase that followed it drifts. -/
theorem ptpAnnounceTimeout_due {port at_ : Nat} {a : Announce} {master : Option Nat} (hl : live s1 = true)
    (ha : look s1.ptp.heard port = some (a, at_)) (hd : at_ + 3300000 * 3000 ≤ s1.now) (hm : ∀ m ∈ master, m = a.sender) :
    exec (.ptpAnnounceTimeout t port master) s = .next (
      let u := ptpSelect { s1 with ptp := { s1.ptp with heard := tdel s1.ptp.heard port } }
      if s1.ptp.slave = port ∧ u.ptp.lock = 0 then setLock 1 u else u) := by
  subst hs
  have hany : ¬ master.any (fun m => decide (m ≠ a.sender)) = true := by simpa [Option.any_eq_true] using hm
  refine congrArg Host.Outcome.next ?_
  rw [ha]
  exact if_neg (not_or.2 ⟨not_not.2 hl, not_or.2 ⟨Nat.not_lt.2 hd, hany⟩⟩)

theorem syncInEdge_followed {ns : Nat} {offset : Int} (hl : live s1 = true) (hm : cfg s1 0x719040 0 2 = 1) :
    exec (.syncInEdge t ns offset) s = .next (
      let u := servo offset { s1 with ptp := { s1.ptp with slave := 0xFE, inPresent := true, lastEdge := s1.now } }
      if 1000 < offset.natAbs ∧ s1.jobs = [] then stepTime ns u else u) := by
  subst hs
  refine congrArg Host.Outcome.next ((if_neg (not_or.2 ⟨not_not.2 hl, not_not.2 hm⟩)).trans ?_)
  simp only [Bool.and_eq_true, decide_eq_true_eq, List.isEmpty_iff]

theorem syncInAbsent_due (hp : s1.ptp.inPresent = true) (hd : s1.ptp.lastEdge + 3300000 * 1100 ≤ s1.now) :
    exec (.syncInAbsent t) s = .next (
      let u := { s1 with ptp := { s1.ptp with inPresent := false } }
      if s1.ptp.slave = 0xFE ∧ s1.ptp.lock = 0 then setLock 1 u else u) := by
  subst hs
  exact congrArg Host.Outcome.next (if_pos ⟨hp, hd⟩)

theorem syncOutPulse_due (hl : live s1 = true)
    (hd : (cfg s1 0x719040 2 2 = 2 ∧ s1.now = s1.mer.at_) ∨
      (cfg s1 0x719040 2 2 = 1 ∧ (ptpNs s1 % 10 ^ 9 ≤ 2 ∨ 10 ^ 9 - 2 ≤ ptpNs s1 % 10 ^ 9))) :
    exec (.syncOutPulse t) s = .next { s1 with out := .pulse (ptpNs s1) :: s1.out } := by
  subst hs
  exact congrArg Host.Outcome.next (if_pos ⟨hl, hd.symm⟩)

theorem ptpTimeSet_free {ns : Nat} (hb : barServed s1 = true) (hj : s1.jobs = []) (hm : 96 ≤ s1.ptp.slave) :
    exec (.ptpTimeSet t ns) s = .next (
      let u := stepTime (s1.ptp.setSec * 10 ^ 9 + ns) s1
      { u with ptp := { u.ptp with todSet := true } }) := by
  subst hs
  exact congrArg Host.Outcome.next (if_pos ⟨hb, List.isEmpty_iff.2 hj, hm⟩)

end Rows

/-- Settles O24: each row of the timebase acts where its condition holds, and what a step, a slew and a change of state are. -/
theorem timebases : Obligations.Timebases := by
  intro t s s1
  refine ⟨merHoldoverExpiry_due rfl, ?receive, fun port kind => ptpMessageSend_due rfl, ?lost,
    fun ns offset => syncInEdge_followed rfl, syncInAbsent_due rfl, syncOutPulse_due rfl, fun ns => ptpTimeSet_free rfl,
    fun ns => ptpNs_stepTime ns s,
    fun offset => ⟨ptpFine_slewTime offset s, servo_eq offset s⟩, ?states⟩
  case receive =>
    intro m hl hp hr hd hm at_
    have hgot := ptpMessageReceive_heard rfl hl hp hr hd hm
    refine ⟨fun hk => hgot.trans (congrArg _ (if_pos hk)), fun hk hsl => hgot.trans (congrArg _ ?sync),
      fun hk hsl => hgot.trans (congrArg _ ?delay)⟩
    case sync => rw [if_neg (by omega), if_neg (not_not.2 hsl), if_pos hk]
    case delay => rw [if_neg (by omega), if_neg (not_not.2 hsl), if_neg (by omega)]
  case lost =>
    intro port a at_ hl ha hd
    exact ⟨ptpAnnounceTimeout_due rfl hl ha hd (by simp), ptpAnnounceTimeout_due rfl hl ha hd (by simp)⟩
  case states =>
    intro l u
    refine ⟨setLock_same, fun h hl => ?locked, fun h hl => ?drifts, fun h hl => ?unlocked⟩
    case locked => rw [setLock_enters h, if_neg (by omega), if_neg (by omega)]; rfl
    case drifts => rw [setLock_enters h, if_pos hl]; rfl
    case unlocked => rw [setLock_enters h, if_neg (by omega), if_pos hl]; rfl

end Sys2Proof.Machine
end

section
/-! The device-memory window (spec/08 R211, R215; spec/14 R374): O44. -/

namespace Sys2Proof.Machine

/-! ### Traffic outside the plans leaves HBM as it is (R46) -/

theorem takeOpen_hbm (tenant : Option Nat) (r dir n c : Nat) (s : State) : (takeOpen tenant r dir n c s).2.hbm = s.hbm :=
  (apply_ite State.hbm _ _ _).trans (ite_self _)

theorem translate_hbm (tenant : Option Nat) (ps : List (Place × Nat)) (s : State) : (translate tenant ps s).hbm = s.hbm :=
  (apply_ite State.hbm _ _ _).trans (ite_self _)

/-- Taking a run of slots leaves HBM as it is. -/
theorem takeOpens_hbm (tenant : Option Nat) (asks : List (Nat × Nat × Nat)) (a : Nat × State) :
    (asks.foldl (fun a x => takeOpen tenant x.1 x.2.1 x.2.2 a.1 a.2) a).2.hbm = a.2.hbm := by
  induction asks generalizing a with
  | nil => rfl
  | cons x asks ih => rw [List.foldl_cons, ih, takeOpen_hbm]

theorem goNow_hbm (tenant : Option Nat) (src dst : List (Place × Nat)) (s : State) (iod : Nat) :
    (goNow tenant src dst s iod).hbm = s.hbm :=
  (translate_hbm _ _ _).trans (takeOpens_hbm _ _ _)

/-- Traffic that goes now finds HBM as it stood. -/
theorem hbmRead_goNow (tenant : Option Nat) (src dst : List (Place × Nat)) (s : State) (k n : Nat) :
    hbmRead (goNow tenant src dst s) k n = hbmRead s k n := by
  rw [hbmRead, goNow_hbm, hbmRead]

/-! ### Reads of a tenant's window (R215, R374) -/

section Answer
variable (fn addr len frame : Nat) (data : List Byte) (s : State)

theorem answerRead_ok : answerRead fn addr len frame .ok data s =
    emit (.completion (takeRead fn addr len s).1 false data) (takeRead fn addr len s).2 := rfl

theorem answerRead_ce : answerRead fn addr len frame .ce data s =
    emit (.completion (takeRead fn addr len s).1 false data) (hbmCe (frame / 2 ^ 20) (takeRead fn addr len s).2) := rfl

theorem answerRead_ue : answerRead fn addr len frame .ue data s =
    emit (.completion (takeRead fn addr len s).1 true [])
      (hbmUe frame none (pageOwner (takeRead fn addr len s).2 frame) (takeRead fn addr len s).2) := rfl

end Answer

/-- An access within a function's BAR4, with memory accesses enabled, is not ignored. -/
theorem bar_inside {s : State} {fn addr n : Nat} (hm : memOk s fn = true) (hin : addr + n ≤ barBytes s fn) :
    ¬ (¬ memOk s fn = true ∨ barBytes s fn < addr + n) :=
  not_or.2 ⟨not_not.2 hm, Nat.not_lt.2 hin⟩

section Reads
variable {t fn addr len va : Nat} {s s1 : State} (hs : tick t s = s1) (hva : tget s1.pcie.windows fn 0 + addr = va)
  (hm : memOk s1 fn = true) (hin : addr + len ≤ barBytes s1 fn) (hfn : fn ≠ 0) (ecc : Ecc)
include hs hva hm hin hfn

/-- A read that meets a page elsewhere is a miss. -/
theorem bar4Read_missed (hp : barPlaces s1 (fn - 1) va len false = none) :
    exec (.bar4Read t fn addr len ecc) s =
      .next (emit (.completion (takeRead fn addr len s1).1 true []) (barMiss (takeRead fn addr len s1).2)) := by
  subst hs hva
  refine congrArg Host.Outcome.next ((if_neg (bar_inside hm hin)).trans ((if_neg hfn).trans ?_))
  simp only [hp]

/-- A read that meets its pages in HBM goes now, or is held; it reads HBM as it stands. -/
theorem bar4Read_placed {ps : List (Nat × Nat × Nat)} (hp : barPlaces s1 (fn - 1) va len false = some ps) :
    exec (.bar4Read t fn addr len ecc) s = .next (
      if tenantWaits s1 (fn - 1) va len false then holdRead fn addr len s1
      else answerRead fn addr len (((ps.head?).map (·.1)).getD 0 / 65536) ecc ((ps.map (fun p => hbmRead s1 p.1 p.2.1)).flatten)
        (goNow (some (fn - 1)) (ps.map (fun p => (.hbm p.1 p.2.2, p.2.1))) (hostEnd len) s1)) := by
  subst hs hva
  refine congrArg Host.Outcome.next ((if_neg (bar_inside hm hin)).trans ((if_neg hfn).trans ?_))
  simp only [hp, hbmRead_goNow]

end Reads

/-! ### Writes (R211, R214, R374) -/

/-- A write that need not wait, with none held before it, lands. -/
theorem writeHeld_lands {w : HeldWrite} {s : State} (hh : s.held = []) (hw : heldWaits s w = false) :
    writeHeld w s = landHeld w s := if_pos (by simp [hh, hw])

/-- A write that has to wait, or comes after one that does, is held. -/
theorem writeHeld_waits {w : HeldWrite} {s : State} (h : s.held ≠ [] ∨ heldWaits s w = true) :
    writeHeld w s = moveHeld w { s with held := s.held ++ [w] } :=
  if_neg (by rcases h with h | h <;> simp [h])

/-- A write of a tenant that meets its pages, with no error under it, takes its slots and is written. -/
theorem landHeld_tenant {w : HeldWrite} {tenant : Nat} {s : State} (ht : w.tenant = some tenant) (he : w.ecc = .ok)
    (hm : hostMisses s tenant w = false) :
    landHeld w s =
      let went := goNow (some tenant) (heldFrom w) (heldPlaces s tenant w) s
      writeVa (farWrite w.slot tenant (8 * w.slot + 5)) tenant (jobCores went w.slot) w.va w.data went := by
  simp [landHeld, ht, he, hm]

/-- A write of the owner, with no error under it, takes its slots and goes by physical address. -/
theorem landHeld_owner {w : HeldWrite} {s : State} (ht : w.tenant = none) (he : w.ecc = .ok) :
    landHeld w s = ownerWrite w.va w.data (goNow none (hostEnd w.data.length) (keyPlaces w.va w.data.length) s) := by
  simp [landHeld, ht, he]

section Writes
variable {t fn addr : Nat} {data : List Byte} {s s1 : State} (hs : tick t s = s1) (hm : memOk s1 fn = true)
  (hin : addr + data.length ≤ barBytes s1 fn) (ecc : Ecc)
include hs hm hin

/-- A tenant's write misses and is discarded, or lands or waits at its window's address. -/
theorem bar4Write_tenant (hfn : fn ≠ 0) :
    exec (.bar4Write t fn addr ⟨data, ecc⟩) s = .next (
      let w : HeldWrite :=
        { tenant := some (fn - 1), slot := 4096, va := tget s1.pcie.windows fn 0 + addr, data, ecc, src := some hostBar }
      if hostMisses s1 (fn - 1) w then barMiss s1 else writeHeld w s1) := by
  subst hs
  refine congrArg Host.Outcome.next ((if_neg (bar_inside hm hin)).trans ?_)
  simp only [hfn, if_false, ne_eq, not_false_eq_true, true_and]

/-- The owner's write lands or waits at its physical address. -/
theorem bar4Write_owner (hfn : fn = 0) :
    exec (.bar4Write t fn addr ⟨data, ecc⟩) s =
      .next (writeHeld { tenant := none, slot := 4096, va := addr, data, ecc, src := some hostBar } s1) := by
  subst hs
  refine congrArg Host.Outcome.next ((if_neg (bar_inside hm hin)).trans ?_)
  simp only [hfn, if_true, ne_eq, not_true_eq_false, false_and, if_false]

end Writes

/-! ### Held reads (R374) -/

/-- A held read that 1 ms has passed over ends with Completer Abort. -/
theorem bar4ReadTimeout_due {t id : Nat} {r : Nat × Nat × Nat × Nat} {s s1 : State} (hs : tick t s = s1)
    (hr : look s1.pcie.reads id = some r) (hd : r.2.2.2 + msCc 1 ≤ s1.now) :
    exec (.bar4ReadTimeout t id) s = .next (emit (.completion id true [])
      (barMiss { s1 with pcie := { s1.pcie with reads := tdel s1.pcie.reads id } })) := by
  subst hs
  refine congrArg Host.Outcome.next ?_
  rw [hr]
  exact if_neg (Nat.not_lt.2 hd)

/-- Settles O44: reads and writes of a tenant's window, the owner's writes, and a held read that is never served. -/
theorem deviceWindow : Obligations.DeviceWindow := by
  intro t fn addr s s1 va tenant hm
  refine ⟨?served, ?held, ?missed, ?writes, ?owner, fun id r => bar4ReadTimeout_due rfl⟩
  case served =>
    intro len ps hin hfn hps hw data frame r
    have hread (ecc : Ecc) := (bar4Read_placed rfl rfl hm hin hfn ecc hps).trans (congrArg _ (if_neg (Bool.eq_false_iff.1 hw)))
    exact ⟨(hread .ok).trans (congrArg _ (answerRead_ok ..)), (hread .ce).trans (congrArg _ (answerRead_ce ..)),
      (hread .ue).trans (congrArg _ (answerRead_ue ..))⟩
  case held =>
    intro len ecc ps hin hfn hps hw
    exact (bar4Read_placed rfl rfl hm hin hfn ecc hps).trans (congrArg _ (if_pos hw))
  case missed => exact fun len ecc hin hfn hps => bar4Read_missed rfl rfl hm hin hfn ecc hps
  case writes =>
    intro data ecc hin hfn w went
    have hwrite := bar4Write_tenant rfl hm hin ecc hfn
    have hmet (hx : hostMisses s1 tenant w = false) : exec (.bar4Write t fn addr ⟨data, ecc⟩) s = .next (writeHeld w s1) :=
      hwrite.trans (congrArg _ (if_neg (Bool.eq_false_iff.1 hx)))
    refine ⟨fun hx => hwrite.trans (congrArg _ (if_pos hx)), fun hx hh hw he => ?lands, fun hx hw => ?waits⟩
    case lands =>
      have hland : landHeld w s1 = writeVa (farWrite 4096 tenant 32773) tenant (jobCores went 4096) va data went :=
        landHeld_tenant rfl he hx
      rw [hmet hx, writeHeld_lands hh hw, hland]
    case waits => exact (hmet hx).trans (congrArg _ (writeHeld_waits hw))
  case owner =>
    intro data hin hfn hh hw
    subst hfn
    have howner : heldWaits s1 { tenant := none, slot := 4096, va := addr, data, ecc := .ok, src := some hostBar } = false := hw
    rw [bar4Write_owner rfl hm hin .ok rfl, writeHeld_lands hh howner, landHeld_owner rfl rfl]

end Sys2Proof.Machine
end

section
/-! The logarithmic formats (spec/03 R67 to R71), the 2^frac table (R78) and the conversion to X32 and back (R80 to R84): O54
and O55. -/

namespace Sys2Proof.Machine

/-! ### Codes of a logarithmic format (R67 to R71) -/

/-- The position that a finite nonzero code stands for (R71). -/
def LogFmt.position (f : LogFmt) (c : Nat) : Int := f.step * ((c : Int) - f.bias)

/-- What L4, L8 and L16 share: the codes of a sign are zero or NaN, the finite ones and infinity, whole steps make up an octave,
and every position lies within 32 octaves of magnitude 1. -/
structure LogFmt.Standard (f : LogFmt) : Prop where
  width : 0 < f.width
  codes : 2 ^ (f.width - 1) = f.cmax + 2
  octave : ∃ n, f.step * n = 512
  low : -16384 ≤ f.position 0
  high : f.position f.cmax < 16384

theorem fmtL4_standard : fmtL4.Standard := ⟨by decide, by decide, ⟨2, rfl⟩, by decide, by decide⟩
theorem fmtL8_standard : fmtL8.Standard := ⟨by decide, by decide, ⟨8, rfl⟩, by decide, by decide⟩
theorem fmtL16_standard : fmtL16.Standard := ⟨by decide, by decide, ⟨512, rfl⟩, by decide, by decide⟩

section Codes
variable {f : LogFmt} (hf : f.Standard)
include hf

theorem LogFmt.Standard.step_pos : 0 < f.step := by
  obtain ⟨n, hn⟩ := hf.octave
  exact Nat.pos_of_mul_pos_right (hn ▸ (by decide : 0 < 512))

theorem LogFmt.Standard.position_lt {c d : Nat} (h : c < d) : f.position c < f.position d :=
  Int.mul_lt_mul_of_pos_left (by omega) (by exact_mod_cast hf.step_pos)

/-- The positions of the finite codes stay within 32 octaves. -/
theorem LogFmt.Standard.position_range {c : Nat} (hc : c ≤ f.cmax) : -16384 ≤ f.position c ∧ f.position c < 16384 := by
  have hmono {a b : Nat} (h : a ≤ b) : f.position a ≤ f.position b :=
    h.eq_or_lt.elim (fun e => e ▸ le_rfl) (fun l => (hf.position_lt l).le)
  exact ⟨hf.low.trans (hmono c.zero_le), (hmono hc).trans_lt hf.high⟩

/-- What a code means, by its sign and its magnitude code. -/
theorem logVal_logCode {c : Nat} (neg : Bool) (hc : c ≤ f.cmax + 1) :
    logVal f 0 (logCode f neg c) =
      if c = 0 then (if neg then .nan else .zero) else if c = f.cmax + 1 then .inf neg else .pos neg (f.position c) := by
  have hc' : c < f.cmax + 2 := Nat.lt_succ_of_le hc
  have hsign : bitOf (logCode f neg c) (f.width - 1) = neg := by
    rw [logCode, bitOf, hf.codes]
    cases neg <;> simp [Nat.div_eq_of_lt hc']
  have hmag : bits (logCode f neg c) 0 (f.width - 1) = c := by
    rw [logCode, bits, hf.codes]
    cases neg <;> simp [Nat.mod_eq_of_lt hc']
  simp only [logVal, hsign, hmag, LogFmt.position, mul_zero, add_zero]

/-- Every code of the format's width is a sign and a magnitude code. -/
theorem exists_logCode {code : Nat} (h : code < 2 ^ f.width) : ∃ neg c, c ≤ f.cmax + 1 ∧ code = logCode f neg c := by
  have hw : 2 ^ f.width = 2 * (f.cmax + 2) := by
    rw [← hf.codes, ← pow_succ', Nat.sub_add_cancel hf.width]
  by_cases hs : code < f.cmax + 2
  · exact ⟨false, code, by omega, by simp [logCode]⟩
  · exact ⟨true, code - (f.cmax + 2), by omega, by simp [logCode, hf.codes]; omega⟩

end Codes

/-- With n steps to the octave, a position stands for 2 to the power (c − B)/n. -/
theorem magnitude_of_position {f : LogFmt} {n : Nat} (hn : f.step * n = 512) (c : Nat) :
    (2 : ℝ) ^ ((f.position c : ℝ) / 512) = 2 ^ (((c : ℝ) - f.bias) / n) := by
  have hreal : (f.step : ℝ) * n = 512 := by exact_mod_cast hn
  have hn0 : (n : ℝ) ≠ 0 := by rintro h; rw [h, mul_zero] at hreal; norm_num at hreal
  have hs0 : (f.step : ℝ) ≠ 0 := by rintro h; rw [h, zero_mul] at hreal; norm_num at hreal
  rw [LogFmt.position, ← hreal]
  push_cast
  rw [mul_div_mul_left _ _ hs0]

/-- The codes of a sign: infinity, and the finite ones with their magnitude. -/
theorem logCode_meaning {f : LogFmt} (hf : f.Standard) {n : Nat} (hn : f.step * n = 512) (neg : Bool) :
    logVal f 0 (logCode f neg (f.cmax + 1)) = .inf neg ∧
      ∀ c : Nat, 1 ≤ c → c ≤ f.cmax → ∃ p : Int, logVal f 0 (logCode f neg c) = .pos neg p ∧
        (2 : ℝ) ^ ((p : ℝ) / 512) = 2 ^ (((c : ℝ) - f.bias) / n) := by
  refine ⟨by simp [logVal_logCode hf neg le_rfl], fun c h1 hc => ⟨f.position c, ?_, magnitude_of_position hn c⟩⟩
  rw [logVal_logCode hf neg (by omega), if_neg (by omega), if_neg (by omega)]

/-- Settles O54: the special codes are evaluated, the others are a sign and a magnitude code. -/
theorem logCodes : Obligations.LogCodes := by
  intro neg s8 s16
  exact ⟨⟨rfl, rfl, logCode_meaning fmtL8_standard rfl neg⟩, ⟨rfl, rfl, logCode_meaning fmtL16_standard rfl neg⟩⟩

/-! ### The search that the table and the stochastic rounding make -/

/-- Where the test holds of `r` and fails at the end of the range, the search ends where it holds and fails for the next. -/
theorem searchBits_spec {ok : Nat → Bool} {b r : Nat} (hr : ok r = true) (hend : ok (r + 2 ^ b) = false) :
    r ≤ searchBits ok b r ∧ searchBits ok b r < r + 2 ^ b ∧
      ok (searchBits ok b r) = true ∧ ok (searchBits ok b r + 1) = false := by
  induction b generalizing r with
  | zero => exact ⟨le_rfl, Nat.lt_add_one r, hr, hend⟩
  | succ b ih =>
    have hhalf : r + 2 ^ (b + 1) = r + 2 ^ b + 2 ^ b := by rw [pow_succ]; omega
    rw [searchBits]
    split
    next hmid =>
      obtain ⟨hlo, hhi, hok, hnext⟩ := ih hmid (hhalf ▸ hend)
      exact ⟨by omega, by omega, hok, hnext⟩
    next hmid =>
      obtain ⟨hlo, hhi, hok, hnext⟩ := ih hr (Bool.eq_false_iff.2 hmid)
      exact ⟨hlo, by omega, hok, hnext⟩

/-! ### Positions of magnitudes (R71, R78) -/

/-- The position of the magnitude m / 2^k: its base-2 logarithm times 512 (R71). -/
noncomputable def realPos (m k : Nat) : ℝ := 512 * (Real.logb 2 m - k)

/-- A factor of 2^b, counted in other units. -/
theorem realPos_mul_two_pow {m : Nat} (hm : 0 < m) (b k l : Nat) :
    realPos (m * 2 ^ b) l = realPos m k + 512 * ((k : ℝ) + b - l) := by
  have hlog : Real.logb 2 ((m * 2 ^ b : Nat) : ℝ) = Real.logb 2 m + b := by
    push_cast
    rw [Real.logb_mul (by positivity) (by positivity), Real.logb_pow, Real.logb_self_eq_one (by norm_num), mul_one]
  rw [realPos, realPos, hlog]
  ring

/-- From 2^22 on, neighbouring integers are less than half a position apart. -/
theorem logb_succ_lt {x : Nat} (hx : 2 ^ 22 ≤ x) : 512 * Real.logb 2 (x + 1 : Nat) < 512 * Real.logb 2 x + 1 / 2 := by
  have hx' : (2 ^ 22 : ℝ) ≤ x := by exact_mod_cast hx
  have hx0 : (0 : ℝ) < x := by linarith
  have h2 : (0.69 : ℝ) < Real.log 2 := by linarith [Real.log_two_gt_d9]
  have hgap : Real.log (x + 1) - Real.log x ≤ 1 / x := by
    rw [← Real.log_div (by positivity) (by positivity)]
    calc Real.log ((x + 1) / x) ≤ (x + 1) / x - 1 := Real.log_le_sub_one_of_pos (by positivity)
      _ = 1 / x := by field_simp; ring
  have hsmall : (1 : ℝ) / x ≤ 1 / 2 ^ 22 := one_div_le_one_div_of_le (by norm_num) hx'
  have hquot : (Real.log (x + 1) - Real.log x) / Real.log 2 < 1 / 1024 := by
    rw [div_lt_iff₀ (by linarith)]
    linarith
  rw [sub_div] at hquot
  push_cast
  simp only [Real.logb]
  linarith

/-- A power of two against a 512th power, in positions. -/
theorem pow_512_le_two_pow {x n : Nat} (hx : 0 < x) : x ^ 512 ≤ 2 ^ n ↔ 512 * Real.logb 2 x ≤ n := by
  have hx' : (0 : ℝ) < x := by exact_mod_cast hx
  rw [← Nat.cast_le (α := ℝ), Nat.cast_pow, Nat.cast_pow, Nat.cast_ofNat,
    ← Real.logb_le_logb (b := 2) (by norm_num) (by positivity) (by positivity), Real.logb_pow, Real.logb_pow,
    Real.logb_self_eq_one (by norm_num), mul_one, Nat.cast_ofNat]

/-- The test by which entry j of the table is searched. -/
def tableTest (j t : Nat) : Bool := (2 * (2 ^ 22 + t) - 1) ^ 512 ≤ 2 ^ (23 * 512 + j)

theorem tableT_eq (j : Nat) : tableT j = searchBits (tableTest j) 22 0 := rfl

/-- The test in positions: 2^22 + t less a half is at most 2^(22 + j/512). -/
theorem tableTest_iff (j t : Nat) :
    tableTest j t = true ↔ 512 * Real.logb 2 (2 * (2 ^ 22 + t) - 1 : Nat) ≤ (23 * 512 + j : Nat) := by
  rw [tableTest, decide_eq_true_iff, pow_512_le_two_pow (by omega)]

/-- Entry j has 22 bits, and 2^22 more than it is the integer nearest to 2^(22 + j/512) (R78). -/
theorem tableT_nearest {j : Nat} (hj : j < 512) :
    tableT j < 2 ^ 22 ∧ tableTest j (tableT j) = true ∧ tableTest j (tableT j + 1) = false := by
  have hfirst : tableTest j 0 = true := by
    have hsig : 2 * (2 ^ 22 + 0) - 1 ≤ 2 ^ 23 := by norm_num
    rw [tableTest, decide_eq_true_iff, pow_add, pow_mul]
    exact (pow_le_pow_left₀ (Nat.zero_le _) hsig _).trans (Nat.le_mul_of_pos_right _ (by positivity))
  have hlast : tableTest j (0 + 2 ^ 22) = false := by
    rw [Bool.eq_false_iff, ne_eq, tableTest_iff]
    have hgap := logb_succ_lt (x := 2 ^ 24 - 1) (by norm_num)
    have htop : Real.logb 2 ((2 ^ 24 - 1 + 1 : Nat) : ℝ) = 24 := by
      rw [Nat.sub_add_cancel (by norm_num), Nat.cast_pow, Nat.cast_ofNat, Real.logb_pow, Real.logb_self_eq_one (by norm_num)]
      norm_num
    have hj' : (j : ℝ) ≤ 511 := by exact_mod_cast Nat.le_of_lt_succ hj
    rw [htop] at hgap
    norm_num at hgap ⊢
    linarith
  obtain ⟨-, hlt, hok, hnext⟩ := searchBits_spec hfirst hlast
  exact ⟨by simpa [tableT_eq] using hlt, hok, hnext⟩

/-- The table's significand for a fraction of an octave lies within half a position of it. -/
theorem realPos_tableT {j : Nat} (hj : j < 512) : |realPos (2 ^ 22 + tableT j) 22 - j| < 1 / 2 := by
  obtain ⟨-, hlo, hhi⟩ := tableT_nearest hj
  rw [tableTest_iff] at hlo
  rw [Bool.eq_false_iff, ne_eq, tableTest_iff, ← add_assoc] at hhi
  have hM : 2 ^ 22 ≤ 2 ^ 22 + tableT j := Nat.le_add_right ..
  generalize 2 ^ 22 + tableT j = M at hlo hhi hM ⊢
  have hbelow := logb_succ_lt (x := 2 * M - 1) (by omega)
  have habove := logb_succ_lt (x := 2 * M) (by omega)
  rw [Nat.sub_add_cancel (by omega)] at hbelow
  rw [show 2 * (M + 1) - 1 = 2 * M + 1 by omega] at hhi
  have hdouble : Real.logb 2 ((2 * M : Nat) : ℝ) = 1 + Real.logb 2 M := by
    rw [Nat.cast_mul, Nat.cast_ofNat, Real.logb_mul (by norm_num) (by norm_cast; omega), Real.logb_self_eq_one (by norm_num)]
  rw [hdouble] at hbelow habove
  rw [realPos, abs_lt]
  generalize Real.logb 2 ((2 * M - 1 : Nat) : ℝ) = below at *
  generalize Real.logb 2 ((2 * M + 1 : Nat) : ℝ) = above at *
  push_cast at hlo hhi ⊢
  constructor <;> linarith

/-! ### The exact value and the X32 word of a position (R74, R78, R84) -/

/-- The magnitude of a position in the units of `posVal`. -/
def posMag (p : Int) : Nat := (2 ^ 22 + tableT (p % 512).toNat) * 2 ^ (p / 512 + 1000).toNat

theorem posVal_eq (neg : Bool) (p : Int) : posVal neg p = .fin neg (posMag p) 1022 := rfl

theorem posMag_pos (p : Int) : 0 < posMag p := by
  unfold posMag
  positivity

/-- The magnitude of a position with 2^b for its octave lies within half a position of it. -/
theorem realPos_octave {p : Int} {b l : Nat} (h : p / 512 + l = b + 22) :
    |realPos ((2 ^ 22 + tableT (p % 512).toNat) * 2 ^ b) l - p| < 1 / 2 := by
  have hfrac := realPos_tableT (j := (p % 512).toNat) (by omega)
  have hparts : (p : ℝ) = (p % 512).toNat + 512 * ((22 : Nat) + b - l : ℝ) := by
    have : p = (p % 512).toNat + 512 * ((22 : Nat) + b - l : Int) := by omega
    exact_mod_cast this
  rw [realPos_mul_two_pow (by positivity) b 22 l, hparts, add_sub_add_right_eq_sub]
  exact hfrac

theorem realPos_posMag {p : Int} (hp : -16384 ≤ p) : |realPos (posMag p) 1022 - p| < 1 / 2 :=
  realPos_octave (by omega)

/-- A greater position has a greater magnitude. -/
theorem posMag_lt {p q : Int} (hp : -16384 ≤ p) (h : p < q) : posMag p < posMag q := by
  have hlo := (abs_lt.1 (realPos_posMag hp)).2
  have hhi := (abs_lt.1 (realPos_posMag (p := q) (by omega))).1
  have hpq : (p : ℝ) + 1 ≤ q := by exact_mod_cast h
  have hlog : Real.logb 2 (posMag p) < Real.logb 2 (posMag q) := by
    rw [realPos] at hlo hhi
    linarith
  have hreal := (Real.logb_lt_logb_iff (by norm_num) (by exact_mod_cast posMag_pos p) (by exact_mod_cast posMag_pos q)).1 hlog
  exact_mod_cast hreal

/-- What the word of a sign, exponent and fraction means, zero, infinity and NaN apart (R74). -/
theorem x32Val_x32Word {e t : Nat} (neg : Bool) (h1 : 1 ≤ e) (he : e ≤ 510) (ht : t < 2 ^ 22) :
    x32Val (x32Word neg e t) = .fin neg ((2 ^ 22 + t) * 2 ^ (e - 1)) 277 := by
  have hword : (x32Word neg e t).toNat = (if neg then 2 ^ 31 else 0) + e * 2 ^ 22 + t := by
    rw [x32Word, BitVec.toNat_ofNat]
    cases neg <;> simp <;> omega
  have hsign : bitOf ((if neg then 2 ^ 31 else 0) + e * 2 ^ 22 + t) 31 = neg := by
    cases neg <;> simp [bitOf] <;> omega
  have hexp : bits ((if neg then 2 ^ 31 else 0) + e * 2 ^ 22 + t) 22 9 = e := by
    cases neg <;> simp [bits] <;> omega
  have hfrac : bits ((if neg then 2 ^ 31 else 0) + e * 2 ^ 22 + t) 0 22 = t := by
    cases neg <;> simp [bits] <;> omega
  simp only [x32Val, hword, hsign, hexp, hfrac]
  rw [if_neg (by omega), if_neg (by omega)]

/-- A position within 32 octaves of magnitude 1, linearised: the word's value lies within half a position of it, and is the
position's exact value in other units. -/
theorem x32Val_linPos {p : Int} (neg : Bool) (hlo : -16384 ≤ p) (hhi : p < 16384) :
    ∃ m, x32Val (linPos neg p) = .fin neg m 277 ∧ 0 < m ∧ |realPos m 277 - p| < 1 / 2 ∧
      m * 2 ^ 1022 = posMag p * 2 ^ 277 := by
  obtain ⟨b, hb⟩ : ∃ b : Nat, p / 512 + 255 = b := ⟨_, (Int.toNat_of_nonneg (by omega)).symm⟩
  have hexp : (256 + p / 512).toNat = b + 1 := by omega
  obtain ⟨ht, -⟩ := tableT_nearest (j := (p % 512).toNat) (by omega)
  refine ⟨(2 ^ 22 + tableT (p % 512).toNat) * 2 ^ b, ?_, Nat.mul_pos (Nat.add_pos_left (by norm_num) _) (Nat.two_pow_pos b),
    realPos_octave (by omega), ?_⟩
  · simp only [linPos]
    rw [if_neg (by omega), if_neg (by omega), hexp, x32Val_x32Word neg (by omega) (by omega) ht, Nat.add_sub_cancel]
  · have hb' : (p / 512 + 1000).toNat = b + 745 := by omega
    rw [posMag, hb', mul_assoc, mul_assoc, ← pow_add, ← pow_add]

/-! ### Rounding to nearest (R82) -/

theorem log2_eq_floor {m : Nat} : (m.log2 : Int) = ⌊Real.logb 2 m⌋ := by
  rw [Nat.log2_eq_log_two, ← Int.log_natCast (R := ℝ), ← Real.floor_logb_natCast (Nat.cast_nonneg m), Nat.cast_ofNat]

/-- Rounding to nearest adds half a step to the position, in steps, and rounds down. -/
theorem nearLog_eq_floor {m k s n : Nat} (hm : 0 < m) (hn : s * n = 512) :
    nearLog m k s = ⌊n * (Real.logb 2 m - k) + 1 / 2⌋ := by
  have hs : 512 / s = n := Nat.div_eq_of_eq_mul_right (Nat.pos_of_mul_pos_right (hn ▸ (by decide : 0 < 512))) hn.symm
  have hm' : (m : ℝ) ≠ 0 := by positivity
  have hlog : Real.logb 2 ((2 * m ^ (2 * n) : Nat) : ℝ) = 1 + 2 * n * Real.logb 2 m := by
    push_cast
    rw [Real.logb_mul (by norm_num) (by positivity), Real.logb_pow, Real.logb_self_eq_one (by norm_num)]
    push_cast
    rfl
  have hhalf : n * (Real.logb 2 m - k) + 1 / 2 = (1 + 2 * n * Real.logb 2 m - (k * (2 * n) : Nat)) / (2 : Nat) := by
    push_cast
    ring
  rw [nearLog, hs, log2_eq_floor, hlog, hhalf, Int.floor_div_natCast, Int.floor_sub_natCast, Nat.cast_ofNat]

/-- A magnitude within half a position of a multiple of the step rounds to that multiple. -/
theorem nearLog_eq {m k s n : Nat} {d : Int} (hm : 0 < m) (hn : s * n = 512) (h : |realPos m k - (s * d : Int)| < 1 / 2) :
    nearLog m k s = d := by
  have hs : (1 : ℝ) ≤ s := by exact_mod_cast Nat.pos_of_mul_pos_right (hn ▸ (by decide : 0 < 512))
  have hsteps : realPos m k - (s * d : Int) = s * (n * (Real.logb 2 m - k) - d) := by
    have hn' : (s : ℝ) * n = 512 := by exact_mod_cast hn
    rw [realPos, ← hn']
    push_cast
    ring
  rw [hsteps, abs_mul, abs_of_pos (by linarith)] at h
  have hd : |n * (Real.logb 2 m - k) - d| < 1 / 2 := (le_mul_of_one_le_left (abs_nonneg _) hs).trans_lt h
  obtain ⟨hlo, hhi⟩ := abs_lt.1 hd
  rw [nearLog_eq_floor hm hn, Int.floor_eq_iff]
  constructor <;> linarith

/-! ### Conversion to X32 and back (R80) -/

/-- A finite code is selected as it is (R83). -/
theorem pickCode_finite {f : LogFmt} {c : Nat} (h1 : 1 ≤ c) (hc : c ≤ f.cmax) (satMode neg : Bool) :
    (pickCode f satMode neg c).code = logCode f neg c := by
  simp only [pickCode]
  rw [if_neg (by omega), if_pos (by omega), Int.toNat_natCast]

theorem codeMag_zero (f : LogFmt) : codeMag f 0 = 0 := rfl

theorem codeMag_finite (f : LogFmt) {c : Nat} (h1 : 1 ≤ c) : codeMag f c = posMag (f.position c) := if_neg (by omega)

section Finite
variable {f : LogFmt} (hf : f.Standard) {c : Nat} (h1 : 1 ≤ c) (hc : c ≤ f.cmax)
include hf h1 hc

/-- A value within half a position of a code's rounds to the code (R82). -/
theorem rnVal_finite {m k : Nat} (hm : 0 < m) (hpos : |realPos m k - f.position c| < 1 / 2) (satMode neg : Bool) :
    (rnVal f satMode (.fin neg m k)).code = logCode f neg c := by
  obtain ⟨n, hn⟩ := hf.octave
  simp only [rnVal]
  rw [nearLog_eq hm hn hpos, sub_add_cancel, pickCode_finite h1 hc]

/-- The magnitude codes rise with their values (R70). -/
theorem codeMag_lt {d : Nat} (hd : d < c) : codeMag f d < codeMag f c := by
  rw [codeMag_finite f h1]
  rcases Nat.eq_zero_or_pos d with rfl | hd0
  · exact codeMag_zero f ▸ posMag_pos _
  · rw [codeMag_finite f hd0]
    exact posMag_lt (hf.position_range (by omega)).1 (hf.position_lt hd)

/-- The search for the code below a value that is a code's finds that code (R84 step 2). -/
theorem floorCode_finite {m k : Nat} (hm : codeMag f c * 2 ^ k = m * 2 ^ 1022) : floorCode f m k = c := by
  have hend : ¬ 0 + 2 ^ (f.width - 1) ≤ f.cmax := by rw [hf.codes]; omega
  obtain ⟨-, -, hok, hnext⟩ := searchBits_spec (b := f.width - 1) (r := 0)
    (ok := fun q => q ≤ f.cmax && codeMag f q * 2 ^ k ≤ m * 2 ^ 1022)
    (by simp only [codeMag_zero, zero_mul, Nat.zero_le, decide_true, Bool.and_self])
    (by simp only [hend, decide_false, Bool.false_and])
  rw [floorCode]
  generalize searchBits _ _ _ = q at hok hnext ⊢
  simp only [← hm, Bool.and_eq_true, decide_eq_true_eq, Bool.and_eq_false_iff, decide_eq_false_iff_not] at hok hnext
  obtain ⟨hq, hle⟩ := hok
  rcases Nat.lt_trichotomy q c with hlt | heq | hgt
  · have hmono : codeMag f (q + 1) ≤ codeMag f c :=
      (Nat.succ_le_of_lt hlt).eq_or_lt.elim (fun e => e ▸ le_rfl) (fun l => (codeMag_lt hf h1 hc l).le)
    exact (hnext.elim (· (by omega)) (· (Nat.mul_le_mul_right _ hmono))).elim
  · exact heq
  · have hmono := codeMag_lt hf (by omega) hq hgt
    exact absurd (Nat.le_of_mul_le_mul_right hle (by positivity)) hmono.not_ge

/-- A value that is a code's is rounded to the code whatever is drawn (R84). -/
theorem srVal_finite {m k u : Nat} (hm : codeMag f c * 2 ^ k = m * 2 ^ 1022) (hu : u < 2 ^ 16) (satMode neg : Bool) :
    (srVal f satMode u (.fin neg m k)).code = logCode f neg c := by
  simp only [srVal, floorCode_finite hf h1 hc hm, hm, if_true, Nat.sub_self, mul_zero, Nat.zero_div, zero_add]
  split
  next hmax => rw [Nat.le_antisymm hmax hc]
  next => rw [if_neg (by omega), pickCode_finite h1 hc]

/-- A finite code, linearised, converts back to itself with either rounding (R80). -/
theorem convVal_finite {u : Nat} (hu : u < 2 ^ 16) (rm : Nat) (neg : Bool) :
    (convVal f rm u (x32Val (linPos neg (f.position c)))).code = logCode f neg c := by
  obtain ⟨hlo, hhi⟩ := hf.position_range hc
  obtain ⟨m, hval, hm0, hpos, hm⟩ := x32Val_linPos neg hlo hhi
  rw [hval, convVal]
  split
  · exact srVal_finite hf h1 hc (by rw [codeMag_finite f h1, hm]) hu _ neg
  · exact rnVal_finite hf h1 hc hm0 hpos _ neg

end Finite

theorem convVal_nan (f : LogFmt) (rm u : Nat) : (convVal f rm u .nan).code = logCode f true 0 := by
  rw [convVal]
  split <;> rfl

theorem convVal_zero (f : LogFmt) (rm u : Nat) (neg : Bool) : (convVal f rm u (.zero neg)).code = logCode f false 0 := by
  rw [convVal]
  split <;> rfl

theorem convVal_inf (f : LogFmt) (rm u : Nat) (neg : Bool) : (convVal f rm u (.inf neg)).code = logCode f neg (f.cmax + 1) := by
  rw [convVal]
  split <;> rfl

theorem x32Val_inf (neg : Bool) : x32Val (x32Word neg 511 0) = .inf neg := by cases neg <;> decide

/-- A sign and a magnitude code, converted to X32 and back, are as they were. -/
theorem convVal_linLog {f : LogFmt} (hf : f.Standard) {c u : Nat} (neg : Bool) (hc : c ≤ f.cmax + 1) (hu : u < 2 ^ 16)
    (rm : Nat) : (convVal f rm u (x32Val (linLog (logVal f 0 (logCode f neg c))))).code = logCode f neg c := by
  rw [logVal_logCode hf neg hc]
  split
  next h0 =>
    subst h0
    cases neg with
    | false => exact convVal_zero f rm u false
    | true => exact convVal_nan f rm u
  next h0 =>
    split
    next hinf =>
      subst hinf
      rw [linLog, x32Val_inf, convVal_inf]
    next hinf => exact convVal_finite hf (by omega) (by omega) hu rm neg

/-- Settles O55: the word of a finite code lies within half a position of it and is its value, so either rounding answers it. -/
theorem roundTrip : Obligations.RoundTrip := by
  intro f code rm u hfmt hcode hu
  have hf : f.Standard := by
    rcases hfmt with rfl | rfl | rfl
    · exact fmtL4_standard
    · exact fmtL8_standard
    · exact fmtL16_standard
  obtain ⟨neg, c, hc, rfl⟩ := exists_logCode hf hcode
  exact convVal_linLog hf neg hc hu rm

end Sys2Proof.Machine
end

section
/-! Moves, conversions and RDSPEC (spec/03 R77; spec/05 R113, R120, R128, R129): O4. -/

namespace Sys2Proof.Machine

/-- A scalar instruction that issues writes, after the book-keeping, the value it computes there. -/
theorem scalar_runs {op lat : Nat} {i : Issue} {s s1 : State} {th : Thread} {j : Job} {f : Ctx' → State → W64} {v : W64}
    (hs : tick i.t s = s1) (h : Issues 2 op i s1 th j) (hv : f (ctxAt i s1 th j) (afterIssue 2 i s1) = v) :
    scalar op lat f i s =
      .next (setSreg (thrKey i.core.val i.thr.val) (sSD i.word) v (i.t + lat) (afterIssue 2 i s1)) := by
  subst hs hv
  exact congrArg Host.Outcome.next (issue_runs h _)

/-- A word's upper half replaced (MOVHI), as a number. -/
theorem append_setWidth_32 {n : Nat} (hn : n < 2 ^ 32) (x : W64) :
    (BitVec.ofNat 32 n ++ x.setWidth 32 : W64) = BitVec.ofNat 64 (n * 2 ^ 32 + x.toNat % 2 ^ 32) := by
  apply BitVec.eq_of_toNat_eq
  rw [BitVec.toNat_append, BitVec.toNat_ofNat, BitVec.toNat_setWidth, BitVec.toNat_ofNat, Nat.mod_eq_of_lt hn,
    ← Nat.shiftLeft_add_eq_or_of_lt (Nat.mod_lt _ (by norm_num)), Nat.shiftLeft_eq]
  omega

theorem sImm32_lt (w : W64) : sImm32 w < 2 ^ 32 := Nat.mod_lt _ (by norm_num)

/-! The special values, by number (R129). -/

section Specials
variable {c : Ctx'} (s : State)

theorem specValue_thread (h : sImm32 c.w = 0) :
    specValue c s = BitVec.ofNat 64 (c.thr + c.core % 18 * 2 ^ 7 + c.core / 18 * 2 ^ 12) := by simp only [specValue, h]

theorem specValue_segmentCc (h : sImm32 c.w = 1) : specValue c s = BitVec.ofNat 64 (c.t - c.job.segAt) := by
  simp only [specValue, h]

theorem specValue_meridian (h : sImm32 c.w = 2) : specValue c s = BitVec.ofInt 64 s.mer.count := by simp only [specValue, h]

theorem specValue_tenant (h : sImm32 c.w = 3) : specValue c s = BitVec.ofNat 64 c.tenant := by simp only [specValue, h]

theorem specValue_job (h : sImm32 c.w = 4) :
    specValue c s = BitVec.ofNat 64 (c.job.id % 2 ^ 16 + c.slot * 2 ^ 16) := by simp only [specValue, h]

theorem specValue_segment (h : sImm32 c.w = 5) : specValue c s = BitVec.ofNat 64 (c.job.segs - 1) := by simp only [specValue, h]

theorem specValue_reserved (h : 5 < sImm32 c.w) : specValue c s = 0 := by
  obtain ⟨n, hn⟩ := Nat.exists_eq_add_of_le' h
  rw [specValue, hn]
  rfl

end Specials

/-- Settles O4: each value is computed from the registers before the issue. -/
theorem scalarMoves : Obligations.ScalarMoves := by
  intro i s th j s1
  have hs : tick i.t s = s1 := rfl
  clear_value s1
  intro k w a put
  refine ⟨fun h => scalar_runs hs h rfl, fun h => scalar_runs hs h ?movhi, fun h => scalar_runs hs h rfl,
    fun h => scalar_runs hs h rfl, fun h => ?rdspec⟩
  case movhi => exact append_setWidth_32 (sImm32_lt w) _
  case rdspec =>
    have hput {v : W64} (hv : specValue (ctxAt i s1 th j) (afterIssue 2 i s1) = v) : exec (.rdspec i) s = put v 2 :=
      scalar_runs hs h hv
    exact ⟨fun hn => hput (specValue_thread _ hn), fun hn => hput (specValue_segmentCc _ hn),
      fun hn => hput (specValue_meridian _ hn), fun hn => hput (specValue_tenant _ hn), fun hn => hput (specValue_job _ hn),
      fun hn => hput (specValue_segment _ hn), fun hn => hput (specValue_reserved _ hn)⟩

end Sys2Proof.Machine
end

section
/-! Time stands still under the shared operations: faults and their reactions, census, ring slots and the reads of core store
(spec/18 R447 to R457; spec/04 R90 to R108; spec/05 R122). -/

namespace Sys2Proof.Machine

/-- A fold of operations that leave the time leaves the time. -/
theorem foldl_now {α : Type} {f : State → α → State} (h : ∀ s a, (f s a).now = s.now) (l : List α) (s : State) :
    (l.foldl f s).now = s.now := by
  induction l generalizing s with
  | nil => rfl
  | cons a l ih => rw [List.foldl_cons, ih, h]

/-! ### Faults and their reactions -/

@[simp] theorem record_now (n : Entry) (s : State) : (record n s).now = s.now := by
  unfold record
  split
  · rfl
  · split <;> rfl

@[simp] theorem judge_now (src : Nat) (s : State) : (judge src s).2.2.now = s.now := by
  unfold judge
  dsimp only
  split_ifs <;> rfl

@[simp] theorem note_now (e : Ev) (s : State) : (note e s).now = s.now := by simp only [note, record_now, judge_now]

@[simp] theorem noRoute_now (d : Nat) (s : State) : (noRoute d s).now = s.now := by simp only [noRoute, note_now, bump_now]

@[simp] theorem sendVia_now (d : Nat) (f : TxFrame) (hop : Nat × Nat) (s : State) : (sendVia d f hop s).now = s.now := rfl

@[simp] theorem sendSlip_now (j : Job) (type : Nat) (mer : Int) (excess : Nat) (s : State) :
    (sendSlip j type mer excess s).now = s.now := by
  unfold sendSlip
  split
  · rfl
  · refine foldl_now (fun s d => ?_) _ s
    dsimp only
    split
    · exact noRoute_now d s
    · exact foldl_now (fun s h => sendVia_now d _ h s) _ s

@[simp] theorem abortJob_now (slot src : Nat) (s : State) : (abortJob slot src s).now = s.now := by
  unfold abortJob
  split
  · rfl
  · split
    · rfl
    · simp only [sendSlip_now, modJob_now]

@[simp] theorem abortAll_now (slots : List Nat) (src : Nat) (s : State) : (abortAll slots src s).now = s.now :=
  foldl_now (fun s k => abortJob_now k src s) slots s

@[simp] theorem stopUpdates_now (stack : Nat) (s : State) : (stopUpdates stack s).now = s.now := by
  unfold stopUpdates
  dsimp only
  split <;> rfl

@[simp] theorem blockStops_now (e : Ev) (s : State) : (blockStops e s).now = s.now := by
  unfold blockStops
  split
  case h_2 => exact stopUpdates_now _ s
  case h_6 => split <;> rfl
  all_goals rfl

@[simp] theorem grave_now (safe : Bool) (en : Entry) (s : State) : (grave safe en s).now = s.now := by
  unfold grave
  split <;> rfl

@[simp] theorem raise2_now (e : Ev) (p : Bool) (s : State) : (raise2 e p s).now = s.now := by
  simp only [raise2, abortAll_now, record_now]

@[simp] theorem raise4_now (e : Ev) (p : Bool) (s : State) : (raise4 e p s).now = s.now := by
  unfold raise4
  split <;> simp only [record_now, grave_now]

@[simp] theorem raise3_now (e : Ev) (p : Bool) (s : State) : (raise3 e p s).now = s.now := by
  unfold raise3
  dsimp only
  split
  · simp only [abortAll_now, record_now]
  · split <;> simp only [abortAll_now, record_now, irqSet_now, blockStops_now, raise4_now, bump_now]

/-- A fault takes no time, whatever its class and the reactions to it. -/
@[simp] theorem raise_now (e : Ev) (s : State) : (raise e s).now = s.now := by
  unfold raise
  split
  · rfl
  · rw [← judge_now e.src s]
    generalize judge e.src s = r
    split
    dsimp only
    split <;> simp only [raise2_now, raise3_now, raise4_now, record_now]

@[simp] theorem raiseJob_now (src slot : Nat) (s : State) (unit sub detail : Nat) :
    (raiseJob src slot s unit sub detail).now = s.now := raise_now _ s

/-! ### Energy, census and draws -/

@[simp] theorem chargeJob_now (slot pj : Nat) (s : State) : (chargeJob slot pj s).now = s.now := rfl

@[simp] theorem censusJob_now (slot tag : Nat) (vs : List Seen) (s : State) : (censusJob slot tag vs s).now = s.now := by
  unfold censusJob
  split
  · rfl
  · split
    · rfl
    · dsimp only
      split
      · split
        · rfl
        · rw [raiseJob_now, modJob_now]
      · rfl

@[simp] theorem censusAdd_now (tenant tag : Nat) (vs : List Seen) (s : State) : (censusAdd tenant tag vs s).now = s.now :=
  foldl_now (fun s slot => censusJob_now slot tag vs s) _ _

@[simp] theorem engineDraw_now (j : Job) (stack gen e : Nat) (s : State) : (engineDraw j stack gen e s).2.now = s.now := by
  unfold engineDraw
  split <;> rfl

@[simp] theorem engineDraws_now (sr : Bool) (j : Job) (stack gen e n : Nat) (s : State) :
    (engineDraws sr j stack gen e n s).2.now = s.now := by
  induction n generalizing e s with
  | zero => rfl
  | succ n ih =>
    unfold engineDraws
    split
    · dsimp only
      rw [ih, engineDraw_now]
    · rfl

/-! ### Core store and ring slots -/

@[simp] theorem threadRead_now (core own thr t off n : Nat) (s : State) :
    (threadRead core own thr t off n s).2.now = s.now := by
  unfold threadRead
  dsimp only
  split <;> rfl

/-- A read of core store whose blocks have good parity is delivered, and nothing changes (R453). -/
theorem checkStore_good {core off n : Nat} {s : State} (h : badBlocks s core off n = []) (slot tenant : Nat) (ecc : Ecc) :
    checkStore slot tenant core off n s ecc = (true, s) := by
  simp only [checkStore, h]

@[simp] theorem freeSlot_now (core n : Nat) (s : State) : (freeSlot core n s).now = s.now := rfl
@[simp] theorem loseSlot_now (core n : Nat) (s : State) : (loseSlot core n s).now = s.now := rfl

@[simp] theorem deliver_now (core n : Nat) (vals side : List Byte) (s : State) :
    (deliver core n vals side s).now = s.now := by
  unfold deliver
  dsimp only
  split <;> rfl

@[simp] theorem deliverAll_now (dests : List Nat) (n : Nat) (sl : List (List Byte × List Byte)) (s : State) :
    (deliverAll dests n sl s).now = s.now := by
  unfold deliverAll
  exact foldl_now (fun s c => foldl_now (fun s x => by rw [deliver_now]) _ s) dests s

@[simp] theorem deliverShared_now (core n rows : Nat) (sl : List (List Byte × List Byte)) (s : State) :
    (deliverShared core n rows sl s).now = s.now := by
  have hrow : ∀ (s : State) (x : (List Byte × List Byte) × Nat),
      (if slotFull s core (n + x.2) then loseSlot core (n + x.2) s
        else deliver core (n + x.2) x.1.1 x.1.2 s).now = s.now := by
    intro s x
    split
    · rw [loseSlot_now]
    · rw [deliver_now]
  unfold deliverShared
  dsimp only
  split
  · exact foldl_now hrow _ s
  · exact foldl_now hrow _ s

end Sys2Proof.Machine
end

section
/-! Tile-ops and the release of ring slots (spec/04 R89 to R103, R108): O14 and O15. -/

namespace Sys2Proof.Machine

/-! ### RELEASE of one slot (R98, R108) -/

theorem releaseSlot_pending {core n : Nat} {s : State} (h : slotState s core n = 2) : releaseSlot core n s = s := by
  rw [releaseSlot, if_neg (by omega), if_pos h]

theorem look_slots_releaseSlot_other {core n k : Nat} (s : State) (h : k ≠ slotKey core n) :
    look (releaseSlot core n s).slots k = look s.slots k := by
  unfold releaseSlot
  split
  · exact look_tput_other _ _ h
  · split
    · rfl
    · exact (look_tdel ..).trans (if_neg h)

/-- A release changes the slots and their parity marks, and nothing else. -/
theorem releaseSlot_frame (core n : Nat) (s : State) :
    releaseSlot core n s = { s with
      slots := (releaseSlot core n s).slots, badSlot := (releaseSlot core n s).badSlot } := by
  unfold releaseSlot
  split
  · rfl
  · split <;> rfl

/-- Settles O15: the slot's own state by what it was, and the frame. -/
theorem slotRelease : Obligations.SlotRelease := by
  intro core n s u
  refine ⟨fun h => ?wasFree, releaseSlot_pending, fun h0 h2 => ?wasFull, fun k => look_slots_releaseSlot_other s,
    releaseSlot_frame core n s⟩
  case wasFree => rw [slotState_releaseSlot, if_pos h]
  case wasFull => rw [slotState_releaseSlot, if_neg h0, if_neg h2]

/-! ### MAC, DRAIN and RELEASE as they issue -/

/-- `issue_runs`, with the state of the issue's cc under a name. -/
theorem issue_runs_at {cls op : Nat} {i : Issue} {s s1 : State} {th : Thread} {j : Job} (hs : tick i.t s = s1)
    (h : Issues cls op i s1 th j) (f : Ctx' → State → State) :
    issue cls op i f s = f (ctxAt i s1 th j) (afterIssue cls i s1) := by
  subst hs
  exact issue_runs h f

theorem any_not_inStore {rs : List (Nat × Nat)} : rs.any (fun r => !inStore r) = true ↔ ∃ x ∈ rs, 0x1800000 < x.2 := by
  simp [inStore]

/-- The state in which a MAC's steps begin to add: with INIT its bank is +0 and its accumulators' parity is good (R94). -/
def bankReady (c : Ctx') (s : State) : State :=
  let base := (c.core * 2 + tBANK c.w) * 65536
  if tINIT c.w then
    { s with acc := tclear s.acc base 65536, badAcc := s.badAcc.filter (fun x => x < base || base + 65536 ≤ x) }
  else s

/-- The MAC that a word starts, its addresses as the registers give them (R89, R96, R101). -/
def macOf (c : Ctx') (s : State) : MacRun :=
  { slot := c.slot, thr := c.thr, bank := tBANK c.w, fmt := tFMT c.w, total := tK c.w
    col := panelAddr (tFMT c.w) (sreg s c.k (tRA c.w)).toNat
    scale := align (sreg s c.k (tRSA c.w)).toNat 16, sca := tSCA c.w, scb := tSCB c.w, rowPos := tROWPOS c.w
    rel := tREL c.w, step := 0, due := if tFMT c.w = 2 then c.t + 4 else c.t }

/-- The cc for which a MAC occupies its core's engine (R101). -/
def macCc (w : W64) : Nat := if tFMT w = 0 then (tK w + 1) / 2 else if tFMT w = 1 then tK w else 4 * tK w

/-- INIT touches no register that a MAC's addresses come from. -/
theorem macOf_bankReady (c : Ctx') (s : State) : macOf c (bankReady c s) = macOf c s := by
  unfold bankReady
  dsimp only
  split <;> rfl

section TileOps
variable {i : Issue} {s s1 : State} {th : Thread} {j : Job} (hs : tick i.t s = s1)
include hs

/-- A MAC whose ranges lie in the store occupies the engine, and they are in flight until it ends (R100, R101, R121). -/
theorem mac_starts (h : Issues 0 1 i s1 th j)
    (hin : ∀ x ∈ macRanges s1 (thrKey i.core.val i.thr.val) i.word, x.2 ≤ 0x1800000) :
    exec (.mac i) s =
      let c := ctxAt i s1 th j
      .next ((macRanges s1 c.k c.w).foldl (fun u x => addRange c x.1 x.2 (2 ^ 64) true u)
        (modCore c.core (fun x => { x with mac := some (macOf c s1), opeFree := c.t + macCc c.w })
          (bankReady c (afterIssue 0 i s1)))) := by
  have hin : ¬ (macRanges s1 (thrKey i.core.val i.thr.val) i.word).any (fun r => !inStore r) = true := by
    rw [any_not_inStore]
    rintro ⟨x, hx, hlt⟩
    exact Nat.not_le.2 hlt (hin x hx)
  have hmac : macOf (ctxAt i s1 th j) (bankReady (ctxAt i s1 th j) (afterIssue 0 i s1)) = macOf (ctxAt i s1 th j) s1 :=
    macOf_bankReady _ _
  refine congrArg Host.Outcome.next ((issue_runs_at hs h _).trans ((if_neg hin).trans ?_))
  rw [← hmac]
  rfl

theorem mac_outside (h : Issues 0 1 i s1 th j)
    (hout : ∃ x ∈ macRanges s1 (thrKey i.core.val i.thr.val) i.word, 0x1800000 < x.2) :
    exec (.mac i) s = .next (raiseJob 0x040 th.slot (afterIssue 0 i s1) i.core.val) :=
  congrArg Host.Outcome.next ((issue_runs_at hs h _).trans (if_pos (any_not_inStore.2 hout)))

end TileOps

/-- Settles O14: a MAC by where its ranges lie, a DRAIN into the store from a bank of good parity, and RELEASE. -/
theorem tileOps : Obligations.TileOps := by
  intro i s th j s1
  have hs : tick i.t s = s1 := rfl
  clear_value s1
  intro core k w m c rs bank base cleared run occ r rows from_ n bytes
  refine ⟨mac_starts hs, mac_outside hs, fun h hin hgood => ?drain, fun h => ?release⟩
  case drain =>
    have hin : ¬ ¬ inStore r = true := not_not.2 (decide_eq_true hin)
    have hgood : ¬ s1.badAcc.any (fun x => from_ ≤ x && x < from_ + rows * 256 && x % 256 < n) = true := by
      simpa [and_assoc] using hgood
    exact congrArg Host.Outcome.next ((issue_runs_at hs h _).trans ((if_neg hin).trans (if_neg hgood)))
  case release => exact congrArg Host.Outcome.next (issue_runs_at hs h _)

end Sys2Proof.Machine
end

section
/-! The entry of K steps (spec/04 R101, R104, R105, R108, R110; spec/16 R423): O16. -/

namespace Sys2Proof.Machine

/-! ### The steps of one cc -/

@[simp] theorem useGrant_now (core : Nat) (s : State) : (useGrant core s).now = s.now := rfl

@[simp] theorem stepSum_now (core : Nat) (m : MacRun) (k : Nat) (s : State) : (stepSum core m k s).now = s.now := by
  unfold stepSum
  dsimp only
  split <;> simp only [threadRead_now]

@[simp] theorem relSlots_now (core : Nat) (m : MacRun) (n : Nat) (s : State) : (relSlots core m n s).now = s.now := by
  unfold relSlots
  split
  · exact foldl_now (fun s n => freeSlot_now core n s) _ s
  · rfl

/-- What the steps that enter in one cc do beside the MAC's own record: their sums, the grant, the slots that they release,
their count and their energy (R93, R96, R112, R423, R436). -/
def stepsEnter (core : Nat) (m : MacRun) (s : State) : State :=
  let n := stepsNow m
  chargeJob m.slot (if m.fmt = 2 then 9200 else 7080) (bump (0x100000 + 0x10000 * core + 0x3008) 64 n
    (relSlots core m n (useGrant core ((List.range n).foldl (fun v q => stepSum core m (m.step + q) v) s))))

theorem stepsEnter_now (core : Nat) (m : MacRun) (s : State) : (stepsEnter core m s).now = s.now := by
  simp only [stepsEnter, chargeJob_now, bump_now, relSlots_now, useGrant_now]
  exact foldl_now (fun s q => stepSum_now core m (m.step + q) s) _ s

/-- A MAC after the steps that enter in cc `t` (R101). -/
def stepped (t : Nat) (m : MacRun) : MacRun :=
  { m with step := m.step + stepsNow m, due := t + if m.fmt = 2 then 4 else 1 }

/-! ### What the steps that are due do -/

/-- Slots that are free or valid are none that ends a MAC (R104, R108). -/
theorem find?_released_eq_none {core : Nat} {l : List Nat} {s : State} (h : ∀ x ∈ l, slotState s core x < 2) :
    l.find? (fun y => slotState s core y = 2 || slotState s core y = 3) = none := by
  simp only [List.find?_eq_none, Bool.or_eq_true, decide_eq_true_eq]
  intro x hx
  have := h x hx
  omega

section Entry
variable {t : Nat} {core : Core} {s s1 : State} {m : MacRun} {j : Job} (ecc : Ecc) (hs : tick t s = s1)
  (hm : (coreOf s1 core.val).mac = some m) (hj : look s1.jobs m.slot = some j)
  (hd : ¬ (t < m.due ∨ t ≠ s1.now ∨ ¬ live s1 = true)) (hg : grantLeft s1 core.val j.tenant = true)
include hs hm hj hd hg

/-- A step that meets a discard-pending or lost slot ends its MAC with OPE_ROW_LOST (R104, R108). -/
theorem steps_lost {x : Nat}
    (hx : (slotsNow m).find? (fun y => slotState s1 core.val y = 2 || slotState s1 core.val y = 3) = some x) :
    exec (.opeStepEntry t ⟨core, ecc⟩) s =
      .next (raiseJob 0x041 m.slot (modCore core.val (fun y => { y with mac := none }) s1) core.val x) := by
  refine congrArg Host.Outcome.next ?_
  simp only [hs, hm, hj, if_neg hd, hg, hx]
  rfl

/-- Steps of which a row is not there yet wait one cc (R104). -/
theorem steps_wait (hrows : ∀ x ∈ slotsNow m, slotState s1 core.val x < 2)
    (hfree : ∃ x ∈ slotsNow m, slotState s1 core.val x = 0) :
    exec (.opeStepEntry t ⟨core, ecc⟩) s =
      .next (bump (0x100000 + 0x10000 * core.val + 0x3010) 32 1 (macWaits core.val m s1)) := by
  have hwait : (slotsNow m).any (fun y => slotState s1 core.val y = 0) = true := by simpa using hfree
  refine congrArg Host.Outcome.next ?_
  simp only [hs, hm, hj, if_neg hd, hg, find?_released_eq_none hrows, hwait]
  rfl

/-- Steps whose rows are valid and whose parity holds enter (R101, R110, R453). -/
theorem steps_enter (ht : t = s1.now) (hrows : ∀ x ∈ slotsNow m, slotState s1 core.val x = 1)
    (hslots : ∀ x ∈ slotsNow m, slotKey core.val x ∉ s1.badSlot)
    (hacc : ∀ x ∈ s1.badAcc, ¬ ((core.val * 2 + m.bank) * 65536 ≤ x ∧ x < (core.val * 2 + m.bank) * 65536 + 65536))
    (hcol : badBlocks s1 core.val (m.col + colBytes m.fmt * m.step) (colBytes m.fmt * stepsNow m) = [])
    (hscale : m.sca ≠ 0 →
      badBlocks s1 core.val (m.scale + m.step * scalesPer m.sca) (stepsNow m * scalesPer m.sca) = []) :
    exec (.opeStepEntry t ⟨core, ecc⟩) s =
      .next (if (stepped t m).step = m.total then macDone core.val (stepped t m) (stepsEnter core.val m s1)
        else modCore core.val (fun x => { x with mac := some (stepped t m) }) (stepsEnter core.val m s1)) := by
  have hlost := find?_released_eq_none (fun x hx => (hrows x hx).trans_lt Nat.one_lt_two)
  have hwait : (slotsNow m).any (fun y => slotState s1 core.val y = 0) = false := by
    simp only [List.any_eq_false, decide_eq_true_eq]
    exact fun x hx => (hrows x hx).trans_ne Nat.one_ne_zero
  have hslots : (slotsNow m).find? (fun y => s1.badSlot.contains (slotKey core.val y)) = none := by
    simpa using hslots
  have hacc : s1.badAcc.any (fun x => (core.val * 2 + m.bank) * 65536 ≤ x &&
      x < (core.val * 2 + m.bank) * 65536 + 65536) = false := by
    simpa using hacc
  have hscale : (if m.sca = 0 then (true, s1) else checkStore m.slot j.tenant core.val
      (m.scale + m.step * scalesPer m.sca) (stepsNow m * scalesPer m.sca) s1 ecc) = (true, s1) := by
    split
    · rfl
    · exact checkStore_good (hscale ‹_›) _ _ _
  have hnow : (stepsEnter core.val m s1).now = t := (stepsEnter_now _ _ _).trans ht.symm
  refine congrArg Host.Outcome.next ?_
  simp only [hs, hm, hj, if_neg hd, hg, hlost, hwait, hslots, hacc, checkStore_good hcol, hscale]
  rw [stepped, ← hnow]
  rfl

end Entry

/-- Settles O16: steps that are due enter, wait or end their MAC by what stands in their slots. -/
theorem stepEntry : Obligations.StepEntry := by
  intro t core ecc s m j s1 c base n m' u hm hj hd ht hl hg
  have hs : tick t s = s1 := rfl
  have hdue : ¬ (t < m.due ∨ t ≠ s1.now ∨ ¬ live s1 = true) :=
    not_or.2 ⟨Nat.not_lt.2 hd, not_or.2 ⟨not_not.2 ht, not_not.2 hl⟩⟩
  exact ⟨steps_enter ecc hs hm hj hdue hg ht, steps_wait ecc hs hm hj hdue hg, fun x => steps_lost ecc hs hm hj hdue hg⟩

end Sys2Proof.Machine
end

section
/-! Rows of streams (spec/04 R90, R91, R106 to R108; spec/05 R130; spec/08 R199): O17. -/

namespace Sys2Proof.Machine

/-! ### Holds (R107, R108) -/

theorem slotFull_eq_false {s : State} {core n : Nat} :
    slotFull s core n = false ↔ slotState s core n ≠ 1 ∧ slotState s core n ≠ 3 := by
  simp [slotFull]

/-- An MSTREAM with slots left holds exactly where a destination's slot is not free. -/
theorem copyHeldBy_isEmpty {s : State} {m : MOp} (hm : m.stream = true) (hleft : m.left ≠ 0) :
    (copyHeldBy s m).isEmpty = true ↔ ∀ c ∈ m.dests, slotState s c m.first ≠ 1 ∧ slotState s c m.first ≠ 3 := by
  simp [copyHeldBy, hm, Nat.pos_of_ne_zero hleft, ← slotFull_eq_false]

/-- An engine's stream that jobs share never holds, and one of a single job does not where all its slots are free. -/
theorem heldBy_isEmpty {s : State} {r : StreamRun} {j : Job} {e : StreamEntry} (he : streamEntry s r = some (j, e))
    (h : (e.shared || !r.bound.isEmpty) = true ∨ ∀ c ∈ e.dests, ∀ q < slotsPer e,
      slotState s c (nextSlot e r + q) ≠ 1 ∧ slotState s c (nextSlot e r + q) ≠ 3) :
    (heldBy s r).isEmpty = true := by
  simp only [heldBy, he]
  split
  · rfl
  · next hown =>
    have hopen := h.resolve_left (fun hshared => hown (by rw [hshared, Bool.true_or]))
    simp only [List.isEmpty_iff, List.filter_eq_nil_iff, List.any_eq_true, List.mem_range, not_exists, not_and,
      Bool.not_eq_true, slotFull_eq_false]
    exact hopen

/-! ### STREAM_ROW_WRITE while the module runs -/

section Source
variable {t : Nat} {s s1 : State} (hs : tick t s = s1) (hl : live s1 = true)
include hs hl

theorem exec_streamRowWrite_copy (core : Core) (ecc : Ecc) :
    exec (.streamRowWrite t (.copy ⟨core, ecc⟩)) s = .next (copyRow core.val ecc s1) := by
  subst hs
  exact congrArg Host.Outcome.next (if_neg (not_not.2 hl))

theorem exec_streamRowWrite_engine (k : Stack) (idx : Nat) (err : EngErr) :
    exec (.streamRowWrite t (.engine k idx err)) s = .next (engineRow k.val idx err s1) := by
  subst hs
  exact congrArg Host.Outcome.next (if_neg (not_not.2 hl))

end Source

/-! ### An MSTREAM's next slot (R130) -/

/-- The sideband that an MSTREAM's next slot takes: zeros where the stream has none. -/
def copySide (core : Nat) (m : MOp) (s : State) : List Byte :=
  match m.side with
  | some b => storeRead s core b 32
  | none => List.replicate 32 0

/-- An MSTREAM after the slot that it delivers in cc `t`. -/
def copyNext (t : Nat) (m : MOp) : MOp :=
  { m with src := m.src + 256, first := m.first + 1, left := m.left - 1, side := m.side.map (· + 32), due := t + 1 }

section Copy
variable {core : Nat} {s : State} {m : MOp} {rest : List MOp} {j : Job} (ecc : Ecc) (hq : (coreOf s core).mq = m :: rest)
  (hj : look s.jobs m.slot = some j) (hm : m.stream = true) (hleft : m.left ≠ 0)
include hq hj hm hleft

theorem copyRow_holds
    (h : s.now < m.due ∨ ¬ ∀ c ∈ m.dests, slotState s c m.first ≠ 1 ∧ slotState s c m.first ≠ 3) :
    copyRow core ecc s = s := by
  rw [← copyHeldBy_isEmpty hm hleft] at h
  simp only [copyRow, hq, hj]
  exact if_pos (.inr (.inr h))

theorem copyRow_delivers (hgood : badBlocks s core m.src 256 = [])
    (hside : ∀ b, m.side = some b → badBlocks s core b 32 = [])
    (halone : ∀ off n, crossing s core core m.thr s.now off n = []) (hd : m.due ≤ s.now)
    (hopen : ∀ c ∈ m.dests, slotState s c m.first ≠ 1 ∧ slotState s c m.first ≠ 3) :
    copyRow core ecc s = modCore core (fun k => { k with mq := copyNext s.now m :: rest })
      (deliverAll m.dests m.first [(storeRead s core m.src 256, copySide core m s)] s) := by
  have hdue : ¬ (¬ m.stream = true ∨ m.left = 0 ∨ s.now < m.due ∨ ¬ (copyHeldBy s m).isEmpty = true) := by
    rw [copyHeldBy_isEmpty hm hleft]
    exact not_or.2 ⟨not_not.2 hm, not_or.2 ⟨hleft, not_or.2 ⟨Nat.not_lt.2 hd, not_not.2 hopen⟩⟩⟩
  have hread : ∀ off n, threadRead core core m.thr s.now off n s = (storeRead s core off n, s) :=
    fun off n => threadRead_alone (halone off n)
  simp only [copyRow, hq, hj, if_neg hdue, checkStore_good hgood, copySide, copyNext]
  cases hb : m.side with
  | none =>
    simp only [hread]
    rfl
  | some b =>
    simp only [checkStore_good (hside b hb), hread]
    rfl

end Copy

/-! ### A row of an engine's stream (R199) -/

@[simp] theorem deriveRow_now (j : Job) (e : StreamEntry) (row : Nat) (bs : List Byte) (s : State) :
    (deriveRow j e row bs s).2.2.now = s.now := by
  unfold deriveRow
  dsimp only
  split <;> simp only [censusAdd_now, engineDraws_now]

@[simp] theorem deliverySlots_now (j : Job) (e : StreamEntry) (r : StreamRun) (s : State) :
    (deliverySlots j e r s).2.now = s.now := by
  unfold deliverySlots
  dsimp only
  split_ifs <;> simp only [deriveRow_now]

/-- The rows that a stream's next delivery carries: one, or an L4 pair, of those that are left. -/
def rowsNow (e : StreamEntry) (r : StreamRun) : Nat := min (rowsPer e) (e.rows - r.row)

/-- A stream's next row reaches its destinations: slot by slot where jobs share it, else in all of them (R106 to R108). -/
def rowArrives (j : Job) (e : StreamEntry) (r : StreamRun) (s : State) : State :=
  let off := r.row / rowsPer e * slotsPer e
  let d := deliverySlots j e r s
  if e.shared || !r.bound.isEmpty then
    (e.dests.map (fun c => (c, e.firstSlot + off)) ++ r.bound.map (fun b => (b.2.1, b.2.2 + off))).foldl
      (fun u x => deliverShared x.1 x.2 (rowsNow e r) d.1 u) d.2
  else deliverAll e.dests (e.firstSlot + off) d.1 d.2

theorem rowArrives_now (j : Job) (e : StreamEntry) (r : StreamRun) (s : State) : (rowArrives j e r s).now = s.now := by
  unfold rowArrives
  dsimp only
  split
  · refine (foldl_now (fun u x => ?_) _ _).trans (deliverySlots_now j e r s)
    exact deliverShared_now x.1 x.2 _ _ u
  · rw [deliverAll_now, deliverySlots_now]

/-- A stream's next row has reached its destinations and is counted at its engine (R219). -/
def rowsCounted (stack : Nat) (j : Job) (e : StreamEntry) (r : StreamRun) (s : State) : State :=
  bump (0x400048 + 0x10000 * stack) 64 (rowsNow e r) (rowArrives j e r s)

/-- The delivery's energy is charged to the job too (R195, R436). -/
def rowsCharged (stack : Nat) (j : Job) (e : StreamEntry) (r : StreamRun) (s : State) : State :=
  let b := rowsCounted stack j e r s
  chargeJob r.slot (rowsNow e r * (8 * 1050 + rowLanes e ((tagWord b j e.tag).getD 0) * 12)) b

theorem rowsCharged_now (stack : Nat) (j : Job) (e : StreamEntry) (r : StreamRun) (s : State) :
    (rowsCharged stack j e r s).now = s.now := by
  rw [rowsCharged, chargeJob_now, rowsCounted, bump_now, rowArrives_now]

/-- A stream after the delivery of cc `t`. -/
def streamNext (t : Nat) (e : StreamEntry) (r : StreamRun) : StreamRun :=
  { r with row := r.row + rowsNow e r, buf := r.buf.drop (rowsNow e r), due := max (r.due + e.interval) (t + 1) }

section Engine
variable {stack idx : Nat} {s : State} {r : StreamRun} {j : Job} {e : StreamEntry}
  (hr : (stackOf s stack).streams[idx]? = some r) (he : streamEntry s r = some (j, e))
include hr he

theorem engineRow_waits (h : s.now < r.due ∨ r.next < r.row + rowsNow e r) (err : EngErr) :
    engineRow stack idx err s = s := by
  simp only [engineRow, hr, he]
  exact if_pos (h.imp_right .inl)

theorem engineRow_delivers (hd : r.due ≤ s.now) (hn : r.row + rowsNow e r ≤ r.next)
    (hopen : (heldBy s r).isEmpty = true) :
    engineRow stack idx .ok s =
      if e.rows ≤ r.row + rowsNow e r then
        workDone r.slot (busyStream r.entry)
          (modStack stack (fun x => { x with streams := x.streams.eraseIdx idx }) (rowsCharged stack j e r s))
      else modStack stack (fun x => { x with streams := x.streams.set idx (streamNext s.now e r) })
        (rowsCharged stack j e r s) := by
  have hdue : ¬ (s.now < r.due ∨ r.next < r.row + rowsNow e r ∨ ¬ (heldBy s r).isEmpty = true) :=
    not_or.2 ⟨Nat.not_lt.2 hd, not_or.2 ⟨Nat.not_lt.2 hn, not_not.2 hopen⟩⟩
  simp only [engineRow, hr, he]
  refine (if_neg hdue).trans ?_
  rw [← rowsCharged_now stack j e r s]
  rfl

end Engine

/-- Settles O17: an MSTREAM and an engine's stream each deliver the next row where it is due, read and not held, and wait
otherwise. -/
theorem streamRows : Obligations.StreamRows := by
  refine ⟨?copy, ?engine⟩
  case copy =>
    intro t core ecc s m rest j s1 vals side open_ m' hl hq hj hm hleft
    rw [exec_streamRowWrite_copy rfl hl core ecc]
    exact ⟨fun hgood hside halone hd hopen =>
        congrArg Host.Outcome.next (copyRow_delivers ecc hq hj hm hleft hgood hside halone hd hopen),
      fun h => congrArg Host.Outcome.next (copyRow_holds ecc hq hj hm hleft h)⟩
  case engine =>
    intro t k idx s r j e s1 shared rows off open_ d v b u r' hl hr he
    rw [exec_streamRowWrite_engine rfl hl k idx .ok]
    exact ⟨fun hd hn hopen => congrArg Host.Outcome.next (engineRow_delivers hr he hd hn (heldBy_isEmpty he hopen)),
      fun h => congrArg Host.Outcome.next (engineRow_waits hr he h .ok)⟩

end Sys2Proof.Machine
end

section
/-! Two-operand scalar instructions (spec/05 R113, R123, R128): O3. -/

namespace Sys2Proof.Machine

/-! ### Comparisons as the order of integers (R123) -/

theorem flag_slt {w : Nat} (x y : BitVec w) : flag w (x.slt y) = if x.toInt < y.toInt then 1 else 0 := by
  simp only [flag, BitVec.slt_iff_toInt_lt]

theorem flag_ult {w : Nat} (x y : BitVec w) : flag w (x.ult y) = if x.toNat < y.toNat then 1 else 0 := by
  simp only [flag, BitVec.ult_iff_toNat_lt]

theorem ite_slt {w : Nat} (x y a b : BitVec w) : (if x.slt y then a else b) = if x.toInt < y.toInt then a else b := by
  simp only [BitVec.slt_iff_toInt_lt]

theorem alu_congr {f f' : W64 → W64 → W64} {g g' : W32 → W32 → W32} (hf : ∀ x y, f x y = f' x y)
    (hg : ∀ x y, g x y = g' x y) : alu f g = alu f' g' := by
  rw [funext₂ hf, funext₂ hg]

section Compare
variable (i : Issue) (s : State)

theorem exec_slt : exec (.slt i) s = scalar 0x0B 1
    (alu (fun x y => if x.toInt < y.toInt then 1 else 0) (fun x y => if x.toInt < y.toInt then 1 else 0)) i s :=
  congrArg (scalar 0x0B 1 · i s) (alu_congr flag_slt flag_slt)

theorem exec_sltu : exec (.sltu i) s = scalar 0x0C 1
    (alu (fun x y => if x.toNat < y.toNat then 1 else 0) (fun x y => if x.toNat < y.toNat then 1 else 0)) i s :=
  congrArg (scalar 0x0C 1 · i s) (alu_congr flag_ult flag_ult)

theorem exec_min : exec (.min i) s = scalar 0x0D 1
    (alu (fun x y => if y.toInt < x.toInt then y else x) (fun x y => if y.toInt < x.toInt then y else x)) i s :=
  congrArg (scalar 0x0D 1 · i s) (alu_congr (fun x y => ite_slt y x y x) (fun x y => ite_slt y x y x))

theorem exec_max : exec (.max i) s = scalar 0x0E 1
    (alu (fun x y => if x.toInt < y.toInt then y else x) (fun x y => if x.toInt < y.toInt then y else x)) i s :=
  congrArg (scalar 0x0E 1 · i s) (alu_congr (fun x y => ite_slt x y y x) (fun x y => ite_slt x y y x))

end Compare

/-! ### An S-format instruction as it issues -/

section Scalar
variable {op : Nat} {i : Issue} {s s1 : State} {th : Thread} {j : Job} (hs : tick i.t s = s1) (h : Issues 2 op i s1 th j)
include hs h

/-- An S-format instruction writes what it computes to its destination. -/
theorem scalar_issues (lat : Nat) (f : Ctx' → State → W64) :
    scalar op lat f i s = .next (setSreg (thrKey i.core.val i.thr.val) (sSD i.word)
      (f (ctxAt i s1 th j) (afterIssue 2 i s1)) (i.t + lat) (afterIssue 2 i s1)) :=
  congrArg Host.Outcome.next (issue_runs_at hs h _)

/-- The result in the width of the word, on operands as they stand in the cc of the issue (R123). -/
theorem scalar_alu (lat : Nat) (f : W64 → W64 → W64) (g : W32 → W32 → W32) :
    scalar op lat (alu f g) i s =
      let k := thrKey i.core.val i.thr.val
      let a := sreg s1 k (sSA i.word)
      let b := secondS i.word s1 k
      .next (setSreg k (sSD i.word)
        (if sW i.word then f a b else (g (a.setWidth 32) (b.setWidth 32)).signExtend 64) (i.t + lat) (afterIssue 2 i s1)) :=
  scalar_issues hs h lat (alu f g)

end Scalar

/-- Settles O3: every two-operand instruction is one operation in both widths, and its latency. -/
theorem scalarPairs : Obligations.ScalarPairs := by
  intro i s th j s1
  have hs : tick i.t s = s1 := rfl
  clear_value s1
  intro k w a b put pair
  exact ⟨fun h => scalar_alu hs h 1 _ _, fun h => scalar_alu hs h 1 _ _, fun h => scalar_alu hs h 4 _ _,
    fun h => scalar_issues hs h 4 _, fun h => scalar_alu hs h 1 _ _, fun h => scalar_alu hs h 1 _ _,
    fun h => scalar_alu hs h 1 _ _, fun h => scalar_alu hs h 1 _ _, fun h => scalar_alu hs h 1 _ _,
    fun h => scalar_alu hs h 1 _ _, fun h => (exec_slt i s).trans (scalar_alu hs h 1 _ _),
    fun h => (exec_sltu i s).trans (scalar_alu hs h 1 _ _), fun h => (exec_min i s).trans (scalar_alu hs h 1 _ _),
    fun h => (exec_max i s).trans (scalar_alu hs h 1 _ _)⟩

end Sys2Proof.Machine
end

section
/-! C-format instructions (spec/05 R116, R120, R127, R131): O12. -/

namespace Sys2Proof.Machine

/-- The six conditions as they compare the operands (R127). -/
theorem condHolds_iff {cond : Nat} (hc : cond ≤ 5) (a b : W64) :
    condHolds cond a b = true ↔
      (cond = 0 ∧ a = b) ∨ (cond = 1 ∧ a ≠ b) ∨ (cond = 2 ∧ a.toInt < b.toInt) ∨
      (cond = 3 ∧ b.toInt ≤ a.toInt) ∨ (cond = 4 ∧ a.toNat < b.toNat) ∨ (cond = 5 ∧ b.toNat ≤ a.toNat) := by
  interval_cases cond <;>
    simp [condHolds, BitVec.slt_iff_toInt_lt, BitVec.ult_iff_toNat_lt, Bool.eq_false_iff]

/-- A jump to a word of the program (R120, R127). -/
theorem jumpTo_inside {c : Ctx'} {target : Int} {s : State}
    (h : 0 ≤ target ∧ target < (programOf s c.job c.core).length) :
    jumpTo c target s = modThr c.k (fun x => { x with pc := target.toNat, readyAt := c.t + 2 }) s := by
  obtain ⟨h0, hlt⟩ := h
  exact if_pos ⟨h0, (Int.toNat_lt h0).2 hlt⟩

/-- A jump to no word of the program raises THR_PC at the jump (R131). -/
theorem jumpTo_outside {c : Ctx'} {target : Int} {s : State}
    (h : ¬ (0 ≤ target ∧ target < (programOf s c.job c.core).length)) :
    jumpTo c target s = thrFault 0x044 c (modThr c.k (fun x => { x with pc := c.pc }) s) :=
  if_neg (fun hin => h ⟨hin.1, (Int.toNat_lt hin.1).1 hin.2⟩)

section Control
variable {op : Nat} {i : Issue} {s s1 : State} {th : Thread} {j : Job} (hs : tick i.t s = s1) (h : Issues 5 op i s1 th j)
include hs h

theorem control_issues (f : Ctx' → State → State) :
    control op f i s = .next (f (ctxAt i s1 th j) (afterIssue 5 i s1)) :=
  congrArg Host.Outcome.next (issue_runs_at hs h f)

end Control

/-- A register that is written leaves the programs as they are. -/
theorem programOf_setSreg (k r : Nat) (v : W64) (u : Nat) (s : State) (j : Job) (core : Nat) :
    programOf (setSreg k r v u s) j core = programOf s j core := by
  simp only [programOf, imageOf, setSreg_plans]

/-- Settles O12: a C-format instruction has its issue, and a jump that is taken goes on at its target. -/
theorem controlFlow : Obligations.ControlFlow := by
  intro i s th j s1
  have hs : tick i.t s = s1 := rfl
  clear_value s1
  intro core k w m a b goto inside target holds
  refine ⟨fun h => control_issues hs h _, fun h => control_issues hs h _, fun h hin => ?br, fun h hc hh hin => ?taken,
    fun h hc hh => ?notTaken, fun h hin => ?call, fun h hin => ?ret, fun h hout => ?outside⟩
  case br => exact (control_issues hs h _).trans (congrArg Host.Outcome.next (jumpTo_inside hin))
  case taken =>
    exact (control_issues hs h _).trans
      (congrArg Host.Outcome.next ((if_pos ((condHolds_iff hc a b).2 hh)).trans (jumpTo_inside hin)))
  case notTaken =>
    exact (control_issues hs h _).trans (congrArg Host.Outcome.next (if_neg (fun ht => hh ((condHolds_iff hc a b).1 ht))))
  case call =>
    refine (control_issues hs h _).trans (congrArg Host.Outcome.next (jumpTo_inside ?_))
    rw [programOf_setSreg]
    exact hin
  case ret => exact (control_issues hs h _).trans (congrArg Host.Outcome.next (jumpTo_inside hin))
  case outside => exact (control_issues hs h _).trans (congrArg Host.Outcome.next (jumpTo_outside hout))

end Sys2Proof.Machine
end

section
/-! Y-format instructions (spec/05 R126, R135 to R141): O10 and O11. -/

namespace Sys2Proof.Machine

/-! ### The first operation of a cc on an object (R137, R138) -/

/-- An object after the first operation on it in cc `t`: a reset to a value or none, and a sum that does not saturate. -/
def firstOp (t : Nat) (reset : Option (Nat × Nat)) (add src : Nat) (o : SyncObj) : SyncObj :=
  let v := reset.elim o.value (·.2) + add
  { o with value := v, stamp := t, start := o.value, reset, adds := add, hist := (t, v, [src]) :: o.hist }

section First
variable {t add : Nat} {reset : Option (Nat × Nat)} {o : SyncObj} (src : Nat)

theorem saturates_firstOp (hv : reset.elim o.value (·.2) + add < 2 ^ 64) :
    (firstOp t reset add src o).saturates = false := by
  cases reset with
  | none => exact decide_eq_false (Nat.not_lt.2 (Nat.le_pred_of_lt hv))
  | some x => exact decide_eq_false (Nat.not_lt.2 (Nat.le_pred_of_lt hv))

/-- An object that nothing else has changed in this cc joins an operation with its value alone. -/
theorem join_of_stamp_ne (hf : o.stamp ≠ t) (hv : reset.elim o.value (·.2) + add < 2 ^ 64) :
    o.join t reset add src = firstOp t reset add src o := by
  have fresh : o.stamp ≠ t ∨ o.hist.isEmpty = true := .inl hf
  have hmin := Nat.min_eq_left (Nat.le_pred_of_lt hv)
  unfold SyncObj.join firstOp
  simp only [fresh, if_true, not_true_eq_false, and_false, if_false, Nat.zero_add]
  cases reset with
  | none => cases hh : o.hist <;> simp_all [lowerReset]
  | some x => cases hh : o.hist <;> simp_all [lowerReset]

theorem syncOp_first {s : State} {obj : Nat} (ht : s.now = t) (h : look s.sync obj = some o) (hf : o.stamp ≠ t)
    (hv : reset.elim o.value (·.2) + add < 2 ^ 64) :
    syncOp obj reset add src s = { s with sync := tput s.sync obj (firstOp t reset add src o) } := by
  subst ht
  have hj := join_of_stamp_ne src hf hv
  rw [sync_syncOp h reset add src (by rw [hj]; exact saturates_firstOp src hv), hj]

end First

/-! ### Triggers that are armed (R137, R362) -/

theorem armOn_room {t obj handle : Nat} {o : SyncObj} {j : Job} {s : State} (ht : s.now = t) (h : look s.sync obj = some o)
    (hj : look s.jobs o.owner = some j) (hroom : o.trigs.length < 4) (hin : handle < j.block.wrEntries) (threshold : Nat) :
    armOn obj threshold handle s = (true, wrStatus o.owner handle 1 0 { s with sync := tput s.sync obj { o with
      trigs := o.trigs ++ [{ threshold, handle, slot := o.owner, armedAt := t }] } }) := by
  subst ht
  simp only [armOn, h, hj, Option.map_some, Option.getD_some]
  exact if_neg (by omega)

theorem armOn_full {obj handle : Nat} {o : SyncObj} {s : State} (h : look s.sync obj = some o)
    (hfull : 4 ≤ o.trigs.length ∨ ((look s.jobs o.owner).map (fun x => x.block.wrEntries)).getD 0 ≤ handle)
    (threshold : Nat) : armOn obj threshold handle s = (false, s) := by
  simp only [armOn, h]
  exact if_pos hfull

/-! ### Remote operations (R141) -/

/-- One SYNC packet of a thread to the module that its word names. -/
def sendSync (sop v wrh : Nat) (c : Ctx') (s : State) : State :=
  sendMsg c.slot c.tenant (yMODULE c.w) c.tenant (c.slot * 8 + 3)
    (fun _ => [{ opcode := 6, hdr := [Config.choice s.free, yOBJ c.w, sop, v, wrh] }]) { s with free := s.free + 1 }

theorem remoteSync_value {sop : Nat} (h : sop ≠ 3) (c : Ctx') (s : State) :
    remoteSync sop c s = sendSync sop (if yIMM c.w then yImm20 c.w else (sreg s c.k (ySV c.w)).toNat) 0 c s := by
  simp only [remoteSync, sendSync, ne_eq, h, not_false_eq_true, and_true, if_false]

theorem remoteSync_arm (c : Ctx') (s : State) :
    remoteSync 3 c s = sendSync 3 (sreg s c.k (ySV c.w)).toNat (yImm20 c.w) c s := by
  simp only [remoteSync, sendSync, ne_eq, not_true_eq_false, and_false, if_false, if_true]

/-! ### A Y-format instruction as it issues -/

section Issue
variable {op : Nat} {i : Issue} {s s1 : State} {th : Thread} {j : Job} (hs : tick i.t s = s1) (h : Issues 4 op i s1 th j)
  (f : Ctx' → Nat → Nat → State → State) (far : Ctx' → State → State)
include hs h

/-- On an object of the job the instruction has its own effect. -/
theorem onObject_local {obj v : Nat} (hr : yREM i.word = false)
    (ha : yArgs s1 j (thrKey i.core.val i.thr.val) (indexedAt s1 j i.core.val th.pc) i.word = (some obj, v)) :
    onObject op f far i s = .next (f (ctxAt i s1 th j) obj v (afterIssue 4 i s1)) := by
  have hr : ¬ yREM i.word = true := ne_true_of_eq_false hr
  have ha : yArgs (afterIssue 4 i s1) j (thrKey i.core.val i.thr.val) (indexedAt s1 j i.core.val th.pc) i.word =
    (some obj, v) := ha
  refine congrArg Host.Outcome.next ((issue_runs_at hs h _).trans ((if_neg hr).trans ?_))
  simp only [ctxAt, ha]

/-- An index that names no object of the job raises SYNC_ACCESS (R137). -/
theorem onObject_none (hr : yREM i.word = false)
    (ha : (yArgs s1 j (thrKey i.core.val i.thr.val) (indexedAt s1 j i.core.val th.pc) i.word).1 = none) :
    onObject op f far i s = .next (raiseJob 0x046 th.slot (afterIssue 4 i s1) i.core.val i.thr.val) := by
  have hr : ¬ yREM i.word = true := ne_true_of_eq_false hr
  obtain ⟨v, ha⟩ : ∃ v, yArgs (afterIssue 4 i s1) j (thrKey i.core.val i.thr.val)
      (indexedAt s1 j i.core.val th.pc) i.word = (none, v) := ⟨_, Prod.ext ha rfl⟩
  refine congrArg Host.Outcome.next ((issue_runs_at hs h _).trans ((if_neg hr).trans ?_))
  simp only [ctxAt, ha]
  rfl

/-- With REM the instruction leaves the module (R141). -/
theorem onObject_remote (hr : yREM i.word = true) :
    onObject op f far i s = .next (far (ctxAt i s1 th j) (afterIssue 4 i s1)) :=
  congrArg Host.Outcome.next ((issue_runs_at hs h _).trans (if_pos hr))

end Issue

/-- Settles O10: each operation by what it does to an object that it finds as it stood before this cc. -/
theorem syncObjects : Obligations.SyncObjects := by
  intro i s th j obj v o s1
  have hs : tick i.t s = s1 := rfl
  clear_value s1
  intro core k w m ix put hr ha ho hf
  have hm : look m.sync obj = some o := ho
  refine ⟨fun h hv => ?ysig, fun h => onObject_local hs h _ _ hr ha, fun h => onObject_local hs h _ _ hr ha,
    fun h hv => ?yrst, fun owner h hw hroom hin => ?yarm, fun h => ?yread⟩
  case ysig =>
    exact (onObject_local hs h _ _ hr ha).trans (congrArg Host.Outcome.next (syncOp_first core h.now.symm hm hf hv))
  case yrst =>
    have hv : v + 0 < 2 ^ 64 := hv
    exact (onObject_local hs h _ _ hr ha).trans (congrArg Host.Outcome.next (syncOp_first core h.now.symm hm hf hv))
  case yarm =>
    refine (onObject_local hs h _ _ hr ha).trans (congrArg Host.Outcome.next ?_)
    dsimp only [ctxAt]
    rw [armOn_room (s := afterIssue 4 i s1) h.now.symm hm hw hroom hin]
    rfl
  case yread =>
    refine (onObject_local hs h _ _ hr ha).trans (congrArg Host.Outcome.next ?_)
    dsimp only
    rw [hm]
    rfl

/-- Settles O11: an index without an object and a trigger without a place raise their faults, and REM sends one packet. -/
theorem syncElsewhere : Obligations.SyncElsewhere := by
  intro i s th j s1
  have hs : tick i.t s = s1 := rfl
  clear_value s1
  intro core k w m args trap sv send
  refine ⟨fun hr ha => ?noObject, fun obj o hr ha ho hfull h => ?full, fun hr => ?remote⟩
  case noObject =>
    exact ⟨fun h => onObject_none hs h _ _ hr ha, fun h => onObject_none hs h _ _ hr ha,
      fun h => onObject_none hs h _ _ hr ha, fun h => onObject_none hs h _ _ hr ha⟩
  case full =>
    have ha : yArgs s1 j k (indexedAt s1 j core th.pc) w = (some obj, args.2) := Prod.ext ha rfl
    refine (onObject_local hs h _ _ hr ha).trans (congrArg Host.Outcome.next ?_)
    dsimp only [ctxAt]
    rw [armOn_full (s := afterIssue 4 i s1) ho hfull]
    rfl
  case remote =>
    exact ⟨
      fun h => (onObject_remote hs h _ _ hr).trans (congrArg Host.Outcome.next (remoteSync_value (by decide) _ _)),
      fun h => (onObject_remote hs h _ _ hr).trans (congrArg Host.Outcome.next (remoteSync_value (by decide) _ _)),
      fun h => (onObject_remote hs h _ _ hr).trans (congrArg Host.Outcome.next (remoteSync_arm _ _))⟩

end Sys2Proof.Machine
end

section
/-! Loads and stores (spec/05 R120 to R122, R125, R133, R134): O7. -/

namespace Sys2Proof.Machine

/-! ### A load of a range -/

/-- A load of a range with valid parity that no other thread is writing takes the bytes that stand there, without a wait (R122,
R453). -/
theorem loadStore_good {c : Ctx'} {core off n : Nat} {s : State} (hgood : badBlocks s core off n = [])
    (halone : crossing s core c.core c.thr c.t off n = []) :
    loadStore c core off n s = (some (storeRead s core off n, 0), s) := by
  simp only [loadStore, refetchWait, checkStore_good hgood, threadRead_alone halone, hgood, List.foldl_nil, if_true]

theorem not_not_inStore {r : Nat × Nat} (h : r.2 ≤ 0x1800000) : ¬ ¬ inStore r = true :=
  not_not.2 (decide_eq_true h)

/-- Valid parity of a thread's vector register lets a store take it (R145). -/
theorem not_vecBad {s : State} {c : Ctx'} {v : Nat} (h : goodVec s c.k v) : ¬ vecBad s c v = true := by
  simpa [vecBad, goodVec] using h

/-! ### What the book-keeping of an issue leaves to read -/

section Kept
variable (cls : Nat) (i : Issue) (s : State)

theorem sreg_afterIssue (k r : Nat) : sreg (afterIssue cls i s) k r = sreg s k r := by
  simp only [sreg, afterIssue_sregs]

theorem vreg_afterIssue (k v : Nat) : vreg (afterIssue cls i s) k v = vreg s k v := by
  rw [afterIssue_frame]
  rfl

theorem storeRead_afterIssue (core off n : Nat) : storeRead (afterIssue cls i s) core off n = storeRead s core off n := by
  simp only [storeRead, afterIssue_store]

theorem localRange_afterIssue (k : Nat) (w : W64) : localRange (afterIssue cls i s) k w = localRange s k w := by
  simp only [localRange, sreg_afterIssue]

theorem badBlocks_afterIssue (core off n : Nat) : badBlocks (afterIssue cls i s) core off n = badBlocks s core off n := by
  rw [afterIssue_frame]
  rfl

end Kept

/-! ### An M-format instruction as it issues -/

section Memory
variable {op : Nat} {i : Issue} {s s1 : State} {th : Thread} {j : Job} (hs : tick i.t s = s1)
include hs

theorem memory_issues (h : Issues 3 op i s1 th j) (f : Ctx' → State → State) :
    memory op f i s = .next (f (ctxAt i s1 th j) (afterIssue 3 i s1)) :=
  congrArg Host.Outcome.next (issue_runs_at hs h f)

variable {c : Ctx'} {r : Nat × Nat} (hc : ctxAt i s1 th j = c) (hr : localRange s1 c.k c.w = r) (hin : r.2 ≤ 0x1800000)
include hc hr hin

/-- MLDV takes the values that stand in its range, usable after 9 cc (R120, R125). -/
theorem mldv_loads (h : Issues 3 1 i s1 th j) (hgood : badBlocks s1 c.core r.1 (r.2 - r.1) = [])
    (halone : crossing (afterIssue 3 i s1) c.core c.core c.thr c.t r.1 (r.2 - r.1) = []) :
    exec (.mldv i) s = .next (sigAt c (c.t + 9) (setVreg c.k (mVR c.w)
      (unpackLanes (vFMT c.w) (storeRead s1 c.core r.1 (r.2 - r.1))) (c.t + 9) (afterIssue 3 i s1))) := by
  rw [← badBlocks_afterIssue 3 i] at hgood
  refine (memory_issues hs h _).trans (congrArg Host.Outcome.next ?_)
  dsimp only
  rw [hc, localRange_afterIssue, hr, if_neg (not_not_inStore hin), loadStore_good hgood halone, storeRead_afterIssue]

/-- MLDS takes the 64 bits that stand in its range, usable after 9 cc (R120, R125). -/
theorem mlds_loads (h : Issues 3 3 i s1 th j) (hgood : badBlocks s1 c.core r.1 8 = [])
    (halone : crossing (afterIssue 3 i s1) c.core c.core c.thr c.t r.1 8 = []) :
    exec (.mlds i) s = .next (sigAt c (c.t + 9) (setSreg c.k (mSB c.w)
      (BitVec.ofNat 64 (leNat (storeRead s1 c.core r.1 8))) (c.t + 9) (afterIssue 3 i s1))) := by
  rw [← badBlocks_afterIssue 3 i] at hgood
  refine (memory_issues hs h _).trans (congrArg Host.Outcome.next ?_)
  dsimp only
  rw [hc, localRange_afterIssue, hr, if_neg (not_not_inStore hin), loadStore_good hgood halone, storeRead_afterIssue]

/-- MSTV lands the values of a register with valid parity, readable after 7 cc (R121, R145). -/
theorem mstv_stores (h : Issues 3 2 i s1 th j) (hgood : goodVec s1 c.k (mVR c.w)) :
    exec (.mstv i) s = .next (sigAt c (c.t + 7)
      (putStore c r (packLanes (vFMT c.w) (vreg s1 c.k (mVR c.w))) (afterIssue 3 i s1))) := by
  have hgood : ¬ vecBad (afterIssue 3 i s1) c (mVR c.w) = true := not_vecBad hgood
  refine (memory_issues hs h _).trans (congrArg Host.Outcome.next ?_)
  dsimp only
  rw [hc, localRange_afterIssue, hr, if_neg (not_not_inStore hin), if_neg hgood, vreg_afterIssue]

/-- MSTS lands 64 bits, readable after 7 cc (R121). -/
theorem msts_stores (h : Issues 3 4 i s1 th j) :
    exec (.msts i) s = .next (sigAt c (c.t + 7)
      (putStore c r (leBytes 8 (sreg s1 c.k (mSB c.w)).toNat) (afterIssue 3 i s1))) := by
  refine (memory_issues hs h _).trans (congrArg Host.Outcome.next ?_)
  dsimp only
  rw [hc, localRange_afterIssue, hr, if_neg (not_not_inStore hin), sreg_afterIssue]

omit hr hin in
/-- A load through the window takes a range of a core of the job, later by the way from that core (R133, R134). -/
theorem mldvx_loads {core off n u : Nat} (h : Issues 3 5 i s1 th j) (hn : vecBytes (vFMT c.w) = n)
    (hp : placeCore (jobCores s1 c.slot) (align (sreg s1 c.k (mSA c.w)).toNat n) = some (core, off))
    (hin : off + n ≤ 0x1800000) (hgood : badBlocks s1 core off n = [])
    (halone : crossing (afterIssue 3 i s1) core c.core c.thr c.t off n = [])
    (hu : c.t + pathCc c.core (.core (core * 2 ^ 25)) = u) :
    exec (.mldvx i) s = .next (sigAt c u
      (setVreg c.k (mVR c.w) (unpackLanes (vFMT c.w) (storeRead s1 core off n)) u (afterIssue 3 i s1))) := by
  rw [← badBlocks_afterIssue 3 i] at hgood
  have hp : placeCore (jobCores (afterIssue 3 i s1) c.slot) (align (sreg s1 c.k (mSA c.w)).toNat n) = some (core, off) := hp
  refine (memory_issues hs h _).trans (congrArg Host.Outcome.next ?_)
  dsimp only
  rw [hc, hn, sreg_afterIssue, hp]
  dsimp only
  rw [if_neg (Nat.not_lt.2 hin), loadStore_good hgood halone, storeRead_afterIssue, hu]
  rfl

end Memory

/-- The cc from the issue of a load to its data, by the core whose store it reads (R120, R134). -/
theorem pathCc_core (own core : Nat) :
    pathCc own (.core (core * 2 ^ 25)) = if core = own then 9 else if core / 18 = own / 18 then 34 else 58 := by
  simp only [pathCc, Nat.mul_div_cancel core (Nat.two_pow_pos 25)]

/-- Settles O7: a load delivers, a store lands, and SIG is promised, where nothing of R134, R145 or R453 stops them. -/
theorem loadsAndStores : Obligations.LoadsAndStores := by
  intro i s th j s1
  have hs : tick i.t s = s1 := rfl
  clear_value s1
  intro core k w m r whole flying alone signalled
  refine ⟨fun h hin hgood halone => mldv_loads hs rfl rfl hin h hgood halone,
    fun h hin hgood => mstv_stores hs rfl rfl hin h hgood,
    fun h hin hgood halone => mlds_loads hs rfl rfl hin h hgood halone,
    fun h hin => msts_stores hs rfl rfl hin h, fun core' off h hp hin hgood halone => ?window⟩
  case window => exact mldvx_loads hs rfl h rfl hp hin hgood halone (by rw [pathCc_core]; rfl)

end Sys2Proof.Machine
end

section
/-! MCOPY and MSTREAM (spec/05 R59, R130, R132 to R134, R140): O8 and O9. -/

namespace Sys2Proof.Machine

/-! ### A copy that joins its core's queue (R132) -/

section Joins
variable (c : Ctx') (a n d : Nat) (src dst : List (Place × Nat))

/-- A copy has taken its message number, and the pages that it waits for begin to move. -/
def copyBegun (s : State) : State := touchPages (src ++ dst) { s with nextWork := s.nextWork + 1 }

/-- The cc from which a copy may read, and the state that grants it: a planned one at once, any other in its open slots (R46). -/
def copyGrant (s : State) : Nat × State :=
  if (src ++ dst).all (fun p => planned p.1) then (c.t, s) else outsideGrant (some c.tenant) src dst c.t s

/-- The copy as its grant lets it join the queue; `left` is 1 where its remote message is held. -/
def copyOf (msg left : Nat) (g : Nat × State) : MOp :=
  { slot := c.slot, thr := c.thr, stream := false, src := a, dst := d, len := n, sig := mSIG c.w, obj := mOBJ c.w, msg
    sp := src, dp := dst, dests := [], first := 0, left, side := none, due := copyReady g.2 c.core src dst g.1
    exact := (src ++ dst).all (fun p => planned p.1) }

/-- A copy's remote message is held while a page or a strip is waited for (R211, R256). -/
def copyHolds (msg : Nat) (g : Nat × State) : Bool :=
  (src ++ dst).any (fun p => isRemote p.1) &&
    (!(waitsOf (src ++ dst)).isEmpty || copyStrip g.2 c.tenant (copyOf c a n d src dst msg 0 g))

/-- A copy stands last in its core's queue, and its own destination range is in flight. -/
def copyQueued (msg left : Nat) (g : Nat × State) : State :=
  (ownRange c.core d n).foldl (fun u r => addRange c r.1 r.2 (2 ^ 64) false u)
    (modCore c.core (fun k => { k with mq := k.mq ++ [copyOf c a n d src dst msg left g] }) g.2)

/-- What an MCOPY whose places can all be reached does. -/
def copyJoins (s : State) : State :=
  let msg := (s.nextWork + 1) * 8
  let g := copyGrant c src dst (copyBegun src dst s)
  let held := copyHolds c a n d src dst msg g
  let v := copyQueued c a n d src dst msg (if held then 1 else 0) g
  if held then v else copyFar c.slot c.tenant msg src dst v

theorem copyJoins_eq {s v : State} {msg : Nat} {g : Nat × State} {held : Bool} (hmsg : (s.nextWork + 1) * 8 = msg)
    (hg : copyGrant c src dst (copyBegun src dst s) = g) (hheld : copyHolds c a n d src dst msg g = held)
    (hv : copyQueued c a n d src dst msg (if held then 1 else 0) g = v) :
    copyJoins c a n d src dst s = if held then v else copyFar c.slot c.tenant msg src dst v := by
  subst hmsg hg hheld hv
  rfl

end Joins

section Mcopy
variable {i : Issue} {s s1 : State} {th : Thread} {j : Job} {c : Ctx'} {a n d : Nat} {src dst : List (Place × Nat)}

/-- An MCOPY between addresses of the layout that the job may reach joins the queue (R133, R134). -/
theorem mcopy_joins (hs : tick i.t s = s1) (h : Issues 3 6 i s1 th j) (hc : ctxAt i s1 th j = c)
    (ha : (sreg s1 c.k (mSA c.w)).toNat = a) (hn : (sreg s1 c.k (mSB c.w)).toNat = n)
    (hd : (sreg s1 c.k (mSC c.w)).toNat = d) (hin : a < 2 ^ 57 ∧ d < 2 ^ 57 ∧ a + n ≤ 2 ^ 57 ∧ d + n ≤ 2 ^ 57) :
    let m := afterIssue 3 i s1
    let wr := writeRange m c.tenant d n
    placesOf m c.tenant (jobCores m c.slot) a n false = src → placesOf m c.tenant (jobCores m c.slot) wr.1 wr.2 true = dst →
    badOf (src ++ dst) = none → exec (.mcopy i) s = .next (copyJoins c a n d src dst m) := by
  intro m wr hsrc hdst hok
  have hlies : ¬ (2 ^ 57 < a + n ∨ 2 ^ 57 < d + n ∨ 2 ^ 57 ≤ a ∨ 2 ^ 57 ≤ d) := by omega
  refine (memory_issues hs h _).trans (congrArg Host.Outcome.next ?_)
  dsimp only
  rw [hc, sreg_afterIssue, sreg_afterIssue, sreg_afterIssue, ha, hn, hd, if_neg hlies, hsrc, hdst, hok]
  rfl

end Mcopy

/-- Settles O8: a copy whose places are all reached, and a stream within the store to cores of its job. -/
theorem copiesQueue : Obligations.CopiesQueue := by
  intro i s th j s1
  have hs : tick i.t s = s1 := rfl
  clear_value s1
  intro core k w m a n d queue
  refine ⟨?copy, ?stream⟩
  case copy =>
    intro src wr dst msg u exact g x held v h ha hd han hdn hok
    have hjoins : exec (.mcopy i) s = .next (copyJoins (ctxAt i s1 th j) a n d src dst m) :=
      mcopy_joins hs h rfl rfl rfl rfl ⟨ha, hd, han, hdn⟩ rfl rfl hok
    have hx : copyOf (ctxAt i s1 th j) a n d src dst msg 0 g = x := rfl
    have hheld : copyHolds (ctxAt i s1 th j) a n d src dst msg g = held := by
      rw [copyHolds, hx]
      rfl
    exact hjoins.trans (congrArg Host.Outcome.next (copyJoins_eq (ctxAt i s1 th j) a n d src dst rfl rfl hheld rfl))
  case stream =>
    intro x h hcores hsrc hside
    have hcores : ¬ ¬ (streamDests core n).all (fun d => d ∈ jobCores m th.slot) = true := by
      simpa using hcores
    have hin : ¬ (¬ inStore (a, a + 256 * streamSlots n) = true ∨
        (mSC w ≠ 0 ∧ ¬ inStore (d, d + 32 * streamSlots n) = true)) := by
      simpa [inStore] using ⟨hsrc, hside⟩
    exact (memory_issues hs h _).trans (congrArg Host.Outcome.next ((if_neg hcores).trans (if_neg hin)))

/-! ### The oldest copy of a core (R132, R140) -/

/-- A copy whose places are all translated has nothing to look up again. -/
theorem copyArrived_of_waitsOf {m : MOp} (h : waitsOf (m.sp ++ m.dp) = []) (core tenant : Nat) (s : State) :
    copyArrived core tenant m s = m := by
  rw [copyArrived, h]
  rfl

/-- A copy that is reached completes once its message is over and landed and its data is there, a planned one in its very cc
(R59). -/
def copyDue (core tenant : Nat) (x : MOp) (data : List Byte) (s : State) : State :=
  if msgOpen s x.msg ∨ s.now < x.due ∨ (x.exact ∧ s.now ≠ x.due) ∨ s.now < landedBy s x.msg + farLand x.dp then s else
  let checked := checkSpans x.slot tenant x.sp .ok s
  let u := forget x.msg (popCopy core x checked.2)
  if checked.1 then
    let r := copyRead core x.thr x.sp (if (collected s x.msg).isEmpty then data else collected s x.msg) u
    checkDone x.slot (copySignal core x (writeOver noFar tenant x.dst x.dp r.1
      (chargeJob x.slot (placePj x.sp + placePj x.dp) r.2) (if x.sp.all (fun p => planned p.1) then 0 else 2)))
  else u

theorem copyDue_completes {core tenant : Nat} {x : MOp} {s : State} (data : List Byte) (hopen : msgOpen s x.msg = false)
    (hdue : x.due ≤ s.now) (hexact : x.exact = true → s.now = x.due) (hland : landedBy s x.msg + farLand x.dp ≤ s.now)
    (hgood : checkSpans x.slot tenant x.sp .ok s = (true, s)) :
    copyDue core tenant x data s =
      let r := copyRead core x.thr x.sp (if (collected s x.msg).isEmpty then data else collected s x.msg)
        (forget x.msg (popCopy core x s))
      checkDone x.slot (copySignal core x (writeOver noFar tenant x.dst x.dp r.1
        (chargeJob x.slot (placePj x.sp + placePj x.dp) r.2) (if x.sp.all (fun p => planned p.1) then 0 else 2))) := by
  have hwait : ¬ (msgOpen s x.msg = true ∨ s.now < x.due ∨ (x.exact = true ∧ s.now ≠ x.due) ∨
      s.now < landedBy s x.msg + farLand x.dp) := by
    rw [hopen]
    exact not_or.2 ⟨Bool.false_ne_true, not_or.2 ⟨Nat.not_lt.2 hdue,
      not_or.2 ⟨fun h => h.2 (hexact h.1), Nat.not_lt.2 hland⟩⟩⟩
  rw [copyDue, if_neg hwait, hgood]
  rfl

section Complete
variable {t : Nat} {core : Core} {s s1 s2 : State} {x : MOp} {rest : List MOp} {j : Job} (data : List Byte)
  (hs : tick t s = s1) (hq : (coreOf s1 core.val).mq = x :: rest) (hj : look s1.jobs x.slot = some j)
include hs hq hj

/-- A stream with every slot written leaves its queue and gives its signal (R130, R140). -/
theorem mOpComplete_stream (hstream : x.stream = true) (hleft : x.left = 0) :
    exec (.mOpComplete t core data 0) s =
      .next (checkDone x.slot (copySignal core.val x (popCopy core.val x s1))) := by
  subst hs
  refine congrArg Host.Outcome.next ?_
  rw [hq]
  dsimp only
  rw [hj]
  dsimp only
  rw [if_pos hstream, if_pos hleft]

/-- A copy that nothing of its places holds sends its message where that was held, and else completes once it is due. -/
theorem mOpComplete_reached (hs2 : modCore core.val (fun k => { k with mq := x :: k.mq.tail }) s1 = s2)
    (hstream : x.stream = false) (hok : badOf (x.sp ++ x.dp) = none) (hwaits : waitsOf (x.sp ++ x.dp) = [])
    (hstrip : copyStrip s2 j.tenant x = false) :
    exec (.mOpComplete t core data 0) s = .next (
      if x.left = 1 then copyFar x.slot j.tenant x.msg x.sp x.dp
        (modCore core.val (fun k => { k with mq := { x with left := 0 } :: k.mq.tail }) s2)
      else copyDue core.val j.tenant x data s2) := by
  subst hs
  refine congrArg Host.Outcome.next ?_
  rw [hq]
  dsimp only
  rw [hj]
  dsimp only
  rw [if_neg (ne_true_of_eq_false hstream), copyArrived_of_waitsOf hwaits, hs2, hok, hwaits, hstrip]
  rfl

end Complete

/-- Settles O9: a stream with its slots written, and a copy that is reached, by whether its remote message was held. -/
theorem copiesComplete : Obligations.CopiesComplete := by
  intro t core data s x rest j s1
  have hs : tick t s = s1 := rfl
  clear_value s1
  intro s2 r hq hj
  refine ⟨mOpComplete_stream data hs hq hj, fun hstream hok hwaits hstrip => ?copy⟩
  have hreached := mOpComplete_reached data hs hq hj rfl hstream hok hwaits hstrip
  refine ⟨fun hleft hopen hdue hexact hland hgood => ?due, fun hleft => ?held⟩
  case due =>
    exact hreached.trans (congrArg Host.Outcome.next
      ((if_neg hleft).trans (copyDue_completes data hopen hdue hexact hland hgood)))
  case held => exact hreached.trans (congrArg Host.Outcome.next (if_pos hleft))

end Sys2Proof.Machine
end

section
/-! Triggers and work requests (spec/02 R46; spec/05 R137, R138; spec/08 R211; spec/13 R360, R362, R363): O26. -/

namespace Sys2Proof.Machine

/-- A trigger that is met in an operation's cc, or was met as it was armed, leaves its object and issues its work request. -/
theorem triggerFire_met {t obj idx : Nat} {data : Data} {s s1 : State} {o : SyncObj} {g : Trigger} {j : Job}
    (hs : tick t s = s1) (ho : look s1.sync obj = some o) (hg : o.trigs[idx]? = some g) (hmet : g.threshold ≤ o.value)
    (harmed : g.armedAt < s1.now) (hnow : s1.now = o.stamp ∨ s1.now = g.armedAt + 1) (hj : look s1.jobs g.slot = some j) :
    exec (.triggerFire t obj idx data) s =
      let u := bftCount 21 { s1 with sync := tput s1.sync obj { o with trigs := o.trigs.eraseIdx idx } }
      .next (issueWork g.slot g.handle j (readVa u j.tenant [] (j.block.wrt + 64 * g.handle) 64) data u) := by
  subst hs
  refine congrArg Host.Outcome.next ?_
  rw [ho]
  dsimp only
  rw [hg]
  dsimp only
  rw [if_neg (by omega), hj]

/-- The write by which a READ's bytes land at LOCAL (R363). -/
def readLands (j : Job) (w : WorkRun) (far : List Byte) (data : Data) : HeldWrite :=
  { tenant := some j.tenant, slot := w.slot, va := w.local_, ecc := data.ecc, src := some (.remote w.peer 0 0 0)
    data := (if far.isEmpty then data.bytes else far).take w.len }

/-- A work request whose packets all have outcomes has ended: its bytes are at LOCAL and its STATUS reads complete (R363). -/
def workEnded (id : Nat) (w : WorkRun) (x : HeldWrite) (s : State) : State :=
  let u := forget (8 * id + 1) { s with works := tdel s.works id }
  wrStatus w.slot w.handle 3 0 (if w.kind = 2 then landHeld x u else u)

theorem workRequestComplete_ends {t id : Nat} {data : Data} {s s1 : State} {w : WorkRun} {j : Job} (hs : tick t s = s1)
    (hw : look s1.works id = some w) (hj : look s1.jobs w.slot = some j) (hopen : msgOpen s1 (8 * id + 1) = false)
    (hheld : w.held = none) {x : HeldWrite} (hx : readLands j w (collected s1 (8 * id + 1)) data = x)
    (hland : w.kind = 2 → landedBy s1 (8 * id + 1) ≤ s1.now ∧ heldWaits s1 x = false) :
    exec (.workRequestComplete t id 0 data) s = .next (
      let v := workEnded id w x s1
      if bitOf w.flags 2 then match absObj v j w.done with
        | some o => signalAdd o 1 200 v
        | none => v
      else v) := by
  subst hs
  refine congrArg Host.Outcome.next ?_
  rw [hw]
  dsimp only
  rw [hj]
  dsimp only
  have hwait : ¬ (msgOpen (tick t s) (8 * id + 1) = true ∨ w.held.isSome = true ∨
      (w.kind = 2 ∧ (tick t s).now < landedBy (tick t s) (8 * id + 1))) := by
    rw [hopen, hheld]
    exact not_or.2 ⟨Bool.false_ne_true, not_or.2 ⟨Bool.false_ne_true, fun h => Nat.not_lt.2 (hland h.1).1 h.2⟩⟩
  have hland : ¬ (w.kind = 2 ∧ heldWaits (tick t s) x = true) := fun h => ne_true_of_eq_false (hland h.1).2 h.2
  rw [if_neg hwait, if_neg (not_not.2 rfl)]
  subst hx
  exact if_neg hland

/-- Settles O26: a trigger that is met fires, and a request with nothing left to wait for completes, with or
without a signal. -/
theorem triggers : Obligations.Triggers := by
  intro t data s s1
  have hs : tick t s = s1 := rfl
  clear_value s1
  refine ⟨fun obj idx o g j ho hg hmet harmed hnow hj => triggerFire_met hs ho hg hmet harmed hnow hj, ?complete⟩
  case complete =>
    intro id w j hw hj hopen hheld far x u v hland
    have hx : readLands j w (collected s1 (8 * id + 1)) data = x := by simp only [readLands, List.isEmpty_iff]; rfl
    have hends := workRequestComplete_ends hs hw hj hopen hheld hx hland
    refine ⟨fun hsig => ?silent, fun o hsig ho => ?signalled⟩
    case silent => exact hends.trans (congrArg Host.Outcome.next (if_neg (ne_true_of_eq_false hsig)))
    case signalled =>
      refine hends.trans (congrArg Host.Outcome.next ((if_pos hsig).trans ?_))
      have ho : absObj (workEnded id w x s1) j w.done = some o := ho
      rw [ho]
      rfl

end Sys2Proof.Machine
end

section
/-! Vector instructions and their draws (spec/05 R120, R124; spec/06 R145 to R159): O5 and O6. -/

namespace Sys2Proof.Machine

/-! ### Sources (R145, R146) -/

/-- The operations with one vector source, VA. -/
def oneSource : List Nat := [0x07, 0x08, 0x09, 0x0A, 0x0C, 0x10, 0x11, 0x12, 0x13, 0x14, 0x15, 0x17]

/-- The operations with two vector sources, VA and VB. -/
def twoSources : List Nat := [0x01, 0x02, 0x03, 0x05, 0x06, 0x0E, 0x0F]

section Sources
variable {op : Nat} {w : W64} (hw : opCode w = op)
include hw

theorem srcV_none (h : op ∈ [0x0B, 0x16]) : (needsV w).srcV = [] := by
  rw [needsV, hw]
  fin_cases h <;> rfl

theorem srcV_one (h : op ∈ oneSource) : (needsV w).srcV = [vVA w] := by
  rw [needsV, hw]
  fin_cases h <;> rfl

theorem srcV_two (h : op ∈ twoSources) : (needsV w).srcV = [vVA w, vVB w] := by
  rw [needsV, hw]
  fin_cases h <;> rfl

theorem srcV_three (h : op ∈ [0x04, 0x0D]) : (needsV w).srcV = [vVA w, vVB w, vVC w] := by
  rw [needsV, hw]
  fin_cases h <;> rfl

end Sources

/-! ### What the book-keeping of an issue leaves to read -/

section Kept
variable (cls : Nat) (i : Issue) (s : State) (c : Ctx')

theorem vecBad_afterIssue (v : Nat) : vecBad (afterIssue cls i s) c v = vecBad s c v := by
  rw [afterIssue_frame]
  rfl

theorem srcA_afterIssue : srcA c (afterIssue cls i s) = srcA c s := vreg_afterIssue cls i s _ _
theorem srcB_afterIssue : srcB c (afterIssue cls i s) = srcB c s := vreg_afterIssue cls i s _ _
theorem srcC_afterIssue : srcC c (afterIssue cls i s) = srcC c s := vreg_afterIssue cls i s _ _

theorem ssK_afterIssue : ssK c (afterIssue cls i s) = ssK c s := by simp only [ssK, sreg_afterIssue]

theorem lane1_afterIssue (g : Nat → W32 → W32) :
    lane1 g c (afterIssue cls i s) = plainRes c ((srcA c s).map (g (vFMT c.w))) (afterIssue cls i s) := by
  rw [lane1, srcA_afterIssue]

theorem lane2_afterIssue (g : Nat → W32 → W32 → W32) : lane2 g c (afterIssue cls i s) =
    plainRes c (List.zipWith (g (vFMT c.w)) (srcA c s) (srcB c s)) (afterIssue cls i s) := by
  rw [lane2, srcA_afterIssue, srcB_afterIssue]

theorem lane3_afterIssue (g : Nat → W32 → W32 → W32 → W32) : lane3 g c (afterIssue cls i s) =
    plainRes c (List.zipWith (fun ab x => g (vFMT c.w) ab.1 ab.2 x) (List.zip (srcA c s) (srcB c s)) (srcC c s))
      (afterIssue cls i s) := by
  rw [lane3, srcA_afterIssue, srcB_afterIssue, srcC_afterIssue]

/-- The book-keeping marks the issue at its core. -/
theorem coreOf_afterIssue (d : Nat) : coreOf (afterIssue cls i s) d = coreOf (modCore i.core.val (fun k => { k with
    issued := k.issued.set cls (i.t + 1)
    issuer := k.issuer.set cls (((look s.threads (thrKey i.core.val i.thr.val)).map (·.slot)).getD 0) }) s) d := rfl

theorem seed_afterIssue (d : Nat) : (coreOf (afterIssue cls i s) d).seed = (coreOf s d).seed := by
  rw [coreOf_afterIssue, coreOf_modCore]
  split
  case isTrue hd => rw [hd]
  case isFalse => rfl

theorem threads_afterIssue : (afterIssue cls i s).threads = tmod s.threads (thrKey i.core.val i.thr.val)
    (fun th => { th with pc := th.pc + 1, readyAt := i.t + 1 }) := rfl

/-- The thread moves on. -/
theorem look_threads_afterIssue {th : Thread} (h : look s.threads (thrKey i.core.val i.thr.val) = some th) :
    look (afterIssue cls i s).threads (thrKey i.core.val i.thr.val) =
      some { th with pc := th.pc + 1, readyAt := i.t + 1 } := by
  rw [threads_afterIssue, look_tmod, if_pos rfl, h, Option.map_some]

end Kept

/-! ### A V-format instruction as it issues -/

/-- The result of a vector instruction in its destination, counted under TAG in the cc in which it becomes usable, where TAGEN
asks for it (R145, R153). -/
def writeVec (c : Ctx') (lat : Nat) (tagged : Bool) (r : List W32 × List Seen × State) : State :=
  let u := setVreg c.k (vVD c.w) r.1 (c.t + lat) r.2.2
  if tagged && vTAGEN c.w then { u with tallies := u.tallies ++ [(c.t + lat, c.tenant, vTAG c.w, r.2.1)] } else u

/-- A result after 6 cc, or 8 in X32, whose lanes are counted as they stand (R145, R153). -/
def writeLanes (c : Ctx') (tagged : Bool) (lanes : List W32) (s : State) : State :=
  writeVec c (latFmt c) tagged (lanes, lanes.map (seenLane (vFMT c.w)), s)

/-- What the lanes count as matters only where TAGEN asks for it. -/
theorem writeVec_plainRes (c : Ctx') (tagged : Bool) (lanes : List W32) (s : State) :
    writeVec c (latFmt c) tagged (plainRes c lanes s) = writeLanes c tagged lanes s := by
  cases ht : vTAGEN c.w
  case false => simp only [writeVec, writeLanes, plainRes, ht, Bool.and_false, Bool.false_eq_true, if_false]
  case true => simp only [writeLanes, plainRes, ht, if_true]

section Vector
variable {op : Nat} {i : Issue} {s s1 : State} {th : Thread} {j : Job} {c : Ctx'} (hs : tick i.t s = s1)
  (hc : ctxAt i s1 th j = c) (h : Issues 1 op i s1 th j)
include hc h

theorem opCode_ctxAt : opCode c.w = op := by
  subst hc
  exact h.isOp

include hs

/-- With valid parity in every source the result is written (R145). -/
theorem vector_writes {l : List Nat} (hsrc : (needsV c.w).srcV = l) (hgood : ∀ v ∈ l, goodVec s1 c.k v) (lat : Ctx' → Nat)
    (tagged : Bool) (f : Ctx' → State → List W32 × List Seen × State) :
    vector op lat tagged f i s = .next (writeVec c (lat c) tagged (f c (afterIssue 1 i s1))) := by
  have hgood : ¬ (needsV c.w).srcV.any (vecBad (afterIssue 1 i s1) c) = true := by
    rw [hsrc, List.any_eq_true]
    rintro ⟨v, hv, hbad⟩
    exact not_vecBad (hgood v hv) (vecBad_afterIssue 1 i s1 c v ▸ hbad)
  subst hc
  exact congrArg Host.Outcome.next ((issue_runs_at hs h _).trans (if_neg hgood))

theorem plain_writes {l : List Nat} {lanes : List W32} (hsrc : (needsV c.w).srcV = l) (hgood : ∀ v ∈ l, goodVec s1 c.k v)
    (tagged : Bool) {f : Ctx' → State → List W32 × List Seen × State}
    (hf : f c (afterIssue 1 i s1) = plainRes c lanes (afterIssue 1 i s1)) :
    vector op latFmt tagged f i s = .next (writeLanes c tagged lanes (afterIssue 1 i s1)) := by
  rw [vector_writes hs hc h hsrc hgood, hf, writeVec_plainRes]

theorem lane1_writes (g : Nat → W32 → W32) (ha : goodVec s1 c.k (vVA c.w)) (hop : op ∈ oneSource := by decide) :
    vector op latFmt true (lane1 g) i s = .next (writeLanes c true ((srcA c s1).map (g (vFMT c.w))) (afterIssue 1 i s1)) :=
  plain_writes hs hc h (srcV_one (opCode_ctxAt hc h) hop) (List.forall_mem_singleton.2 ha) true (lane1_afterIssue 1 i s1 c g)

theorem lane2_writes (g : Nat → W32 → W32 → W32) (tagged : Bool) (ha : goodVec s1 c.k (vVA c.w))
    (hb : goodVec s1 c.k (vVB c.w)) (hop : op ∈ twoSources := by decide) :
    vector op latFmt tagged (lane2 g) i s =
      .next (writeLanes c tagged (List.zipWith (g (vFMT c.w)) (srcA c s1) (srcB c s1)) (afterIssue 1 i s1)) :=
  plain_writes hs hc h (srcV_two (opCode_ctxAt hc h) hop)
    (List.forall_mem_cons.2 ⟨ha, List.forall_mem_singleton.2 hb⟩) tagged (lane2_afterIssue 1 i s1 c g)

theorem lane3_writes (g : Nat → W32 → W32 → W32 → W32) (ha : goodVec s1 c.k (vVA c.w)) (hb : goodVec s1 c.k (vVB c.w))
    (hd : goodVec s1 c.k (vVC c.w)) (hop : op ∈ [0x04, 0x0D] := by decide) :
    vector op latFmt true (lane3 g) i s = .next (writeLanes c true
      (List.zipWith (fun ab x => g (vFMT c.w) ab.1 ab.2 x) (List.zip (srcA c s1) (srcB c s1)) (srcC c s1))
      (afterIssue 1 i s1)) :=
  plain_writes hs hc h (srcV_three (opCode_ctxAt hc h) hop)
    (List.forall_mem_cons.2 ⟨ha, List.forall_mem_cons.2 ⟨hb, List.forall_mem_singleton.2 hd⟩⟩) true
    (lane3_afterIssue 1 i s1 c g)

/-- A reduction in the fixed tree (R150). -/
theorem reduce_writes (g : Nat → W32 → W32 → W32) (ha : goodVec s1 c.k (vVA c.w)) (hop : op ∈ oneSource := by decide) :
    vector op latFmt true (fun c s => plainRes c (reduce (g (vFMT c.w)) (srcA c s)) s) i s =
      .next (writeLanes c true (reduce (g (vFMT c.w)) (srcA c s1)) (afterIssue 1 i s1)) :=
  plain_writes hs hc h (srcV_one (opCode_ctxAt hc h) hop) (List.forall_mem_singleton.2 ha) true (by rw [srcA_afterIssue])

end Vector

section Scalar
variable {i : Issue} {s s1 : State} {th : Thread} {j : Job} {c : Ctx'} (hs : tick i.t s = s1) (hc : ctxAt i s1 th j = c)
include hs hc

/-- VSCALE by the k of SS (R151). -/
theorem vscale_writes (h : Issues 1 0x0A i s1 th j) (ha : goodVec s1 c.k (vVA c.w)) : exec (.vscale i) s =
    .next (writeLanes c true ((srcA c s1).map (laneScale (vFMT c.w) (ssK c s1))) (afterIssue 1 i s1)) :=
  plain_writes (f := fun c s => lane1 (fun fmt => laneScale fmt (ssK c s)) c s) hs hc h
    (srcV_one (opCode_ctxAt hc h) (by decide)) (List.forall_mem_singleton.2 ha) true (by rw [lane1_afterIssue, ssK_afterIssue])

/-- VBCAST reads no vector register (R146, R149). -/
theorem vbcast_writes (h : Issues 1 0x0B i s1 th j) : exec (.vbcast i) s = .next (writeLanes c true
    (List.replicate 256 (formOf (vFMT c.w) ((sreg s1 c.k (vSS c.w)).setWidth 32))) (afterIssue 1 i s1)) :=
  plain_writes
    (f := fun c s => plainRes c (List.replicate 256 (formOf (vFMT c.w) ((sreg s c.k (vSS c.w)).setWidth 32))) s) hs hc h
    (srcV_none (opCode_ctxAt hc h) (by decide)) (List.forall_mem_nil _) true (by rw [sreg_afterIssue])

end Scalar

/-- Settles O5, by the number of vector sources: the lanes come from the registers before the issue. -/
theorem vectorLanes : Obligations.VectorLanes := by
  intro i s th j s1
  have hs : tick i.t s = s1 := rfl
  clear_value s1
  intro k w f a b c okA okB okC put two three
  -- under its name, the result is found without unfolding the state
  have hput : put = fun tagged lanes => .next (writeLanes (ctxAt i s1 th j) tagged lanes (afterIssue 1 i s1)) := rfl
  clear_value put
  subst hput
  exact ⟨fun h ha hb => lane2_writes hs rfl h laneAdd true ha hb,
    fun h ha hb => lane2_writes hs rfl h laneSub true ha hb,
    fun h ha hb => lane2_writes hs rfl h laneMul true ha hb,
    fun h ha hb hd => lane3_writes hs rfl h (fun _ => fmaX) ha hb hd,
    fun h ha hb => lane2_writes hs rfl h laneMax true ha hb,
    fun h ha hb => lane2_writes hs rfl h laneMin true ha hb,
    fun h ha => lane1_writes hs rfl h laneAbs ha,
    fun h ha => lane1_writes hs rfl h laneNeg ha,
    fun h ha => vscale_writes hs rfl h ha,
    fun h => vbcast_writes hs rfl h,
    fun h ha hb hd => lane3_writes hs rfl h laneSel ha hb hd,
    fun h ha hb => lane2_writes hs rfl h (laneCmp (fun x y => x < y)) false ha hb,
    fun h ha hb => lane2_writes hs rfl h (laneCmp (fun x y => x = y)) false ha hb,
    fun h ha => reduce_writes hs rfl h laneAdd ha,
    fun h ha => reduce_writes hs rfl h laneMax ha,
    fun h ha => lane1_writes hs rfl h laneExp2 ha,
    fun h ha => lane1_writes hs rfl h laneLog2 ha,
    fun h ha => lane1_writes hs rfl h laneRecip ha,
    fun h ha => lane1_writes hs rfl h laneRsqrt ha,
    fun h ha => lane1_writes hs rfl h formOf ha⟩

/-! ### Draws (R154 to R156) -/

/-- A core's count of draw instructions goes up (R156). -/
def countDraw (core : Nat) (s : State) : State := bump (0x100000 + 0x10000 * core + 0x5004) 32 1 s

/-- One draw for each lane, from a seed, the lanes' generators and a count (R154). -/
def laneDraws (seed : W64) (id n : Nat) : List W32 :=
  (List.range 256).map (fun l => mix (laneKey seed (256 * id + l)) (BitVec.ofNat 64 n))

section Draws
variable {c : Ctx'} {s : State}

/-- A deterministic job draws from its seed, its exposure and the thread's stream, and the draw counts in the thread. -/
theorem draws_deterministic {th : Thread} (hdet : bitOf c.job.block.flags 0 = true) (hth : look s.threads c.k = some th) :
    draws c s = (laneDraws c.job.block.seed th.stream
        ((c.job.block.g0 + (c.job.segs - 1)) % 2 ^ 32 * 2 ^ 32 + th.draws % 2 ^ 32),
      modThr c.k (fun x => { x with draws := (x.draws + 1) % 2 ^ 32 }) (countDraw c.core s)) := by
  simp only [draws, hdet, if_true, bump_threads, hth, laneDraws, countDraw]

/-- A free-running job draws from its core's seed and cc count. -/
theorem draws_free (hfree : bitOf c.job.block.flags 0 = false) :
    draws c s = (laneDraws (coreOf s c.core).seed c.core (c.t - s.boot.startAt), countDraw c.core s) := by
  simp only [draws, hfree, Bool.false_eq_true, if_false, coreOf, bump_cores, bump_boot, laneDraws, countDraw]

theorem srcA_draws : srcA c (draws c s).2 = srcA c s := by
  unfold draws
  dsimp only
  split
  case isTrue => split <;> rfl
  case isFalse => rfl

end Draws

/-! ### VCVT, VEXTR and VRAND -/

/-- The draws VCVT rounds by, and the state with them counted: none unless RM is stochastic (R152, R155). -/
def cvtDraws (c : Ctx') (s : State) : List W32 × State :=
  if bitOf (vRM c.w) 1 then draws c s else (List.replicate 256 0, s)

/-- What VCVT makes of the lanes of its source, with a draw for each (R152, R155). -/
def cvtLanes (c : Ctx') (s : State) (ds : List W32) : List (W32 × Seen) :=
  List.zipWith (fun a d => laneCvt (vFMT c.w) (vTFMT c.w) (vRM c.w) (ssK c s) (drawU d) a) (srcA c s) ds

/-- VCVT's lanes, what the census sees of them, and the state with its draws counted. -/
def cvtResult (c : Ctx') (s : State) : List W32 × List Seen × State :=
  let rs := cvtLanes c s (cvtDraws c s).1
  (rs.map (·.1), rs.map (·.2), (cvtDraws c s).2)

/-- VRAND's lanes, which no census sees (R153, R155), and the state with its draws counted. -/
def randResult (c : Ctx') (s : State) : List W32 × List Seen × State := ((draws c s).1, [], (draws c s).2)

theorem exec_vcvt (i : Issue) (s : State) : exec (.vcvt i) s = vector 0x09 latCvt true cvtResult i s := by
  have hexec : exec (.vcvt i) s = execVcvt i s := rfl
  rw [hexec, execVcvt]
  congr 1
  funext c s
  cases hrm : bitOf (vRM c.w) 1
  case false => simp only [cvtResult, cvtLanes, cvtDraws, hrm, Bool.false_eq_true, if_false]
  case true => simp only [cvtResult, cvtLanes, cvtDraws, hrm, if_true, srcA_draws]

theorem exec_vrand (i : Issue) (s : State) : exec (.vrand i) s = vector 0x16 latFmt false randResult i s := rfl

section Others
variable {i : Issue} {s s1 : State} {th : Thread} {j : Job} {c : Ctx'} (hs : tick i.t s = s1) (hc : ctxAt i s1 th j = c)
include hs hc

theorem vcvt_writes (h : Issues 1 0x09 i s1 th j) (ha : goodVec s1 c.k (vVA c.w)) {ds : List W32} {u : State}
    (hds : cvtDraws c (afterIssue 1 i s1) = (ds, u)) : exec (.vcvt i) s =
      .next (writeVec c (latCvt c) true ((cvtLanes c s1 ds).map (·.1), (cvtLanes c s1 ds).map (·.2), u)) := by
  rw [exec_vcvt, vector_writes hs hc h (srcV_one (opCode_ctxAt hc h) (by decide)) (List.forall_mem_singleton.2 ha)]
  simp only [cvtResult, hds, cvtLanes, srcA_afterIssue, ssK_afterIssue]

theorem vrand_writes (h : Issues 1 0x16 i s1 th j) {ds : List W32} {u : State}
    (hds : draws c (afterIssue 1 i s1) = (ds, u)) :
    exec (.vrand i) s = .next (setVreg c.k (vVD c.w) ds (c.t + latFmt c) u) := by
  rw [exec_vrand, vector_writes hs hc h (srcV_none (opCode_ctxAt hc h) (by decide)) (List.forall_mem_nil _)]
  simp only [randResult, hds, writeVec, Bool.false_and, Bool.false_eq_true, if_false]

/-- VEXTR takes one lane to a scalar register (R146). -/
theorem vextr_writes (h : Issues 1 0x0C i s1 th j) (ha : goodVec s1 c.k (vVA c.w)) :
    exec (.vextr i) s = .next (setSreg c.k (vSS c.w)
      (let x := ((srcA c s1)[vLane c.w]?).getD 0
       if vFMT c.w = 4 then x.signExtend 64 else if vFMT c.w = 2 then (l16 (code16 x)).setWidth 64 else x.setWidth 64)
      (c.t + latFmt c) (afterIssue 1 i s1)) := by
  subst hc
  refine congrArg Host.Outcome.next ((issue_runs_at hs h _).trans ?_)
  rw [vecBad_afterIssue, if_neg (not_vecBad ha), srcA_afterIssue]

end Others

/-- Settles O6: the draws are taken once the issue is booked, which leaves the thread's stream and count of draws. -/
theorem vectorOthers : Obligations.VectorOthers := by
  intro i s th j s1
  have hs : tick i.t s = s1 := rfl
  clear_value s1
  intro k w f a m tally drawn n ds lat cvt put
  have hput : put = fun rs u =>
      .next (writeVec (ctxAt i s1 th j) (latCvt (ctxAt i s1 th j)) true (rs.map (·.1), rs.map (·.2), u)) := rfl
  clear_value put
  subst hput
  have hdet (hth : look s1.threads k = some th) (hflag : bitOf j.block.flags 0 = true) :
      draws (ctxAt i s1 th j) m = (ds, drawn) :=
    draws_deterministic (th := { th with pc := th.pc + 1, readyAt := i.t + 1 }) hflag
      (look_threads_afterIssue 1 i s1 hth)
  refine ⟨fun h ha hrm => vcvt_writes hs rfl h ha (u := m) (if_neg (ne_true_of_eq_false hrm)),
    fun h ha hrm hflag => vcvt_writes hs rfl h ha (u := drawn) ((if_pos hrm).trans (hdet h.thread hflag)),
    fun h ha => vextr_writes hs rfl h ha, fun h hflag => vrand_writes hs rfl h (hdet h.thread hflag),
    fun h hflag => vrand_writes hs rfl h ?free⟩
  case free =>
    refine (draws_free hflag).trans ?_
    rw [seed_afterIssue]
    rfl

end Sys2Proof.Machine
end

section
/-! The phases of a strip (spec/07 R165, R180; spec/08 R206 to R209; spec/09 R229): O35. -/

namespace Sys2Proof.Machine

/-- The master object of the counterexample: one page of HBM with a descriptor of four values under rule 0. -/
def tallyMaster : Obj :=
  { pages := 1, psize := 0, home := 0, policy := 0, stks := 1, stripe := 1, shelf := 0, homeLoc := 0, key := 0, module := 0,
    peer := 0, accSr := false, accX := false, tag := 0
    desc := some { master := 1, grad := 1, mom1 := 0, mom2 := 0, x0 := 0, out := 0, rows := 1, cols := 4, rule := 0, e := 0,
                   rank := 1, flags := 0, hyp := 0, mtag := 0 }
    sealHash := none, maps := [], lost := [], loc := [(0, 5)] }

/-- A strip that is due in FINISH, with the four values that its COMPUTE left to count under tag 3 (R165). -/
def tallyStrip : StripRun :=
  { soleStrip 0 6 0 with due := some 0, w := [0, 0, 0, 0], seen := [(3, seen16 [0, 0, 0, 0])] }

/-- The update of that one strip. Its job has ended: from STAGE on the strip rolls forward (R209). -/
def tallyUpd : UpdRun :=
  { slot := 0, entry := 0, stack := 0, step := 0, n := 1, status := 1, mode := 0, next := 1, done := 0, strips := [tallyStrip],
    job := 7, master := 1, rerun := false, torn := false
    part := { op := 3, stack := 0, object := 1, va := 0, srcVa := 0, count := 4, tag := 3, form := 0, srcFmt := 0, gen := 0,
              startBp := 0, firstStrip := 0, strips := 1, prep := false, waitOp := none, alloc := 0 }
    sketch := [], sched := [], retimed := false, readAt := 0, tenant := 0, kick := 0 }

/-- The module at reset but for the object and its update, run 4. -/
def tallyState : State := { State.reset with objs := [(1, tallyMaster)], upds := [(4, tallyUpd)] }

/-- The census that an outcome leaves. -/
def censusLeft : Res → Tab Census
  | .next s => s.census
  | _ => []

/-- FINISH counts the new values under tag 3: four, all of them zero (R164, R165). -/
theorem finish_counts : (tget (censusLeft (exec (.stripPhaseComplete 0 4 0 .ok) tallyState)) 3 emptyCensus).zero = 4 := by decide

/-- Refutes O35: its clause for FINISH leaves the census as it was, where FINISH makes the new values usable and so counts
what COMPUTE left in the strip (R165). -/
theorem not_stripPhases : ¬ Obligations.StripPhases := by
  intro h
  obtain ⟨-, hended⟩ := h 0 4 0 tallyState tallyUpd tallyStrip _ 0 (by decide) (by decide) rfl rfl rfl
    (show descOf (tick 0 tallyState) 1 = some _ from rfl)
  obtain ⟨-, -, -, -, -, -, -, hfinish⟩ := hended (Nat.zero_le _) rfl
  have hzero := congrArg (fun r => (tget (censusLeft r) 3 emptyCensus).zero) (hfinish rfl)
  exact absurd (finish_counts.symm.trans hzero) (by decide)

end Sys2Proof.Machine
end

section
/-! Commands on plans, jobs and tenants (spec/07 R181; spec/14 R380, R387 to R392; spec/15 R395 to R397; spec/16 R425): O46. -/

namespace Sys2Proof.Machine

/-! ### A command begins (R380) -/

/-- The record of a command that begins in `s`. -/
def begunAs (x : Exec) (s : State) : Exec := { x with begun := true, at_ := ptpNs s }

@[simp] theorem begunAs_hdr (x : Exec) (s : State) : (begunAs x s).hdr = x.hdr := rfl
@[simp] theorem begunAs_tenant (x : Exec) (s : State) : (begunAs x s).tenant = x.tenant := rfl

/-- Command `x` begins at cc `t` of `s`: in `s1`, with the headers refused at their turn, and in `u` its request is open. -/
structure Begins (t cmd : Nat) (x : Exec) (s s1 u : State) : Prop where
  listed : look (tick t s).cmds cmd = some x
  refused : refuseHeaders (tick t s) = s1
  kept : look s1.cmds cmd = some x
  fresh : x.begun = false
  turn : mayBegin s1 cmd x = true
  opened : openReq x { s1 with cmds := tput s1.cmds cmd (begunAs x s1) } = u

/-- A tenant whose commands are served (R380, R392). -/
structure Active (s : State) (tenant : Nat) (te : Tenant) : Prop where
  found : look s.tenants tenant = some te
  stays : te.destroying = false

section Begin
variable {t cmd op : Nat} {x : Exec} {s s1 u : State} {te : Tenant} (h : Begins t cmd x s s1 u)
include h

/-- No meridian falls as a command's request opens. -/
theorem Begins.mer : u.mer = s1.mer := by
  rw [← h.opened]
  rfl

variable (hop : x.hdr.opcode = op)
include hop

theorem runCmd_begins (f : Exec → State → State) : runCmd cmd op f (tick t s) = f (begunAs x s1) u := by
  obtain ⟨-, rfl, hkept, hfresh, hturn, rfl⟩ := h
  simp only [runCmd, hkept]
  exact if_neg (by simp [hop, hfresh, hturn])

theorem forTenant_begins (ht : Active u x.tenant te) (f : Exec → State → State) :
    forTenant cmd op f (tick t s) = f (begunAs x s1) u := by
  simp only [forTenant, runCmd_begins h hop, begunAs_tenant, ht.found, ht.stays, Bool.false_eq_true, if_false]

theorem withBlock_begins (ht : Active u x.tenant te) (hb : blockOk u (begunAs x s1) = true) (f : Exec → State → State) :
    withBlock cmd op f (tick t s) = f (begunAs x s1) u :=
  (forTenant_begins h hop ht _).trans (if_pos hb)

end Begin

/-! ### What a command names (R386) -/

theorem onPlan_own {cmd k : Nat} {x : Exec} {p : Plan} {s : State} (hp : look s.plans k = some p) (hown : p.tenant = x.tenant)
    (f : Plan → State → State) : onPlan cmd x k f s = f p s := by
  simp only [onPlan, hp, hown, ne_eq, not_true_eq_false, if_false]

theorem onSlot_own {cmd slot : Nat} {x : Exec} {j : Job} {s : State} (hj : look s.jobs slot = some j)
    (hown : j.tenant = x.tenant) (f : Job → State → State) : onSlot cmd x slot f s = f j s := by
  simp only [onSlot, hj, hown, ne_eq, not_true_eq_false, if_false]

theorem saysAbort_of_look {cmd : Nat} {x : Exec} {s : State} (h : look s.cmds cmd = some x) :
    saysAbort s cmd = bitOf x.hdr.p0 16 := by
  simp only [saysAbort, h, Option.any_some]

/-! ### The commands (R389 to R392, R396, R425) -/

section Commands
variable {t cmd : Nat} {x : Exec} {s s1 u : State} {te : Tenant} (h : Begins t cmd x s s1 u)
include h

/-- PLAN_LOAD of an image with a good header: the first check that refuses it answers, else it is stored where it fits. -/
theorem planLoad_begins {p : PlanImage} (hop : x.hdr.opcode = 0x0101) (ht : Active u x.tenant te)
    (hb : blockOk u (begunAs x s1) = true) (hmagic : p.magic = 0x4C505850) (hver : p.version = 1) (hrsv : p.rsv = 0)
    (hlen : p.length ≤ x.hdr.length) : exec (.planLoad t cmd p) s = .next (
      (planRefusal u x.tenant p).elim
        (if ¬ wordsFit u p then fail cmd 0x16 u else done cmd u.nextPlan { u with
          plans := tput u.plans u.nextPlan { tenant := x.tenant, image := p, eph := [], status := 0 }
          nextPlan := u.nextPlan + 1 })
        (fun r => refuseWith cmd r.1 u r.2.1 r.2.2)) := by
  refine congrArg Host.Outcome.next ((withBlock_begins h hop ht hb _).trans ((if_neg ?header).trans ?_))
  case header => simpa [hmagic, hver, hrsv] using hlen
  cases hr : planRefusal u x.tenant p <;> simp only [begunAs_tenant, hr, Option.elim_none, Option.elim_some]

/-- JOB_START of a plan of the tenant, with no roll-forward of the job to wait for (R209). -/
theorem jobStart_begins {b : JobBlock} {p : Plan} {v : State} (hop : x.hdr.opcode = 0x0201) (ht : Active u x.tenant te)
    (hroll : rollsForward (tick t s) x.tenant b.jobId = false) (hb : blockOk u (begunAs x s1) = true) (hflags : b.flags < 4)
    (hrsv : b.rsv = 0) (hlen : 128 ≤ x.hdr.length) (hp : look u.plans b.plan = some p) (hown : p.tenant = x.tenant)
    (hv : clampedBack (begunAs x s1) b (clampBlock b) u = v) : exec (.jobStart t cmd b) s = .next (
      (startReason v x.tenant p.image (clampBlock b)).elim (createJob cmd (begunAs x s1) p.image (clampBlock b) v)
        (fun r => refuseWith cmd r v)) := by
  subst hv
  refine congrArg Host.Outcome.next ((if_neg ?waits).trans ((withBlock_begins h hop ht hb _).trans
    ((if_neg ?header).trans ((onPlan_own (x := begunAs x s1) hp hown _).trans ?_))))
  case waits => simp [h.listed, hroll]
  case header => simpa [hrsv] using ⟨hflags, hlen⟩
  cases hr : startReason (clampedBack (begunAs x s1) b (clampBlock b) u) x.tenant p.image (clampBlock b) <;>
    simp only [begunAs_tenant, hr, Option.elim_none, Option.elim_some]

/-- JOB_STOP, which answers the number of the next meridian. -/
theorem stopJob_begins {j : Job} (abort : Bool) (hop : x.hdr.opcode = 0x0202) (ht : Active u x.tenant te)
    (hj : look u.jobs (x.hdr.p0 % 4096) = some j) (hown : j.tenant = x.tenant) :
    stopJob cmd abort (tick t s) = done cmd (toField 64 (s1.mer.count + 1)) (modJob (x.hdr.p0 % 4096)
      (fun k => if abort then { k with abortNext := true } else { k with stopping := true }) u) := by
  rw [← h.mer]
  exact (forTenant_begins h hop ht _).trans (onSlot_own (x := begunAs x s1) hj hown _)

/-- TENANT_DESTROY of a tenant that is there, with its steps up to what may have to wait. -/
theorem tenantDestroy_begins {n : Nat} {w : State} (hop : x.hdr.opcode = 0x0602) (hn : x.hdr.p0 % 4096 = n)
    (hte : look u.tenants n = some te) (hw : goneAll n cmd (modCmd cmd (fun z => { z with echo := some 0 })
      { u with tenants := tmod u.tenants n (fun z => { z with destroying := true }) }) = w) :
    exec (.tenantDestroy t cmd) s = .next (destroyStep cmd n (abortAll (slotsOf w [n]) 0x186 w)) := by
  subst hn hw
  have hexec : exec (.tenantDestroy t cmd) s = execTenantDestroy t cmd s := rfl
  simp only [hexec, execTenantDestroy, h.listed, h.fresh, Bool.false_eq_true, false_and, if_false]
  rw [runCmd_begins h hop]
  simp only [begunAs_hdr, hte, Option.isNone_some, Bool.false_eq_true, if_false]

/-- PARTITION with no reserved bit set. -/
theorem partition_begins {n cores stks share : Nat} (hop : x.hdr.opcode = 0x0701) (hn : x.hdr.p0 % 4096 = n)
    (hte : look u.tenants n = some te) (hrsv : bits x.hdr.p2 12 4 = 0) (htop : x.hdr.p2 < 2 ^ 23)
    (hcores : bits x.hdr.p1 0 36 = cores) (hstks : stacksOf u (x.hdr.p2 % 4096) = stks)
    (hshare : bits x.hdr.p2 16 7 = share) : exec (.partition t cmd) s = .next (
      if partitionBad u n te cores stks share then refuseWith cmd 0x19 u
      else if partitionBusy u n te cores stks share then fail cmd 0x15 u
      else done cmd cores { u with tenants := tput u.tenants n { te with nextPart := some (cores, stks, share) } }) := by
  subst hn hcores hstks hshare
  refine congrArg Host.Outcome.next ((runCmd_begins h hop _).trans ?_)
  simp only [begunAs_hdr, hte]
  exact if_neg (not_or.2 ⟨not_not.2 hrsv, not_not.2 (Nat.div_eq_of_lt htop)⟩)

/-- POWER_SHARE of a tenant that is there: a strict one's is applied while it has no job, another's at the next meridian. -/
theorem powerShare_begins {n w room : Nat} (hop : x.hdr.opcode = 0x0702) (hn : x.hdr.p0 % 4096 = n)
    (hte : look u.tenants n = some te) (hw : clampNat 0 (envelope u) x.hdr.p1 = w)
    (hroom : cfg u 0xA00000 0 12 - pwrBase u - (strictSum u - te.power) = room) : exec (.powerShare t cmd) s = .next (
      if te.strict then
        if u.jobs.any (·.2.tenant = n) then fail cmd 0x15 u
        else done cmd (min w room) { u with tenants := tput u.tenants n { te with power := min w room } }
      else done cmd w { u with tenants := tput u.tenants n { te with nextPower := some w } }) := by
  subst hn hw hroom
  refine congrArg Host.Outcome.next ((runCmd_begins h hop _).trans ?_)
  simp only [begunAs_hdr, hte]
  rfl

end Commands

/-- Settles O46: each command begins once, and its own work then follows from what it names. -/
theorem jobCommands : Obligations.JobCommands := by
  intro t cmd s x s0 s1 y u op n hlisted hkept hfresh hturn
  have h : Begins t cmd x s s1 u := ⟨hlisted, rfl, hkept, hfresh, hturn, rfl⟩
  have hs : tick t s = s0 := rfl
  have hy : begunAs x s1 = y := rfl
  clear_value u y s1 s0
  subst hs hy
  refine ⟨fun te hte hstays => ?own, fun hop hnone => ?create, fun te hte => ⟨fun hop => ?destroy, ?partition, ?power⟩⟩
  case own =>
    have ht : Active u x.tenant te := ⟨hte, hstays⟩
    refine ⟨fun p hop hb hmagic hver hrsv hlen => ?planLoad, fun p hop hp hown hidle => ?planUnload,
      fun b p hop hroll hb hflags hrsv hlen hp hown => ?jobStart, fun j hop hj hown => ?jobStop, fun j hop hj hown => ?lsRule⟩
    case planLoad =>
      rw [planLoad_begins h hop ht hb hmagic hver hrsv hlen]
      exact ⟨fun r sect item hr => by rw [hr]; rfl,
        fun hnone hfit => by rw [hnone]; exact congrArg Host.Outcome.next (if_neg (not_not.2 hfit))⟩
    case planUnload =>
      exact congrArg Host.Outcome.next ((forTenant_begins h hop ht _).trans
        ((onPlan_own (x := begunAs x s1) hp hown _).trans (if_neg (ne_true_of_eq_false hidle))))
    case jobStart =>
      rw [jobStart_begins h hop ht hroll hb hflags hrsv hlen hp hown rfl]
      exact ⟨fun r hr => by rw [hr]; rfl, fun hnone => by rw [hnone]; rfl⟩
    case jobStop =>
      have hsays := saysAbort_of_look h.listed
      have hstop := fun abort => stopJob_begins h abort hop ht hj hown
      exact ⟨fun hbit => congrArg Host.Outcome.next
          ((if_neg (ne_true_of_eq_false (hsays.trans hbit))).trans (hstop false)),
        fun hbit => congrArg Host.Outcome.next ((if_pos (hsays.trans hbit)).trans (hstop true))⟩
    case lsRule =>
      exact congrArg Host.Outcome.next ((forTenant_begins h hop ht _).trans (onSlot_own (x := begunAs x s1) hj hown _))
  case create =>
    exact congrArg Host.Outcome.next ((runCmd_begins h hop _).trans (if_neg (Option.not_isSome_iff_eq_none.2 hnone)))
  case destroy =>
    exact tenantDestroy_begins h hop rfl hte rfl
  case partition =>
    intro cores stks share hop hrsv htop
    rw [partition_begins h hop rfl hte hrsv htop rfl rfl rfl]
    exact ⟨fun hbad => congrArg Host.Outcome.next (if_pos hbad), fun hgood hfree => congrArg Host.Outcome.next
      ((if_neg (ne_true_of_eq_false hgood)).trans (if_neg (ne_true_of_eq_false hfree)))⟩
  case power =>
    intro w hop
    rw [powerShare_begins h hop rfl hte rfl rfl]
    exact ⟨fun hloose => congrArg Host.Outcome.next (if_neg (ne_true_of_eq_false hloose)), fun hstrict hidle =>
      congrArg Host.Outcome.next ((if_pos hstrict).trans (if_neg (by simpa using fun a j hj => hidle (a, j) hj)))⟩

end Sys2Proof.Machine
end

section
/-! Commands on records, firmware, slices and spares (spec/07 R167; spec/15 R411, R412; spec/17 R445; spec/18 R455; spec/19
R473, R474; spec/20 R483, R484): O47. -/

namespace Sys2Proof.Machine

/-- The categories of blocks are not reserved (R474). -/
theorem not_reserved_category {cat : Nat} (h : cat ≤ 6 ∨ cat = 9 ∨ cat = 10) : ¬ (cat = 7 ∨ cat = 8 ∨ 10 < cat) := by
  omega

section Commands
variable {t cmd : Nat} {x : Exec} {s s1 u : State} (h : Begins t cmd x s s1 u)
include h

/-- SELFTEST of a slice that runs in service, on a block that neither it nor a slice keeps from it (R473). -/
theorem selftest_begins {k : Unit'} {b : Nat} (hop : x.hdr.opcode = 0x0D01) (hkind : sliceKind x.hdr.p1 = some k)
    (hservice : inService x.hdr.p1 = true) (hb : nearBlock u k (x.hdr.p0 % 65536) = b)
    (hidle : holdsBlock x.hdr.p1 = false ∨ blockBusy u k (b % 256) = false)
    (hfree : ∀ z ∈ u.boot.slices, ¬ (sliceKind z.slice = some k ∧ sameUnit k z.inst b = true)) :
    exec (.selftest t cmd) s = .next { u with boot := { u.boot with
      slices := u.boot.slices ++ [{ slice := x.hdr.p1, inst := b, cmd, at_ := none }] } } := by
  subst hb
  refine congrArg Host.Outcome.next ((runCmd_begins h hop _).trans ?_)
  simp only [begunAs_hdr, hkind]
  refine (if_neg (not_not.2 hservice)).trans (if_neg ?_)
  rw [Bool.or_eq_true, Bool.and_eq_true, List.any_eq_true, not_or]
  constructor
  case left => rcases hidle with hidle | hidle <;> simp [hidle]
  case right => simpa using hfree

section Spare
variable {cat b : Nat} {k : Unit'} (hop : x.hdr.opcode = 0x0E01) (hcat : bits x.hdr.p1 16 4 = cat)
  (hused : cat ≤ 6 ∨ cat = 9 ∨ cat = 10) (hk : catKind cat = k) (hb : nearBlock u k (x.hdr.p1 % 65536) = b)
include hop hcat hused hk hb

/-- SPARE_ACTION with RETIRE, on a block that no job and no slice uses (R474). -/
theorem spareAction_retires (hp : x.hdr.p0 = 1) (hidle : blockBusy u k (b % 256) = false) (hfree : u.boot.slices = []) :
    spareAction cmd 1 (tick t s) = retire cmd cat b (x.hdr.p2 % 65536) u := by
  subst hcat hk hb
  refine (if_neg ?mine).trans ((runCmd_begins h hop _).trans
    ((if_neg (not_not.2 hp)).trans ((if_neg (not_reserved_category hused)).trans ((if_pos rfl).trans (if_neg ?idle)))))
  case mine => simp [h.listed, hp]
  case idle => simp [hidle, hfree]

/-- SPARE_ACTION with RETIRE and FORCE, which aborts the jobs on the block (R474). -/
theorem spareAction_forces (hp : x.hdr.p0 = 2) : spareAction cmd 2 (tick t s) = retire cmd cat b (x.hdr.p2 % 65536)
    (abortAll ((u.jobs.filter (fun e => jobUses u e.2 k (b % 256))).map (·.1)) 0x1D0 u) := by
  subst hcat hk hb
  refine (if_neg ?mine).trans ((runCmd_begins h hop _).trans
    ((if_neg (not_not.2 hp)).trans (if_neg (not_reserved_category hused))))
  case mine => simp [h.listed, hp]

end Spare

end Commands

/-- Settles O47: each command begins once, and answers from the state in which its request is open. -/
theorem recordCommands : Obligations.RecordCommands := by
  intro t cmd s x s0 s1 y u op hlisted hkept hfresh hturn
  have h : Begins t cmd x s s1 u := ⟨hlisted, rfl, hkept, hfresh, hturn, rfl⟩
  have hy : begunAs x s1 = y := rfl
  clear_value u y s1
  subst hy
  refine ⟨fun te hte hstays => ?own, fun hop => ?logRead, fun data hop hb => ?stage, fun img hop => ?activate,
    fun k hop hkind hservice hidle hfree => ?selftest, fun hop hused => ?spare⟩
  case own =>
    have ht : Active u x.tenant te := ⟨hte, hstays⟩
    exact ⟨fun hop => congrArg Host.Outcome.next (forTenant_begins h hop ht _),
      fun hop => congrArg Host.Outcome.next (forTenant_begins h hop ht _),
      fun nonce hop hb hlen => congrArg Host.Outcome.next
        ((withBlock_begins h hop ht hb _).trans (if_neg (Nat.not_lt.2 hlen)))⟩
  case logRead => exact congrArg Host.Outcome.next (runCmd_begins h hop _)
  case stage => exact congrArg Host.Outcome.next ((runCmd_begins h hop _).trans (if_pos hb))
  case activate => exact congrArg Host.Outcome.next (runCmd_begins h hop _)
  case selftest => exact selftest_begins h hop hkind hservice rfl hidle hfree
  case spare =>
    exact ⟨fun hp hidle hfree => congrArg Host.Outcome.next (spareAction_retires h hop rfl hused rfl rfl hp hidle hfree),
      fun hp => congrArg Host.Outcome.next (spareAction_forces h hop rfl hused rfl rfl hp)⟩

end Sys2Proof.Machine
end

section
/-! Entries of the stack engines (spec/08 R194 to R205, R214, R215): O33. -/

namespace Sys2Proof.Machine

/-! ### Streams begin (R198, R201) -/

/-- A stream that begins shows its first slot in its destinations' rings and takes an engine of its stack (R112, R198). -/
def streamBegun (slot entry at_ : Nat) (e : StreamEntry) (s : State) : State :=
  let bound := boundDests s slot entry
  let r : StreamRun := { slot, entry, at_, row := 0, due := at_ + e.d0, buf := [], next := 0, bound }
  modStack e.stack (fun k => { k with streams := k.streams ++ [r] })
    (bound.foldl (fun u b => passRing b.2.1 b.2.2 u) (e.dests.foldl (fun u c => passRing c e.firstSlot u) s))

section Stream
variable {t slot entry at_ : Nat} {s s1 : State} {j : Job} {e : StreamEntry} (hs : tick t s = s1)
  (hj : look s1.jobs slot = some j) (he : (imageOf s1 j).bind (fun p => p.streams[entry]?) = some e)
  (hb : look j.busy (65536 + entry) = some at_) (ht : at_ + e.armCc ≤ t) (hown : e.base = none) (hl : live s1 = true)
  (hroll : rollsOn s1 slot j.id e.stack = false) (hstop : stopped s1 .stack e.stack = false)
  (hnew : ∀ r ∈ (stackOf s1 e.stack).streams, ¬ (r.slot = slot ∧ r.entry = entry))
include hs hj he hb ht hown hl hroll hstop hnew

/-- An armed stream at its cc begins, where its master is whole and an engine is free. -/
theorem seStream_armed : exec (.seStream t slot entry) s = .next (
    if objTorn s1 e.object then raiseJob 0x082 slot s1 e.stack
    else if 8 ≤ (stackOf s1 e.stack).streams.length then s1 else streamBegun slot entry at_ e s1) := by
  subst hs
  have hdue : ¬ ((stackOf (tick t s) e.stack).streams.any (fun r => r.slot = slot && r.entry = entry) = true ∨
      t < at_ + e.armCc ∨ e.base.isSome = true ∨ ¬ live (tick t s) = true) := by
    simpa [hown, hl, ht] using hnew
  have hfree : ¬ (rollsOn (tick t s) slot j.id e.stack = true ∨ stopped (tick t s) .stack e.stack = true) := by
    simp [hroll, hstop]
  refine congrArg Host.Outcome.next ?_
  simp only [hj, he, busyStream, hb]
  exact (if_neg hdue).trans (if_neg hfree)

end Stream

/-! ### An entry of one phase comes to its end (R194 to R196, R215, R257) -/

/-- The one phase of an entry, which writes `out` bytes where it is a PACK (R195). -/
def entryPhase (s : State) (j : Job) (e : SeEntry) (out : Nat) : Phase :=
  ((entryPhases s ((tagWord s j e.tag).getD 0) out e).head?).getD { ranges := [], lanes := 0 }

/-- The burst period by which an entry is done, and its deferred bursts (R194, R196). -/
def entryEnd (s : State) (j : Job) (e : SeEntry) (out : Nat) : Nat × Nat :=
  phaseEnd (cfg s 0x10000 0 16) e.startBp (entryPhase s j e out).ranges (entryPhase s j e out).lanes

/-- An entry's plan is worked off, its bursts charged and the deferred ones counted (R194, R436). -/
def entryWorked (slot : Nat) (j : Job) (e : SeEntry) (out : Nat) (s : State) : State :=
  engineWork slot e.stack (entryPhase s j e out) (entryEnd s j e out).2 s

/-- An entry's burst periods are over and its pages are there. -/
def EntryEnds (s : State) (j : Job) (e : SeEntry) (at_ out : Nat) (ps : List (Place × Nat)) : Prop :=
  at_ + 33 * (entryEnd s j e out).1 ≤ s.now ∧ badOf ps = none ∧ tiersOff ps = []

section Run
variable {s : State} {j : Job} {e : SeEntry} {at_ out : Nat} {ps : List (Place × Nat)} (h : EntryEnds s j e at_ out ps)
  (slot entry : Nat) (act : State → State)
include h

/-- An entry that ends does its work, unless an error of its data stops it, and is done with. -/
theorem seRun_ends (err : EngErr) : seRun slot entry err j e at_ out ps act s =
    let x := engErr slot e.stack err s
    workDone slot entry (if x.1 then
      act (engineWork slot e.stack (entryPhase s j e out) (entryEnd s j e out).2 x.2) else x.2) := by
  obtain ⟨hend, hgood, hhere⟩ := h
  refine (if_neg (Nat.not_lt.2 hend)).trans ?_
  rw [hgood]
  exact if_neg (by simp [hhere])

theorem seRun_ok : seRun slot entry .ok j e at_ out ps act s = workDone slot entry (act (entryWorked slot j e out s)) :=
  seRun_ends h slot entry act .ok

theorem seRun_error {err : EngErr} (herr : (engErr slot e.stack err s).1 = false) :
    seRun slot entry err j e at_ out ps act s = workDone slot entry (engErr slot e.stack err s).2 := by
  rw [seRun_ends h]
  exact congrArg (workDone slot entry) (if_neg (Bool.eq_false_iff.1 herr))

end Run

/-! ### The work of each operation (R195, R202 to R205, R214) -/

/-- The source's L16 values add into the object at the entry's address (R202). -/
def sumSource (j : Job) (e : SeEntry) (src dst : List (Place × Nat)) (s : State) : State :=
  match accAt s j.tenant e.va with
  | some o => accOver o j.tenant 0 noFar dst ((halves (readPlaces s src [])).map lin16) s
  | none => s

/-- What a PACK found is stored and counted, or exceeds its allocation (R185, R205). -/
def putPacked (slot : Nat) (j : Job) (e : SeEntry) (x : Option (List Byte × List Seen) × State) : State :=
  match x with
  | (none, s) => raiseJob 0x183 slot s e.stack
  | (some (bs, seen), s) => putForm j e bs (censusAdd j.tenant e.tag seen s)

/-- A place in HBM is zero and its page's commit record FREE (R195, R214). -/
def zeroPlace (s : State) (p : Place × Nat) : State :=
  match p.1 with
  | .hbm k first => { hbmWrite k first (List.replicate p.2 0) s with recs := tdel s.recs (k / 65536) }
  | _ => s

section Ops
variable {t slot entry at_ : Nat} {s s1 : State} {j : Job} {e : SeEntry} (hs : tick t s = s1)
include hs

theorem exec_seAccum (err : EngErr) (h : seEntry s1 slot entry 2 = some (j, e, at_)) :
    exec (.seAccum t slot ⟨entry, err⟩) s = .next (
      let src := placesOf s1 j.tenant [] e.srcVa (2 * e.count) false
      let dst := placesOf s1 j.tenant [] (e.va / 2 * 2) (2 * e.count) true
      seRun slot entry err j e at_ 0 (src ++ dst) (sumSource j e src dst) s1) := by
  subst hs
  refine congrArg Host.Outcome.next ?_
  rw [h]
  rfl

theorem exec_sePack (err : EngErr) (h : seEntry s1 slot entry 4 = some (j, e, at_)) :
    exec (.sePack t slot ⟨entry, err⟩) s = .next (
      let src := placesOf s1 j.tenant [] e.srcVa (elemBytes e.srcFmt e.count) false
      let out := ((packForm j e (readPlaces s1 src []) s1).1.map (fun x => x.1.length)).getD e.alloc
      seRun slot entry err j e at_ out (src ++ placesOf s1 j.tenant [] e.va out true)
        (fun u => putPacked slot j e (packForm j e (readPlaces u src []) u)) s1) := by
  subst hs
  refine congrArg Host.Outcome.next ?_
  rw [h]
  rfl

theorem exec_seUnpack (err : EngErr) (h : seEntry s1 slot entry 5 = some (j, e, at_)) :
    exec (.seUnpack t slot ⟨entry, err⟩) s = .next (
      let src := placesOf s1 j.tenant [] e.srcVa e.alloc false
      seRun slot entry err j e at_ 0 (src ++ placesOf s1 j.tenant [] e.va e.count true)
        (fun u => putForm j e (unzrl e.count (readPlaces u src [])) u) s1) := by
  subst hs
  refine congrArg Host.Outcome.next ?_
  rw [h]

theorem exec_seZero (h : seEntry s1 slot entry 6 = some (j, e, at_)) :
    exec (.seZero t slot entry) s = .next (
      let dst := placesOf s1 j.tenant [] e.va e.count true
      seRun slot entry .ok j e at_ 0 dst (fun u => dst.foldl zeroPlace u) s1) := by
  subst hs
  refine congrArg Host.Outcome.next ?_
  rw [h]
  rfl

end Ops

/-! ### The forms of a PACK (R183 to R185, R205) -/

section Pack
variable {j : Job} {e : SeEntry} {bs : List Byte} {s : State}

theorem packForm_copy (h : e.form = 3) : packForm j e bs s = (some (bs, packSeen fmtL16 (halves bs)), s) := if_pos h

theorem packForm_zrl (h : e.form = 2) (hfits : (zrlObject bs).length ≤ e.alloc) :
    packForm j e bs s = (some (zrlObject bs, packSeen fmtL8 (bs.map (fun b => b.toNat))), s) := by
  simp [packForm, h, Nat.not_lt.2 hfits]

theorem packForm_zrl_exceeds (h : e.form = 2) (hover : e.alloc < (zrlObject bs).length) :
    packForm j e bs s = (none, s) := by
  simp [packForm, h, hover]

theorem packForm_scaled (h : e.form < 2) : packForm j e bs s =
    (let w := (tagWord s j e.tag).getD 0
     let tgt := if e.form = 1 then 0 else 1
     let off := offsetAt s j.tenant e.va
     let d := engineDraws (tagSr w) j e.stack e.gen (if e.form = 1 then 2 * off else off) (packSrc e.srcFmt bs).length s
     let c := scaleBlocks w (tagScale j e.tag w) tgt (packSrc e.srcFmt bs) d.1
     (some (codeBytes tgt c.1 ++ c.2.1.map (BitVec.ofInt 8), c.2.2), d.2)) :=
  (if_neg (by omega)).trans (if_neg (by omega))

end Pack

/-- Settles O33: a stream begins or meets its torn master, and each other operation ends once, by its own work. -/
theorem stackEntries : Obligations.StackEntries := by
  intro t slot entry s j s1
  have hs : tick t s = s1 := rfl
  clear_value s1
  refine ⟨fun e at_ hj he hb ht hown hl hroll hstop hnew => ?stream, ?entries⟩
  case stream =>
    have harmed := seStream_armed hs hj he hb ht hown hl hroll hstop hnew
    exact ⟨fun hwhole hfree => harmed.trans (congrArg _
        ((if_neg (Bool.eq_false_iff.1 hwhole)).trans (if_neg (Nat.not_le.2 hfree)))),
      fun htorn => harmed.trans (congrArg _ (if_pos htorn))⟩
  case entries =>
    intro e at_ phase span ended worked done put
    refine ⟨?accum, ?pack, ?unpack, ?zero⟩
    case accum =>
      intro h src dst u hends
      refine ⟨fun o ho => ?sums, fun err herr => ?error⟩
      case sums =>
        have hsum : sumSource j e src dst u = accOver o j.tenant 0 noFar dst ((halves (readPlaces u src [])).map lin16) u := by
          rw [sumSource, ho]
        exact (exec_seAccum hs .ok h).trans (congrArg Host.Outcome.next
          ((seRun_ok hends slot entry _).trans (congrArg (workDone slot entry) hsum)))
      case error => exact (exec_seAccum hs err h).trans (congrArg Host.Outcome.next (seRun_error hends slot entry _ herr))
    case pack =>
      intro h src out u bs hends
      have hrun {x} (hx : packForm j e bs u = x) :
          exec (.sePack t slot ⟨entry, .ok⟩) s = done (putPacked slot j e x) :=
        (exec_sePack hs .ok h).trans (congrArg Host.Outcome.next
          ((seRun_ok hends slot entry _).trans (congrArg (fun x => workDone slot entry (putPacked slot j e x)) hx)))
      have hstores {out seen v} (hx : packForm j e bs u = (some (out, seen), v)) :
          exec (.sePack t slot ⟨entry, .ok⟩) s = done (put out (censusAdd j.tenant e.tag seen v)) := hrun hx
      exact ⟨fun hform => hstores (packForm_copy hform), fun hform hfits => hstores (packForm_zrl hform hfits),
        fun hform hover => hrun (packForm_zrl_exceeds hform hover), fun hform => hstores (packForm_scaled hform)⟩
    case unpack =>
      intro h src hends
      exact (exec_seUnpack hs .ok h).trans (congrArg Host.Outcome.next (seRun_ok hends slot entry _))
    case zero =>
      intro h dst hends
      exact (exec_seZero hs h).trans (congrArg Host.Outcome.next (seRun_ok hends slot entry _))

end Sys2Proof.Machine
end

section
/-! UPDATE entries as they begin (spec/08 R206, R212; spec/09 R227, R233, R234): O34. -/

namespace Sys2Proof.Machine

/-! ### Pre-passes and their headers (R233, R234) -/

section Header
variable {s : State} {j : Job} {d : Descriptor} {e : SeEntry} (slot entry at_ : Nat)

/-- A pre-pass that its header marks as complete for this step, job and object is counted and done with. -/
theorem startPrep_complete (h : (prepHeader s d e).state = 1 ∧ (prepHeader s d e).step = j.step ∧
      (prepHeader s d e).job = j.id ∧ (prepHeader s d e).object = e.object) :
    startPrep slot entry j d e at_ s = workDone slot entry (bump (rkey 0x22028 slot) 32 1 s) := if_pos h

/-- Strips whose rule needs a pre-pass that is not complete for this step do not begin. -/
theorem startPass_unprepared (hneeds : (hasSketch d.rule || hasX0 d.rule) = true)
    (h : ¬ ((prepHeader s d e).state = 1 ∧ (prepHeader s d e).step = j.step)) :
    startPass slot entry j d e at_ s =
      raiseJob 0x185 slot (workDone slot entry (bump (rkey 0x2202E slot) 16 1 s)) e.stack := if_pos ⟨hneeds, h⟩

end Header

/-! ### SE_UPDATE with its verdict known (R178, R206, R212) -/

/-- An entry still waits for the VERDICT operation that it names (R178). -/
def verdictAwaited (j : Job) (e : SeEntry) : Bool :=
  match e.waitOp with
  | some op => !j.cor.any (fun c => c.op = op && c.phase = 2)
  | none => false

theorem verdictAwaited_eq_false {j : Job} {e : SeEntry}
    (h : ∀ op, e.waitOp = some op → ∃ c ∈ j.cor, c.op = op ∧ c.phase = 2) : verdictAwaited j e = false := by
  unfold verdictAwaited
  cases hop : e.waitOp with
  | none => rfl
  | some op => simpa using h op hop

/-- What an entry begins whose part is there and not lost: after a dirty verdict the zeroing of the gradient alone (R206, R212,
R233). -/
def beginUpdate (slot entry : Nat) (j : Job) (d : Descriptor) (e : SeEntry) (at_ : Nat) (s : State) : State :=
  if verdictDirty s j then (if e.prep then workDone slot entry s else startZero slot entry j d e at_ s)
  else if e.prep then startPrep slot entry j d e at_ s
  else startPass slot entry j d e at_ s

section Begin
variable {t slot entry at_ : Nat} {s s1 : State} {j : Job} {e : SeEntry} {d : Descriptor} (hs : tick t s = s1)
  (he : seEntry s1 slot entry 3 = some (j, e, at_)) (hd : descOf s1 e.object = some d)
  (hverdict : ∀ op, e.waitOp = some op → ∃ c ∈ j.cor, c.op = op ∧ c.phase = 2)
  (hnew : ∀ u ∈ s1.upds, ¬ (u.2.slot = slot ∧ u.2.entry = entry ∧ u.2.status = 1))
include hs he hd hverdict hnew

/-- A pending entry calls for its part's missing pages, meets a LOST strip, or begins. -/
theorem seUpdate_pending : exec (.seUpdate t slot ⟨entry, .ok⟩) s = .next (
    if ¬ (partWaits s1 d e).isEmpty then (partWaits s1 d e).foldl (fun u x => startMove x.1 x.2 u) s1
    else if partLost s1 e then raiseJob 0x082 slot (workDone slot entry s1) e.stack
    else beginUpdate slot entry j d e at_ s1) := by
  subst hs
  have hopen : ¬ (verdictAwaited j e ||
      (tick t s).upds.any (fun u => u.2.slot = slot && u.2.entry = entry && u.2.status = 1)) = true := by
    simpa [verdictAwaited_eq_false hverdict, and_assoc] using hnew
  refine congrArg Host.Outcome.next ?_
  simp only [he, hd]
  exact if_neg hopen

theorem seUpdate_misses (h : partWaits s1 d e ≠ []) : exec (.seUpdate t slot ⟨entry, .ok⟩) s =
    .next ((partWaits s1 d e).foldl (fun u x => startMove x.1 x.2 u) s1) :=
  (seUpdate_pending hs he hd hverdict hnew).trans (congrArg _ (if_pos (by simpa using h)))

theorem seUpdate_here (h : partWaits s1 d e = []) : exec (.seUpdate t slot ⟨entry, .ok⟩) s = .next (
    if partLost s1 e then raiseJob 0x082 slot (workDone slot entry s1) e.stack
    else beginUpdate slot entry j d e at_ s1) :=
  (seUpdate_pending hs he hd hverdict hnew).trans (congrArg _ (if_neg (by simp [h])))

end Begin

/-- Settles O34: a pending entry looks at its pages, at its part's strips, at the verdict and at its header, in this order. -/
theorem updatesBegin : Obligations.UpdatesBegin := by
  intro t slot entry s j e at_ d s1 got h needs dirty he hd hverdict hnew
  have hs : tick t s = s1 := rfl
  clear_value s1
  have hhere := seUpdate_here hs he hd hverdict hnew
  refine ⟨seUpdate_misses hs he hd hverdict hnew, fun hpages hlost => (hhere hpages).trans (congrArg _ (if_pos hlost)),
    fun hpages hkept => ?begins⟩
  have hbegins : got = .next (beginUpdate slot entry j d e at_ s1) :=
    (hhere hpages).trans (congrArg _ (if_neg (Bool.eq_false_iff.1 hkept)))
  have hdirty (hv : dirty = true) :
      got = .next (if e.prep then workDone slot entry s1 else startZero slot entry j d e at_ s1) :=
    hbegins.trans (congrArg _ (if_pos hv))
  have hclean (hv : dirty = false) :
      got = .next (if e.prep then startPrep slot entry j d e at_ s1 else startPass slot entry j d e at_ s1) :=
    hbegins.trans (congrArg _ (if_neg (Bool.eq_false_iff.1 hv)))
  have hprep (hv : dirty = false) (hp : e.prep = true) : got = .next (startPrep slot entry j d e at_ s1) :=
    (hclean hv).trans (congrArg _ (if_pos hp))
  have hpass (hv : dirty = false) (hp : e.prep = false) : got = .next (startPass slot entry j d e at_ s1) :=
    (hclean hv).trans (congrArg _ (if_neg (Bool.eq_false_iff.1 hp)))
  exact ⟨fun hv hp => (hdirty hv).trans (congrArg _ (if_pos hp)),
    fun hv hp => (hdirty hv).trans (congrArg _ (if_neg (Bool.eq_false_iff.1 hp))),
    fun hv hp hstate hstep hjob hobj =>
      (hprep hv hp).trans (congrArg _ (startPrep_complete slot entry at_ ⟨hstate, hstep, hjob, hobj⟩)),
    fun hv hp _ => hprep hv hp,
    fun hv hp hneeds hnot => (hpass hv hp).trans (congrArg _ (startPass_unprepared slot entry at_ hneeds hnot)),
    fun hv hp _ => hpass hv hp⟩

end Sys2Proof.Machine
end

section
/-! Arriving sums, the fill of released pages and the patrol scrub (spec/08 R202, R203, R214 to R216; spec/10 R252): O36. -/

namespace Sys2Proof.Machine

/-! ### Sums that arrive in an ACCUMULATE object (R202, R203) -/

/-- Data of a writer that meets its page in frame `f`: it adds into the object, or an uncorrectable error stops it (R203). -/
def sumsArrive (tenant va : Nat) (data : List Byte) (h : Hit) (f : Nat) (slot : Option Nat) (cls : Nat) (ecc : Ecc) (s : State) :
    State :=
  match ecc with
  | .ue => hbmUe (f + h.off / 65536) slot (if slot.isSome then [] else [ownerOf h.obj]) s
  | .ce => writeVa (farWrite 4096 tenant 5) tenant [] va data (hbmCe (f / 2 ^ 20) s) cls
  | .ok => writeVa (farWrite 4096 tenant 5) tenant [] va data s cls

section Sums
variable {t tenant va f : Nat} {s s1 : State} {h : Hit} (data : List Byte) (ecc : Ecc) (hs : tick t s = s1)
  (hhit : hitAt s1 tenant va = some h) (hacc : h.map.acc = true) (hw : h.map.w = true)
  (hf : look h.obj.loc h.page = some f)
include hs hhit hacc hw hf

/-- Traffic from outside the plans that no strip holds takes its open slots, and arrives. -/
theorem accumulateWrite_outside
    (hstrip : stripWaitVa s1 tenant va data.length true = false)
    (hopen : openNow s1 (some tenant) [] (placesOf s1 tenant [] (writeRange s1 tenant va data.length).1
      (writeRange s1 tenant va data.length).2 true) = true) :
    exec (.accumulateWrite t (.outside tenant) va data ecc) s = .next (sumsArrive tenant va data h f none 2 ecc
      (goNow (some tenant) [] (placesOf s1 tenant [] (writeRange s1 tenant va data.length).1
        (writeRange s1 tenant va data.length).2 true) s1)) := by
  subst hs
  refine congrArg Host.Outcome.next ?_
  simp only [hhit, hf]
  refine (if_neg (by simp [hacc, hw])).trans ((if_neg (by simp [hstrip, hopen])).trans ?_)
  cases ecc <;> rfl

/-- A job's planned write arrives as it comes, and so does its correlator's. -/
theorem accumulateWrite_job {who : Writer} {slot cls : Nat} {j : Job}
    (hwho : who = .planned slot ∧ cls = 0 ∨ who = .correlator slot ∧ cls = 1)
    (hj : look s1.jobs slot = some j) (htenant : j.tenant = tenant) :
    exec (.accumulateWrite t who va data ecc) s = .next (sumsArrive tenant va data h f (some slot) cls ecc s1) := by
  subst hs htenant
  have hmay : ¬ (¬ h.map.acc = true ∨ ¬ h.map.w = true) := by simp [hacc, hw]
  obtain ⟨rfl, rfl⟩ | ⟨rfl, rfl⟩ := hwho
  all_goals
    refine congrArg Host.Outcome.next ?_
    simp only [Option.bind_some, hj, Option.map_some, hhit, hf]
    refine (if_neg hmay).trans ((if_neg (by simp)).trans ?_)
    cases ecc <;> rfl

end Sums

/-! ### Fill and scrub in open slots (R214 to R216, R252) -/

section Stack
variable {t : Nat} {k : Stack} {s s1 : State} (hs : tick t s = s1) (hl : live s1 = true)
include hs hl

/-- The page released first on a stack is filled. -/
theorem pageFillComplete_open {first n : Nat} {rest : List (Nat × Nat)}
    (hfill : (stackOf s1 k.val).fill = (first, n) :: rest) (hopen : openSlot s1 none (2 + k.val) 0 s1.now = true) :
    exec (.pageFillComplete t k) s = .next (
      let w := (takeOpen none (2 + k.val) 0 (1024 * n) s1.now s1).2
      let u := { w with hbm := tclear w.hbm (first * 65536) (n * 65536), recs := tclear w.recs first n }
      let v := bump (0x400034 + 0x10000 * k.val) 32 1 (modStack k.val (fun x => { x with fill := rest }) u)
      let mine := (stackOf v k.val).retired.filter (fun r => decide (first % 2 ^ 20 ≤ r.1) && decide (r.1 < first % 2 ^ 20 + n))
      pumpMoves (settleFills k.val (mine.foldl (fun w r => repairFrame k.val r.1 w) v))) := by
  subst hs
  refine congrArg Host.Outcome.next ?_
  simp only [hfill]
  exact if_neg (by simp [hl, hopen])

/-- The scrubber of a stack passes over a frame under UPDATE, and reads its next burst otherwise. -/
theorem patrolScrubRead_open (ecc ecc2 : Ecc) (hstack : hasStack s1 k.val = true) (hready : (stackOf s1 k.val).ready = true)
    (hon : cfg s1 (0x400010 + 0x10000 * k.val) 0 1 = 1)
    (hopen : openNow s1 none [((.hbm (k.val * 2 ^ 36 + (stackOf s1 k.val).scrub * 64) 0 : Place), 64)] [] = true) :
    exec (.patrolScrubRead t k ecc ecc2) s = .next (
      let frame := k.val * 2 ^ 20 + (stackOf s1 k.val).scrub / 1024
      let burst := [((.hbm (k.val * 2 ^ 36 + (stackOf s1 k.val).scrub * 64) 0 : Place), 64)]
      if underUpdate s1 frame then
        scrubStep k.val true (modStack k.val (fun x => { x with skipped := x.skipped ++ [x.scrub / 1024] }) s1)
      else scrubStep k.val false (scrubErr k.val frame ecc2 (scrubErr k.val frame ecc (goNow none burst [] s1)))) := by
  subst hs
  exact congrArg Host.Outcome.next (if_neg (by
    simp only [hl, hstack, hready, hon, hopen]
    decide))

end Stack

/-! ### A half of a burst that the scrubber has read (R215) -/

theorem scrubErr_ok (stack frame : Nat) (s : State) : scrubErr stack frame .ok s = s := rfl

theorem scrubErr_ue_owned {stack frame : Nat} {s : State} {x : Nat × Obj × Nat × Nat} (h : frameOwner s frame = some x) :
    scrubErr stack frame .ue s = hbmUe frame none [ownerOf x.2.1] s := by
  simp only [scrubErr, h]

theorem scrubErr_ue_free {stack frame : Nat} {s : State} (h : frameOwner s frame = none) :
    scrubErr stack frame .ue s = repairFrame stack (frame % 2 ^ 20) (hbmUe frame none [] s) := by
  simp only [scrubErr, h]

/-- Settles O36: sums of each writer arrive, a released page is filled, and the scrubber takes its next burst. -/
theorem stackMemory : Obligations.StackMemory := by
  intro t s s1
  have hs : tick t s = s1 := rfl
  clear_value s1
  refine ⟨?outside, ?job, ?fill, ?scrub⟩
  case outside =>
    intro tenant va data h f hhit hacc hw hf w ps went hstrip hopen
    have harrives (ecc : Ecc) := accumulateWrite_outside data ecc hs hhit hacc hw hf hstrip hopen
    exact ⟨harrives .ok, harrives .ue⟩
  case job =>
    intro slot j va data h f hj hhit hacc hw hf
    exact ⟨accumulateWrite_job data .ok hs hhit hacc hw hf (.inl ⟨rfl, rfl⟩) hj rfl,
      accumulateWrite_job data .ok hs hhit hacc hw hf (.inr ⟨rfl, rfl⟩) hj rfl⟩
  case fill => exact fun k first n rest hfill hl hopen => pageFillComplete_open hs hl hfill hopen
  case scrub =>
    intro k hl hstack hready hon frame burst read hopen
    have hscrub (ecc : Ecc) := patrolScrubRead_open hs hl ecc .ok hstack hready hon hopen
    refine ⟨fun hfree => ?reads, fun hheld => (hscrub .ok).trans (congrArg Host.Outcome.next (if_pos hheld))⟩
    have hreads {ecc : Ecc} {u : State} (hu : scrubErr k.val frame ecc read = u) :
        exec (.patrolScrubRead t k ecc .ok) s = .next (scrubStep k.val false u) := by
      rw [← hu, ← scrubErr_ok k.val frame (scrubErr k.val frame ecc read)]
      exact (hscrub ecc).trans (congrArg Host.Outcome.next (if_neg (Bool.eq_false_iff.1 hfree)))
    exact ⟨hreads rfl, hreads rfl, fun x hx => hreads (scrubErr_ue_owned hx), fun hx => hreads (scrubErr_ue_free hx)⟩

end Sys2Proof.Machine
end

section
/-! Pages that move between HBM and their home tiers (spec/08 R215; spec/10 R252 to R256): O37. -/

namespace Sys2Proof.Machine

section Move
variable {t obj page f : Nat} {s s1 : State} {o : Obj} {r : Frame} (hs : tick t s = s1) (ho : look s1.objs obj = some o)
  (hf : look s1.frames f = some r)
include hs ho hf

/-- The last byte of a page lies in its new frame: from the vault, from its messages, or with the command (R256). -/
theorem promotionComplete_arrives (data : List Byte) (hp : promoting s1 obj page = some f) (hstate : r.state = 3)
    (hcc : r.touched ≤ s1.now) (hmsg : msgOpen s1 (8 * f + 4) = false) (hlost : page ∉ o.lost) :
    exec (.promotionComplete t obj page ⟨false, data⟩) s = .next (
      let n := pageBytes o.psize
      let far := collected s1 (8 * f + 4)
      let bs := if o.home = 2 then tread s1.flash ((o.homeLoc + page) * 65536) n 0 else if far = [] then data else far
      arrive obj page f o.home (bump (rkey 0x500114 o.home) 32 1
        (forget (8 * f + 4) (hbmPut (f * 65536) ((bs ++ List.replicate (n - bs.length) 0).take n) s1)))) := by
  subst hs
  have hdue : (look (tick t s).frames f).any (fun r => r.state = 3 && decide (r.touched ≤ (tick t s).now)) = true := by
    simp [hf, hstate, hcc]
  refine congrArg Host.Outcome.next ?_
  simp only [ho, hp]
  refine (if_pos ⟨hdue, ne_true_of_eq_false hmsg, by simpa using hlost⟩).trans ?_
  simp only [Bool.false_eq_true, false_and, if_false, List.isEmpty_iff]

/-- The copy of a demoted page that nothing holds up ends, by what the ECC of its reads reports (R215, R255). -/
theorem demotionCopyComplete_copied (ecc : Ecc) (hloc : look o.loc page = some f) (hstate : r.state = 4)
    (hcopied : r.copied = false) (hflush : flushing s1 f = false) (hvault : o.home = 2 → s1.vault.readOnly = false)
    (hwait : homeWaits o page f s1 = false) :
    exec (.demotionCopyComplete t obj ⟨page, ecc⟩) s = .next (
      if ecc = .ue then modFrame f (fun x => { x with state := 2 }) (pageErr .ue f s1)
      else modFrame f (fun x => { x with copied := true }) (copyHome o page f (pageErr ecc f s1))) := by
  subst hs
  have hmoves : (look (tick t s).frames f).any (fun r => r.state = 4 && !r.copied) = true := by
    simp [hf, hstate, hcopied]
  refine congrArg Host.Outcome.next ?_
  simp only [ho, hloc]
  exact (if_neg (by simp [hmoves, hflush])).trans ((if_neg fun h => ne_true_of_eq_false (hvault h.1) h.2).trans
    (if_neg (ne_true_of_eq_false hwait)))

end Move

/-- Settles O37: the page arrives with its last byte, and its copy ends whole or at an uncorrectable read. -/
theorem pagesMove : Obligations.PagesMove := by
  intro t obj page s o f r s1 n ho hf
  have hs : tick t s = s1 := rfl
  clear_value s1
  refine ⟨fun data hp hstate hcc hmsg hlost => promotionComplete_arrives hs ho hf data hp hstate hcc hmsg hlost,
    fun hloc hstate hcopied hflush hvault hwait => ?copy⟩
  have hcopy (ecc : Ecc) := demotionCopyComplete_copied hs ho hf ecc hloc hstate hcopied hflush hvault hwait
  exact ⟨hcopy .ok, hcopy .ue⟩

end Sys2Proof.Machine
end

section
/-! Entries of the ephemeris (spec/10 R259 to R265): O38. -/

namespace Sys2Proof.Machine

/-- A demotion entry of one page that arms as its segment starts. -/
def demotionEntry : EphEntry :=
  { seg := 0, armCc := 0, object := 1, page := 0, pages := 1, src := 0, dst := 1, priv := false, pin := false, sig := false,
    sync := 0, dlCc := 90, dlSegs := 0, rsv := 0 }

/-- A run of entry 0, not armed yet, with the pages it has left. -/
def unarmedRun (left : List Nat) : EphRun :=
  { entry := 0, armed := false, armAt := 0, armM := 0, going := false, mismatch := false, left, done := 0, ended := false }

/-- A job in its first segment that lists entry 0 twice: with no page left, and with page 0. -/
def doubledJob : Job :=
  { tenant := 0, id := 7, plan := 1, cmd := none, request := 0
    block := { plan := 1, jobId := 7, flags := 0, firstSeg := 0, loopSeg := 0, seed := 0, g0 := 0, scale := 0, hyp := 0,
               optStep := 0, stepBase := 0, wrt := 0, wrEntries := 0, sync0 := 0, sync1 := 0, arms := [], armCount := 0,
               startM := 0, rsv := 0 }
    base0 := 0, base1 := 4096, phase := 1, segs := 1, seg := 0, segAt := 0, segM := 0, deadline := 90, lateness := 0
    finish := 0, stopping := false, abortNext := false, aborted := none, honoured := [], requested := false, run := 0
    seen := [], step := 0, optStep := 0, ls := 0, clean := 0, lsPar := lsDefault, lsNext := none, lastSkip := false
    dirty := false, verdict := none, amax := [], hist := [], scales := [], clamped := [], hyps := []
    eph := [unarmedRun [], unarmedRun [0]], cor := [], busy := [], overdue := false, demand := [], direct := 0 }

/-- The plan of that job: no program, one entry. -/
def demotionPlan : Plan :=
  { tenant := 0
    image := { magic := 0x4C505850, version := 1, period := 26, n0 := 0, n1 := 0, rsv := 0, length := 0, sections := []
               words := [], indexed := [], segments := [], tags := [], groups := [], cor := [], edges := [], se := []
               streams := [], pages := [], maps := [] }
    eph := [demotionEntry], status := 0 }

/-- The module at reset but for the job in slot 0 and its plan. -/
def doubledState : State := { State.reset with jobs := [(0, doubledJob)], plans := [(1, demotionPlan)] }

/-- The pages done of each run of the job in slot 0, as an outcome leaves them. -/
def pagesDone : Res → List Nat
  | .next s => ((look s.jobs 0).map (fun j => j.eph.map (·.done))).getD []
  | _ => []

/-- Each run of the entry that arms counts the pages it has left itself. -/
theorem arm_counts_own_pages : pagesDone (exec (.ephEntryArm 0 0 0) doubledState) = [0, 1] := by decide

/-- Refutes O38: its clause for a demotion counts the pages of the entry's first run in every run of that entry, where
EPH_ENTRY_ARM counts in each run its own; a job that lists the entry twice tells the two apart. -/
theorem not_ephemerisEntries : ¬ Obligations.EphemerisEntries := by
  intro h
  obtain ⟨harm, -⟩ := h 0 0 0 doubledState doubledJob (unarmedRun []) demotionEntry rfl rfl rfl
  obtain ⟨-, hvotes⟩ := harm rfl rfl rfl (Nat.zero_le _)
  exact absurd (arm_counts_own_pages.symm.trans (congrArg pagesDone (hvotes (by decide)))) (by decide)

end Sys2Proof.Machine
end

section
/-! The plate vault: write-back, erasure and wear-levelling (spec/10 R266 to R270): O39. -/

namespace Sys2Proof.Machine

section Vault
variable {t : Nat} {s s1 : State} (hs : tick t s = s1)
include hs

/-! ### Write-back (R268 to R270) -/

/-- A flush whose page is still its own ends: a read-only vault refuses it, else its copy is made where it need not wait. -/
theorem vaultFlush_ends {h page f : Nat} {o : Obj} {r : Frame} (ecc : Ecc) (hflush : s1.vault.flushing = some (h, page, f))
    (ho : look s1.objs h = some o) (hf : look s1.frames f = some r) (hstate : r.state = 4) (hobj : r.obj = h)
    (hpage : r.page = page) :
    exec (.vaultFlush ⟨t, ecc⟩) s = .next (
      if s1.vault.readOnly then vaultRefuses h (endFlush f false s1)
      else if homeWaits o page f s1 then s1
      else if ecc = .ue then endFlush f false (pageErr .ue f s1)
      else endFlush f true (copyHome o page f (pageErr ecc f s1))) := by
  subst hs
  refine congrArg Host.Outcome.next ?_
  simp only [hflush, ho, hf]
  exact if_neg (by simp [hstate, hobj, hpage])

/-- With no flush under way that of the oldest dirty page begins, in a vault that can take it. -/
theorem vaultFlush_begins {h page f : Nat} (ecc : Ecc) (hidle : s1.vault.flushing = none)
    (hdirty : oldestDirty s1 = some (h, page, f)) :
    exec (.vaultFlush ⟨t, ecc⟩) s = .next (
      if s1.vault.readOnly then vaultRefuses h s1
      else if ¬ s1.vault.ready ∨ openBlock s1 = none then s1
      else modFrame f (fun r => { r with state := 4, written := false, copied := false })
        { s1 with vault := { s1.vault with flushing := some (h, page, f) } }) := by
  subst hs
  refine congrArg Host.Outcome.next ?_
  simp only [hidle, hdirty]

/-! ### Superblocks (R269, R270) -/

variable (hvault : hasVault s1 = true) (hl : live s1 = true)
include hvault hl

/-- A superblock that holds no page is erased, or retired where its erase fails. -/
theorem vaultErase_erases {n : Nat} (failed : Bool) (hn : n < superblocks s1) (herased : (blockOf s1 n).erased = false)
    (hretired : (blockOf s1 n).retired = false) (hempty : ∀ m ∈ s1.vault.map, m.2 / 1024 ≠ n) :
    exec (.vaultErase t ⟨n, failed⟩) s = .next (
      if failed then retireBlock n s1
      else { s1 with
        vault := { s1.vault with
          blocks := tput s1.vault.blocks n { blockOf s1 n with erases := (blockOf s1 n).erases + 1, erased := true, used := 0 }
          erased := s1.vault.erased + 1
          ready := s1.vault.ready || decide (superblocks s1 ≤ 100 * (s1.vault.erased + 1)) }
        alm := { s1.alm with erases := tput s1.alm.erases n ((blockOf s1 n).erases + 1) } }) := by
  subst hs
  refine congrArg Host.Outcome.next (if_neg ?_)
  simpa [hvault, hl, hn, herased, hretired] using hempty

section Wear
variable {a b : Nat} (hrw : s1.vault.readOnly = false) (hra : (blockOf s1 a).retired = false)
  (hrb : (blockOf s1 b).retired = false) (heb : (blockOf s1 b).erased = true) (hab : a ≠ b) (ha : a < superblocks s1)
  (hb : b < superblocks s1)
include hrw hra hrb heb hab ha hb

/-- A superblock that fails its program is retired from the spare pool. -/
theorem wearLevelMove_fails : exec (.wearLevelMove t a b true) s = .next (retireBlock b s1) := by
  subst hs
  have hexec : exec (.wearLevelMove t a b true) s = execWearLevelMove t a b true s := rfl
  rw [hexec, execWearLevelMove]
  obtain ⟨lo, hi⟩ := wearSpan (tick t s)
  exact congrArg Host.Outcome.next ((if_neg (by simp [hvault, hl, hrw, hra, hrb, heb, hab, ha, hb])).trans (if_pos rfl))

/-- The valid pages of the least worn superblock move where the spread passes the limit and the other has room. -/
theorem wearLevelMove_moves (hspread : (blockOf s1 a).erases + cfg s1 0x500300 0 10 < (wearSpan s1).2)
    (hleast : (blockOf s1 a).erases ≤ (wearSpan s1).1) (hdst : leastWorn s1 a b = true)
    (hroom : (blockOf s1 b).used + (s1.vault.map.filter (fun m => m.2 / 1024 = a)).length ≤ 1024) :
    exec (.wearLevelMove t a b false) s = .next (
      let mine := s1.vault.map.filter (fun m => m.2 / 1024 = a)
      let moved := mine.foldl (fun (x : Tab Nat × Nat) m => (tput x.1 m.1 (b * 1024 + x.2), x.2 + 1))
        (s1.vault.map, (blockOf s1 b).used)
      bump 0x500310 64 mine.length { s1 with vault := { s1.vault with
        map := moved.1
        blocks := tput (tput s1.vault.blocks b { blockOf s1 b with used := moved.2 }) a
          { blockOf s1 a with erased := false, used := 0 }
        weak := s1.vault.weak.filter (fun p => !mine.any (·.1 = p)) } }) := by
  subst hs
  have hexec : exec (.wearLevelMove t a b false) s = execWearLevelMove t a b false s := rfl
  rw [hexec, execWearLevelMove]
  generalize wearSpan (tick t s) = span at hspread hleast ⊢
  obtain ⟨lo, hi⟩ := span
  have hmay : ¬ (hi ≤ (blockOf (tick t s) a).erases + cfg (tick t s) 0x500300 0 10 ∨ lo < (blockOf (tick t s) a).erases) :=
    not_or.2 ⟨Nat.not_le.2 hspread, Nat.not_lt.2 hleast⟩
  refine congrArg Host.Outcome.next ((if_neg ?serves).trans ((if_neg Bool.false_ne_true).trans
    ((if_neg hmay).trans (if_neg ?fits))))
  case serves => simp [hvault, hl, hrw, hra, hrb, heb, hab, ha, hb]
  case fits => exact not_or.2 ⟨Nat.not_lt.2 hroom, not_not.2 hdst⟩

end Wear
end Vault

/-- Settles O39: the flush by whether one is under way, and each superblock's work by whether it fails. -/
theorem vaultWork : Obligations.VaultWork := by
  intro t s s1
  have hs : tick t s = s1 := rfl
  clear_value s1
  refine ⟨?ends, ?begins, ?erase, ?wear⟩
  case ends =>
    intro h page f o r hflush ho hf hstate hobj hpage
    have hends (ecc : Ecc) := vaultFlush_ends hs ecc hflush ho hf hstate hobj hpage
    refine ⟨fun hrw hwait => ?copy, fun hro => (hends .ok).trans (congrArg Host.Outcome.next (if_pos hro))⟩
    have hcopy (ecc : Ecc) := (hends ecc).trans (congrArg Host.Outcome.next
      ((if_neg (ne_true_of_eq_false hrw)).trans (if_neg (ne_true_of_eq_false hwait))))
    exact ⟨hcopy .ok, hcopy .ue⟩
  case begins =>
    intro h page f o hidle hdirty ho
    have hbegins := vaultFlush_begins hs .ok hidle hdirty
    refine ⟨fun hrw hready hopen => hbegins.trans (congrArg Host.Outcome.next
      ((if_neg (ne_true_of_eq_false hrw)).trans (if_neg (by simp [hready, hopen])))),
      fun hro => hbegins.trans (congrArg Host.Outcome.next ((if_pos hro).trans ?_))⟩
    simp only [vaultRefuses, ho, Option.map_some, Option.getD_some]
  case erase =>
    intro n b hvault hl hn herased hretired hempty
    have herase (failed : Bool) := vaultErase_erases hs hvault hl failed hn herased hretired hempty
    exact ⟨(herase true).trans (congrArg Host.Outcome.next (if_pos rfl)),
      (herase false).trans (congrArg Host.Outcome.next (if_neg Bool.false_ne_true))⟩
  case wear =>
    intro a b hvault hl hrw hra hrb heb hab ha hb
    refine ⟨wearLevelMove_fails hs hvault hl hrw hra hrb heb hab ha hb, ?moves⟩
    intro hspread hleast hdst mine hroom moved
    exact wearLevelMove_moves hs hvault hl hrw hra hrb heb hab ha hb hspread hleast hdst hroom

end Sys2Proof.Machine
end

section
/-! Commands on memory (spec/10 R242 to R260; spec/13 R348 to R350; spec/14 R373, R380, R386 to R391; spec/15 R396, R405):
O45. -/

namespace Sys2Proof.Machine

/-! ### What a command on memory names (R386) -/

/-- The object `k` is there for a tenant. -/
structure Mapped (s : State) (tenant k : Nat) (o : Obj) : Prop where
  named : k ≠ 0
  found : look s.objs k = some o
  mapped : (mapOf o tenant).isSome = true

theorem mappedObject_mapped {cmd k : Nat} {x : Exec} {o : Obj} {s : State} (h : Mapped s x.tenant k o)
    (f : Obj → State → State) : mappedObject cmd x k (fun o _ s => f o s) s = f o s := by
  obtain ⟨m, hm⟩ := Option.isSome_iff_exists.1 h.mapped
  simp only [mappedObject, if_neg h.named, h.found, hm]

theorem saysVote_of_look {cmd : Nat} {x : Exec} {s : State} (h : look s.cmds cmd = some x) :
    saysVote s cmd = bitOf x.hdr.p2 32 := by
  simp only [saysVote, h, Option.any_some]

theorem modCmd_congr {cmd : Nat} {y : Exec} {f g : Exec → Exec} {s : State} (hy : look s.cmds cmd = some y)
    (hfg : f y = g y) : modCmd cmd f s = modCmd cmd g s := by
  simp only [modCmd, tmod, hy, hfg]

theorem cmds_foldl_setPin (k tenant : Nat) (ps : List Nat) (s : State) :
    (ps.foldl (fun v p => setPin k tenant p v) s).cmds = s.cmds := by
  induction ps generalizing s with
  | nil => rfl
  | cons p ps ih => exact ih _

/-- A command whose turn it is begins, from any state (R380). -/
theorem runCmd_turn {cmd op : Nat} {x : Exec} {s v : State} (hv : refuseHeaders s = v) (hx : look v.cmds cmd = some x)
    (hop : x.hdr.opcode = op) (hfresh : x.begun = false) (hturn : mayBegin v cmd x = true) (f : Exec → State → State) :
    runCmd cmd op f s = f (begunAs x v) (openReq x { v with cmds := tput v.cmds cmd (begunAs x v) }) := by
  subst hv
  simp only [runCmd, hx]
  exact if_neg (by simp [hop, hfresh, hturn])

/-! ### Mappings (R250 to R252, R391, R405) -/

/-- One more mapping of an object (R391). -/
def withMapping (tenant : Nat) (b : MapBlock) (o : Obj) : Obj :=
  { o with maps := o.maps ++ [{ tenant, base := b.base, w := bitOf b.rights 0, acc := bitOf b.rights 1, pins := [] }] }

/-- A further mapping is made, and its command answered. -/
def mapAnswered (cmd tenant : Nat) (b : MapBlock) (s : State) : State :=
  done cmd b.handle { s with objs := tmod s.objs b.handle (withMapping tenant b) }

theorem sealObj_seals {cmd k hash : Nat} {o : Obj} {s : State} (ho : look s.objs k = some o)
    (hhash : objHash { s with free := s.free + 1 } o = hash)
    (hidle : holdsScales { s with free := s.free + 1 } k none = false) (f : State → State) :
    sealObj cmd k hash f s = f { bump 0xC00208 32 1 { s with free := s.free + 1 } with
      objs := tput s.objs k { o with
        sealHash := some hash, maps := o.maps.map (fun m => { m with w := false, acc := false }) } } := by
  simp only [sealObj, ho]
  exact if_neg (by simp [hhash, hidle])

/-- A further mapping that nothing refuses is made, after the object is sealed where it seals it. -/
theorem mapExisting_maps {cmd : Nat} {x : Exec} {te : Tenant} {b : MapBlock} {o : Obj} {s v w : State} (sealing : Bool)
    (hv : refuseHeaders (modCmd cmd (fun z => if z.begun then z else { z with obj := b.handle }) s) = v)
    (hw : openReq x { v with cmds := tput v.cmds cmd (begunAs x v) } = w) (hx : look v.cmds cmd = some x)
    (hturn : mayBegin v cmd x = true) (hfresh : x.begun = false) (hop : x.hdr.opcode = 0x0302) (ht : Active w x.tenant te)
    (hb : blockOk w (begunAs x v) = true) (hblock : mapBlockBad (begunAs x v) b = false) (ho : look w.objs b.handle = some o)
    (hnone : remapReason w x.tenant te o b = none) :
    mapExisting cmd b sealing s =
      if sealing then sealObj cmd b.handle b.hash (mapAnswered cmd x.tenant b) w else mapAnswered cmd x.tenant b w := by
  subst hw
  rw [mapExisting, withBlock, forTenant, runCmd_turn hv hx hop hfresh hturn]
  simp only [begunAs_tenant, ht.found, ht.stays, Bool.false_eq_true, if_false, hb, if_true, hblock, ho, hnone]
  rfl

/-- A new object that has its range of the vault and its frames of HBM is mapped, sealed where the block asks for it. -/
theorem mapNew_placed {cmd : Nat} {x : Exec} {te : Tenant} {b : MapBlock} {s w : State} {place : Nat × Vault} {o : Obj}
    (hnone : mapReason s x.tenant te b = none)
    (hplace : (if b.home = 2 then (vaultRange s (b.size / pageBytes b.page)).getD (0, s.vault)
      else (b.homeLoc, s.vault)) = place)
    (ho : newObject x.tenant b (stacksOf s (b.stks % 4096)) (clampNat 1 (2 ^ 24) b.stripe)
      (if b.home = 2 then clampNat 1 (2 ^ 20) b.shelf else 0) place.1 = o)
    (hw : (if b.home = 0 then homeFrames o s.nextObj o.pages
        { s with nextObj := s.nextObj + 1, vault := place.2, objs := tput s.objs s.nextObj o }
      else some { s with nextObj := s.nextObj + 1, vault := place.2, objs := tput s.objs s.nextObj o }) = some w) :
    mapNew cmd x te b s =
      let u := writeBack x 22 2 (b.stks % 4096) (stacksOf s (b.stks % 4096))
        (writeBack x 24 4 b.stripe (clampNat 1 (2 ^ 24) b.stripe)
          (writeBack x 28 4 b.shelf (if b.home = 2 then clampNat 1 (2 ^ 20) b.shelf else 0) w))
      if bitOf b.extra 1 then
        if objHash { u with free := u.free + 1 } o ≠ b.hash then refuseWith cmd 0x18 s
        else finishMap cmd s.nextObj { bump 0xC00208 32 1 { u with free := u.free + 1 } with
          objs := tmod u.objs s.nextObj (fun q => { q with sealHash := some b.hash }) }
      else finishMap cmd s.nextObj u := by
  subst ho
  simp only [mapNew, hnone, hplace, hw]

/-! ### Commands that begin (R243, R251 to R260, R348 to R350, R373) -/

section Commands
variable {t cmd : Nat} {x : Exec} {s s1 u : State} {te : Tenant} (h : Begins t cmd x s s1 u)
include h

/-- Objects stay as they are as a command's request opens. -/
theorem Begins.objs : u.objs = s1.objs := by
  rw [← h.opened]
  rfl

/-- The record of a command that has begun. -/
theorem Begins.record : look u.cmds cmd = some (begunAs x s1) := by
  rw [← h.opened]
  exact look_tput_self _ _ _

theorem onMapped_begins {op : Nat} {o : Obj} (hop : x.hdr.opcode = op) (ht : Active u x.tenant te)
    (ho : Mapped s1 x.tenant x.hdr.p0 o) (f : Exec → Obj → State → State) :
    forTenant cmd op (fun x s => mappedObject cmd x x.hdr.p0 (fun o _ s => f x o s) s) (tick t s) = f (begunAs x s1) o u :=
  (forTenant_begins h hop ht _).trans
    (mappedObject_mapped (x := begunAs x s1) ⟨ho.named, h.objs ▸ ho.found, ho.mapped⟩ (f (begunAs x s1)))

/-- TIER_SETUP in a bring-up that has no tables yet, on stacks whose first frames are free. -/
theorem tierSetup_begins {least bytes mask : Nat} {v : State} (hop : x.hdr.opcode = 0x0301) (hnone : u.tables = none)
    (hleast : frameTableBytes u + vaultMapBytes u + 64 * 2 ^ 20 = least)
    (hbytes : clampNat least (max least (offeredFrames u * 65536 / 4)) x.hdr.p0 = bytes)
    (hmask : stacksOf u (x.hdr.p1 % 4096) = mask)
    (hv : { u with tables := some (bytes, mask), flt := { u.flt with ringSet := true } } = v)
    (hfree : ∀ k ∈ maskStacks mask, tableRun v k ≤ frameLimit ∧ ∀ f ∈ heldFrames u k, tableRun v k ≤ f.1) :
    exec (.tierSetup t cmd) s = .next (done cmd bytes v) := by
  subst hleast hbytes hmask hv
  refine congrArg Host.Outcome.next ((runCmd_begins h hop _).trans ((if_neg (by simp [hnone])).trans (if_neg ?_)))
  intro hany
  obtain ⟨k, hk, hbad⟩ := List.any_eq_true.1 hany
  obtain ⟨hrun, hheld⟩ := hfree k hk
  rcases Bool.or_eq_true_iff.1 hbad with hover | hmeets
  · exact Nat.not_lt.2 hrun (of_decide_eq_true hover)
  · obtain ⟨f, hf, hlow⟩ := List.any_eq_true.1 hmeets
    exact Nat.not_lt.2 (hheld f hf) (of_decide_eq_true hlow)

theorem rgnSetup_begins (hop : x.hdr.opcode = 0x0501) (hnone : ∀ r ∈ u.regions, r.2.valid = false) :
    exec (.rgnSetup t cmd) s =
      .next (done cmd (clampNat 1 16777215 x.hdr.p0) { u with regionCap := clampNat 1 16777215 x.hdr.p0 }) := by
  refine congrArg Host.Outcome.next ((runCmd_begins h hop _).trans (if_neg ?_))
  simpa using fun a b hr => hnone (a, b) hr

variable (ht : Active u x.tenant te)
include ht

theorem objMap_begins {b : MapBlock} (hop : x.hdr.opcode = 0x0302) (hb : blockOk u (begunAs x s1) = true)
    (hblock : mapBlockBad (begunAs x s1) b = false) (hnew : b.handle = 0) :
    exec (.objMap t cmd b) s = .next (mapNew cmd (begunAs x s1) te b u) := by
  refine congrArg Host.Outcome.next ((if_neg (not_not.2 hnew)).trans ((withBlock_begins h hop ht hb _).trans
    ((if_neg (ne_true_of_eq_false hblock)).trans ?_)))
  simp only [begunAs_tenant, ht.found]

/-- OBJ_UNMAP of an object that no running segment and no scale table needs. -/
theorem objUnmap_begins {o : Obj} (hop : x.hdr.opcode = 0x0303) (ho : Mapped s1 x.tenant x.hdr.p0 o)
    (hseg : segmentLists u x.hdr.p0 x.tenant = false) (hscales : holdsScales u x.hdr.p0 (some x.tenant) = false) :
    exec (.objUnmap t cmd) s =
      .next (unmapStep cmd (begunAs x s1) (modCmd cmd (fun z => { z with echo := some 0 }) u)) := by
  have hexec : exec (.objUnmap t cmd) s = execObjUnmap t cmd s := rfl
  simp only [hexec, execObjUnmap, h.listed, h.fresh, Bool.false_eq_true, false_and, if_false]
  exact congrArg Host.Outcome.next ((onMapped_begins h hop ht ho _).trans (if_neg (by simp [hseg, hscales])))

/-- OBJ_PIN, as pins or as votes (R253). -/
theorem pinPages_begins {o : Obj} {ps : List Nat} (vote : Bool) (hop : x.hdr.opcode = 0x0305)
    (ho : Mapped s1 x.tenant x.hdr.p0 o) (hps : pageRun o x.hdr.p1 (bits x.hdr.p2 0 32) = some ps) :
    pinPages cmd vote (tick t s) = done cmd ps.length (ps.foldl (fun v p =>
      if vote then castVote x.hdr.p0 x.tenant p v else setPin x.hdr.p0 x.tenant p v) u) := by
  refine (onMapped_begins h hop ht ho _).trans ?_
  simp only [begunAs_hdr, begunAs_tenant, hps]

theorem objQuery_begins {o : Obj} {ps : List Nat} (hop : x.hdr.opcode = 0x0306)
    (ho : Mapped s1 x.tenant x.hdr.p0 o) (hps : pageRun o x.hdr.p1 x.hdr.p2 = some ps) :
    exec (.objQuery t cmd) s = .next (answerOut cmd (begunAs x s1) x.hdr.p3
      ((ps.map (queryBytes u x.tenant x.hdr.p0 o)).flatten) ps.length u) := by
  refine congrArg Host.Outcome.next ((onMapped_begins h hop ht ho _).trans ?_)
  simp only [begunAs_hdr, begunAs_tenant, hps]

section Place
variable {o : Obj} {ps : List Nat} (hop : x.hdr.opcode = 0x0304) (ho : Mapped s1 x.tenant x.hdr.p0 o)
  (hps : pageRun o x.hdr.p1 (bits x.hdr.p2 0 32) = some ps) (hpolicy : o.policy ≠ 0)
include hop ho hps hpolicy

/-- OBJ_PLACE in HBM: pages that are there take their pins, the others are promoted. -/
theorem objPlace_up {left : List Nat} {v : State} (hdst : bits x.hdr.p2 32 3 = 0)
    (hleft : ps.filter (fun p => (look o.loc p).isNone) = left)
    (hv : (if bitOf x.hdr.p2 40 then (ps.filter (fun p => (look o.loc p).isSome)).foldl
      (fun w p => setPin x.hdr.p0 x.tenant p w) u else u) = v) :
    exec (.objPlace t cmd) s = .next (
      if left.isEmpty then done cmd ps.length v
      else pumpMoves (modCmd cmd (fun z => { z with obj := x.hdr.p0, left, echo := some ps.length }) v)) := by
  have hrecord : look v.cmds cmd = some (begunAs x s1) := by
    rw [← hv, apply_ite State.cmds, cmds_foldl_setPin, ite_self]
    exact h.record
  subst hleft hv
  refine congrArg Host.Outcome.next ((onMapped_begins h hop ht ho _).trans ?_)
  simp only [begunAs_hdr, begunAs_tenant, hps, hdst]
  refine (if_neg (by omega)).trans ((if_neg (by omega)).trans ((if_neg (by omega)).trans (if_congr Iff.rfl rfl ?_)))
  exact congrArg pumpMoves (modCmd_congr hrecord rfl)

/-- OBJ_PLACE in the home tier: its pages are voted down. -/
theorem objPlace_down (hdst : bits x.hdr.p2 32 3 = o.home) (hhome : o.home ≠ 0) (hvault : o.home = 2 → hasVault u = true)
    (hhost : o.home = 1 → te.hostLen ≠ 0) :
    exec (.objPlace t cmd) s =
      .next (done cmd ps.length (ps.foldl (fun v p => castVote x.hdr.p0 x.tenant p v) u)) := by
  refine congrArg Host.Outcome.next ((onMapped_begins h hop ht ho _).trans ?_)
  simp only [begunAs_hdr, begunAs_tenant, hps, hdst, ht.found]
  exact (if_neg (not_or.2 ⟨fun hno => hno.2 (hvault hno.1), fun hno => hhost hno.1 (by simpa using hno.2)⟩)).trans
    ((if_neg (by simp [hpolicy])).trans (if_pos hhome))

end Place

/-- EPH_LOAD on a plan of the tenant that no job runs (R259, R260). -/
theorem ephLoad_begins {es : List EphEntry} {p : Plan} {n : Nat} (hop : x.hdr.opcode = 0x0401)
    (hb : blockOk u (begunAs x s1) = true) (hp : look u.plans x.hdr.p0 = some p) (hown : p.tenant = x.tenant)
    (hidle : planRuns u x.hdr.p0 = false) (hn : clampNat 1 (min 65536 (x.hdr.length / 32)) x.hdr.p2 = n)
    (hgood : firstBad ((es.take n).map (fun e => (ephReason u x.tenant (p.image.n0 + p.image.n1) e).toList)) = none) :
    exec (.ephLoad t cmd es) s =
      .next (done cmd n { u with plans := tput u.plans x.hdr.p0 { p with eph := es.take n, status := x.hdr.p1 } }) := by
  subst hn
  refine congrArg Host.Outcome.next ((withBlock_begins h hop ht hb _).trans
    ((onPlan_own (x := begunAs x s1) hp hown _).trans ((if_neg (ne_true_of_eq_false hidle)).trans ?_)))
  simp only [begunAs_hdr, begunAs_tenant, hgood]

theorem rgnRegister_begins {b : RegionBlock} {i : Nat} (hop : x.hdr.opcode = 0x0502)
    (hb : blockOk u (begunAs x s1) = true) (hgood : regionBad u x.tenant b = false) (hi : freeRegion u = some i) :
    exec (.rgnRegister t cmd b) s = .next (
      let gen := ((look u.regions i).map (·.gen)).getD 0
      let r : Region := { valid := true, revoking := false, gen, tenant := x.tenant, block := b, inflight := 0, cmd := none }
      done cmd (i * 256 + gen) { u with regions := tput u.regions i r }) := by
  refine congrArg Host.Outcome.next ((withBlock_begins h hop ht hb _).trans ((if_neg (ne_true_of_eq_false hgood)).trans ?_))
  simp only [begunAs_tenant, hi]

theorem rgnRevoke_begins {r : Region} (hop : x.hdr.opcode = 0x0503) (hi : x.hdr.p0 / 256 ≠ 0)
    (hr : look u.regions (x.hdr.p0 / 256) = some r) (hown : r.tenant = x.tenant) (hvalid : r.valid = true)
    (hstays : r.revoking = false) (hgen : r.gen = x.hdr.p0 % 256) :
    exec (.rgnRevoke t cmd) s = .next (revokeRegion (x.hdr.p0 / 256) (some cmd)
      (modCmd cmd (fun z => { z with echo := some ((r.gen + 1) % 256) }) u)) := by
  refine congrArg Host.Outcome.next ((forTenant_begins h hop ht _).trans ?_)
  simp only [begunAs_hdr, begunAs_tenant, if_neg hi, hr]
  exact (if_neg (not_not.2 hown)).trans (if_neg (by simp [hvalid, hstays, hgen]))

end Commands

/-- Settles O45: an unmapping goes on, a further mapping is ordered by its object, and each other command begins once. -/
theorem memoryCommands : Obligations.MemoryCommands := by
  intro t cmd s x te s0 s1 y u k op block mapped maps
  have hs : tick t s = s0 := rfl
  refine ⟨fun hx hop hbegun hstill => ?goesOn, ?existing, fun hlisted hkept hturn hfresh => ?begins⟩
  case goesOn =>
    clear_value s0
    subst hs
    refine congrArg Host.Outcome.next ?_
    simp only [hx]
    exact (if_pos ⟨hbegun, hop⟩).trans (if_pos (List.isEmpty_iff.2 hstill))
  case existing =>
    intro b o v z w hx hturn hfresh hop hb hte hstays hblockOk hblock ho hnone
    have hv : refuseHeaders (modCmd cmd (fun z => if z.begun then z else { z with obj := b.handle }) s0) = v := rfl
    have hz : begunAs x v = z := rfl
    have hw : openReq x { v with cmds := tput v.cmds cmd z } = w := rfl
    clear_value w z v u y s1 s0
    subst hs hz
    have hmaps (sealing : Bool) :=
      mapExisting_maps sealing hv hw hx hturn hfresh hop ⟨hte, hstays⟩ hblockOk hblock ho hnone
    refine ⟨fun hplain => congrArg Host.Outcome.next ((if_neg (by simp [hb, hplain])).trans
        ((hmaps false).trans (if_neg Bool.false_ne_true))),
      fun hseals hhash hidle => congrArg Host.Outcome.next ((if_neg (by simp [hb, hseals])).trans
        ((hmaps true).trans ((if_pos rfl).trans (sealObj_seals ho hhash hidle _))))⟩
  case begins =>
    have h : Begins t cmd x s s1 u := ⟨hlisted, rfl, hkept, hfresh, hturn, rfl⟩
    have hy : begunAs x s1 = y := rfl
    clear_value u y s1
    subst hy
    refine ⟨fun hop hnone => tierSetup_begins h hop hnone rfl rfl rfl rfl, fun hop hnone => rgnSetup_begins h hop hnone,
      fun hte hstays => ?own⟩
    have ht : Active u x.tenant te := ⟨hte, hstays⟩
    have hmapped {o : Obj} (hm : mapped o) : Mapped s1 x.tenant k o :=
      let ⟨hnamed, hfound, hmap⟩ := hm
      ⟨hnamed, hfound, hmap⟩
    refine ⟨fun b hop hb hblock hnew => ?map, fun o hop hm hseg hscales => ?unmap, fun o ps hop hm hps hpolicy => ?place,
      fun o ps hop hm hps => ?pin, fun o ps hop hm hps => ?query, fun hop => ?window,
      fun es p hop hb hp hown hidle => ephLoad_begins h ht hop hb hp hown hidle rfl,
      fun b i hop hb hgood hi => rgnRegister_begins h ht hop hb hgood hi,
      fun r hop hi hr hown hvalid hstays hgen => rgnRevoke_begins h ht hop hi hr hown hvalid hstays hgen⟩
    case map =>
      intro size stks stripe shelf place o v
      have hmap := objMap_begins h ht hop hb hblock hnew
      refine ⟨fun r hr => hmap.trans ?refused, fun w hnone hw => ?placed⟩
      case refused => simp only [mapNew, begunAs_tenant, hr]
      case placed =>
        have hplaced := hmap.trans (congrArg Host.Outcome.next (mapNew_placed (x := begunAs x s1) hnone rfl rfl hw))
        exact ⟨fun hplain => hplaced.trans (congrArg Host.Outcome.next (if_neg (ne_true_of_eq_false hplain))),
          fun hsealed hhash => hplaced.trans (congrArg Host.Outcome.next ((if_pos hsealed).trans (if_neg (not_not.2 hhash))))⟩
    case unmap =>
      have hunmap := objUnmap_begins h ht hop (hmapped hm) hseg hscales
      exact ⟨fun hstill => hunmap.trans (congrArg Host.Outcome.next (if_pos (List.isEmpty_iff.2 hstill))),
        fun hmoves => hunmap.trans (congrArg Host.Outcome.next (if_neg (fun hno => hmoves (List.isEmpty_iff.1 hno))))⟩
    case place =>
      refine ⟨fun hdst => ?up, fun hdst hhome hvault hhost =>
        objPlace_down h ht hop (hmapped hm) hps hpolicy hdst hhome hvault hhost⟩
      intro left up v
      have hup := objPlace_up h ht hop (hmapped hm) hps hpolicy hdst rfl rfl
      exact ⟨fun hall => hup.trans (congrArg Host.Outcome.next (if_pos (List.isEmpty_iff.2 hall))),
        fun hsome => hup.trans (congrArg Host.Outcome.next (if_neg (fun hno => hsome (List.isEmpty_iff.1 hno))))⟩
    case pin =>
      have hsays := saysVote_of_look h.listed
      have hpin (vote : Bool) := pinPages_begins h ht vote hop (hmapped hm) hps
      exact ⟨fun hbit => congrArg Host.Outcome.next ((if_neg (ne_true_of_eq_false (hsays.trans hbit))).trans (hpin false)),
        fun hbit => congrArg Host.Outcome.next ((if_pos (hsays.trans hbit)).trans (hpin true))⟩
    case query => exact objQuery_begins h ht hop (hmapped hm) hps
    case window => exact congrArg Host.Outcome.next (forTenant_begins h hop ht _)

end Sys2Proof.Machine
end

section
/-! Operations of the correlator and their frames (spec/11 R275, R279 to R293; spec/13 R347, R365): O40 and O41. -/

namespace Sys2Proof.Machine

/-! ### An operation begins (R279) -/

/-- An operation that its segment armed, in the cc in which it begins. -/
structure Armed (slot op : Nat) (s : State) (c : Cor) (r : CorRun) : Prop where
  entry : corOf s slot op = some c
  run : corRun s slot op = some r
  waiting : r.phase = 0
  running : c.job.phase = 1
  stays : c.job.aborted = none
  due : beginsNow s c = true

/-- The operation begins once: the work `f` of its code runs, and what arrived before is taken. -/
theorem begin_armed {t slot op code : Nat} {s s1 : State} {c : Cor} {r : CorRun} (hs : tick t s = s1)
    (h : Armed slot op s1 c r) (hcode : c.e.op = code) (f : Cor → State → State) :
    begin_ t slot op code f s = .next (noteWaits slot op (takeEarly c
      (f c (modCor slot op (fun x => { x with phase := 1, at_ := s1.now }) s1)))) := by
  subst hs
  simp only [begin_, h.entry, h.run]
  exact congrArg Host.Outcome.next (if_neg (by simp [hcode, h.waiting, h.running, h.stays, h.due]))

/-- QSEND appends an entry to its edge, and sends what the credits reach (R292, R293). -/
theorem execQsend_armed {t slot op : Nat} {s s1 : State} {c : Cor} {r : CorRun} {q : QEdge} (hs : tick t s = s1)
    (h : Armed slot op s1 c r) (hcode : c.e.op = 8)
    (hedge : edgeOf (modCor slot op (fun x => { x with phase := 1, at_ := s1.now }) s1) c.job c.e.queue = some q) :
    execQsend t slot op s = .next (
      let b := modCor slot op (fun x => { x with phase := 1, at_ := s1.now }) s1
      let n := ceilDiv c.e.count 4096
      let x := edgeSt b slot c.e.queue q
      noteWaits slot op (takeEarly c (qPush n c (modCor slot op (fun y => { y with held := n, num := x.nextSend })
        (setEdge slot c.e.queue { x with nextSend := x.nextSend + 1 } b))))) := by
  rw [execQsend, begin_armed hs h hcode]
  simp only [hedge]

/-- Settles O40: each code begins its own work, and takes what arrived before. -/
theorem correlatorBegins : Obligations.CorrelatorBegins := by
  intro t slot op s c r s1 b hentry hrun hwaiting hrunning hstays hdue
  have h : Armed slot op s1 c r := ⟨hentry, hrun, hwaiting, hrunning, hstays, hdue⟩
  have hbegin (code : Nat) (f : Cor → State → State) (hcode : c.e.op = code) :
      begin_ t slot op code f s = .next (noteWaits slot op (takeEarly c (f c b))) := begin_armed rfl h hcode f
  refine ⟨hbegin 1 beginReduce, hbegin 2 beginReduce, hbegin 3 beginGather, hbegin 4 beginAll, hbegin 5 beginPermute,
    hbegin 6 beginRotate, hbegin 7 beginVerdict, fun q hcode hedge => execQsend_armed rfl h hcode hedge, hbegin 9 qTake⟩

/-! ### A frame passes the tests of its connection and its segment (R275, R347) -/

/-- The context that a packet names is open on the module, and the packet comes from its peer (steps 1 to 3 of R347). -/
theorem rxContext_open {also : Nat → Bool} {p : HeldPkt} {s : State} {x : Ctx} (k : Ctx → State → State)
    (hversion : p.hdr.version = 1) (hx : look s.ctxs (p.hdr.dcid % 2 ^ 24) = some x)
    (hgen : x.gen = p.hdr.dcid / 2 ^ 24 % 256) (hopen : x.state = 2) (hhere : x.host = false) (hsrc : p.hdr.src = x.peer) :
    rxContext also p k s = k x (heard (p.hdr.dcid % 2 ^ 24) p.hdr (bftCount 1 s)) := by
  have hnamed : ctxNamed (bftCount 1 s) p.hdr.dcid = some (p.hdr.dcid % 2 ^ 24, x) := by
    simp only [ctxNamed, bftCount, bump_ctxs, hx, if_pos hgen]
  simp [rxContext, hversion, hnamed, hopen, hhere, hsrc]

/-- A correlator frame is processed in a cc: 400 cc after its last bit, new and in the window of an open job connection, for the job
and the segment that run. -/
structure Arrives (h : Bth) (hdr : CorHdr) (s : State) (x : Ctx) (slot : Nat) (j : Job) : Prop where
  live : ready s = true
  due : s.now = h.bit + 400
  version : h.version = 1
  named : look s.ctxs (h.dcid % 2 ^ 24) = some x
  gen : x.gen = h.dcid / 2 ^ 24 % 256
  isOpen : x.state = 2
  here : x.host = false
  source : h.src = x.peer
  window : psnSub h.psn x.cum < 1024
  new : look x.outcomes h.psn = none
  job : ctxJob (heard (h.dcid % 2 ^ 24) h (bftCount 1 s)) x = some (slot, j)
  stays : j.aborted = none
  isJob : j.id = hdr.jobId
  flags : flagsOk 6 h.flags = true
  seg : hdr.seg = j.segs - 1

/-- The state in which a frame with some bytes of data is applied: its connection has heard it and its job is charged. -/
def charged (h : Bth) (slot len : Nat) (s : State) : State :=
  chargeJob slot (30 * len) (heard (h.dcid % 2 ^ 24) h (bftCount 1 s))

/-- What a frame answers that has been applied: outcome 0 (R365). -/
def applied (h : Bth) (hdr : CorHdr) (slot : Nat) (s : State) : Res :=
  .next (outcome (h.dcid % 2 ^ 24) h.psn 1 0 (bitOf h.flags 2) (noteWaits slot hdr.op s))

section Frame
variable {t slot : Nat} {h : Bth} {hdr : CorHdr} {s s1 : State} {x : Ctx} {j : Job} (hs : tick t s = s1)
  (ha : Arrives h hdr s1 x slot j)
include hs ha

/-- Such a frame is applied once and has its outcome (R275, R365). -/
theorem corFrame_applies {len : Nat} {f : Nat → Job → State → State} {y : State} (hkind : 1 ≤ hdr.kind ∧ hdr.kind ≤ 8)
    (hstep : hdr.kind = 7 → hdr.step = j.step) (hf : f slot j (charged h slot len s1) = y) :
    corFrame t h hdr len f s = applied h hdr slot y := by
  subst hs hf
  refine congrArg Host.Outcome.next ((if_neg (by simp [ha.live, ha.due])).trans
    ((rxContext_open _ ha.version ha.named ha.gen ha.isOpen ha.here ha.source).trans ?_))
  have hwindow := ha.window
  have hjob : (ctxJob (heard (h.dcid % 2 ^ 24) h (bftCount 1 (tick t s))) x).filter
      (fun e => e.2.aborted.isNone && e.2.id = hdr.jobId) = some (slot, j) := by
    rw [ha.job]
    simp [ha.stays, ha.isJob]
  refine (if_neg ?known).trans ((if_neg (by omega)).trans ?_)
  case known =>
    simp only [ha.new, Option.isSome_none, Bool.false_eq_true, and_false, false_or]
    omega
  simp only [mkPkt, hjob]
  refine (if_neg ?malformed).trans (if_pos ?segment)
  case malformed =>
    simp only [ha.flags, not_true_eq_false, false_or]
    omega
  case segment =>
    by_cases h7 : hdr.kind = 7
    · simp [h7, ha.seg, hstep h7]
    · simp [h7, ha.seg]

/-! ### What each frame does (R280 to R293) -/

section Granule
variable {digest : Option Nat} {data : List Byte} {c : Cor} {r : CorRun} {kind : Nat}
  (hc : corOf (charged h slot data.length s1) slot hdr.op = some c)
  (hr : corRun (charged h slot data.length s1) slot hdr.op = some r)
include hc

/-- A granule of a queue entry goes to its edge (R292). -/
theorem execCorDataGranule_queued (hop : c.e.op = 9) (hkind : hdr.kind = 4) :
    execCorDataGranule t h hdr digest ⟨data, .ok⟩ s =
      applied h hdr slot (takeQueue c hdr.chunk hdr.granule data (charged h slot data.length s1)) := by
  rw [execCorDataGranule]
  refine corFrame_applies hs ha (by omega) (by omega) ?_
  simp [hc, hop, hkind]

include hr

/-- A piece of an exchange lands at its rank's place (R284). -/
theorem execCorDataGranule_piece (hop : c.e.op = 4) (hkind : hdr.kind = 1) (hruns : r.phase < 2) :
    execCorDataGranule t h hdr digest ⟨data, .ok⟩ s =
      applied h hdr slot (putChunk c 1 hdr.srank hdr.granule [] (corLandLater c
        (landOff c (hdr.srank * pieceBytes c + 4096 * hdr.granule) (charged h slot data.length s1)) data
        (charged h slot data.length s1))) := by
  rw [execCorDataGranule]
  refine corFrame_applies hs ha (by omega) (by omega) ?_
  simp [hc, hr, hop, hkind, hruns.ne]

/-- A granule of a rotated block lands (R284). -/
theorem execCorDataGranule_block (hop : c.e.op = 6) (hkind : hdr.kind = 1) (hruns : r.phase < 2) :
    execCorDataGranule t h hdr digest ⟨data, .ok⟩ s =
      applied h hdr slot (putChunk c 1 0 hdr.granule [] (corLandLater c
        (landOff c (4096 * hdr.granule) (charged h slot data.length s1)) data (charged h slot data.length s1))) := by
  rw [execCorDataGranule]
  refine corFrame_applies hs ha (by omega) (by omega) ?_
  simp [hc, hr, hop, hkind, hruns.ne]

/-- A granule of a gather, or of an ALLREDUCE's results, lands and is passed on (R284). -/
theorem execCorDataGranule_gathered (hkind : hdr.kind = kind) (hop : c.e.op = 3 ∧ kind = 1 ∨ c.e.op = 1 ∧ kind = 3)
    (hruns : r.phase = 1) (hnew : look r.chunks (granKey kind hdr.chunk hdr.granule) = none) :
    execCorDataGranule t h hdr digest ⟨data, .ok⟩ s =
      applied h hdr slot (takeGathered c kind hdr.chunk hdr.granule data (charged h slot data.length s1)) := by
  rw [execCorDataGranule]
  refine corFrame_applies hs ha (by omega) (by omega) ?_
  rcases hop with ⟨hop, rfl⟩ | ⟨hop, rfl⟩ <;> simp [hc, hr, hop, hkind, hruns, hnew]

/-- A partial of a reduction is reduced with this rank's values (R280, R284). -/
theorem execCorDataGranule_partial (hop : c.e.op = 1 ∨ c.e.op = 2) (hkind : hdr.kind = 1 ∨ hdr.kind = 2) (hruns : r.phase = 1)
    (hnew : look r.chunks (granKey 2 hdr.chunk hdr.granule) = none) :
    execCorDataGranule t h hdr digest ⟨data, .ok⟩ s =
      applied h hdr slot (takePartial c hdr.chunk hdr.granule data (charged h slot data.length s1)) := by
  rw [execCorDataGranule]
  refine corFrame_applies hs ha (by omega) (by omega) ?_
  rcases hop with hop | hop <;> rcases hkind with hkind | hkind <;> simp [hc, hr, hop, hkind, hruns, hnew]

end Granule

/-- A member's local verdict is kept (R288). -/
theorem execCorVerdictFrame_kept (dirty : Bool) (hkind : hdr.kind = 7) (hstep : hdr.step = j.step) :
    execCorVerdictFrame t h hdr dirty s = applied h hdr slot (modCor slot hdr.op (fun y =>
      if y.verdicts.any (fun z => z.1 = hdr.srank) then y
      else { y with verdicts := y.verdicts ++ [(hdr.srank, dirty)] }) (charged h slot 0 s1)) := by
  rw [execCorVerdictFrame]
  refine corFrame_applies hs ha (by omega) (fun _ => hstep) ?_
  simp [hkind]

/-- A go is taken, whether its frame carries the table's digest or none (R289, R290). -/
theorem execCorPermuteGo_taken {c : Cor} {r : CorRun} {digest : Option Nat} {p : Perm}
    (hc : corOf (charged h slot 0 s1) slot hdr.op = some c) (hr : corRun (charged h slot 0 s1) slot hdr.op = some r)
    (hop : c.e.op = 5) (hkind : hdr.kind = 6) (hruns : r.phase = 1) (hp : permOf c (charged h slot 0 s1) = p)
    (hdigest : ∀ d ∈ digest, d = p.digest) :
    execCorPermuteGo t h hdr digest s = applied h hdr slot (retryGoes c p (modCor slot hdr.op
      (fun y => { y with goes := y.goes ++ [(c.rank * p.per + hdr.chunk, decide (hdr.granule = 1))] })
      (charged h slot 0 s1))) := by
  have hsame : digest.any (· ≠ p.digest) = false := by simpa [Option.any_eq_false] using hdigest
  rw [execCorPermuteGo]
  refine corFrame_applies hs ha (by omega) (by omega) ?_
  simp only [hc, hr, hp, hsame]
  exact (if_neg (by simp [hop, hkind, hruns])).trans ((if_neg Bool.false_ne_true).trans (if_pos hruns))

/-- A credit is counted where no QSEND of the job holds for one: the largest count seen stands (R293). -/
theorem execCorCreditFrame_counted {edge : Nat} {q : QEdge} (hkind : hdr.kind = 8)
    (hedge : edgeOf (charged h slot 0 s1) j edge = some q) (hnone : ∀ y ∈ j.cor, ¬ (y.phase = 1 ∧ 0 < y.held)) :
    execCorCreditFrame t h hdr edge s = applied h hdr slot (
      let y := edgeSt (charged h slot 0 s1) slot edge q
      let n := max y.seen (hdr.granule + hdr.chunk * 2 ^ 32)
      setEdge slot edge { y with seen := n, credits := y.credits + (n - y.seen) } (charged h slot 0 s1)) := by
  have hheld : j.cor.filter (fun r => r.phase = 1 && decide (0 < r.held)) = [] :=
    List.filter_eq_nil_iff.2 (fun y hy => by simpa using hnone y hy)
  rw [execCorCreditFrame]
  refine corFrame_applies hs ha (by omega) (by omega) ?_
  simp [hedge, hkind, hheld]

end Frame

/-! ### An operation completes, and a credit frame is repeated (R279, R293) -/

/-- The local result of an operation has landed: what it leaves, and SYNC. -/
def resultLands (slot op : Nat) (c : Cor) (s : State) : State :=
  let s := corFinish c (modCor slot op (fun y => { y with landed := true, waits := false }) s)
  if c.e.sig then unitSignal slot c.e.sync 1 s else s

/-- The last byte of an operation's source has left: SYNC_SRC. -/
def sourceLeaves (slot op : Nat) (c : Cor) (s : State) : State :=
  let s := modCor slot op (fun y => { y with sent := true }) s
  if c.e.sigSrc then unitSignal slot c.e.syncSrc 1 s else s

section Complete
variable {t slot op : Nat} {s s1 : State} {c : Cor} {r : CorRun} (hs : tick t s = s1) (hc : corOf s1 slot op = some c)
  (hr : corRun s1 slot op = some r) (hruns : r.phase = 1)
include hs hc hr hruns

/-- The command on data without an error: landing and source count once each, and completion follows both (R279). -/
theorem execCorOpComplete_clean :
    execCorOpComplete t slot ⟨op, .ok⟩ s = .next (
      let a := if corIn c s1 ∧ ¬ r.landed then resultLands slot op c s1 else s1
      let b := if srcLeft c a ∧ ¬ r.sent then sourceLeaves slot op c a else a
      if (corIn c s1 || r.landed) && corSent c b then
        checkDone slot (bump (rkey 0x600104 slot) 32 1
          (modCor slot op (fun y => { y with phase := 2, chunks := [], goes := [], moving := [] }) b))
      else b) := by
  subst hs
  simp only [execCorOpComplete, hc, hr]
  exact congrArg Host.Outcome.next ((if_neg (not_not.2 hruns)).trans (if_neg Bool.false_ne_true))

/-- Landing and source fall into the cc of the command, and every byte sent has left. -/
theorem execCorOpComplete_ends (hlanded : r.landed = false) (hsent : r.sent = false) (hin : corIn c s1 = true)
    (hleft : srcLeft c (resultLands slot op c s1) = true)
    (hout : corSent c (sourceLeaves slot op c (resultLands slot op c s1)) = true) :
    execCorOpComplete t slot ⟨op, .ok⟩ s = .next (checkDone slot (bump (rkey 0x600104 slot) 32 1
      (modCor slot op (fun y => { y with phase := 2, chunks := [], goes := [], moving := [] })
        (sourceLeaves slot op c (resultLands slot op c s1))))) := by
  rw [execCorOpComplete_clean hs hc hr hruns]
  simp [hlanded, hsent, hin, hleft, hout]

end Complete

/-- The credit frame of an edge goes out again while credits are outstanding, REPEAT_US after the last (R293). -/
theorem execCreditRepeat_sends {t slot edge op : Nat} {s s1 : State} {j : Job} {q : QEdge} {y : EdgeSt} {p : PlanImage} {c : Cor}
    (hs : tick t s = s1) (hj : look s1.jobs slot = some j) (hedge : edgeOf s1 j edge = some q)
    (hy : look s1.edges (edgeKey slot edge) = some y) (hfreed : y.freed ≠ 0)
    (hdue : y.creditAt + 3300 * cfg s1 0x600010 0 16 ≤ s1.now) (hstays : j.aborted = none) (hp : imageOf s1 j = some p)
    (hop : (List.range p.cor.length).find? (fun k => (p.cor[k]?).any (fun e => e.op = 9 && e.queue = edge)) = some op)
    (hc : corOf s1 slot op = some c) :
    execCreditRepeat t slot edge s = .next (sendCredit c q y.freed s1) := by
  subst hs
  have hnow : ¬ (tick t s).now < y.creditAt + usCc (cfg (tick t s) 0x600010 0 16) := by
    simp only [usCc]
    omega
  simp only [execCreditRepeat, hj, hedge, hy, hp, Option.bind_some, hop]
  simp [hfreed, hstays, hnow, hc]

/-- Settles O41: a frame that passes the tests is applied by its kind, an operation completes, and a credit frame is repeated. -/
theorem correlatorFrames : Obligations.CorrelatorFrames := by
  intro t slot h hdr s x j c r u i w fin
  refine ⟨?frames, ?complete, ?credit⟩
  case frames =>
    intro hlive hdue hversion hnamed hgen hopen hhere hsrc hwindow hnew hjob hstays hid hflags hseg
    have ha : Arrives h hdr (tick t s) x slot j := ⟨hlive, hdue, hversion, hnamed, hgen, hopen, hhere, hsrc, hwindow, hnew, hjob,
      hstays, hid, hflags, hseg⟩
    refine ⟨fun digest data hc hr => ?data, fun dirty hkind hstep => execCorVerdictFrame_kept rfl ha dirty hkind hstep, ?go,
      fun edge q hkind hedge hnone => execCorCreditFrame_counted rfl ha hkind hedge hnone⟩
    case data =>
      exact ⟨fun hop hkind => execCorDataGranule_queued rfl ha hc hop hkind,
        fun hop hkind hruns => execCorDataGranule_piece rfl ha hc hr hop hkind hruns,
        fun hop hkind hruns => execCorDataGranule_block rfl ha hc hr hop hkind hruns,
        fun hop hkind hruns hnew => execCorDataGranule_gathered rfl ha hc hr hkind (.inl ⟨hop, rfl⟩) hruns hnew,
        fun hop hkind hruns hnew => execCorDataGranule_gathered rfl ha hc hr hkind (.inr ⟨hop, rfl⟩) hruns hnew,
        fun hop hkind hruns hnew => execCorDataGranule_partial rfl ha hc hr hop hkind hruns hnew⟩
    case go =>
      intro hc hr hop hkind hruns p
      have hgo {digest : Option Nat} (hd : ∀ d ∈ digest, d = p.digest) :=
        execCorPermuteGo_taken rfl ha hc hr hop hkind hruns rfl hd
      exact ⟨(hgo (by simp)).trans (hgo (by simp)).symm, hgo (by simp)⟩
  case complete =>
    intro op s1 hc hr hruns hlanded hsent hin a a' b b' hleft hout
    exact execCorOpComplete_ends rfl hc hr hruns hlanded hsent hin hleft hout
  case credit =>
    intro edge op q y p s1 hj hedge hy hfreed hdue hstays hp hop hc
    exact execCreditRepeat_sends rfl hj hedge hy hfreed hdue hstays hp hop hc

end Sys2Proof.Machine
end

section
/-! Sub-ports that come up, go down, fall back and rejoin (spec/12 R300 to R303, R313): O21. -/

namespace Sys2Proof.Machine

/-- A counter of a port window lies at its place in the order of R334. -/
theorem portCount_eq (code i n : Nat) (s : State) : portCount code i n s = bump (portWin code + (0x30 + 4 * i)) 32 n s := by
  rw [portCount, Nat.add_assoc]

/-- The first sub-port of a port lies in that port's window. -/
theorem portWin_four_mul (port : Nat) : portWin (4 * port) = 0x700000 + 0x1000 * port := by
  rw [portWin, Nat.mul_div_cancel_left port (by decide)]

section Ports
variable {t code : Nat} {s s1 : State} (hs : tick t s = s1)
include hs

/-- A sub-port that trained is up from now on, and nothing of its last time up is left (R300). -/
theorem linkUp_trained (hon : portsOn s1 = true) (hsub : hasSub s1 code = true) (hdown : (portOf s1 code).up = false)
    (hfit : (portOf s1 code).failed = false) :
    exec (.linkUp t code) s = .next (irqSet (portWin code + 0x184) 1
      (modPort code (fun x => { x with up := true, upAt := s1.now, freeAt := s1.now, exFree := s1.now, wireAt := s1.now,
                                       onWire := false, finderAt := none, xoff := [], ingress := [] }) s1)) := by
  subst hs
  exact congrArg Host.Outcome.next (if_neg (by simp [hon, hsub, hdown, hfit]))

omit hs in
/-- A sub-port that goes down leaves the spraying set, its queued frames counted as discarded (R303). -/
theorem dropLink_up (hup : (portOf s code).up = true) :
    dropLink code s = raise { src := 0x100, unit := code } (irqSet (portWin code + 0x184) 1
      (ptpSelect (modSpray code (fun x => { x with up := false, inSpray := false, preempt := false, paused := [], queue := [] })
        (bump (portWin code + 0x58) 32 (portOf s code).queue.length s)))) := by
  refine (if_neg (not_not.2 hup)).trans ?_
  rw [portCount_eq]

omit hs in
/-- LANE_FAIL names a lane of a populated port, and ports may train. -/
theorem laneFail_named {port lane : Nat} (hon : portsOn s = true) (hport : port < nPorts s) (hlane : lane < 4) :
    ¬ (¬ portsOn s = true ∨ ¬ decide (port < nPorts s) = true ∨ 4 ≤ lane) := by
  simp [hon, hport, hlane]

/-- In mode 1 a failed lane takes the port down, and it comes back on a healthy pair that its peer accepts, where autonegotiation
is on (R300). -/
theorem laneFail_renegotiates {port lane : Nat} (healthy0 healthy1 accepted : Bool) (hon : portsOn s1 = true)
    (hport : port < nPorts s1) (hlane : lane < 4) (hmode : portMode s1 (4 * port) = 1) :
    exec (.laneFail t port lane healthy0 healthy1 accepted) s = .next (
      let failed := irqSet (0x700184 + 0x1000 * port) 4
        (raise { src := 0x101, unit := 4 * port, sub := lane / 2 } (dropLink (4 * port) s1))
      if (healthy0 || healthy1) ∧ accepted ∧ cfg failed (0x700000 + 0x1000 * port) 3 1 = 1 then
        modPort (4 * port) (fun x => { x with degraded := some (if healthy0 then 0 else 1) }) failed
      else modPort (4 * port) (fun x => { x with failed := true }) failed) := by
  subst hs
  refine congrArg Host.Outcome.next ((if_neg (laneFail_named hon hport hlane)).trans ?_)
  have hirq : 0x700000 + 0x1000 * port + 0x184 = 0x700184 + 0x1000 * port := Nat.add_right_comm ..
  rw [hmode]
  simp only [portWin_four_mul, hirq, Bool.and_eq_true, decide_eq_true_eq, and_assoc]

/-- In mode 2 a failed lane takes down the sub-port of its pair (R302). -/
theorem laneFail_pair {port lane : Nat} (healthy0 healthy1 accepted : Bool) (hon : portsOn s1 = true) (hport : port < nPorts s1)
    (hlane : lane < 4) (hmode : portMode s1 (4 * port) = 2) :
    exec (.laneFail t port lane healthy0 healthy1 accepted) s = .next (dropLink (4 * port + lane / 2) s1) := by
  subst hs
  refine congrArg Host.Outcome.next ((if_neg (laneFail_named hon hport hlane)).trans ?_)
  rw [hmode]
  rfl

/-- In mode 3 a failed lane takes down its own sub-port (R302). -/
theorem laneFail_single {port lane : Nat} (healthy0 healthy1 accepted : Bool) (hon : portsOn s1 = true) (hport : port < nPorts s1)
    (hlane : lane < 4) (hmode : portMode s1 (4 * port) = 3) :
    exec (.laneFail t port lane healthy0 healthy1 accepted) s = .next (dropLink (4 * port + lane) s1) := by
  subst hs
  refine congrArg Host.Outcome.next ((if_neg (laneFail_named hon hport hlane)).trans ?_)
  rw [hmode]
  rfl

/-- A sub-port rejoins the spraying set after its hold-up (R303). -/
theorem sprayRejoin_due (hup : (portOf s1 code).up = true) (hout : (portOf s1 code).inSpray = false)
    (hloop : (portOf s1 code).loop = false)
    (hdue : (portOf s1 code).upAt + 3300000 * cfg s1 (portWin code + 8) 0 16 ≤ s1.now) (hfree : blockHeld s1 .port code = false) :
    exec (.sprayRejoin t code) s = .next (modSpray code (fun x => { x with inSpray := true, reload := false }) s1) := by
  subst hs
  rw [Nat.mul_comm] at hdue
  exact congrArg Host.Outcome.next (if_pos ⟨hup, by simp [hout], by simp [hloop], hdue, by simp [hfree]⟩)

theorem preemptVerify_enabled {ok : Bool} (hup : (portOf s1 code).up = true) (hon : cfg s1 (portWin code) 4 1 = 1) :
    exec (.preemptVerify t code ok) s = .next (modPort code (fun x => { x with preempt := ok }) s1) := by
  subst hs
  exact congrArg Host.Outcome.next (if_pos ⟨hup, hon⟩)

end Ports

/-- Settles O21: each event of a sub-port acts where its condition holds, a failed lane by the mode of its port. -/
theorem portEvents : Obligations.PortEvents := by
  intro t code s s1 p win
  refine ⟨linkUp_trained rfl, fun hup => congrArg _ (dropLink_up hup), ?lane, sprayRejoin_due rfl,
    fun ok => preemptVerify_enabled rfl⟩
  case lane =>
    intro port lane hon hport hlane down failed
    exact ⟨fun hmode healthy0 healthy1 accepted => laneFail_renegotiates rfl healthy0 healthy1 accepted hon hport hlane hmode,
      laneFail_pair rfl true true true hon hport hlane, laneFail_single rfl true true true hon hport hlane⟩

end Sys2Proof.Machine
end

section
/-! The finder (spec/12 R324 to R326): O23. -/

namespace Sys2Proof.Machine

theorem finderDue_iff {s : State} {last : Option Nat} :
    finderDue s last = true ↔ ∀ a, last = some a → a + 3300000 * (1000 * cfg s 0x718004 0 8) ≤ s.now := by
  cases last with
  | none => simp [finderDue]
  | some a => simp [finderDue, msCc, Nat.mul_comm]

/-- The neighbour of a sub-port is lost: its record is no longer valid (R325). -/
def neighbourLost (code : Nat) (s : State) : State :=
  raise { src := 0x103, unit := code } (irqSet (portWin code + 0x184) 2 (modPort code (fun x => { x with nbrOk := false }) s))

/-- A record is the sub-port's neighbour, and the interrupt tells a new one (R325). -/
def neighbourKept (code : Nat) (r : FinderRec) (s : State) : State :=
  let kept := modSpray code (fun x => { x with nbr := some (r, s.now), nbrOk := true }) s
  if !((portOf s code).nbrOk && (portOf s code).nbr.any (fun x => x.1 = r)) then irqSet (portWin code + 0x184) 2 kept else kept

theorem neighbourKept_eq (code : Nat) (r : FinderRec) (s : State) :
    neighbourKept code r s =
      let kept := modSpray code (fun x => { x with nbr := some (r, s.now), nbrOk := true }) s
      if (portOf s code).nbrOk ∧ (portOf s code).nbr.any (fun x => x.1 = r) then kept
      else irqSet (portWin code + 0x184) 2 kept := by
  simp only [neighbourKept, ← Bool.and_eq_true]
  cases (portOf s code).nbrOk && (portOf s code).nbr.any (fun x => x.1 = r) <;> rfl

/-- Keeping a record leaves the almanac, and so the module's serial, as it is. -/
theorem neighbourKept_alm (code : Nat) (r : FinderRec) (s : State) : (neighbourKept code r s).alm = s.alm :=
  (apply_ite State.alm _ _ _).trans (ite_self _)

section Finder
variable {t code : Nat} {s s1 : State} (hs : tick t s = s1)
include hs

theorem finderSend_due (hup : (portOf s1 code).up = true) (hon : portsOn s1 = true)
    (hdue : finderDue s1 (portOf s1 code).finderAt = true) :
    exec (.finderSend t code) s = .next (queueTx code (finderFrame s1 1 code)
      (modPort code (fun x => { x with seq := (x.seq + 1) % 65536 })
        (modPort code (fun x => { x with finderAt := some s1.now }) s1))) := by
  subst hs
  exact congrArg Host.Outcome.next (if_pos ⟨hup, hon, hdue⟩)

theorem finderReceive_withdraw {r : FinderRec} (hup : (portOf s1 code).up = true) (htype : r.type = 2)
    (hok : (portOf s1 code).nbrOk = true) : exec (.finderReceive t code r) s = .next (neighbourLost code s1) := by
  subst hs
  exact congrArg Host.Outcome.next ((if_neg (not_not.2 hup)).trans ((if_pos htype).trans (if_pos hok)))

/-- An announce is kept, and the module's own serial in it is a loop, told once, which stops spraying (R325). -/
theorem finderReceive_announce {r : FinderRec} (hup : (portOf s1 code).up = true) (htype : r.type = 1) :
    exec (.finderReceive t code r) s = .next (
      let told := neighbourKept code r s1
      if r.serial = s1.alm.serial then
        if (portOf s1 code).loop then told
        else raise { src := 0x104, unit := code }
          (irqSet (portWin code + 0x184) 8 (modSpray code (fun x => { x with loop := true, inSpray := false }) told))
      else modPort code (fun x => { x with loop := false }) told) := by
  subst hs
  refine congrArg Host.Outcome.next ((if_neg (not_not.2 hup)).trans ((if_neg (by omega)).trans ((if_neg (by omega)).trans ?_)))
  rw [← neighbourKept_alm code r (tick t s)]
  rfl

theorem finderHoldExpiry_stale {r : FinderRec} {at_ : Nat} (hnbr : (portOf s1 code).nbr = some (r, at_))
    (hok : (portOf s1 code).nbrOk = true) (hold : at_ + 3300000 * (1000 * r.hold) < s1.now) :
    exec (.finderHoldExpiry t code) s = .next (neighbourLost code s1) := by
  subst hs
  rw [Nat.mul_comm] at hold
  refine congrArg Host.Outcome.next ?_
  rw [hnbr]
  exact if_pos ⟨hok, hold⟩

/-- The announce and the neighbour report of the management segment replace those still queued (R326, R332). -/
theorem mgtFinderSend_due (hlive : live s1 = true) (hgasp : s1.mgt.gasp = none) (hdue : finderDue s1 s1.mgt.finderAt = true) :
    exec (.mgtFinderSend t) s = .next (
      let mode := Config.choice s1.free % 16
      let caps := Config.choice (s1.free + 1) % 8
      { s1 with free := s1.free + 2, mgt := { s1.mgt with
        q3 := [.finder (finderBytes s1 1 0xFF mode caps s1.mgt.seq),
               .neighbours (reportBytes s1 mode caps ((s1.mgt.seq + 1) % 65536))]
        finderAt := some s1.now, seq := (s1.mgt.seq + 2) % 65536 } }) := by
  subst hs
  exact congrArg Host.Outcome.next (if_neg (by simp [hlive, hgasp, hdue]))

end Finder

/-- Settles O23: what is due is sent, and a record is kept, withdrawn, stale or the module's own. -/
theorem finder : Obligations.Finder := by
  intro t code s s1 p win gone due
  refine ⟨fun hup hon hdue => finderSend_due rfl hup hon (finderDue_iff.2 hdue), ?receive,
    fun r at_ => finderHoldExpiry_stale rfl, fun hlive hgasp hdue => mgtFinderSend_due rfl hlive hgasp (finderDue_iff.2 hdue)⟩
  case receive =>
    intro r hup kept told
    have hgot (htype : r.type = 1) := finderReceive_announce (s1 := s1) rfl hup htype
    rw [show neighbourKept code r s1 = told from neighbourKept_eq code r s1] at hgot
    exact ⟨finderReceive_withdraw rfl hup,
      fun htype hother => (hgot htype).trans (congrArg _ (if_neg hother)),
      fun htype hown hloop => (hgot htype).trans (congrArg _ ((if_pos hown).trans (if_neg (Bool.eq_false_iff.1 hloop)))),
      fun htype hown hloop => (hgot htype).trans (congrArg _ ((if_pos hown).trans (if_pos hloop)))⟩

end Sys2Proof.Machine
end

section
/-! Frames in and out of a sub-port (spec/12 R300, R305 to R311, R313 to R316, R321): O22. -/

namespace Sys2Proof.Machine

/-! ### Where a good frame goes (steps 7 and 8 of R306) -/

/-- A frame goes up truncated, or is bad by its FCS, or goes up whole. -/
theorem upOrBad_eq (code : Nat) (f : RxFrame) (trunc : Bool) (s : State) :
    upOrBad code f trunc s =
      if trunc then passUp code f true s else if f.fcsBad then portCount code 2 1 s else passUp code f false s := by
  cases trunc
  · simp [upOrBad]
  · exact if_neg (by simp)

/-- The UDP port of a frame is one of the module's own protocols. -/
def ownProtocol (s : State) (f : RxFrame) : Prop := ∃ q, f.udpPort = some q ∧ ownPort s q = true

/-- An IPv6 frame is for a fabric address that the transit switch takes, of a module. -/
def transitTo (s : State) (f : RxFrame) (d : Nat) : Prop :=
  f.ipv6 = true ∧ localDst f.ipDst = false ∧ fabricModule s f.ipDst = some d

section Ip
variable {code : Nat} {f : RxFrame} {trunc : Bool} {s : State}

theorem ipFrame_ownProtocol (hdst : ownIp s code f = true) (hown : ownProtocol s f) :
    ipFrame code f trunc s = ownDatagram code f trunc s := by
  obtain ⟨q, hport, hq⟩ := hown
  refine (if_pos hdst).trans ?_
  rw [hport]
  exact if_pos hq

theorem ipFrame_otherProtocol (hdst : ownIp s code f = true) (hother : ¬ ownProtocol s f) :
    ipFrame code f trunc s = upOrBad code f trunc s := by
  refine (if_pos hdst).trans ?_
  cases hport : f.udpPort with
  | none => rfl
  | some q => exact if_neg fun hq => hother ⟨q, hport, hq⟩

theorem ipFrame_transit {d : Nat} (hdst : ownIp s code f = false) (hd : transitTo s f d) :
    ipFrame code f trunc s = transit code d f trunc s := by
  obtain ⟨hsix, hlocal, hmodule⟩ := hd
  simp [ipFrame, hdst, hsix, hlocal, hmodule]

theorem ipFrame_elsewhere (hdst : ownIp s code f = false) (hd : ∀ d, ¬ transitTo s f d) :
    ipFrame code f trunc s = upOrBad code f trunc s := by
  have hnone : (if f.ipv6 && !localDst f.ipDst then fabricModule s f.ipDst else none) = none :=
    Option.eq_none_iff_forall_ne_some.2 fun d hsome => hd d (by simpa [transitTo, and_assoc] using hsome)
  refine (if_neg (Bool.eq_false_iff.1 hdst)).trans ?_
  rw [hnone]

end Ip

/-! ### The checks of R306 -/

/-- The frame is counted with its codewords. -/
def frameSeen (code : Nat) (f : RxFrame) (s : State) : State :=
  portCount code 4 f.fecUncorr (portCount code 3 f.fecCorr (portCount code 0 1 s))

/-- The frame is in its ingress buffer. -/
def frameKept (code : Nat) (f : RxFrame) (s : State) : State := ingressFlow code f (frameSeen code f s)

/-- The frame is longer than LNK_MAXFRAME. -/
def frameTrunc (code : Nat) (f : RxFrame) (s : State) : Bool := decide (cfg (frameKept code f s) (portWin code + 4) 0 14 < f.len)

/-- A truncated frame is counted. -/
def frameSized (code : Nat) (f : RxFrame) (s : State) : State :=
  if frameTrunc code f s then portCount code 6 1 (frameKept code f s) else frameKept code f s

/-- A frame for the sub-port goes on by its EtherType. -/
def frameSorted (code : Nat) (f : RxFrame) (trunc : Bool) (s : State) : State :=
  if f.etherType = 0x88B5 ∨ f.etherType = 0x88F7 then
    if trunc then s else if f.fcsBad then portCount code 2 1 s else s
  else if f.etherType = 0x8808 then
    if trunc then s else if f.fcsBad then portCount code 2 1 s else macControl code f s
  else if f.etherType = 0x86DD ∨ f.etherType = 0x0800 then ipFrame code f trunc s
  else upOrBad code f trunc s

section Receive
variable {t code : Nat} {f : RxFrame} {s s1 : State} (hs : tick t s = s1) (hup : (portOf s1 code).up = true)
  (hon : portsOn s1 = true)
include hs hup hon

theorem frameReceive_full (hfull : ingressFull (frameSeen code f s1) code f = true) :
    exec (.frameReceive t code f) s = .next (portCount code 7 1 (frameSeen code f s1)) := by
  subst hs
  exact congrArg Host.Outcome.next ((if_neg (by simp [hup, hon])).trans (if_pos hfull))

variable (hroom : ingressFull (frameSeen code f s1) code f = false)
include hroom

/-- A frame that the ingress buffer takes is checked in the order of R306. -/
theorem frameReceive_checked :
    exec (.frameReceive t code f) s = .next (
      let u := frameSized code f s1
      if f.fecUncorr ≠ 0 then frameKept code f s1
      else if f.fragBad then portCount code 16 1 (frameKept code f s1)
      else if f.len < 64 then portCount code 5 1 (frameKept code f s1)
      else if ¬ macOk u code f.mac ∨ ¬ vlanOk u code f then portCount code 8 1 u
      else frameSorted code f (frameTrunc code f s1) u) := by
  subst hs
  exact congrArg Host.Outcome.next ((if_neg (by simp [hup, hon])).trans (if_neg (Bool.eq_false_iff.1 hroom)))

theorem frameReceive_uncorrectable (hfec : f.fecUncorr ≠ 0) :
    exec (.frameReceive t code f) s = .next (frameKept code f s1) := by
  rw [frameReceive_checked hs hup hon hroom, if_pos hfec]

variable (hfec : f.fecUncorr = 0)
include hfec

theorem frameReceive_badFragment (hfrag : f.fragBad = true) :
    exec (.frameReceive t code f) s = .next (portCount code 16 1 (frameKept code f s1)) := by
  rw [frameReceive_checked hs hup hon hroom, if_neg (not_not.2 hfec), if_pos hfrag]

variable (hfrag : f.fragBad = false)
include hfrag

theorem frameReceive_runt (hlen : f.len < 64) :
    exec (.frameReceive t code f) s = .next (portCount code 5 1 (frameKept code f s1)) := by
  rw [frameReceive_checked hs hup hon hroom, if_neg (not_not.2 hfec), if_neg (Bool.eq_false_iff.1 hfrag), if_pos hlen]

variable (hlen : 64 ≤ f.len)
include hlen

theorem frameReceive_foreign
    (hforeign : macOk (frameSized code f s1) code f.mac = false ∨ vlanOk (frameSized code f s1) code f = false) :
    exec (.frameReceive t code f) s = .next (portCount code 8 1 (frameSized code f s1)) := by
  rw [frameReceive_checked hs hup hon hroom, if_neg (not_not.2 hfec), if_neg (Bool.eq_false_iff.1 hfrag),
    if_neg (Nat.not_lt.2 hlen), if_pos (hforeign.imp Bool.eq_false_iff.1 Bool.eq_false_iff.1)]

theorem frameReceive_taken (hmac : macOk (frameSized code f s1) code f.mac = true)
    (hvlan : vlanOk (frameSized code f s1) code f = true) :
    exec (.frameReceive t code f) s = .next (frameSorted code f (frameTrunc code f s1) (frameSized code f s1)) := by
  rw [frameReceive_checked hs hup hon hroom, if_neg (not_not.2 hfec), if_neg (Bool.eq_false_iff.1 hfrag),
    if_neg (Nat.not_lt.2 hlen), if_neg (not_or.2 ⟨not_not.2 hmac, not_not.2 hvlan⟩)]

end Receive

/-! ### Pauses and the egress -/

section Egress
variable {t code : Nat} {s s1 : State} (hs : tick t s = s1)
include hs

/-- A sub-port that is down receives and sends nothing. -/
theorem frameReceive_down {f : RxFrame} (hdown : (portOf s1 code).up = false) : exec (.frameReceive t code f) s = .next s1 := by
  subst hs
  exact congrArg Host.Outcome.next (if_pos (.inl (Bool.eq_false_iff.1 hdown)))

theorem frameTransmit_down (hdown : (portOf s1 code).up = false) : exec (.frameTransmit t code) s = .next s1 := by
  subst hs
  refine congrArg Host.Outcome.next ?_
  cases grantAt (tick t s) code with
  | none => rfl
  | some g => exact if_pos (.inl (Bool.eq_false_iff.1 hdown))

omit hs in
/-- A pause of a priority whose quanta have run out. -/
theorem pauseOver_iff {prio : Nat} :
    (portOf s code).paused.any (fun x => x.1 = prio && decide (x.2 ≤ s.now)) = true ↔
      ∃ x ∈ (portOf s code).paused, x.1 = prio ∧ x.2 ≤ s.now := by
  simp only [List.any_eq_true, Bool.and_eq_true, decide_eq_true_eq]

theorem pfcPauseExpire_over {prio : Nat} (hover : ∃ x ∈ (portOf s1 code).paused, x.1 = prio ∧ x.2 ≤ s1.now) :
    exec (.pfcPauseExpire t code prio) s = .next (endPause code prio s1) := by
  subst hs
  exact congrArg Host.Outcome.next (if_pos (pauseOver_iff.2 hover))

theorem pfcPauseExpire_runs {prio : Nat} (hruns : ∀ x ∈ (portOf s1 code).paused, x.1 = prio → s1.now < x.2) :
    exec (.pfcPauseExpire t code prio) s = .next s1 := by
  subst hs
  refine congrArg Host.Outcome.next (if_neg fun hover => ?_)
  obtain ⟨x, hx, hprio, hdue⟩ := pauseOver_iff.1 hover
  exact Nat.not_le.2 (hruns x hx hprio) hdue

end Egress

/-- The granted frame has left its queue, and its job is charged. -/
def frameTaken (code : Nat) (f : TxFrame) (s : State) : State :=
  modPort code (fun x => { x with queue := dropFrame f x.queue }) (chargeFrame f s)

/-- The granted frame starts on the wire at a cc, and is counted. -/
def frameStarted (code c : Nat) (f : TxFrame) (s : State) : State :=
  let p := portOf s code
  let cut := decide (c < p.freeAt)
  let w := wireCc s code f.len
  let started := portCount code 1 1 (modPort code (startWire w f c)
    (leaveLater code c w f cut (ptpLeft c f (stampTx f c (portWait code c f (frameTaken code f s))))))
  let counted := if f.group = 0 then portCount code 19 1 started else started
  emit (.frame code c f) (if cut ∧ ¬ p.cutOff then portCount code 15 1 counted else counted)

/-- The jobs for which the frame was the last that they had to send are looked at again. -/
def checkSenders (f : TxFrame) (s u : State) : State :=
  ((s.jobs.filter (fun e => frameWrites s e.1 f)).map (·.1)).foldl (fun u k => checkDone k u) u

section Grant
variable {t code c : Nat} {f : TxFrame} {s s1 : State} (hs : tick t s = s1) (hgrant : grantAt s1 code = some (c, f))
  (hup : (portOf s1 code).up = true) (hon : portsOn s1 = true)
include hs hgrant hup hon

/-- The frame that the egress grants is sent, or is dropped where it is longer than LNK_MAXFRAME (R305, R314). -/
theorem frameTransmit_granted :
    exec (.frameTransmit t code) s = .next (checkSenders f s1 (
      if decide (cfg s1 (portWin code + 4) 0 14 < f.len) then portCount code 10 1 (frameTaken code f s1)
      else frameStarted code c f s1)) := by
  subst hs
  refine congrArg Host.Outcome.next ?_
  rw [hgrant]
  exact if_neg (by simp [hup, hon])

theorem frameTransmit_sends (hfits : f.len ≤ cfg s1 (portWin code + 4) 0 14) :
    exec (.frameTransmit t code) s = .next (checkSenders f s1 (frameStarted code c f s1)) := by
  rw [frameTransmit_granted hs hgrant hup hon, if_neg (by simpa using hfits)]

theorem frameTransmit_drops (hlong : cfg s1 (portWin code + 4) 0 14 < f.len) :
    exec (.frameTransmit t code) s = .next (checkSenders f s1 (portCount code 10 1 (frameTaken code f s1))) := by
  rw [frameTransmit_granted hs hgrant hup hon, if_pos (decide_eq_true hlong)]

end Grant

/-- Settles O22: a received frame ends at the first check of R306 that it does not pass, and goes on by its EtherType behind them;
a pause ends in time, and the egress sends or drops what it grants. -/
theorem framesInAndOut : Obligations.FramesInAndOut := by
  intro t code s s1 p win
  refine ⟨?receive, fun prio => ⟨pfcPauseExpire_over rfl, pfcPauseExpire_runs rfl⟩, ?transmit,
    fun hdown => ⟨frameTransmit_down rfl hdown, fun f => frameReceive_down rfl hdown⟩⟩
  case transmit =>
    intro c f hgrant hup hon cut w slots a b d e g
    exact ⟨frameTransmit_sends rfl hgrant hup hon, frameTransmit_drops rfl hgrant hup hon⟩
  case receive =>
    intro f hup hon got seen kept trunc s2 bad up ip own other
    refine ⟨frameReceive_full rfl hup hon, fun hroom => ⟨frameReceive_uncorrectable rfl hup hon hroom,
      frameReceive_badFragment rfl hup hon hroom, frameReceive_runt rfl hup hon hroom,
      frameReceive_foreign rfl hup hon hroom, fun hfec hfrag hlen hmac hvlan => ?taken⟩⟩
    have hgot := frameReceive_taken (s1 := s1) rfl hup hon hroom hfec hfrag hlen hmac hvlan
    have hgoesUp : upOrBad code f trunc s2 = up := upOrBad_eq code f trunc s2
    have hgotIp (htype : ip) : got = .next (ipFrame code f trunc s2) :=
      hgot.trans (congrArg _ ((if_neg (by omega)).trans ((if_neg (by omega)).trans (if_pos htype))))
    exact ⟨fun htype => hgot.trans (congrArg _ (if_pos htype)),
      fun htype => hgot.trans (congrArg _ ((if_neg (by omega)).trans (if_pos htype))),
      fun htype hdst hown => (hgotIp htype).trans (congrArg _ (ipFrame_ownProtocol hdst hown)),
      fun htype hdst hother => (hgotIp htype).trans (congrArg _ ((ipFrame_otherProtocol hdst hother).trans hgoesUp)),
      fun d htype hdst hd => (hgotIp htype).trans (congrArg _ (ipFrame_transit hdst hd)),
      fun htype hdst hd => (hgotIp htype).trans (congrArg _ ((ipFrame_elsewhere hdst hd).trans hgoesUp)),
      fun hother hfinder hptp hcontrol => hgot.trans (congrArg _ ((if_neg (not_or.2 ⟨hfinder, hptp⟩)).trans
        ((if_neg hcontrol).trans ((if_neg hother).trans hgoesUp))))⟩

end Sys2Proof.Machine
end

section
/-! Host rings of the fabric window and the management MAC (spec/12 R309, R331 to R333): O25. -/

namespace Sys2Proof.Machine

/-! ### Host rings -/

section Rings
variable {t tail : Nat} {s s1 : State} (hs : tick t s = s1) (hb : barServed s1 = true)
include hs hb

/-- The owner's doorbell moves the tail, and the slots up to it are sent (R309). -/
theorem txRingDoorbell_sends (frames : List HostTx) (hon : cfg (liveWrite 0x718230 tail s1) 0x718200 1 1 ≠ 0) :
    exec (.txRingDoorbell t tail frames) s = .next (
      let u := liveWrite 0x718230 tail s1
      let n := ringSlots u 0x718228
      sendHosts n (u.txHead % n) (frames.take ((tail % n + n - u.txHead % n) % n)) { u with txHead := tail % n }) := by
  subst hs
  exact congrArg Host.Outcome.next ((if_neg (not_not.2 hb)).trans (if_neg hon))

theorem puTailWrite_served : exec (.puTailWrite t tail) s = .next (liveWrite 0x718218 tail s1) := by
  subst hs
  exact congrArg Host.Outcome.next (if_pos hb)

end Rings

/-! ### An attempt of the management MAC -/

/-- The medium is shared by carrier sense: mode 0, or mode 1 outside PLCA (R331). -/
def carrierSense (s : State) : Prop := cfg s 0x71A000 0 2 = 0 ∨ (cfg s 0x71A000 0 2 = 1 ∧ inPlca s = false)

theorem carrierSense.decided {s : State} (h : carrierSense s) :
    decide (cfg s 0x71A000 0 2 = 0 ∨ (cfg s 0x71A000 0 2 = 1 ∧ ¬ inPlca s)) = true :=
  decide_eq_true (h.imp_right (And.imp_right Bool.eq_false_iff.1))

/-- A collision backs the frame in hand off for slots that are free (R331, log 44). -/
def backedOff (s : State) : State :=
  let v := bump 0x71A048 32 1 s
  { v with
    free := s.free + 1
    mgt := { s.mgt with
      tries := s.mgt.tries + 1, backoff := true
      backUntil := s.now + Config.choice s.free % 2 ^ min (s.mgt.tries + 1) 10 * 168960 } }

section Attempt
variable {s u : State} {q : Nat} {m : Msg}

/-- Outside PLCA a free medium without a collision takes the frame in hand. -/
theorem mgtAttempt_sends (hplca : inPlca s = false) (htake : mgtTake s = (some (q, m), u)) :
    mgtAttempt false false s = mgtSend q m u := by
  refine (if_neg (Bool.eq_false_iff.1 hplca)).trans ((if_neg (by simp)).trans ?_)
  rw [htake]
  exact if_neg (by simp)

theorem mgtAttempt_defers (collision : Bool) (hplca : inPlca s = false) (hsense : carrierSense s) :
    mgtAttempt true collision s = s :=
  (if_neg (Bool.eq_false_iff.1 hplca)).trans (if_pos ⟨hsense.decided, rfl⟩)

theorem mgtAttempt_collides (hplca : inPlca s = false) (hsense : carrierSense s) (htake : mgtTake s = (some (q, m), u))
    (htries : u.mgt.tries < 15) : mgtAttempt false true s = backedOff u := by
  refine (if_neg (Bool.eq_false_iff.1 hplca)).trans ((if_neg (by simp)).trans ?_)
  rw [htake]
  exact (if_pos ⟨hsense.decided, rfl⟩).trans (if_neg (Nat.not_le.2 htries))

/-- A node of PLCA whose turn has come sends in its transmit opportunity, whatever the medium shows (R331). -/
theorem mgtAttempt_opportunity (busy collision : Bool) (hplca : inPlca s = true)
    (hturn : ∀ c, s.mgt.opAt = some c → c + cfg s 0x71A000 10 8 * cfg s 0x71A000 18 8 * 330 ≤ s.now) :
    mgtAttempt busy collision s =
      let v := { s with mgt := { s.mgt with opAt := some s.now } }
      mgtBurst (1 + cfg v 0x71A000 26 4) (if cfg v 0x71A000 2 8 = 0 then emit .plca v else v) := by
  refine (if_pos hplca).trans (if_neg ?_)
  simpa [Option.any_eq_true] using hturn

end Attempt

section Transmit
variable {t : Nat} {s s1 : State} (hs : tick t s = s1) (hpower : 2 ≤ s1.pwr.phase)
include hs hpower

theorem mgtTransmit_attempts (busy collision : Bool) (hready : s1.mgt.backoff = false) :
    exec (.mgtTransmit t busy collision) s = .next (mgtAttempt busy collision s1) := by
  subst hs
  exact congrArg Host.Outcome.next (if_neg (not_or.2 ⟨Nat.not_lt.2 hpower, Bool.eq_false_iff.1 hready⟩))

/-- A back-off that is over is left, and the frame is attempted again. -/
theorem mgtBackoffExpiry_attempts (busy collision : Bool) (hwaits : s1.mgt.backoff = true) (hover : s1.mgt.backUntil ≤ s1.now) :
    exec (.mgtBackoffExpiry t busy collision) s =
      .next (mgtAttempt busy collision { s1 with mgt := { s1.mgt with backoff := false } }) := by
  subst hs
  exact congrArg Host.Outcome.next
    (if_neg (not_or.2 ⟨Nat.not_lt.2 hpower, not_or.2 ⟨not_not.2 hwaits, Nat.not_lt.2 hover⟩⟩))

end Transmit

/-- Settles O25: the rings move with what the host writes, and an attempt of the MAC goes by the medium it has. -/
theorem hostRingsAndMac : Obligations.HostRingsAndMac := by
  intro t s s1
  refine ⟨fun tail frames hb => txRingDoorbell_sends rfl hb frames, fun tail => puTailWrite_served rfl, ?mac⟩
  intro left half
  refine ⟨fun q m u hpower hready hplca htake =>
      ⟨?sends, fun hsense => ⟨fun collision => ?defers, fun htries => ?collides⟩⟩,
    fun busy collision hpower hready hplca hturn => ?opportunity,
    fun q m u hpower hwaits hover hplca htake => ?again⟩
  case sends => exact (mgtTransmit_attempts rfl hpower false false hready).trans (congrArg _ (mgtAttempt_sends hplca htake))
  case defers =>
    exact (mgtTransmit_attempts rfl hpower true collision hready).trans (congrArg _ (mgtAttempt_defers collision hplca hsense))
  case collides =>
    exact (mgtTransmit_attempts rfl hpower false true hready).trans (congrArg _ (mgtAttempt_collides hplca hsense htake htries))
  case opportunity =>
    exact (mgtTransmit_attempts rfl hpower busy collision hready).trans
      (congrArg _ (mgtAttempt_opportunity busy collision hplca hturn))
  case again =>
    exact (mgtBackoffExpiry_attempts rfl hpower false false hwaits hover).trans (congrArg _ (mgtAttempt_sends hplca htake))

end Sys2Proof.Machine
end

section
/-! The block (spec/95; spec/01; spec/02): O1, O2, and what reset leaves: O58, O59. -/

namespace Sys2Proof.Machine

/-! ### Steps -/

/-- Every command answers a next state. -/
theorem exec_next (c : Instr) (s : State) : ∃ u, exec c s = .next u := by
  cases c <;> exact ⟨_, rfl⟩

/-- Settles O1: a step is the front command's meaning, and every meaning answers a next state. -/
theorem stepRunsFront : Obligations.StepRunsFront := ⟨fun _ _ _ => rfl, exec_next⟩

/-! ### What elapses is counted (R107, R142, R211, R272, R279, R293, R311) -/

/-- One state is another with other counters. -/
def CountsOnly (s u : State) : Prop := u = { s with ctr := u.ctr }

namespace CountsOnly

theorem refl (s : State) : CountsOnly s s := rfl

theorem trans {s u v : State} (h : CountsOnly s u) (h' : CountsOnly u v) : CountsOnly s v := by
  unfold CountsOnly at *
  rw [h', h]

theorem bump (k w n : Nat) (s : State) : CountsOnly s (bump k w n s) := rfl

/-- A fold of operations that only count only counts. -/
theorem foldl {α : Type} {f : State → α → State} (hf : ∀ s a, CountsOnly s (f s a)) (l : List α) (s : State) :
    CountsOnly s (l.foldl f s) := by
  induction l generalizing s with
  | nil => exact refl s
  | cons a l ih => exact (hf s a).trans (ih _)

/-- A count that is made only where something is to be counted. -/
theorem skip {s u : State} (c : Prop) [Decidable c] (h : CountsOnly s u) : CountsOnly s (if c then s else u) := by
  split
  · exact refl s
  · exact h

theorem guard {s u : State} (c : Prop) [Decidable c] (h : CountsOnly s u) : CountsOnly s (if c then u else s) := by
  split
  · exact h
  · exact refl s

end CountsOnly

theorem countWaits_countsOnly (t core : Nat) (s : State) : CountsOnly s (countWaits t core s) :=
  .skip _ (.foldl (fun _ _ => .bump ..) _ s)

theorem countPauses_countsOnly (t : Nat) (s : State) : CountsOnly s (countPauses t s) :=
  .foldl (fun _ _ => .skip _ (.bump ..)) _ s

theorem countStalls_countsOnly (n : Nat) (s : State) : CountsOnly s (countStalls n s) :=
  (CountsOnly.guard _ (.bump ..)).trans <| (CountsOnly.foldl (fun _ _ => .bump ..) _ _).trans <|
    (CountsOnly.foldl (fun _ _ => .skip _ (.bump ..)) _ _).trans <|
    (CountsOnly.foldl (fun _ _ => .bump ..) _ _).trans (.foldl (fun _ _ => .bump ..) _ _)

theorem countCor_countsOnly (t : Nat) (s : State) : CountsOnly s (countCor t s) :=
  .foldl (fun _ _ => .skip _ <| (CountsOnly.skip _ (.bump ..)).trans <|
    (CountsOnly.skip _ (.bump ..)).trans (.foldl (fun _ _ => .bump ..) _ _)) _ s

/-! ### Time passes -/

/-- Coming to a cc: the clock, the counters, the records of stacks and cores, and the count of fetches that wait. -/
def Passes (t : Nat) (s u : State) : Prop :=
  u = { s with now := max s.now t, ctr := u.ctr, stks := u.stks, cores := u.cores,
               pho := { s.pho with fetchWait := u.pho.fetchWait } }

/-- Streams that hold are counted, and their later rows move back (R107). -/
theorem countHolds_frame (t : Nat) (s : State) :
    countHolds t s = { s with ctr := (countHolds t s).ctr, stks := (countHolds t s).stks, cores := (countHolds t s).cores } := by
  unfold countHolds
  dsimp only
  split
  · rfl
  · generalize hu : List.foldl _ (List.foldl _ s _) _ = u
    have h : CountsOnly s u := hu ▸ (CountsOnly.foldl (fun _ _ => .bump ..) _ s).trans (.foldl (fun _ _ => .bump ..) _ _)
    rw [h]

theorem countFetch_frame (n : Nat) (s : State) :
    countFetch n s = { s with pho := { s.pho with fetchWait := (countFetch n s).pho.fetchWait } } := by
  unfold countFetch
  split <;> rfl

theorem advance_passes (t : Nat) (s : State) : Passes t s (advance t s) := by
  unfold advance Passes
  split
  · next h => simp only [Nat.max_eq_left h]
  · next h =>
    have hholds := countHolds_frame t (readRows t s)
    generalize countHolds t (readRows t s) = a at hholds ⊢
    have hwaits : CountsOnly a ((a.cores.map (·.1)).foldl (fun s c => countWaits t c s) a) :=
      .foldl (fun s c => countWaits_countsOnly t c s) _ a
    dsimp only
    generalize (a.cores.map (·.1)).foldl (fun s c => countWaits t c s) a = b at hwaits ⊢
    have hstalls := (countPauses_countsOnly t b).trans (countStalls_countsOnly (t - s.now) _)
    generalize countStalls (t - s.now) (countPauses t b) = c at hstalls ⊢
    have hfetch := countFetch_frame (t - s.now) c
    generalize countFetch (t - s.now) c = d at hfetch ⊢
    have hcor := countCor_countsOnly t d
    generalize countCor t d = e at hcor ⊢
    rw [hcor, hfetch, hstalls, hwaits, hholds]
    simp only [readRows, Nat.max_eq_right (Nat.le_of_not_le h)]

/-- Nothing waits for the clock. -/
theorem releaseHeld_nothing {s : State} (hheld : s.held = []) (hworks : ∀ e ∈ s.works, e.2.held = none) :
    releaseHeld s = s := by
  have hnone : s.works.filter (fun e => e.2.held.isSome) = [] := by
    simpa [List.filter_eq_nil_iff] using fun a b hm => hworks (a, b) hm
  simp [releaseHeld, hheld, hnone]

theorem mem_of_look {α : Type} {m : Tab α} {k : Nat} {v : α} (h : look m k = some v) : (k, v) ∈ m := by
  induction m with
  | nil => cases h
  | cons e m ih =>
    obtain ⟨x, u⟩ := e
    rw [look] at h
    split at h
    · next hk =>
      cases h
      exact hk ▸ List.mem_cons_self
    · exact List.mem_cons_of_mem _ (ih h)

/-- Commands in execution that have begun are not answered by their header (R380). -/
theorem refuseHeaders_begun {s : State} (hcmds : ∀ e ∈ s.cmds, e.2.begun = true) : refuseHeaders s = s := by
  unfold refuseHeaders
  refine List.foldl_fixed' (fun e => ?_) _
  split
  · next x hx => exact if_pos (.inl (hcmds _ (mem_of_look hx)))
  · rfl

theorem tick_quiet {t : Nat} {s : State} (h : Quiet t s) : tick t s = advance t s := by
  obtain ⟨hdue, hheld, hworks, hcmds⟩ := h
  have hp := advance_passes t s
  have hsettle : settle t s = s := by rw [settle, hdue, List.foldl_nil]
  rw [tick, hsettle, releaseHeld_nothing, refuseHeaders_begun]
  all_goals rw [hp]; assumption

/-- Settles O2: where nothing falls due a tick only lets time pass, and no time passes to a cc that is over. -/
theorem idleAndClock : Obligations.IdleAndClock := by
  refine ⟨fun s h => ?idle, fun t s h => ?passes, fun t s ht h => ?past⟩
  case idle => rw [step, h]
  case passes => exact (tick_quiet h).symm ▸ advance_passes t s
  case past => rw [tick_quiet h, advance, if_pos ht]

/-! ### Reset -/

/-- Settles O58: every store of reset is empty, and a register of reset reads the word of its table. -/
theorem resetState : Obligations.ResetState := by
  unfold Obligations.ResetState
  intro s
  have hrun : ∀ {α : Type} (b n : Nat) (d : α), tread [] b n d = List.replicate n d := fun b n d => by
    simp [tread, tget]
  refine ⟨rfl, rfl, rfl, rfl, rfl, rfl, rfl, rfl, rfl, rfl, rfl, rfl, rfl, rfl, fun core off n => hrun _ _ _, fun k n => hrun _ _ _,
    fun k r => ?sregs, fun k v => hrun _ _ _, fun k => rfl, fun code => rfl, ?cfgs⟩
  case sregs => unfold sreg; split <;> rfl
  case cfgs => decide

/-- Settles O59: every store of reset is empty. -/
theorem resetCanonical : Obligations.ResetCanonical :=
  ⟨⟨twf_nil 0, twf_nil 0, twf_nil 0, twf_nil 0, twf_nil 0, twf_nil 0⟩, rfl⟩

end Sys2Proof.Machine
end

section
/-! Connections of Barfeos, and what a sender takes from its answers and timers (spec/13 R335 to R339, R342, R346, R347, R353 to
R358): O27, O31 and O32. -/

namespace Sys2Proof.Machine

/-! ### A packet reaches its context (steps 1 to 3 of R347) -/

theorem ctxNamed_eq_some {s : State} {dcid i : Nat} {c : Ctx} (h : ctxNamed s dcid = some (i, c)) :
    i = dcid % 2 ^ 24 ∧ look s.ctxs i = some c := by
  unfold ctxNamed at h
  split at h
  · next x hx =>
    split at h
    · cases h
      exact ⟨rfl, hx⟩
    · cases h
  · cases h

/-- A packet of version 1 for a named context in a state that its kind may meet, on the module and from its peer, is taken. -/
theorem rxContext_named {also : Nat → Bool} {p : HeldPkt} {s : State} {i : Nat} {c : Ctx} (k : Ctx → State → State)
    (hversion : p.hdr.version = 1) (hnamed : ctxNamed (bftCount 1 s) p.hdr.dcid = some (i, c))
    (hstate : c.state = 2 ∨ also c.state = true) (hhere : c.host = false) (hsrc : p.hdr.src = c.peer) :
    rxContext also p k s = k c (heard i p.hdr (bftCount 1 s)) := by
  have hopen : ¬ (c.state ≠ 2 ∧ ¬ also c.state = true) := by tauto
  simp only [rxContext, hversion, hnamed]
  rw [if_neg (by simp), if_neg hopen, if_neg (by simp [hhere]), if_neg (by simp [hsrc])]

/-- A packet of version 1 for no context of its name is answered BAD_CONTEXT (R339). -/
theorem rxContext_unnamed {also : Nat → Bool} {p : HeldPkt} {s : State} (k : Ctx → State → State)
    (hversion : p.hdr.version = 1) (hnone : ctxNamed (bftCount 1 s) p.hdr.dcid = none) :
    rxContext also p k s = badContext p.hdr (bftCount 1 s) := by
  simp [rxContext, hversion, hnone]

/-- A context as its peer's packet leaves it: the lowest PSN awaited there, the time and the congestion mark (R341, R355). -/
def heardCtx (h : Bth) (now : Nat) (c : Ctx) : Ctx :=
  { c with rxSbase := h.sbase, lastUse := now, ceRx := c.ceRx + if h.ce then 1 else 0 }

theorem heard_eq (i : Nat) (h : Bth) (u : State) :
    heard i h u = if h.ce then bftCount 19 (modCtx i (heardCtx h u.now) u) else modCtx i (heardCtx h u.now) u := rfl

theorem look_heard {i : Nat} {c : Ctx} {u : State} (h : Bth) (hc : look u.ctxs i = some c) :
    look (heard i h u).ctxs i = some (heardCtx h u.now c) := by
  have hmod : look (modCtx i (heardCtx h u.now) u).ctxs i = some (heardCtx h u.now c) := by
    simp [modCtx, look_tmod, hc]
  rw [heard_eq]
  split
  · exact hmod
  · exact hmod

theorem heard_now (i : Nat) (h : Bth) (u : State) : (heard i h u).now = u.now := by
  unfold heard
  split <;> rfl

/-! ### CONNECT (R335, R336, R339) -/

/-- What a CONNECT of version 1 without flags meets: an earlier answer, a tenant or a job that is not there, an own CONNECT that it
crosses, or nothing. -/
def connectMet (p : Connect) (u : State) : State :=
  let b := p.body
  match answered u p with
  | some i => sendAccept i u
  | none =>
    if (look u.tenants b.dTenant).isNone then sendRefuse p 1 u
    else if b.job ∧ ¬ u.jobs.any (fun e => e.2.id = b.jobId && e.2.tenant = b.dTenant && e.2.aborted.isNone) then sendRefuse p 3 u
    else match findCtx u b.dTenant p.hdr.src b.sTenant (if b.job then some b.jobId else none) with
      | some i =>
        let c := (look u.ctxs i).getD freshCtx
        if c.state = 2 then answerNew p (ctxError i 0 u) else pump i (sendAccept i (openWith i c b u))
      | none => answerNew p u

theorem exec_connect {t : Nat} {s : State} {p : Connect} (hr : ready (tick t s) = true) (hversion : p.hdr.version = 1)
    (hflags : p.hdr.flags = 0) : exec (.connect t p) s = .next (connectMet p (bftCount 1 (tick t s))) :=
  congrArg Host.Outcome.next ((if_neg (not_not.2 hr)).trans (if_neg (by simp [hversion, hflags])))

section Connect
variable {p : Connect} {u : State}

theorem connectMet_again {i : Nat} (h : answered u p = some i) : connectMet p u = sendAccept i u := by
  simp only [connectMet, h]

variable (hnew : answered u p = none)
include hnew

theorem connectMet_noTenant (h : look u.tenants p.body.dTenant = none) : connectMet p u = sendRefuse p 1 u := by
  simp [connectMet, hnew, h]

variable (htenant : (look u.tenants p.body.dTenant).isSome = true)
include htenant

/-- The job that a CONNECT names runs here, or it names none. -/
theorem connectMet_noJob (h : ¬ (p.body.job = false ∨
      ∃ e ∈ u.jobs, e.2.id = p.body.jobId ∧ e.2.tenant = p.body.dTenant ∧ e.2.aborted = none)) :
    connectMet p u = sendRefuse p 3 u := by
  have hjob : p.body.job = true ∧ ¬ u.jobs.any (fun e => e.2.id = p.body.jobId && e.2.tenant = p.body.dTenant && e.2.aborted.isNone) = true := by
    simpa [and_assoc] using h
  simp only [connectMet, hnew]
  exact (if_neg (by simp [Option.ne_none_iff_isSome.2 htenant])).trans (if_pos hjob)

variable (hruns : p.body.job = false ∨ ∃ e ∈ u.jobs, e.2.id = p.body.jobId ∧ e.2.tenant = p.body.dTenant ∧ e.2.aborted = none)
include hruns

/-- A CONNECT that nothing refuses goes by the context that joins its tenants already. -/
theorem connectMet_served : connectMet p u =
    match findCtx u p.body.dTenant p.hdr.src p.body.sTenant (if p.body.job then some p.body.jobId else none) with
    | some i =>
      let c := (look u.ctxs i).getD freshCtx
      if c.state = 2 then answerNew p (ctxError i 0 u) else pump i (sendAccept i (openWith i c p.body u))
    | none => answerNew p u := by
  have hjob : ¬ (p.body.job = true ∧ ¬ u.jobs.any (fun e => e.2.id = p.body.jobId && e.2.tenant = p.body.dTenant && e.2.aborted.isNone) = true) := by
    simpa [and_assoc, imp_iff_not_or] using hruns
  simp only [connectMet, hnew]
  exact (if_neg (by simp [Option.ne_none_iff_isSome.2 htenant])).trans (if_neg hjob)

theorem connectMet_allocates {i : Nat} {v : State} (hold : findCtx u p.body.dTenant p.hdr.src p.body.sTenant
      (if p.body.job then some p.body.jobId else none) = none)
    (hfree : allocCtx (answerCtx p (offersBig u p.hdr.src)) u = (some i, v)) : connectMet p u = sendAccept i v := by
  rw [connectMet_served hnew htenant hruns, hold]
  simp only [answerNew, hfree]

theorem connectMet_noContext {v : State} (hold : findCtx u p.body.dTenant p.hdr.src p.body.sTenant
      (if p.body.job then some p.body.jobId else none) = none)
    (hfull : allocCtx (answerCtx p (offersBig u p.hdr.src)) u = (none, v)) : connectMet p u = sendRefuse p 2 v := by
  rw [connectMet_served hnew htenant hruns, hold]
  simp only [answerNew, hfull]

/-- A CONNECT meets a context that joins its tenants: one that is open fails, for its peer has restarted, and one that is
connecting is crossed and opens (R336, R339). -/
theorem connectMet_joined {i : Nat} {c : Ctx} (hold : findCtx u p.body.dTenant p.hdr.src p.body.sTenant
      (if p.body.job then some p.body.jobId else none) = some i) (hc : look u.ctxs i = some c) :
    connectMet p u =
      if c.state = 2 then answerNew p (ctxError i 0 u) else pump i (sendAccept i (openWith i c p.body u)) := by
  rw [connectMet_served hnew htenant hruns, hold]
  simp only [hc, Option.getD_some]

end Connect

/-! ### What comes on a context without data -/

theorem exec_ack (t : Nat) (h : Bth) (b : AckBody) (s : State) :
    exec (.ack t h b) s = rxControl t h 0x10 b.ce 0 (fun i s => takeAck i h b s) s := rfl
theorem exec_nak (t : Nat) (h : Bth) (code retry : Nat) (s : State) :
    exec (.nak t h code retry) s = rxControl t h 0x11 code retry (fun i s => takeNak i h code retry s) s := rfl
theorem exec_close (t : Nat) (h : Bth) (s : State) : exec (.close t h) s = rxControl t h 0x23 0 0 takeClose s := rfl
theorem exec_accept (t : Nat) (h : Bth) (b : ConnBody) (s : State) :
    exec (.accept t h b) s = rxAnswer t h (fun i c s => pump i (openWith i ((look s.ctxs i).getD c) b s)) s := rfl
theorem exec_refuse (t : Nat) (h : Bth) (cause : Nat) (s : State) :
    exec (.refuse t h cause) s = rxAnswer t h (fun i _ s => ctxError i 0 s) s := rfl

section Control
variable {t : Nat} {s : State} {h : Bth} (hr : ready (tick t s) = true) (hversion : h.version = 1)
include hr hversion

/-- ACK, NAK and CLOSE reach an OPEN or a CLOSING context (R337, R347). -/
theorem rxControl_named {i : Nat} {c : Ctx} (hnamed : ctxNamed (bftCount 1 (tick t s)) h.dcid = some (i, c)) (hflags : h.flags = 0)
    (hstate : c.state = 2 ∨ c.state = 4) (hhere : c.host = false) (hsrc : h.src = c.peer) (opcode op1 op2 : Nat)
    (k : Nat → State → State) :
    rxControl t h opcode op1 op2 k s = .next (k i (heard i h (bftCount 1 (tick t s)))) := by
  obtain ⟨rfl, -⟩ := ctxNamed_eq_some hnamed
  refine congrArg Host.Outcome.next ((if_neg (not_not.2 hr)).trans ?_)
  refine (rxContext_named _ hversion hnamed (hstate.imp_right decide_eq_true) hhere hsrc).trans ?_
  exact if_pos (decide_eq_true hflags)

/-- An answer to a CONNECT reaches the context that connects (R336, R347). -/
theorem rxAnswer_connecting {i : Nat} {c : Ctx} (hnamed : ctxNamed (bftCount 1 (tick t s)) h.dcid = some (i, c)) (hflags : h.flags = 0)
    (hstate : c.state = 1) (hhere : c.host = false) (hsrc : h.src = c.peer) (k : Nat → Ctx → State → State) :
    rxAnswer t h k s = .next (k i c (heard i h (bftCount 1 (tick t s)))) := by
  obtain ⟨rfl, -⟩ := ctxNamed_eq_some hnamed
  refine congrArg Host.Outcome.next ((if_neg (not_not.2 hr)).trans ?_)
  refine (rxContext_named _ hversion hnamed (.inr (decide_eq_true hstate)) hhere hsrc).trans ?_
  exact (if_neg (not_not.2 (decide_eq_true hflags))).trans (if_pos hstate)

variable (hnone : ctxNamed (bftCount 1 (tick t s)) h.dcid = none)
include hnone

theorem rxControl_unnamed (opcode op1 op2 : Nat) (k : Nat → State → State) :
    rxControl t h opcode op1 op2 k s = .next (badContext h (bftCount 1 (tick t s))) :=
  congrArg Host.Outcome.next ((if_neg (not_not.2 hr)).trans (rxContext_unnamed _ hversion hnone))

theorem rxAnswer_unnamed (k : Nat → Ctx → State → State) :
    rxAnswer t h k s = .next (badContext h (bftCount 1 (tick t s))) :=
  congrArg Host.Outcome.next ((if_neg (not_not.2 hr)).trans (rxContext_unnamed _ hversion hnone))

end Control

/-- CLOSE frees a context with nothing outstanding, and any other one is CLOSING (R337). -/
theorem takeClose_of_look {i : Nat} {c : Ctx} {s : State} (hc : look s.ctxs i = some c) :
    takeClose i s = { s with ctxs := if c.unacked = [] then tdel s.ctxs i else tput s.ctxs i { c with state := 4 } } := by
  simp only [takeClose, hc, List.isEmpty_iff]

/-- Settles O27: CONNECT goes by what it meets, and every other packet by the context that its name reaches. -/
theorem connections : Obligations.Connections := by
  intro t s u hr
  have hu : bftCount 1 (tick t s) = u := rfl
  clear_value u
  refine ⟨fun p hversion hflags => ?connect, fun h i c hversion hflags hnamed hhere hsrc => ?named, fun h hversion hnone => ?unnamed⟩
  case connect =>
    intro b job runs old
    rw [exec_connect hr hversion hflags, hu]
    refine ⟨fun i h => by rw [connectMet_again h], fun hnew => ⟨fun h => by rw [connectMet_noTenant hnew h], fun htenant =>
      ⟨fun h => by rw [connectMet_noJob hnew htenant h], fun hruns => ⟨fun i v hold hfree => ?allocates, fun v hold hfull => ?full,
        fun i c hold hc => ⟨fun h2 => ?restarts, fun h2 => ?crosses⟩⟩⟩⟩⟩
    case allocates => rw [connectMet_allocates hnew htenant hruns hold hfree]
    case full => rw [connectMet_noContext hnew htenant hruns hold hfull]
    case restarts => rw [connectMet_joined hnew htenant hruns hold hc, if_pos h2]
    case crosses => rw [connectMet_joined hnew htenant hruns hold hc, if_neg h2]; rfl
  case named =>
    intro v
    rw [← hu] at hnamed
    have hv : heard i h (bftCount 1 (tick t s)) = v := by rw [hu]
    clear_value v
    refine ⟨fun b c1 h1 hc1 => ?accept, fun cause h1 => ?refuse, fun c1 hstate hc1 => ?close⟩
    case accept =>
      rw [exec_accept, rxAnswer_connecting hr hversion hnamed hflags h1 hhere hsrc, hv, hc1]
      rfl
    case refuse => rw [exec_refuse, rxAnswer_connecting hr hversion hnamed hflags h1 hhere hsrc, hv]
    case close =>
      have hleft : c1.unacked = c.unacked := by
        have hheard := look_heard h (ctxNamed_eq_some hnamed).2
        rw [hv, hc1] at hheard
        rw [Option.some.inj hheard]
        rfl
      rw [exec_close, rxControl_named hr hversion hnamed hflags hstate hhere hsrc, hv, takeClose_of_look hc1, hleft]
      exact ⟨fun hnil => by rw [if_pos hnil], fun hsome => by rw [if_neg hsome]⟩
  case unnamed =>
    rw [← hu] at hnone ⊢
    simp only [exec_close, exec_ack, exec_nak, exec_accept, exec_refuse, rxControl_unnamed hr hversion hnone,
      rxAnswer_unnamed hr hversion hnone, implies_true, and_self]

/-! ### Answers to what was sent (R346, R353, R355 to R358) -/

theorem usCc_eq (n : Nat) : usCc n = 3300 * n := Nat.mul_comm ..
theorem msCc_eq (n : Nat) : msCc n = 3300000 * n := Nat.mul_comm ..

/-- The round trip of the last packet of some that was sent once is sampled (R356). -/
def sampledBy (ps : List TxPkt) (s : State) (c : Ctx) : Ctx :=
  match (ps.filter (fun p => !p.retx)).getLast? with
  | some p => rttSample s ((s.now - p.sentAt) * 10 / 33) c
  | none => c

theorem rttSample_unacked (s : State) (r : Nat) (c : Ctx) : (rttSample s r c).unacked = c.unacked := rfl

/-- An ACK without errors or marks that covers all that is outstanding clears it and takes a sample (R355, R356). -/
theorem takeAck_covers {i : Nat} {h : Bth} {b : AckBody} {s : State} {c : Ctx} (hc : look s.ctxs i = some c) (herrors : b.errors = [])
    (hce : b.ce = 0)
    (hall : ∀ p ∈ c.unacked, p.sent = true ∧ 2 ^ 23 ≤ psnSub p.psn h.psn ∧ p.opcode ≠ 2 ∧ p.opcode ≠ 4) :
    takeAck i h b s = settleMsgs i { s with ctxs := tput s.ctxs i { sampledBy c.unacked s c with unacked := [], lastUse := s.now } } := by
  have hacked (q : TxPkt → Bool) (hq : ∀ p ∈ c.unacked, q p = true) : c.unacked.filter q = c.unacked := List.filter_eq_self.2 hq
  have hleft (q : TxPkt → Bool) (hq : ∀ p ∈ c.unacked, q p = true) : c.unacked.filter (fun p => !q p) = [] := by
    simpa [List.filter_eq_nil_iff] using hq
  have hcovered (p : TxPkt) (hp : p ∈ c.unacked) : (p.sent && (decide (([] : List (Nat × Nat)).length < 8) ||
      ([] : List (Nat × Nat)).any fun e => decide (psnSub p.psn c.sbase ≤ psnSub e.1 c.sbase)) &&
      (decide (2 ^ 23 ≤ psnSub p.psn h.psn) || b.sack.any fun k => decide (psnAdd h.psn (1 + k) = p.psn)) &&
      ((none : Option (Nat × Nat)).isSome || decide (p.opcode ≠ 2) && decide (p.opcode ≠ 4))) = true := by
    obtain ⟨hsent, hpsn, h2, h4⟩ := hall p hp
    rw [decide_eq_true hpsn]
    simp [hsent, h2, h4]
  have hfold (l : List TxPkt) : l.foldl (fun (c : Ctx) _ => c) c = c := List.foldl_fixed' (fun _ => rfl) l
  simp only [takeAck, hc, herrors, hce, Nat.lt_irrefl, false_and, if_false, List.find?_nil, hfold]
  rw [hacked]
  · unfold sampledBy
    cases (c.unacked.filter (fun p => !p.retx)).getLast? with
    | some p =>
      dsimp only
      rw [rttSample_unacked, hleft _ hcovered]
      rfl
    | none =>
      dsimp only
      rw [hleft _ hcovered]
      rfl
  · exact hcovered

theorem takeNak_badContext {i : Nat} {c : Ctx} {s : State} (hc : look s.ctxs i = some c) (h : Bth) (retry : Nat) :
    takeNak i h 6 retry s = ctxError i 6 s := by
  simp only [takeNak, hc, if_true]

/-- NOT_READY delays the resend of all that its PSN led, from the first such answer on (R353). -/
theorem takeNak_notReady {i : Nat} {h : Bth} {c : Ctx} {s : State} {p : TxPkt} (hc : look s.ctxs i = some c)
    (hp : c.unacked.find? (fun q => q.sent && q.lead = h.psn) = some p) (hfirst : p.rnr = none) (retry : Nat) :
    takeNak i h 1 retry s = modCtx i (fun x => { x with unacked := x.unacked.map (fun q =>
      if q.sent && q.lead = h.psn then { q with rnr := some (s.now, s.now + 3300 * retry) } else q) }) (bftCount 15 s) := by
  have hnow : ¬ (s.now + msCc (cfg (bftCount 15 s) 0x800014 0 14) < s.now) := Nat.not_lt.2 (Nat.le_add_right ..)
  rw [← usCc_eq]
  simp only [takeNak, hc, hp, hfirst]
  exact (if_neg (by simp)).trans ((if_pos trivial).trans (if_neg hnow))

/-- A response 400 cc after its last bit that agrees with its request is that PSN's outcome (R357, R365). -/
theorem response_agrees {t : Nat} {s : State} {h : Bth} {i op : Nat} {c c' : Ctx} {p : TxPkt} {keep : TxPkt → Ctx → Option Ctx}
    (hr : ready (tick t s) = true) (hversion : h.version = 1) (hnamed : ctxNamed (bftCount 1 (tick t s)) h.dcid = some (i, c))
    (hflags : h.flags = 0) (hstate : c.state = 2 ∨ c.state = 4) (hhere : c.host = false) (hsrc : h.src = c.peer)
    (hdue : (tick t s).now = h.bit + 400) (hp : c.unacked.find? (fun p => p.psn = h.psn && p.opcode = op) = some p)
    (hkeep : keep p (heardCtx h (tick t s).now c) = some c') :
    response t h op keep s = .next (
      let v := heard i h (bftCount 1 (tick t s))
      settleMsgs i { v with ctxs := tput v.ctxs i { c' with unacked := c'.unacked.filter (fun q => q.psn ≠ h.psn) } }) := by
  obtain ⟨rfl, hc⟩ := ctxNamed_eq_some hnamed
  have hc := look_heard h hc
  have hflags : flagsOk 6 h.flags = true := by rw [hflags]; rfl
  refine congrArg Host.Outcome.next ((if_neg (by simp [hr, hdue])).trans ?_)
  refine (rxContext_named _ hversion hnamed (hstate.imp_right decide_eq_true) hhere hsrc).trans ?_
  have hp : (heardCtx h (bftCount 1 (tick t s)).now c).unacked.find? (fun p => p.psn = h.psn && p.opcode = op) = some p := hp
  have hkeep : keep p (heardCtx h (bftCount 1 (tick t s)).now c) = some c' := hkeep
  have hdcid : (mkPkt (tick t s) h (op + 1) 0 0 0 [] 0 0).hdr = h := rfl
  simp only [hdcid, hc, hp, hflags, if_true, hkeep]

theorem exec_readResp (t : Nat) (h : Bth) (off : Nat) (data : List Byte) (s : State) :
    exec (.readResp t h off data) s = response t h 2 (fun p c =>
      let at_ := p.field 3 * payload c
      if (off ≠ at_ ∧ off ≠ psnSub p.psn p.lead * payload c) ∨ data.length ≠ min (payload c) (p.field 2 - at_) then none
      else if p.msg = 5 then some c
      else some { c with resps := c.resps ++ [(p.msg, p.field 1 + at_, data, h.bit + ingressCc (bftLen 8 data.length))] }) s := rfl
theorem exec_atomicResp (t : Nat) (h : Bth) (old : W64) (s : State) :
    exec (.atomicResp t h old) s = response t h 4 (fun p c =>
      some { c with resps := c.resps ++ [(p.msg, 0, leBytes 8 old.toNat, h.bit + ingressCc 0)] }) s := rfl

/-- Settles O31: an answer goes to its context, and there does what its kind does. -/
theorem senderAnswers : Obligations.SenderAnswers := by
  intro t h s i c u v c1 left hr hversion hflags hnamed hstate hhere hsrc
  have hc : look v.ctxs i = some c1 := look_heard h (ctxNamed_eq_some hnamed).2
  have hnow : v.now = u.now := heard_now i h u
  have hcontrol (opcode op1 op2 : Nat) (k : Nat → State → State) : rxControl t h opcode op1 op2 k s = .next (k i v) :=
    rxControl_named hr hversion hnamed hflags hstate hhere hsrc opcode op1 op2 k
  refine ⟨fun b herrors hce hall => ?ack, fun retry => ?bad, fun retry p hp hfirst => ?delayed, fun hdue =>
    ⟨fun off data p hp => ?read, fun old p hp => ?atomic⟩⟩
  case ack =>
    intro c'
    have hsample : sampledBy c1.unacked v c1 = c' := by
      rw [sampledBy, hnow] <;> rfl
    rw [exec_ack, hcontrol, takeAck_covers hc herrors hce hall, hsample, hnow]
  case bad => rw [exec_nak, hcontrol, takeNak_badContext hc]
  case delayed =>
    rw [exec_nak, hcontrol, takeNak_notReady hc hp hfirst, hnow]
    rfl
  case read =>
    intro at_ hoff hlen
    have hkept : ¬ ((off ≠ at_ ∧ off ≠ psnSub p.psn p.lead * payload c) ∨ data.length ≠ min (payload c) (p.field 2 - at_)) := by
      tauto
    rw [exec_readResp]
    by_cases hmsg : p.msg = 5
    · rw [if_pos hmsg]
      exact response_agrees hr hversion hnamed hflags hstate hhere hsrc hdue hp ((if_neg hkept).trans (if_pos hmsg))
    · rw [if_neg hmsg]
      exact response_agrees (c' := { c1 with
          resps := c.resps ++ [(p.msg, p.field 1 + at_, data, h.bit + ingressCc (bftLen 8 data.length))] })
        hr hversion hnamed hflags hstate hhere hsrc hdue hp ((if_neg hkept).trans (if_neg hmsg))
  case atomic =>
    rw [exec_atomicResp]
    exact response_agrees (c' := { c1 with resps := c.resps ++ [(p.msg, 0, leBytes 8 old.toNat, h.bit + ingressCc 0)] })
      hr hversion hnamed hflags hstate hhere hsrc hdue hp rfl

/-! ### The timers of a context (R335, R353, R355, R356, R358) -/

section Timers
variable {t ctx psn : Nat} {s s1 : State} {c : Ctx} (hs : tick t s = s1) (hr : ready s1 = true) (hc : look s1.ctxs ctx = some c)
include hs hr hc

/-- A CONNECT without an answer after RTO is sent again, or after RETRIES expiries fails (R336). -/
theorem bftRtoExpiry_connecting (hstate : c.state = 1) (hd : c.lastUse + 3300 * c.rtoUs ≤ s1.now) :
    exec (.bftRtoExpiry t ctx psn) s = .next (
      if cfg s1 0x80000C 16 4 ≤ c.tries then ctxError ctx 0 (bftCount 3 s1)
      else
        let c' := { c with rtoUs := min (2 * c.rtoUs) (1000 * cfg s1 0x800010 0 14), tries := c.tries + 1, lastUse := s1.now }
        originateBft c.peer (handshake 0x20 ctx c' s1) (bftCount 3 { s1 with ctxs := tput s1.ctxs ctx c' })) := by
  subst hs
  rw [← usCc_eq] at hd
  refine congrArg Host.Outcome.next ((if_neg (not_not.2 hr)).trans ?_)
  rw [hc]
  exact (if_pos hstate).trans (if_neg (Nat.not_lt.2 hd))

/-- A packet without an outcome after RTO is sent again, or after RETRIES expiries fails its context (R356, R358). -/
theorem bftRtoExpiry_open {p : TxPkt} (hstate : c.state = 2 ∨ c.state = 4) (hp : c.unacked.find? (·.psn = psn) = some p)
    (hsent : p.sent = true) (hrnr : ∀ f a, p.rnr = some (f, a) → a = 2 ^ 64) (hd : p.sentAt + 3300 * c.rtoUs ≤ s1.now) :
    exec (.bftRtoExpiry t ctx psn) s = .next (
      if cfg s1 0x80000C 16 4 ≤ p.expiries + 1 then ctxError ctx 0 (bftCount 3 s1)
      else
        let run := (runOf c p).map (·.psn)
        sendPkt ctx psn { bftCount 3 s1 with ctxs := tput s1.ctxs ctx { c with
          unacked := c.unacked.map (fun q => if q.psn ∈ run then { q with expiries := q.expiries + 1 } else q)
          rtoUs := min (2 * c.rtoUs) (1000 * cfg s1 0x800010 0 14), cwnd := 16 } }) := by
  subst hs
  rw [← usCc_eq] at hd
  have hwaits : (match p.rnr with | some (_, a) => decide (a ≠ 2 ^ 64) | none => false) = false := by
    split
    · next f a h => simpa using hrnr f a h
    · rfl
  have hdue : ¬ (¬ p.sent = true ∨ (match p.rnr with | some (_, a) => decide (a ≠ 2 ^ 64) | none => false) = true ∨
      (tick t s).now < p.sentAt + usCc c.rtoUs) := by
    rw [hwaits]
    simpa [hsent] using hd
  refine congrArg Host.Outcome.next ((if_neg (not_not.2 hr)).trans ?_)
  rw [hc]
  refine (if_neg (by omega)).trans ((if_pos hstate).trans ?_)
  rw [hp]
  exact if_neg hdue

/-- A NOT_READY packet is sent again when its time has come, or has been refused for too long (R353). -/
theorem bftRetryAfterExpiry_due {p : TxPkt} {f a : Nat} (hp : c.unacked.find? (·.psn = psn) = some p) (hrnr : p.rnr = some (f, a))
    (hd : a ≤ s1.now) (ha : a ≠ 2 ^ 64) :
    exec (.bftRetryAfterExpiry t ctx psn) s = .next (
      if f + msCc (cfg s1 0x800014 0 14) < s1.now then ctxError ctx 1 s1 else sendPkt ctx p.lead s1) := by
  subst hs
  refine congrArg Host.Outcome.next ?_
  rw [hc, Option.bind_some, hp]
  dsimp only
  rw [hrnr]
  exact if_neg (not_or.2 ⟨Nat.not_lt.2 hd, not_or.2 ⟨ha, not_not.2 hr⟩⟩)

theorem bftAckTimer_due (hn : 0 < c.unreported) (hd : c.ackAt + usCc 2 ≤ s1.now) :
    exec (.bftAckTimer t ctx) s = .next (sendAck ctx s1) := by
  subst hs
  refine congrArg Host.Outcome.next ((if_neg (not_not.2 hr)).trans ?_)
  rw [hc]
  exact if_pos ⟨hn, hd⟩

theorem bftIdleClose_due (hstate : c.state = 2) (hjob : c.job = false) (hnil : c.unacked = [])
    (hd : c.lastUse + msCc (1000 * c.idle) ≤ s1.now) : exec (.bftIdleClose t ctx) s = .next (closeCtx ctx s1) := by
  subst hs
  refine congrArg Host.Outcome.next ((if_neg (not_not.2 hr)).trans ?_)
  rw [hc]
  exact if_pos ⟨hstate, Bool.eq_false_iff.1 hjob, List.isEmpty_iff.2 hnil, hd⟩

theorem bftCwndIncrease_due (hstate : c.state = 2) (hd : c.cwndAt + c.srtt * 33 / 10 ≤ s1.now) :
    exec (.bftCwndIncrease t ctx) s = .next (pump ctx (modCtx ctx (fun x => { x with
      cwnd := min (x.cwnd + 1) (cfg s1 0x800018 0 11), cwndAt := s1.now }) s1)) := by
  subst hs
  refine congrArg Host.Outcome.next ((if_neg (not_not.2 hr)).trans ?_)
  rw [hc]
  exact if_pos ⟨hstate, hd⟩

end Timers

/-- Settles O32: each timer acts on its context when it is due. -/
theorem contextTimers : Obligations.ContextTimers := by
  intro t ctx psn s c s1 u retries slow hr hc
  have hs : tick t s = s1 := rfl
  have hu : bftCount 3 s1 = u := rfl
  clear_value s1 u
  refine ⟨fun hstate hd => ⟨fun hmany => ?fails, fun hfew => ?again⟩,
    fun p hstate hp hsent hrnr hd => ⟨fun hmany => ?packetFails, fun hfew => ?packetAgain⟩,
    fun p f a hp hrnr hd ha => ⟨fun hlong => ?resent, fun hover => ?refused⟩, fun hn hd => bftAckTimer_due hs hr hc hn hd,
    fun hstate hjob hnil hd => bftIdleClose_due hs hr hc hstate hjob hnil (by rwa [msCc_eq]),
    fun hstate hd => bftCwndIncrease_due hs hr hc hstate hd⟩
  case fails => rw [bftRtoExpiry_connecting hs hr hc hstate hd, if_pos hmany, hu]
  case again =>
    rw [bftRtoExpiry_connecting hs hr hc hstate hd, if_neg (Nat.not_le.2 hfew), ← hu]
    rfl
  case packetFails => rw [bftRtoExpiry_open hs hr hc hstate hp hsent hrnr hd, if_pos hmany, hu]
  case packetAgain =>
    rw [bftRtoExpiry_open hs hr hc hstate hp hsent hrnr hd, if_neg (Nat.not_le.2 hfew), ← hu]
    rfl
  case resent => rw [bftRetryAfterExpiry_due hs hr hc hp hrnr hd ha, if_neg (by rw [msCc_eq]; exact Nat.not_lt.2 hlong)]
  case refused => rw [bftRetryAfterExpiry_due hs hr hc hp hrnr hd ha, if_pos (by rwa [msCc_eq])]

end Sys2Proof.Machine
end

section
/-! What becomes of a data packet (spec/13 R342 to R354, R359 to R365): O28, O29 and O30. -/

namespace Sys2Proof.Machine

/-! ### The tests of a data packet (R347, R354) -/

theorem heard_ctxJob (i : Nat) (h : Bth) (u : State) (c : Ctx) : ctxJob (heard i h u) c = ctxJob u c := by
  rw [heard_eq]
  split <;> rfl

theorem heard_inHand (i : Nat) (h : Bth) (u : State) (dcid psn : Nat) : inHand (heard i h u) dcid psn = inHand u dcid psn := by
  rw [heard_eq]
  split <;> rfl

/-- On a job connection the packet is for the job's own segment, the one that runs or the one before, and the job runs on. -/
def ownSegment (u : State) (c : Ctx) (seg slot : Nat) (j : Job) : Prop :=
  c.job = true → ctxJob u c = some (slot, j) ∧ j.aborted = none ∧ (seg = j.segs - 1 ∨ seg + 1 = j.segs - 1)

section Receive
variable {p : HeldPkt} {u : State} {c : Ctx} {slot : Nat} {j : Job} (hc : look u.ctxs p.ctx = some c)
  (hwindow : psnSub p.hdr.psn c.cum < 1024) (hnew : look c.outcomes p.hdr.psn = none) (hhand : inHand u p.hdr.dcid p.hdr.psn = false)
  (hbegun : p.opcode = 4 → ∀ x ∈ c.atomics, x.1 ≠ p.hdr.psn)
include hwindow hnew hhand hbegun

/-- A packet of the window without an outcome that is not in hand is new (R347, R354). -/
theorem window_new (ecc : Ecc) (k : State → State) : window p c ecc k u = k u := by
  have hatomic : ¬ (p.opcode = 4 ∧ c.atomics.any (·.1 = p.hdr.psn) = true) := by
    rintro ⟨hop, hany⟩
    obtain ⟨x, hx, hpsn⟩ := List.any_eq_true.1 hany
    exact hbegun hop x hx (of_decide_eq_true hpsn)
  refine (if_neg ?known).trans (if_neg (Nat.not_le.2 hwindow))
  rw [hnew, hhand]
  simp only [Option.isSome_none, Bool.false_eq_true, or_false, false_or]
  exact not_or.2 ⟨fun h => hatomic h.2, by omega⟩

include hc

/-- A packet that passes steps 4 to 6 goes on to the region tests, its job charged with it (R347, R354). -/
theorem receive_passes (ecc : Ecc) (hjob : ownSegment u c p.hdr.seg slot j) (hfields : fieldsOk c p = true)
    (htrig : p.opcode = 1 → bitOf p.hdr.flags 1 = true → bitOf p.hdr.flags 0 = true) :
    receive p ecc u = letIn p ecc (if c.job then chargeJob slot (30 * bftLen 16 p.data.length) u else u) := by
  have hflags : ¬ (p.opcode = 1 ∧ bitOf p.hdr.flags 1 = true ∧ ¬ bitOf p.hdr.flags 0 = true) := by tauto
  simp only [receive, hc, window_new hwindow hnew hhand hbegun]
  by_cases hj : c.job = true
  · obtain ⟨hnamed, hstays, hseg⟩ := hjob hj
    have hown : (!(p.hdr.seg = j.segs - 1 || p.hdr.seg + 1 = j.segs - 1)) = false := by
      simpa [or_iff_not_imp_left] using hseg
    simp only [hj, hnamed, hstays, hown, hfields, hflags, Option.filter_some, Option.isNone_none, Option.isNone_some, if_true, if_false,
      not_true_eq_false, and_false, Bool.false_eq_true]
  · simp only [hj, hfields, hflags, Option.filter_none, if_false, not_true_eq_false, false_and, Bool.false_eq_true]

end Receive

/-- A data packet, 400 cc after its last bit, that names an open context of its peer on the module goes through steps 4 to 6 there
(R347, R365). -/
theorem rxData_open {t : Nat} {h : Bth} {s : State} {c : Ctx} {mk : State → HeldPkt} (ecc : Ecc) (hmk : (mk (tick t s)).hdr = h)
    (hr : ready (tick t s) = true) (hdue : (tick t s).now = h.bit + 400) (hversion : h.version = 1)
    (hc : look (bftCount 1 (tick t s)).ctxs (h.dcid % 2 ^ 24) = some c) (hgen : c.gen = h.dcid / 2 ^ 24 % 256) (hopen : c.state = 2)
    (hhere : c.host = false) (hsrc : h.src = c.peer) :
    rxData t mk ecc s = .next (receive (mk (tick t s)) ecc (heard (h.dcid % 2 ^ 24) h (bftCount 1 (tick t s)))) := by
  subst hmk
  exact congrArg Host.Outcome.next ((if_neg (by simp [hr, hdue])).trans
    (rxContext_open _ hversion hc hgen hopen hhere hsrc))

/-- Settles O28: a good packet passes each test in turn. -/
theorem packetsTested : Obligations.PacketsTested := by
  intro t h s c slot j u i seen v good on hr hdue hversion hc hgen hopen hhere hsrc hwindow hnew hhand hjob
  have hseen : look v.ctxs i = some (heardCtx h u.now c) := look_heard h hc
  have hhand : inHand v h.dcid h.psn = false := (heard_inHand i h u _ _).trans hhand
  have hjob : ownSegment v (heardCtx h u.now c) h.seg slot j := fun hj => by
    obtain ⟨hnamed, hrest⟩ := hjob hj
    exact ⟨(heard_ctxJob i h u _).trans hnamed, hrest⟩
  have hmet (mk : State → HeldPkt) (ecc : Ecc) {p : HeldPkt} (hmk : mk (tick t s) = p) (hctx : p.ctx = i) (hhdr : p.hdr = h)
      (hbegun : p.opcode = 4 → ∀ x ∈ c.atomics, x.1 ≠ h.psn) (hgood : good p) :
      rxData t mk ecc s = .next (letIn p ecc (on p.data.length)) := by
    rw [rxData_open ecc (hmk ▸ hhdr) hr hdue hversion hc hgen hopen hhere hsrc, hmk]
    rw [← hctx] at hseen
    obtain ⟨hfields, htrig⟩ := hgood
    rw [← hhdr] at hnew hwindow hhand hjob hbegun htrig
    exact congrArg Host.Outcome.next (receive_passes hseen hwindow hnew hhand hbegun ecc hjob hfields htrig)
  refine ⟨fun key off len data hgood => ?write, fun key off len ecc hgood => ?read,
    fun key off aop op1 op2 ecc hgood hbegun => ?atomic, fun key obj sop value wrh hgood => ?sync⟩
  case write =>
    exact hmet (fun s => mkPkt s h 1 key off len data 0 0) .ok rfl rfl rfl (fun h4 => absurd h4 (by simp [mkPkt])) hgood
  case read =>
    exact hmet (fun s => mkPkt s h 2 key off len [] 0 0) ecc rfl rfl rfl (fun h4 => absurd h4 (by simp [mkPkt])) hgood
  case atomic =>
    exact hmet (fun s => mkPkt s h 4 key off aop [] op1.toNat op2.toNat) ecc rfl rfl rfl (fun _ => hbegun) hgood
  case sync =>
    exact hmet (fun s => mkPkt s h 6 key obj sop [] value wrh) .ok rfl rfl rfl (fun h4 => absurd h4 (by simp [mkPkt])) hgood

/-! ### The region tests and the admission (R347, R350, R351, R361) -/

section LetIn
variable {p : HeldPkt} {s : State} {i : Nat} {c : Ctx} {r : Region} (hnamed : ctxNamed s p.hdr.dcid = some (i, c))
include hnamed

theorem letIn_refused {code : Nat} (ecc : Ecc) (h : regionTest s c p = some code) :
    letIn p ecc s = outcome p.ctx p.hdr.psn (psnsOf c p) code true s := by
  simp only [letIn, hnamed, h]

variable (htest : regionTest s c p = none)
include htest

theorem letIn_sync (ecc : Ecc) (hop : p.opcode = 6) : letIn p ecc s = { s with signals := s.signals ++
    [{ at_ := s.now + 20, slot := 4096, obj := p.off, src := 300, act := .remote p }] } := by
  simp only [letIn, hnamed, htest, hop, if_true]

variable (hr : regionOf s p.key = some r) (hop : p.opcode ≠ 6)
include hr hop

/-- Without paging on demand an ATOMIC on a lower page, or any access to a page that the host backs, is refused (R351, R361). -/
theorem letIn_lower (ecc : Ecc) (hdp : r.block.dp = false)
    (hlow : ∃ x ∈ lowPages s r.tenant (pktRange s r p), p.opcode = 4 ∨ x.2.2 = 0) :
    letIn p ecc s = outcome p.ctx p.hdr.psn (psnsOf c p) 4 true s := by
  simp only [letIn, hnamed, htest, hr]
  exact (if_neg hop).trans ((if_neg (by simp [hdp])).trans (if_pos (by simpa using hlow)))

/-- An access to pages in HBM is counted at its region, and is on its way to memory or is served (R350, R361). -/
theorem letIn_here (ecc : Ecc) (hlow : lowPages s r.tenant (pktRange s r p) = []) :
    letIn p ecc s =
      let u := regionUse p.key s
      let ps := placesOf u r.tenant [] (pktRange u r p).1 (pktRange u r p).2 (p.opcode ≠ 2)
      let q := { p with due := if p.opcode = 1 then landAt u p ps else 0 }
      if p.opcode = 1 ∨ ¬ canServe u r p ∨ needsOutside u r p then
        touchPages ps { u with landing := tput u.landing (p.hdr.dcid * 2 ^ 24 + p.hdr.psn) q }
      else serve p [] ecc u := by
  simp only [letIn, hnamed, htest, hr]
  exact (if_neg hop).trans ((if_neg (by simp [hlow])).trans (if_neg (by simp [hlow])))

end LetIn

/-- Settles O29: a packet is refused by a test, sent to its object, refused for a lower page, or admitted. -/
theorem packetsAdmitted : Obligations.PacketsAdmitted := by
  intro p ecc s i c r hnamed hr low refused
  refine ⟨fun code h => letIn_refused hnamed ecc h, fun h hop => letIn_sync hnamed h ecc hop,
    fun h hop hdp hlow => letIn_lower hnamed h hr hop ecc hdp hlow, fun h hop hlow => ?here⟩
  intro u ps
  have hletIn := letIn_here hnamed h hr hop ecc hlow
  refine ⟨fun hwaits => hletIn.trans (if_pos ?onItsWay), fun h1 hserve houtside => hletIn.trans (if_neg ?served)⟩
  case onItsWay => exact hwaits.imp_right (Or.imp_left Bool.eq_false_iff.1)
  case served => simp [h1, u, hserve, houtside]

/-! ### Admitted packets (R43, R46, R350, R359, R361, R363) -/

section WriteLand
variable {t dcid psn : Nat} {s s1 : State} {p : HeldPkt} {r : Region} (data : List Byte) (ecc : Ecc) (hs : tick t s = s1)
  (hready : ready s1 = true) (hp : look s1.landing (dcid * 2 ^ 24 + psn) = some p) (hr : regionOf s1 p.key = some r)
include hs hready hp hr

theorem bftWriteLand_early (hd : p.due ≠ 0 ∧ s1.now ≠ p.due) : exec (.bftWriteLand t ⟨dcid, psn⟩ data ecc) s = .next s1 := by
  subst hs
  refine congrArg Host.Outcome.next ?_
  rw [landKey, hp]
  dsimp only
  rw [hr]
  exact if_pos (.inr hd)

/-- What is due is refused for a bad place, dropped with its context, served, or waits on for its pages. -/
theorem bftWriteLand_due (hd : p.due = 0 ∨ s1.now = p.due) :
    exec (.bftWriteLand t ⟨dcid, psn⟩ data ecc) s = .next (
      let x := pktRange s1 r p
      let ps := placesOf s1 r.tenant [] x.1 x.2 (p.opcode ≠ 2)
      let gone := { s1 with landing := tdel s1.landing (dcid * 2 ^ 24 + psn) }
      if (badOf ps).isSome then
        regionEnd p.key (outcomeOf p.hdr.dcid p.hdr.psn ((ctxNamed s1 p.hdr.dcid).elim 1 (fun c => psnsOf c.2 p)) 4 true gone)
      else if (ctxNamed s1 p.hdr.dcid).isNone ∧ fenced p then regionEnd p.key gone
      else if canServe s1 r p then serve p data ecc gone
      else touchPages ps { s1 with landing := tput s1.landing (dcid * 2 ^ 24 + psn) { p with due := 0 } }) := by
  subst hs
  refine congrArg Host.Outcome.next ?_
  rw [landKey, hp]
  dsimp only
  rw [hr]
  exact if_neg (by rw [hready]; tauto)

end WriteLand

@[simp] theorem eccOf_ok (ps : List (Place × Nat)) (s : State) : eccOf .ok ps s = (true, s) := rfl

/-- A WRITE that meets no error has its bytes, its trigger and its outcome (R359, R363). -/
theorem serve_write {p : HeldPkt} {r : Region} {s : State} (data : List Byte) (hop : p.opcode = 1) (hr : regionOf s p.key = some r) :
    serve p data .ok s =
      let x := pktRange s r p
      let ps := placesOf s r.tenant [] x.1 x.2 true
      let u := writeVa (farWrite 4096 r.tenant 5) r.tenant [] (r.block.base + p.off) p.data
        (goNow (some r.tenant) (pktEnd x.2) ps s p.hdr.die)
      let v := if bitOf p.hdr.flags 0 ∧ bitOf p.hdr.flags 1 then
        (match r.block.trigObj with | some o => signalAdd o 1 300 u | none => u) else u
      outcomeOf p.hdr.dcid p.hdr.psn 1 0 (bitOf p.hdr.flags 2) (regionEnd p.key v) := by
  simp only [serve, hr, hop, ite_self, eccOf_ok]
  rfl

/-! ### Held packets and fetched contexts (R338, R351, R353) -/

theorem evictCtx_holds (s : State) : (evictCtx s).holds = s.holds := by
  unfold evictCtx
  split
  · rfl
  · dsimp only
    split <;> rfl

section Held
variable {t n : Nat} {s s1 : State} {p : HeldPkt} (hs : tick t s = s1) (hready : ready s1 = true) (hp : look s1.holds n = some p)
  (hfetch : p.fetch = false)
include hs hready hp hfetch

theorem bftHoldRelease_here (ecc : Ecc) (hhere : ∀ x ∈ p.pages, ∀ o, look s1.objs x.1 = some o → (look o.loc x.2).isSome = true) :
    exec (.bftHoldRelease t ⟨n, ecc⟩) s = .next (letIn { p with pages := [] } ecc { s1 with holds := tdel s1.holds n }) := by
  subst hs
  have hpages : p.pages.all (fun x => (look (tick t s).objs x.1).all (fun o => (look o.loc x.2).isSome)) = true := by
    simpa [Option.all_eq_true] using hhere
  refine congrArg Host.Outcome.next ((if_neg (not_not.2 hready)).trans ?_)
  rw [hp]
  exact if_neg (not_or.2 ⟨Bool.eq_false_iff.1 hfetch, not_not.2 hpages⟩)

theorem bftHoldExpiry_due (hd : p.at_ + usCc (cfg s1 0x800008 0 10) ≤ s1.now) :
    exec (.bftHoldExpiry t n) s = .next (
      let u := { s1 with holds := tdel s1.holds n }
      if (ctxNamed s1 p.hdr.dcid).isSome then sendNak p.ctx p.hdr.psn 1 (cfg s1 (0x800020 + 4 * (p.tier % 4)) 0 16) u else u) := by
  subst hs
  refine congrArg Host.Outcome.next ((if_neg (not_not.2 hready)).trans ?_)
  rw [hp]
  exact if_neg (not_or.2 ⟨Bool.eq_false_iff.1 hfetch, Nat.not_lt.2 hd⟩)

end Held

section Fetch
variable {t ctx : Nat} {s s1 : State} {c : Ctx} (hs : tick t s = s1) (hready : ready s1 = true) (hc : look s1.ctxs ctx = some c)
  (hhost : c.host = true)
include hs hready hc hhost

/-- A context that cannot be fetched is in ERROR (R338). -/
theorem bftContextFetch_fails : exec (.bftContextFetch t ctx false) s = .next (ctxError ctx 0
    (modCtx ctx (fun x => { x with host := false })
      { s1 with holds := s1.holds.filter (fun h => !(h.2.ctx = ctx && h.2.fetch)) })) := by
  subst hs
  refine congrArg Host.Outcome.next ?_
  rw [hc]
  exact (if_neg (by simp [hready, hhost])).trans (if_neg (by simp))

/-- A fetched context takes up what was held for it (R338). -/
theorem bftContextFetch_arrives (hroom : ctxCached (evictCtx s1) < 16384) :
    exec (.bftContextFetch t ctx true) s = .next (pump ctx ((s1.holds.filter (fun h => h.2.ctx = ctx && h.2.fetch)).foldl
      (fun v h => if h.2.hdr.src ≠ c.peer then bftCount 6 v
        else if (h.2.opcode = 0x10 ∨ h.2.opcode = 0x11 ∨ h.2.opcode = 0x23) ∧ h.2.hdr.flags ≠ 0 then bftCount 7 v
        else resume h.2 (heard ctx h.2.hdr v))
      (modCtx ctx (fun x => { x with host := false, lastUse := s1.now })
        { evictCtx s1 with holds := s1.holds.filter (fun h => !(h.2.ctx = ctx && h.2.fetch)) }))) := by
  subst hs
  have hplain (h : Bth) : plain h = decide (h.flags = 0) := rfl
  refine congrArg Host.Outcome.next ?_
  rw [hc]
  refine (if_neg (by simp [hready, hhost, hroom])).trans ((if_pos rfl).trans ?_)
  simp only [evictCtx_holds, hplain, decide_eq_true_eq]

end Fetch

/-- Settles O30: an admitted packet is served or waits on, and a held one is let in or discarded. -/
theorem heldAndLanding : Obligations.HeldAndLanding := by
  refine ⟨fun t dcid psn data ecc s p r => ?land, fun p data s r => ?write, fun t n ecc s p => ?release, fun t n s p => ?expiry,
    fun t ctx s c => ?fetch⟩
  case land =>
    intro s1 x ps u named n hready hp hr
    have hdue := bftWriteLand_due (t := t) data ecc rfl hready hp hr
    have hplaces (hgood : badOf ps = none) : ¬ (badOf ps).isSome = true := by
      rw [hgood]
      simp
    have hawaited (hctx : named ≠ none ∨ fenced p = false) : ¬ (named.isNone = true ∧ fenced p = true) := by
      rintro ⟨hnone, hfenced⟩
      exact hctx.elim (· (Option.isNone_iff_eq_none.1 hnone)) (Bool.eq_false_iff.1 · hfenced)
    refine ⟨fun hd hgood hctx hserve => ?served, fun hd hgood hctx hserve => ?waits, fun hd hgood hctx hfenced => ?dropped,
      fun hd hbad => ?refused, fun hd hnow => bftWriteLand_early data ecc rfl hready hp hr ⟨hd, hnow⟩⟩
    case served =>
      exact (hdue hd).trans (congrArg _ ((if_neg (hplaces hgood)).trans ((if_neg (hawaited hctx)).trans (if_pos hserve))))
    case waits =>
      exact (hdue hd).trans (congrArg _ ((if_neg (hplaces hgood)).trans ((if_neg (hawaited hctx)).trans
        (if_neg (Bool.eq_false_iff.1 hserve)))))
    case dropped =>
      exact (hdue hd).trans (congrArg _ ((if_neg (hplaces hgood)).trans
        (if_pos ⟨Option.isNone_iff_eq_none.2 hctx, hfenced⟩)))
    case refused =>
      have hn : (ctxNamed s1 p.hdr.dcid).elim 1 (fun c => psnsOf c.2 p) = n := by
        change _ = match ctxNamed s1 p.hdr.dcid with | some c => psnsOf c.2 p | none => 1
        cases ctxNamed s1 p.hdr.dcid <;> rfl
      rw [← hn]
      exact (hdue hd).trans (congrArg _ (if_pos (Option.isSome_iff_ne_none.2 hbad)))
  case write =>
    intro x ps u v hop hr
    exact serve_write data hop hr
  case release => 
    exact fun hready hp hfetch hhere => bftHoldRelease_here rfl hready hp hfetch ecc hhere
  case expiry =>
    intro s1 u hready hp hfetch hd
    exact bftHoldExpiry_due rfl hready hp hfetch (by rwa [usCc_eq])
  case fetch =>
    intro s1 kept mine room hready hc hhost
    exact ⟨bftContextFetch_arrives rfl hready hc hhost, bftContextFetch_fails rfl hready hc hhost⟩

end Sys2Proof.Machine
end

section
/-! The host link, its functions and its rings (spec/14 R369 to R382; spec/15 R399; spec/20 R478): O42 and O43. -/

namespace Sys2Proof.Machine

/-! ### Resets, link states and functions (R369, R372, R376, R478) -/

/-- Vectors that are sent leave the rings as they are. -/
theorem sendPending_rings (s : State) : (sendPending s).rings = s.rings := by
  have hfold (l : List (Nat × Nat)) (u : State) : (l.foldl (fun s v => sendMsix v.1 v.2 s) u).rings = u.rings := by
    induction l generalizing u with
    | nil => rfl
    | cons v l ih => exact ih _
  exact hfold _ _

/-- After bring-up a function takes a configuration request (R370). -/
theorem configured_ready {s : State} (h : ready s = true) (fn : Nat) (f : State → State) : configured fn f s = f s := if_pos h

/-- Before that it answers Request Retry Status (R370). -/
theorem configured_retries {fn : Nat} {s : State} (h : ready s = false) (hup : s.pcie.up = true) (hlost : replyLost s fn = false)
    (f : State → State) : configured fn f s = emit (.retry fn) s :=
  (if_neg (Bool.eq_false_iff.1 h)).trans (if_pos ⟨hup, Bool.eq_false_iff.1 hlost⟩)

section Link
variable {t : Nat} {s s1 : State} (hs : tick t s = s1)
include hs

theorem pcieLinkUp_trains {speed width : Nat} (link : LinkConf) (hlive : live s1 = true) (hstage : 6 ≤ s1.boot.stage)
    (hperst : s1.pcie.perst = false) (hdown : s1.pcie.up = false) (h1 : 1 ≤ speed) (h7 : speed ≤ 7) (hwidth : width ∈ [1, 2, 4, 8, 16]) :
    exec (.pcieLinkUp t speed width link) s = .next (
      let conf := { link.conf with payload := min 2 link.conf.payload, readReq := min 5 link.conf.readReq }
      (s1.rings.map (·.1)).foldl (fun u k => flushRing (k / 64) (k % 64) u)
        (sendPending { s1 with pcie := { s1.pcie with up := true, speed, width, flit := link.flit, conf } })) := by
  subst hs
  have htrains : ¬ (¬ live (tick t s) = true ∨ (tick t s).boot.stage < 6 ∨ (tick t s).pcie.perst = true ∨ (tick t s).pcie.up = true ∨
      speed = 0 ∨ 7 < speed ∨ ¬ width ∈ [1, 2, 4, 8, 16]) := by
    simp only [hlive, hperst, hdown, hwidth, not_true_eq_false, Bool.false_eq_true, false_or, or_false]
    omega
  refine congrArg Host.Outcome.next ((if_neg htrains).trans ?_)
  simp only [sendPending_rings]

theorem vfFlr_resets {vf : Nat} (hready : ready s1 = true) (h1 : 1 ≤ vf) (hn : vf ≤ s1.pcie.numVfs) :
    exec (.vfFlr t vf) s = .next (let u := resetVf vf s1
      { u with pcie := { u.pcie with d3 := u.pcie.d3.filter (· ≠ vf), pendingV := u.pcie.pendingV.filter (·.1 ≠ vf) } }) := by
  subst hs
  exact congrArg Host.Outcome.next ((configured_ready hready vf _).trans (if_pos ⟨h1, hn⟩))

theorem d3hotEntry_enters {fn : Nat} (hready : ready s1 = true) (hn : fn ≤ s1.pcie.numVfs) (hd0 : fn ∉ s1.pcie.d3) :
    exec (.d3hotEntry t fn) s = .next { s1 with pcie := { s1.pcie with d3 := s1.pcie.d3 ++ [fn] } } := by
  subst hs
  exact congrArg Host.Outcome.next ((configured_ready hready fn _).trans (if_pos ⟨hn, hd0⟩))

/-- What a function could not send in D3hot is sent when it leaves it (R369). -/
theorem d3hotExit_sends (fn : Nat) (hready : ready s1 = true) :
    exec (.d3hotExit t fn) s = .next (((s1.rings.filter (fun e => e.1 / 64 = fn)).map (·.1)).foldl
      (fun u k => flushRing (k / 64) (k % 64) u)
      (sendPending { s1 with pcie := { s1.pcie with d3 := s1.pcie.d3.filter (· ≠ fn) } })) := by
  subst hs
  refine congrArg Host.Outcome.next ((configured_ready hready fn _).trans ?_)
  simp only [sendPending_rings]

theorem atsInvalidation_unused {fn addr len : Nat} (hlink : linkOk s1 fn = true) (hn : fn ≤ s1.pcie.numVfs)
    (huse : hostInUse s1 fn addr len = false) :
    exec (.atsInvalidation t fn addr len) s = .next (emit (.atsDone fn addr len) (bump 0x90010C 32 1
      { s1 with pcie := { s1.pcie with atc := s1.pcie.atc.filter (fun x => ¬ (x.1 = fn ∧ rangesMeet addr len x.2.1 x.2.2)) } })) := by
  subst hs
  exact congrArg Host.Outcome.next (if_neg (by simp [hlink, huse, hn]))

theorem ideIntegrityFail_secure {stream : Nat} (hn : stream < 9) (hsecure : tget s1.pcie.ide stream 0 = 1) :
    exec (.ideIntegrityFail t stream) s = .next (raise { src := 0x161, unit := stream } (irqSet 0x900184 1 (bump 0x900110 32 1
      { s1 with pcie := { s1.pcie with ide := tput s1.pcie.ide stream 2 } }))) := by
  subst hs
  exact congrArg Host.Outcome.next (if_neg (not_or.2 ⟨Nat.not_le.2 hn, not_not.2 hsecure⟩))

theorem ideKeyLoad_session {stream : Nat} (hready : ready s1 = true) (hup : s1.pcie.up = true) (hspdm : s1.pcie.spdm.isSome = true)
    (hn : stream < 9) :
    exec (.ideKeyLoad t stream) s =
      .next (rekeyed stream { s1 with pcie := { s1.pcie with ide := tput s1.pcie.ide stream 1 } }) := by
  subst hs
  refine congrArg Host.Outcome.next (if_neg ?_)
  simp only [hready, hup, Option.isNone_iff_eq_none, Option.ne_none_iff_isSome.2 hspdm, not_true_eq_false, false_or]
  omega

theorem doeSpdmRequest_opens (session : Nat) (hready : ready s1 = true) (hup : s1.pcie.up = true) (hperst : s1.pcie.perst = false) :
    exec (.doeSpdmRequest t session) s =
      .next (emit (.spdm session) { s1 with pcie := { s1.pcie with spdm := some session } }) := by
  subst hs
  exact congrArg Host.Outcome.next (if_neg (by simp [hready, hup, hperst]))

end Link

/-- Settles O42: each row acts on the link and its functions where its condition holds. -/
theorem hostLink : Obligations.HostLink := by
  intro t s s1
  have hs : tick t s = s1 := rfl
  refine ⟨fun h => congrArg _ (if_neg h), fun h => congrArg _ (if_pos h), rfl,
    fun speed width link hlive hstage hperst hdown h1 h7 hwidth =>
      pcieLinkUp_trains hs link hlive hstage hperst hdown h1 h7 hwidth,
    rfl, fun vf hready h1 hn => vfFlr_resets hs hready h1 hn, fun hready => ⟨?pfReset, ?vfsGone⟩, fun n hready => ?vfsSet,
    fun fn hready hn hd0 => d3hotEntry_enters hs hready hn hd0, fun fn hready => d3hotExit_sends hs fn hready,
    fun fn hready hup hlost => ⟨?d3Entry, ?d3Exit, ?flr⟩,
    fun fn addr len hlink hn huse => atsInvalidation_unused hs hlink hn huse,
    fun stream hn hsecure => ideIntegrityFail_secure hs hn hsecure,
    fun stream hready hup hspdm hn => ideKeyLoad_session hs hready hup hspdm hn,
    fun session hready hup hperst => doeSpdmRequest_opens hs session hready hup hperst⟩
  case pfReset => exact congrArg _ (configured_ready hready 0 _)
  case vfsGone => exact congrArg _ (configured_ready hready 0 _)
  case vfsSet => exact congrArg _ (configured_ready hready 0 _)
  case d3Entry => exact congrArg _ (configured_retries hready hup hlost _)
  case d3Exit => exact congrArg _ (configured_retries hready hup hlost _)
  case flr => exact congrArg _ (configured_retries hready hup hlost _)

/-! ### Rings (R377 to R382, R399) -/

section Rings
variable {t fn ring : Nat} {s s1 : State} (hs : tick t s = s1)
include hs

section Registers
variable (hring : ring < ringCount fn) (hmem : memOk s1 fn = true)
include hring hmem

theorem sqDoorbell_enabled (tail : Nat) (hen : (ringOf s1 fn ring).enable = true) :
    exec (.sqDoorbell t fn ring tail) s = .next (
      let g := ringOf s1 fn ring
      let n := 2 ^ g.sqLog
      let more := (tail % n + n - g.sqTail % n) % n
      setRing fn ring { g with
        sqTail := tail % 65536, bells := if more = 0 then g.bells else g.bells ++ [(more, s1.now)] } s1) := by
  subst hs
  exact congrArg Host.Outcome.next
    (if_neg (not_or.2 ⟨not_not.2 hmem, not_or.2 ⟨Nat.not_le.2 hring, not_not.2 hen⟩⟩))

theorem cqHeadWrite_frees (head : Nat) : exec (.cqHeadWrite t fn ring head) s =
    .next (flushRing fn ring (setRing fn ring { ringOf s1 fn ring with cqHead := head % 65536 } s1)) := by
  subst hs
  exact congrArg Host.Outcome.next (if_neg (not_or.2 ⟨not_not.2 hmem, Nat.not_le.2 hring⟩))

theorem ringEnableWrite_sets (value : Nat) : exec (.ringEnableWrite t fn ring value) s = .next (
    let g := ringOf s1 fn ring
    let v := bits value 1 7
    setRing fn ring { g with
      enable := bitOf value 0, error := g.error && !(bitOf value 0 && !g.enable)
      vector := if fn = 0 then clampNat 1 63 v else min v 7
      coalCount := bits value 8 8, coalUs := min (bits value 16 16) 1000 } s1) := by
  subst hs
  exact congrArg Host.Outcome.next (if_neg (not_or.2 ⟨not_not.2 hmem, Nat.not_le.2 hring⟩))

end Registers

theorem irqCoalesceExpiry_due (hn : (ringOf s1 fn ring).unsignalled ≠ 0)
    (hd : (ringOf s1 fn ring).firstAt + usCc (ringOf s1 fn ring).coalUs ≤ s1.now) :
    exec (.irqCoalesceExpiry t fn ring) s = .next (let g := ringOf s1 fn ring
      sendMsix fn g.vector (setRing fn ring { g with unsignalled := 0 } s1)) := by
  subst hs
  exact congrArg Host.Outcome.next (if_neg (not_or.2 ⟨hn, Nat.not_lt.2 hd⟩))

/-- The module as it has visited a ring pair (R399). -/
def visited (fn ring v : Nat) (s : State) : State :=
  { s with pcie := { s.pcie with rot := tput s.pcie.rot (fetchClass s fn) (fn * 64 + ring), visit := (v + 1) % 64 } }

/-- The next pair of the class that the next visit serves is visited: its command enters execution, or the pair stops. -/
theorem commandFetch_visits {v : Nat} {h o : Option Header} (hslot : slotHeader (visited fn ring v s1) fn (ringOf s1 fn ring) h = o)
    (hring : ring < ringCount fn) (hvisit : nextVisit s1 = some v)
    (hclass : visitClass s1 v = fetchClass s1 fn) (hnext : nextPair s1 (fetchClass s1 fn) = some (fn * 64 + ring))
    (hopen : s1.boot.cpPending = false) (hroom : s1.pho.queue.length ≤ 61440) :
    exec (.commandFetch t fn ring h) s = .next (
      let g := ringOf s1 fn ring
      let u := visited fn ring v s1
      match o with
      | none => ringError fn ring u
      | some x => enterExec fn ring g x (bump 0x900100 32 1
          (setRing fn ring { g with sqHead := (g.sqHead + 1) % 2 ^ g.sqLog, bells := popBell g.bells } u))) := by
  subst hs
  have hgo : ¬ (ringCount fn ≤ ring ∨ nextPair (tick t s) (fetchClass (tick t s) fn) ≠ some (fn * 64 + ring) ∨
      visitClass (tick t s) v ≠ fetchClass (tick t s) fn ∨ (tick t s).boot.cpPending = true ∨ 61440 < (tick t s).pho.queue.length) := by
    simp only [hnext, hclass, hopen, ne_eq, not_true_eq_false, Bool.false_eq_true, false_or]
    omega
  refine congrArg Host.Outcome.next ?_
  rw [hvisit]
  refine (if_neg hgo).trans ?_
  unfold visited at hslot
  dsimp only
  rw [hslot]
  cases o <;> rfl

theorem commandStartedTimeout_due {cmd : Nat} {x : Exec} (hx : look s1.cmds cmd = some x) (hopen : x.started = false)
    (hd : x.bell + msCc 1500 ≤ s1.now) :
    exec (.commandStartedTimeout t cmd) s =
      .next (replyTo cmd 1 (startedEcho s1 cmd x) false { s1 with free := s1.free + 1 }) := by
  subst hs
  refine congrArg Host.Outcome.next ?_
  rw [hx]
  exact if_neg (not_or.2 ⟨Bool.eq_false_iff.1 hopen, Nat.not_lt.2 hd⟩)

end Rings

/-- Settles O43: each row acts on its ring pair where its condition holds. -/
theorem commandRings : Obligations.CommandRings := by
  intro t fn ring s s1 g hring
  have hs : tick t s = s1 := rfl
  refine ⟨fun tail hmem hen => sqDoorbell_enabled hs hring hmem tail hen, fun head hmem => cqHeadWrite_frees hs hring hmem head,
    fun value hmem => ringEnableWrite_sets hs hring hmem value, fun hn hd => irqCoalesceExpiry_due hs hn hd,
    fun h v hvisit hclass hnext hopen hroom =>
      ⟨fun hnone => commandFetch_visits hs hnone hring hvisit hclass hnext hopen hroom,
        fun x hx => commandFetch_visits hs hx hring hvisit hclass hnext hopen hroom⟩,
    fun cmd x hx hopen hd => commandStartedTimeout_due hs hx hopen hd⟩

end Sys2Proof.Machine
end

section
/-! Grants and heat, receipts and the night log, firmware over the management segment (spec/16 R418 to R430; spec/17 R435,
R442 to R445; spec/18 R450 to R460; spec/20 R481 to R485): O49, O50 and O52. -/

namespace Sys2Proof.Machine

/-! ### Grants and heat (R418 to R435) -/

section Power
variable {t : Nat} {s s1 : State} (hs : tick t s = s1)
include hs

theorem grantFrame_grants (hlive : live s1 = true) (hframe : (s1.now - s1.mer.at_) % 64 = 0) :
    exec (.grantFrame t) s = .next { s1 with cores := tmap s1.cores (fun _ c => { c with
      frame := (s1.now - s1.mer.at_) / 64, used := 0
      grant := min c.ceiling (if s1.pwr.sag then 16 else 64), granted := c.alloc }) } := by
  subst hs
  exact congrArg Host.Outcome.next (if_neg (not_or.2 ⟨not_not.2 hlive, not_not.2 hframe⟩))

/-- The units of a tenant are its watts times 5824 / 2125, of the pool its tenths of a watt times 5824 / 21250 (R425). -/
theorem powerControlPeriod_divides (fixedW : Nat) (hlive : live s1 = true) (hdue : spaced s1.pwr.ctlAt 3300 s1.now = true) :
    exec (.powerControlPeriod t fixedW) s = .next (
      let pool := commonPool s1 fixedW
      let v := { s1 with pwr := { s1.pwr with pool := poolKept s1 pool, ctlAt := some s1.now } }
      let weight := fun (x : Tenant) => max 1 x.power
      let sum := v.tenants.foldl (fun n e => if inPool v e.1 e.2 then n + weight e.2 else n) 0
      v.tenants.foldl (fun u e =>
        if e.2.strict ∧ 0 < e.2.power then allot e.1 (e.2.power * 5824 / 2125) (unitCores u e.1 e.2) u
        else if inPool u e.1 e.2 then
          let w := pool * weight e.2 / max 1 sum
          allot e.1 ((if e.2.power = 0 then w else min w (10 * e.2.power)) * 5824 / 21250) (unitCores u e.1 e.2) u
        else u) v) := by
  subst hs
  exact congrArg Host.Outcome.next (if_neg (not_or.2 ⟨not_not.2 hlive, not_not.2 hdue⟩))

/-- What a sample says of a sensor: the conditions it keeps, and the two crossings it raises (R430). -/
theorem thermalSample_crosses {sensor : Nat} (deciC : Int) (hregions : regions s1 = true) (hsensor : hasSensor s1 sensor = true) :
    exec (.thermalSample t sensor deciC) s = .next (
      let p := sensorPoints sensor
      let u := { s1 with pwr := { s1.pwr with
        hot := member s1.pwr.hot sensor (decide (p.1 ≤ deciC)), warm := member s1.pwr.warm sensor (decide (p.2.1 ≤ deciC))
        critical := member s1.pwr.critical sensor (decide (p.2.2 ≤ deciC)) } }
      let rise : Bool := decide (p.1 ≤ deciC) && !(s1.pwr.hot.contains sensor)
      let v := if rise then raise { src := 0x1A4, unit := sensor } u else u
      if decide (p.2.2 ≤ deciC) && !(s1.pwr.critical.contains sensor) then raise { src := 0x1A5, unit := sensor } v else v) := by
  subst hs
  exact congrArg Host.Outcome.next (if_neg (not_or.2 ⟨not_not.2 hregions, not_not.2 hsensor⟩))

theorem thermalCeilingStep_steps (hlive : live s1 = true) (hdue : spaced s1.pwr.ceilAt 330000 s1.now = true) :
    exec (.thermalCeilingStep t) s = .next { s1 with
      pwr := { s1.pwr with ceilAt := some s1.now }
      cores := tmap s1.cores (fun core c =>
        if s1.pwr.hot.any (sensorActs core) then { c with ceiling := max 1 (c.ceiling - 1) }
        else if s1.pwr.warm.any (sensorActs core) then c
        else { c with ceiling := min 64 (c.ceiling + 1) }) } := by
  subst hs
  exact congrArg Host.Outcome.next (if_neg (not_or.2 ⟨not_not.2 hlive, not_not.2 hdue⟩))

theorem meterOutOfRange_raises (hlive : live s1 = true) :
    exec (.meterOutOfRange t) s = .next (raise { src := 0x1C0 } (irqSet 0xA10184 1 s1)) := by
  subst hs
  exact congrArg Host.Outcome.next (if_pos hlive)

end Power

/-- Settles O49: each row acts where its condition holds; the demand of a phase is updated in every state. -/
theorem grantsAndHeat : Obligations.GrantsAndHeat := by
  intro t s s1
  have hs : tick t s = s1 := rfl
  exact ⟨grantFrame_grants hs, powerControlPeriod_divides hs, fun _ _ _ => rfl,
    fun _ deciC => thermalSample_crosses hs deciC, thermalCeilingStep_steps hs, meterOutOfRange_raises hs⟩

/-! ### Receipts (R442 to R445) -/

/-- A checkpoint is of the almanac alone. -/
theorem checkpoint_pho (account seq : Nat) (s : State) : (checkpoint account seq s).pho = s.pho := rfl

section Log
variable {t : Nat} {s s1 : State} (hs : tick t s = s1)
include hs

theorem receiptSigned_chains {q : Receipt} {rest : List Receipt} (hqueue : s1.pho.queue = q :: rest) (hlive : live s1 = true)
    (hroom : receiptRoom s1 = true) :
    exec (.receiptSigned t) s = .next (
      let v := { s1 with pho := { s1.pho with queue := rest } }
      let w := if q.seq % 65536 = 0 then checkpoint q.account q.seq v else v
      let a := tget s1.pho.accounts q.account freshAccount
      let q1 := { q with prev := a.prev, meta_ := if a.restart then q.meta_ + 2 ^ 29 else q.meta_ }
      let q2 := { q1 with sig := Config.ecdsa 1 (Config.sha384 (receiptHead q1)) }
      let a' := { a with issued := q.seq, prev := Config.sha384 (receiptBytes q2), restart := false }
      let u := { w with pho := { w.pho with accounts := tput w.pho.accounts q.account a' } }
      bump 0xA10200 32 1 (deliverReceipt q2 (if a.restart then bump 0xA10208 32 1 u else u))) := by
  subst hs
  refine congrArg Host.Outcome.next ?_
  rw [hqueue]
  refine (if_neg (not_or.2 ⟨not_not.2 hlive, not_not.2 hroom⟩)).trans ?_
  by_cases hcheck : q.seq % 65536 = 0
  · simp only [hcheck, if_true, checkpoint_pho]
  · simp only [hcheck, if_false]

theorem receiptCheckpoint_writes {n : Nat} {a : Account} (ha : look s1.pho.accounts n = some a) (hlive : live s1 = true)
    (hdue : spaced a.checkAt (msCc 600000) s1.now = true) :
    exec (.receiptCheckpoint t n) s = .next { s1 with
      alm := { s1.alm with checks := tput s1.alm.checks n (a.issued, a.prev) }
      pho := { s1.pho with accounts := tput s1.pho.accounts n { a with checkAt := some s1.now } } } := by
  subst hs
  refine congrArg Host.Outcome.next ?_
  rw [ha]
  refine (if_neg (not_or.2 ⟨not_not.2 hlive, not_not.2 hdue⟩)).trans ?_
  simp only [checkpoint, tget, ha, Option.getD_some]

/-! ### Acknowledgement windows and the night log (R450 to R460) -/

theorem ackWindowExpiry_ends {r : Nat} {q : Quar} (hq : look s1.flt.quars r = some q) (hopen : q.state = 1)
    (hphase : live s1 = true ∨ s1.pwr.phase = 4) (hend : q.until_ ≤ s1.now) :
    exec (.ackWindowExpiry t r) s = .next (raise { src := 0x001, unit := r }
      { s1 with flt := { s1.flt with quars := tput s1.flt.quars r { q with state := 3 } } }) := by
  subst hs
  refine congrArg Host.Outcome.next ?_
  rw [hq]
  exact if_pos ⟨hphase, hopen, hend⟩

theorem fltAck_closes {r : Nat} {q : Quar} (hq : look s1.flt.quars r = some q) (hopen : q.state = 1)
    (hserved : barServed s1 = true) (hr : r < 64) :
    exec (.fltAck t r) s =
      .next { s1 with flt := { s1.flt with quars := tput s1.flt.quars r { q with state := 2 } } } := by
  subst hs
  refine congrArg Host.Outcome.next ((if_pos hserved).trans ?_)
  rw [Nat.mod_eq_of_lt hr, acknowledge, hq]
  exact if_pos hopen

theorem nightLogDrain_drains {e : Entry} {rest : List Entry} (hfifo : s1.flt.fifo = e :: rest) (hring : s1.flt.ringSet = true)
    (hopen : drainOpen s1 e = true) (hbeacon : needsBeacon s1 e = false ∨ s1.flt.c4.isSome = true) :
    exec (.nightLogDrain t) s = .next (
      let v := goNow none [] (ringPlace s1 e) s1
      let u := ringPush e { v with flt := { v.flt with fifo := rest, drainAt := some v.now } }
      if e.cls % 8 = 2 then irqSet 0xB00384 1 u else u) := by
  subst hs
  refine congrArg Host.Outcome.next ?_
  rw [hfifo]
  refine if_neg ?_
  rcases hbeacon with hnone | hc4
  · simp [hring, hopen, hnone]
  · simp [hring, hopen, Option.isSome_iff_ne_none.1 hc4]

theorem beaconGenerate_queues {e : Entry} (he : s1.flt.fifo.find? (needsBeacon s1) = some e) (hlive : live s1 = true)
    (hroom : s1.mgt.q1.length < 32) :
    exec (.beaconGenerate t) s =
      .next (queueMgt 1 (.beacon 1 e) { s1 with flt := { s1.flt with beacons := e.seq + 1 } }) := by
  subst hs
  refine congrArg Host.Outcome.next ?_
  rw [he]
  exact if_neg (not_or.2 ⟨not_not.2 hlive, Nat.not_le.2 hroom⟩)

end Log

/-- Settles O50: each row acts where its condition holds. -/
theorem receiptsAndLog : Obligations.ReceiptsAndLog := by
  intro t s s1
  have hs : tick t s = s1 := rfl
  exact ⟨fun _ _ hqueue hlive hroom => receiptSigned_chains hs hqueue hlive hroom,
    fun _ _ ha hlive hdue => receiptCheckpoint_writes hs ha hlive hdue,
    fun _ _ hq hopen => ⟨ackWindowExpiry_ends hs hq hopen, fltAck_closes hs hq hopen⟩,
    fun _ _ hfifo hring hopen hbeacon => nightLogDrain_drains hs hfifo hring hopen hbeacon,
    fun _ he hlive hroom => beaconGenerate_queues hs he hlive hroom⟩

/-! ### Firmware datagrams (R334, R481 to R485) -/

/-- A datagram in error is counted and discarded (R334). -/
theorem mgtReceive_bad {h : MgtHead} {s : State} (hphase : s.pwr.phase = 2 ∨ s.pwr.phase = 5) (hbad : h.bad = true)
    (type : Nat) (f : State → State) : mgtReceive h type f s = bump 0x71A050 32 1 s :=
  (if_neg (fun hn => hphase.elim hn.1 hn.2)).trans (if_pos hbad)

/-- A good one that may deliver its image is counted and handled (R481, R485). -/
theorem mgtReceive_taken {h : MgtHead} {type : Nat} {s : State} (hphase : s.pwr.phase = 2 ∨ s.pwr.phase = 5) (hbad : h.bad = false)
    (hopen : mgtOpen (bump 0x71A044 32 1 s) type = true) (f : State → State) :
    mgtReceive h type f s = f (bump 0x71A044 32 1 s) :=
  (if_neg (fun hn => hphase.elim hn.1 hn.2)).trans ((if_neg (Bool.eq_false_iff.1 hbad)).trans (if_pos hopen))

section Stage
variable {who : Asker} {image off n : Nat} {s : State}

theorem stage_noType (hn : imageType image = 0 ∨ 4 < imageType image) :
    stage who image off n s = answer who (imageType image) 0x14 0 0 s := if_pos hn

theorem stage_reserved (h1 : 1 ≤ imageType image) (h4 : imageType image ≤ 4) (hrsv : imageRsv image = true) :
    stage who image off n s = answer who (imageType image) 0x11 0 0 s :=
  (if_neg (by omega)).trans (if_pos hrsv)

section Known
variable (hknown : 1 ≤ imageType image ∧ imageType image ≤ 4 ∧ imageRsv image = false)
include hknown

theorem stage_activating (hstate : (sessionOf s (imageType image)).state = 2) :
    stage who image off n s = answer who (imageType image) 0x15 0 0 s := by
  obtain ⟨h1, h4, hrsv⟩ := hknown
  exact (if_neg (by omega)).trans ((if_neg (Bool.eq_false_iff.1 hrsv)).trans (if_pos hstate))

theorem stage_misplaced (hstate : (sessionOf s (imageType image)).state ≠ 2) (hoff : off ≠ 0)
    (hat : off ≠ (sessionOf s (imageType image)).bytes ∨ (sessionOf s (imageType image)).writing ≠ 0) :
    stage who image off n s = answer who (imageType image) 0x17 0x1E 0 s := by
  obtain ⟨h1, h4, hrsv⟩ := hknown
  exact (if_neg (by omega)).trans ((if_neg (Bool.eq_false_iff.1 hrsv)).trans ((if_neg hstate).trans (if_pos ⟨hoff, hat⟩)))

/-- The bytes at a session's length are written next (R483). -/
theorem stage_goesOn (hstate : (sessionOf s (imageType image)).state ≠ 2) (hoff : off ≠ 0)
    (hat : off = (sessionOf s (imageType image)).bytes) (hidle : (sessionOf s (imageType image)).writing = 0) :
    stage who image off n s = modSession (imageType image) (fun x => keepAsker who { x with
      state := 1, bytes := (sessionOf s (imageType image)).bytes, writing := 1, pendBytes := n }) s := by
  obtain ⟨h1, h4, hrsv⟩ := hknown
  refine (if_neg (by omega)).trans ((if_neg (Bool.eq_false_iff.1 hrsv)).trans ((if_neg hstate).trans
    ((if_neg (by simp [hat, hidle])).trans ?_)))
  simp only [hoff, false_and, if_false]
  rfl

/-- Bytes at offset 0 begin a session: the one before, with what it held in copy B, has ended (R483). -/
theorem stage_begins {v : State} (hstate : (sessionOf s (imageType image)).state ≠ 2)
    (hended : (if (sessionOf s (imageType image)).writing = 1 then
      (match askerOf (sessionOf s (imageType image)) with | some w => answer w (imageType image) 0x17 0x1E 0 s | none => s)
      else s) = v) :
    stage who image 0 n s =
      modSession (imageType image) (fun x => keepAsker who { x with state := 1, bytes := 0, writing := 1, pendBytes := n })
        { v with alm := { v.alm with images := tdel v.alm.images (imageType image * 2 + 1) } } := by
  subst hended
  obtain ⟨h1, h4, hrsv⟩ := hknown
  refine (if_neg (by omega)).trans ((if_neg (Bool.eq_false_iff.1 hrsv)).trans ((if_neg hstate).trans
    ((if_neg (fun h => h.1 rfl)).trans ?_)))
  simp only [true_and, if_true] <;> rfl

end Known
end Stage

section Datagram
variable {t image : Nat} {h : MgtHead} {s s1 : State} (hs : tick t s = s1)
  (hphase : s1.pwr.phase = 2 ∨ s1.pwr.phase = 5) (hbad : h.bad = false) (hopen : mgtOpen (bump 0x71A044 32 1 s1) (imageType image) = true)
include hs hphase hbad hopen

theorem mgtFwStage_stages {off : Nat} {data : List Byte} (h1 : 1 ≤ data.length) (h2 : data.length ≤ 1024) :
    exec (.mgtFwStage t h image off data) s =
      .next (stage (.mgt 1 h.seq image) image off data.length (bump 0x71A044 32 1 s1)) := by
  subst hs
  exact congrArg Host.Outcome.next ((mgtReceive_taken hphase hbad hopen _).trans (if_neg (by omega)))

theorem mgtFwQuery_answers :
    exec (.mgtFwQuery t h image) s = .next (queueMgt 4 (.fwReply 0x83 h.seq image
      (if 1 ≤ imageType image ∧ imageType image ≤ 4 then 0 else 0x14)
      (sessionOf (bump 0x71A044 32 1 s1) (imageType image)).bytes) (bump 0x71A044 32 1 s1)) := by
  subst hs
  refine congrArg Host.Outcome.next ((mgtReceive_taken hphase hbad hopen _).trans ?_)
  by_cases htype : 1 ≤ imageType image ∧ imageType image ≤ 4
  · rw [if_pos htype, if_neg (by omega)]
    rfl
  · rw [if_neg htype, if_pos (by omega)]
    rfl

theorem mgtFwActivate_serves (img : Image) (hserves : recovery (bump 0x71A044 32 1 s1) (imageType image) = false) :
    exec (.mgtFwActivate t h image img) s =
      .next (activate (.mgt 2 h.seq image) image img (bump 0x71A044 32 1 s1)) := by
  subst hs
  exact congrArg Host.Outcome.next ((mgtReceive_taken hphase hbad hopen _).trans (if_neg (Bool.eq_false_iff.1 hserves)))

section Recovery
variable {img : Image} (hrecovery : recovery (bump 0x71A044 32 1 s1) (imageType image) = true)
include hrecovery

theorem mgtFwActivate_unstaged {x : Session} (hx : sessionOf (bump 0x71A044 32 1 s1) (imageType image) = x)
    (hshort : x.state = 0 ∨ x.writing ≠ 0 ∨ x.bytes < 256 + img.bodyLen) :
    exec (.mgtFwActivate t h image img) s =
      .next (answer (.mgt 2 h.seq image) (imageType image) 0x17 0x1E 0 (bump 0x71A044 32 1 s1)) := by
  subst hs hx
  exact congrArg Host.Outcome.next ((mgtReceive_taken hphase hbad hopen _).trans ((if_pos hrecovery).trans (if_pos hshort)))

theorem mgtFwActivate_rejected {x : Session} (hx : sessionOf (bump 0x71A044 32 1 s1) (imageType image) = x)
    (hstaged : ¬ (x.state = 0 ∨ x.writing ≠ 0 ∨ x.bytes < 256 + img.bodyLen))
    (haccepted : accepted (bump 0x71A044 32 1 s1) (imageType image) img = false) :
    exec (.mgtFwActivate t h image img) s =
      .next (answer (.mgt 2 h.seq image) (imageType image) 0x1A 0 0 (bump 0x71A044 32 1 s1)) := by
  subst hs hx
  exact congrArg Host.Outcome.next ((mgtReceive_taken hphase hbad hopen _).trans ((if_pos hrecovery).trans
    ((if_neg hstaged).trans (if_pos (Bool.eq_false_iff.1 haccepted)))))

/-- An accepted image restarts bring-up at stage Boot ROM (R481). -/
theorem mgtFwActivate_restarts {x : Session} (hx : sessionOf (bump 0x71A044 32 1 s1) (imageType image) = x)
    (hstaged : ¬ (x.state = 0 ∨ x.writing ≠ 0 ∨ x.bytes < 256 + img.bodyLen))
    (haccepted : accepted (bump 0x71A044 32 1 s1) (imageType image) img = true) :
    exec (.mgtFwActivate t h image img) s = .next (
      let u := bump 0x71A044 32 1 s1
      let v := modSession (imageType image) (fun z => { z with
          state := 2, img := some img, writing := 2, aCurrent := false, commit := bitOf image 8 })
        { u with alm := { u.alm with images := tput u.alm.images (imageType image * 2 + 1) img } }
      let w := queueMgt 4 (.fwReply 0x82 h.seq image 0 (sessionOf v (imageType image)).bytes) v
      { w with
        alm := { w.alm with images := tdel w.alm.images (imageType image * 2) }
        pwr := { w.pwr with phase := 2, faultN := false }
        boot := { w.boot with stage := 2, cause := none, restarts := satAdd 4 w.boot.restarts 1 } }) := by
  subst hs hx
  exact congrArg Host.Outcome.next ((mgtReceive_taken hphase hbad hopen _).trans ((if_pos hrecovery).trans
    ((if_neg hstaged).trans (if_neg (not_not.2 haccepted)))))

end Recovery
end Datagram

/-! ### A write to boot NOR ends (R483, R484) -/

section WriteComplete
variable {t ty : Nat} {s s1 : State} (hs : tick t s = s1) (hphase : s1.pwr.phase = 2 ∨ s1.pwr.phase = 5)
  (hfree : s1.boot.writing = none)
include hs hphase hfree

theorem imageWriteComplete_staged {w : Asker} {y : Session} (hy : sessionOf s1 ty = y) (hwriting : y.writing = 1)
    (hasker : askerOf y = some w) :
    exec (.imageWriteComplete t ty) s = .next (answer w ty 0 0 y.pendBytes (modSession ty (fun z => { z with
      bytes := z.bytes + z.pendBytes, writing := 0, cmd := none, mgt := none }) s1)) := by
  subst hs hy
  refine congrArg Host.Outcome.next ((if_neg (fun hn => hphase.elim hn.1 hn.2)).trans ((if_neg (by simp [hfree])).trans
    ((if_pos hwriting).trans ?_)))
  rw [hasker]

theorem imageWriteComplete_rewritten {i : Image} {y : Session} (hy : sessionOf s1 ty = y) (hwriting : y.writing = 2)
    (himg : y.img = some i) :
    exec (.imageWriteComplete t ty) s = .next (
      let v := modSession ty (fun _ => freshSession) { s1 with alm := { s1.alm with images := tput s1.alm.images (ty * 2) i } }
      if y.commit then startField (changeField (fun f => { f with
        minSvn := tput f.minSvn ty (max i.svn (tget f.minSvn ty 0)) }) v) else v) := by
  subst hs hy
  refine congrArg Host.Outcome.next ((if_neg (fun hn => hphase.elim hn.1 hn.2)).trans ((if_neg (by simp [hfree])).trans
    ((if_neg (by simp [hwriting])).trans ((if_pos hwriting).trans ?_))))
  rw [himg]
  cases (sessionOf (tick t s) ty).commit <;> rfl

end WriteComplete

/-- Settles O52: a datagram in error is counted; a good one is staged, asked or activated by its session's rules; a write
that ends answers its asker, or renews copy A. -/
theorem firmware : Obligations.Firmware := by
  intro t image h s s1 type u x taken known begun
  have hs : tick t s = s1 := rfl
  refine ⟨?bad, ?stage, ?query, ?serves, ?recovery, ?complete⟩
  case bad =>
    intro hphase hbad off data img
    exact ⟨congrArg Host.Outcome.next (mgtReceive_bad hphase hbad _ _), congrArg Host.Outcome.next (mgtReceive_bad hphase hbad _ _),
      congrArg Host.Outcome.next (mgtReceive_bad hphase hbad _ _)⟩
  case stage =>
    rintro off data ⟨hphase, hbad, hopen⟩ h1 h2
    rw [mgtFwStage_stages hs hphase hbad hopen h1 h2]
    refine ⟨fun hn => congrArg _ (stage_noType hn), fun hlow hhigh hrsv => congrArg _ (stage_reserved hlow hhigh hrsv),
      fun hknown hstate => congrArg _ (stage_activating hknown hstate),
      fun hknown hstate hoff hat => congrArg _ (stage_misplaced hknown hstate hoff hat),
      fun hknown hstate hoff hat hidle => congrArg _ (stage_goesOn hknown hstate hoff hat hidle), ?fresh, ?ends⟩
    case fresh =>
      rintro hknown hstate rfl hwriting
      exact congrArg _ (stage_begins hknown hstate (if_neg hwriting))
    case ends =>
      rintro w hknown hstate rfl hwriting hasker
      exact congrArg _ (stage_begins hknown hstate ((if_pos hwriting).trans (by rw [hasker])))
  case query =>
    rintro ⟨hphase, hbad, hopen⟩
    exact mgtFwQuery_answers hs hphase hbad hopen
  case serves =>
    rintro img ⟨hphase, hbad, hopen⟩ hserves
    exact mgtFwActivate_serves hs hphase hbad hopen img hserves
  case recovery =>
    rintro img ⟨hphase, hbad, hopen⟩ hrecovery
    refine ⟨mgtFwActivate_unstaged hs hphase hbad hopen hrecovery rfl, fun hstate hidle hlen => ?_⟩
    have hstaged : ¬ (x.state = 0 ∨ x.writing ≠ 0 ∨ x.bytes < 256 + img.bodyLen) := by
      simp only [hstate, hidle, false_or, ne_eq, not_true_eq_false]
      omega
    exact ⟨mgtFwActivate_rejected hs hphase hbad hopen hrecovery rfl hstaged,
      mgtFwActivate_restarts hs hphase hbad hopen hrecovery rfl hstaged⟩
  case complete =>
    intro ty y hphase hfree
    exact ⟨fun w hwriting hasker => imageWriteComplete_staged hs hphase hfree rfl hwriting hasker,
      fun i hwriting himg => imageWriteComplete_rewritten hs hphase hfree rfl hwriting himg⟩

end Sys2Proof.Machine
end

section
/-! Every step keeps the stores in their canonical form and the factory part of the almanac (spec/19 R409): O60.

`Kept F` is the invariant. There is one lemma for each function of the model that a command may run and that answers a
state, in the model's order: `kept_f` says that `f` keeps it. A proof has the shape of its function: `kept_ite` at a
condition, `kept_foldl` at a fold, `kept_frame` where a record update leaves the stores and the almanac alone, a store's
own lemma where it is written, and the lemma of each function that is called. -/

namespace Sys2Proof.Machine

/-- The factory part of an almanac. -/
abbrev FactoryPart := Nat × Nat × Nat × Nat × Nat × Nat × Nat × Nat × Nat

/-- The invariant of every step: canonical stores, and an almanac with this factory part. -/
def Kept (F : FactoryPart) (s : State) : Prop := Canonical s ∧ factoryPart s = F

/-- A next state, where there is one, keeps the invariant. -/
def KeptNext (F : FactoryPart) (o : Res) : Prop := ∀ u, o = .next u → Kept F u

/-- A state, where there is one, keeps the invariant. -/
def KeptSome (F : FactoryPart) (o : Option State) : Prop := ∀ u, o = some u → Kept F u

variable {F : FactoryPart}

theorem kept_ite {c : Prop} [Decidable c] {u v : State} (hu : Kept F u) (hv : Kept F v) : Kept F (if c then u else v) := by
  split
  · exact hu
  · exact hv

theorem keptSnd_ite {α : Type} {c : Prop} [Decidable c] {p q : α × State} (hp : Kept F p.2) (hq : Kept F q.2) :
    Kept F (if c then p else q).2 := by
  split
  · exact hp
  · exact hq

theorem keptSnd_ite2 {α β : Type} {c : Prop} [Decidable c] {p q : α × β × State} (hp : Kept F p.2.2) (hq : Kept F q.2.2) :
    Kept F (if c then p else q).2.2 := by
  split
  · exact hp
  · exact hq

theorem keptSome_ite {c : Prop} [Decidable c] {o p : Option State} (ho : KeptSome F o) (hp : KeptSome F p) :
    KeptSome F (if c then o else p) := by
  split
  · exact ho
  · exact hp

theorem KeptNext.next {u : State} (hu : Kept F u) : KeptNext F (.next u) := by
  rintro _ ⟨⟩
  exact hu

theorem KeptSome.some {u : State} (hu : Kept F u) : KeptSome F (some u) := by
  rintro _ ⟨⟩
  exact hu

theorem KeptSome.none : KeptSome F .none := by
  rintro _ ⟨⟩

theorem kept_foldl {α : Type} {g : State → α → State} (hg : ∀ s x, Kept F s → Kept F (g s x)) {l : List α} {s : State}
    (h : Kept F s) : Kept F (l.foldl g s) := by
  induction l generalizing s with
  | nil => exact h
  | cons x l ih => exact ih (hg s x h)

theorem keptSnd_foldl {α β : Type} {g : β × State → α → β × State} (hg : ∀ p x, Kept F p.2 → Kept F (g p x).2) {l : List α}
    {p : β × State} (h : Kept F p.2) : Kept F (l.foldl g p).2 := by
  induction l generalizing p with
  | nil => exact h
  | cons x l ih => exact ih (hg p x h)

/-- What holds neither a byte of memory nor the almanac is free. -/
theorem kept_frame {s : State} (h : Kept F s)
    {pending now free act shd ctr latch hiHeld hwSet readData groups mer ptp jobs plans nextPlan cores threads sbusy
    vbusy ranges badStore badVec badAcc slots badSlot sync signals stks recs upds nextUpd objs nextObj frames tables
    vault ephCnt edges staged ports taken spray puHead txHead mgt ctxs ctxGen regions regionCap held holds landing
    nextHold works nextWork pcie rings cmds nextCmd tenants census tallies snap snapM pho flt boot fw pwr out} :
    Kept F { s with
      pending, now, free, act, shd, ctr, latch, hiHeld, hwSet, readData, groups, mer, ptp, jobs, plans, nextPlan, cores,
      threads, sbusy, vbusy, ranges, badStore, badVec, badAcc, slots, badSlot, sync, signals, stks, recs, upds, nextUpd,
      objs, nextObj, frames, tables, vault, ephCnt, edges, staged, ports, taken, spray, puHead, txHead, mgt, ctxs,
      ctxGen, regions, regionCap, held, holds, landing, nextHold, works, nextWork, pcie, rings, cmds, nextCmd, tenants,
      census, tallies, snap, snapM, pho, flt, boot, fw, pwr, out } := h

theorem kept_of_eq {α : Type} {p : α × State} {x : α} {u : State} (h : Kept F p.2) (he : p = (x, u)) : Kept F u := by
  subst he
  exact h

theorem kept_of_eq2 {α β : Type} {p : α × β × State} {x : α} {y : β} {u : State} (h : Kept F p.2.2) (he : p = (x, y, u)) :
    Kept F u := by
  subst he
  exact h

/-! A store takes a table of its form, the almanac another of the same factory part. -/

theorem Kept.hbm {s : State} (h : Kept F s) : twf 0 s.hbm := by
  obtain ⟨⟨hhbm, _, _, _, _, _⟩, _⟩ := h
  exact hhbm

theorem Kept.store {s : State} (h : Kept F s) : twf 0 s.store := by
  obtain ⟨⟨_, hstore, _, _, _, _⟩, _⟩ := h
  exact hstore

theorem Kept.flash {s : State} (h : Kept F s) : twf 0 s.flash := by
  obtain ⟨⟨_, _, hflash, _, _, _⟩, _⟩ := h
  exact hflash

theorem Kept.acc {s : State} (h : Kept F s) : twf 0 s.acc := by
  obtain ⟨⟨_, _, _, hacc, _, _⟩, _⟩ := h
  exact hacc

theorem Kept.sregs {s : State} (h : Kept F s) : twf 0 s.sregs := by
  obtain ⟨⟨_, _, _, _, hsregs, _⟩, _⟩ := h
  exact hsregs

theorem Kept.vregs {s : State} (h : Kept F s) : twf 0 s.vregs := by
  obtain ⟨⟨_, _, _, _, _, hvregs⟩, _⟩ := h
  exact hvregs

theorem Kept.factory {s : State} (h : Kept F s) : factoryPart s = F := by
  obtain ⟨_, hfactory⟩ := h
  exact hfactory

theorem kept_hbm {s : State} (h : Kept F s) {m : Tab Byte} (hm : twf 0 m) : Kept F { s with hbm := m } :=
  ⟨⟨hm, h.store, h.flash, h.acc, h.sregs, h.vregs⟩, h.factory⟩

theorem kept_store {s : State} (h : Kept F s) {m : Tab Byte} (hm : twf 0 m) : Kept F { s with store := m } :=
  ⟨⟨h.hbm, hm, h.flash, h.acc, h.sregs, h.vregs⟩, h.factory⟩

theorem kept_flash {s : State} (h : Kept F s) {m : Tab Byte} (hm : twf 0 m) : Kept F { s with flash := m } :=
  ⟨⟨h.hbm, h.store, hm, h.acc, h.sregs, h.vregs⟩, h.factory⟩

theorem kept_acc {s : State} (h : Kept F s) {m : Tab W32} (hm : twf 0 m) : Kept F { s with acc := m } :=
  ⟨⟨h.hbm, h.store, h.flash, hm, h.sregs, h.vregs⟩, h.factory⟩

theorem kept_sregs {s : State} (h : Kept F s) {m : Tab W64} (hm : twf 0 m) : Kept F { s with sregs := m } :=
  ⟨⟨h.hbm, h.store, h.flash, h.acc, hm, h.vregs⟩, h.factory⟩

theorem kept_vregs {s : State} (h : Kept F s) {m : Tab W32} (hm : twf 0 m) : Kept F { s with vregs := m } :=
  ⟨⟨h.hbm, h.store, h.flash, h.acc, h.sregs, hm⟩, h.factory⟩

theorem kept_alm {s : State} (h : Kept F s) {alm : Almanac}
    (ha : factoryPart { s with alm } = factoryPart s := by rfl) : Kept F { s with alm } :=
  ⟨h.1, ha.trans h.factory⟩

theorem kept_hbm_tclear {s : State} (h : Kept F s) {b n : Nat} : Kept F { s with hbm := tclear s.hbm b n } :=
  kept_hbm h (twf_tclear _ _ h.hbm)

/-! ### Machine/State -/

/-- A loss of supply leaves the almanac (R30). -/
theorem kept_cold {s pending now free out} (h : Kept F s) : Kept F (State.cold s.alm pending now free out) :=
  ⟨⟨twf_nil 0, twf_nil 0, twf_nil 0, twf_nil 0, twf_nil 0, twf_nil 0⟩, h.factory⟩

/-! ### Machine/Regs -/

theorem kept_memberWrite {g a v s} (h : Kept F s) : Kept F (memberWrite g a v s) := by
  unfold memberWrite
  extract_lets st s1
  have h1 : Kept F s1 := kept_ite (kept_frame h) h
  exact kept_frame h1

theorem kept_commitWrite {g s} (h : Kept F s) : Kept F (commitWrite g s) := kept_ite (kept_frame h) h

theorem kept_shadowWrite {a v s} (h : Kept F s) : Kept F (shadowWrite a v s) := by
  unfold shadowWrite
  dsimp only
  split
  · exact kept_memberWrite h
  · exact kept_frame h

theorem kept_liveWrite {a v s} (h : Kept F s) : Kept F (liveWrite a v s) := kept_frame h

theorem kept_applyShadows {s} (h : Kept F s) : Kept F (applyShadows s) :=
  kept_ite (kept_frame (kept_frame h)) (kept_frame (kept_frame h))

/-! ### Machine/Flags -/

theorem kept_bump {k w n s} (h : Kept F s) : Kept F (bump k w n s) := kept_frame h

theorem kept_setCtr {k v s} (h : Kept F s) : Kept F (setCtr k v s) := kept_frame h

theorem kept_sendMsix {fn vec s} (h : Kept F s) : Kept F (sendMsix fn vec s) := kept_frame h

theorem kept_sendPending {s} (h : Kept F s) : Kept F (sendPending s) := kept_foldl (fun _ _ h => kept_sendMsix h) (kept_frame h)

theorem kept_irqUpdate {s} (h : Kept F s) : Kept F (irqUpdate s) := kept_frame h

theorem kept_irqSet {a mask s} (h : Kept F s) : Kept F (irqSet a mask s) := kept_irqUpdate (kept_frame h)

theorem kept_irqClear {a v s} (h : Kept F s) : Kept F (irqClear a v s) := kept_irqUpdate (kept_frame h)

/-! ### Machine/Ops -/

theorem kept_drawFree {n s} (h : Kept F s) : Kept F (drawFree n s).2 := kept_frame h

theorem kept_drawRandom {s} (h : Kept F s) : Kept F (drawRandom s).2 := kept_frame h

theorem kept_modCore {c f s} (h : Kept F s) : Kept F (modCore c f s) := kept_frame h

theorem kept_modJob {slot f s} (h : Kept F s) : Kept F (modJob slot f s) := kept_frame h

theorem kept_modPort {code f s} (h : Kept F s) : Kept F (modPort code f s) := kept_frame h

theorem kept_modStack {n f s} (h : Kept F s) : Kept F (modStack n f s) := kept_frame h

theorem kept_emit {o s} (h : Kept F s) : Kept F (emit o s) := kept_frame h

theorem kept_record {n s} (h : Kept F s) : Kept F (record n s) :=
  kept_ite (kept_frame h) (kept_ite (kept_irqSet (kept_bump (kept_bump h))) (kept_setCtr (kept_frame h)))

theorem kept_judge {src s} (h : Kept F s) : Kept F (judge src s).2.2 := by
  unfold judge
  dsimp only
  exact keptSnd_ite2 (keptSnd_ite2 (kept_bump (kept_frame (kept_bump h))) (kept_frame (kept_bump h))) (kept_bump h)

theorem kept_note {e s} (h : Kept F s) : Kept F (note e s) := kept_record (kept_judge h)

theorem kept_respray {before s} (h : Kept F s) : Kept F (respray before s) := kept_frame h

theorem kept_modSpray {code f s} (h : Kept F s) : Kept F (modSpray code f s) := kept_respray (kept_modPort h)

theorem kept_leaveSpray {code f s} (h : Kept F s) : Kept F (leaveSpray code f s) := kept_modSpray (kept_bump h)

theorem kept_pickHop {d cls s} (h : Kept F s) : Kept F (pickHop d cls s).2 := by
  unfold pickHop
  dsimp only
  split
  · exact h
  · exact kept_frame h

theorem kept_queueTx {code f s} (h : Kept F s) : Kept F (queueTx code f s) := kept_modPort h

theorem kept_noRoute {d s} (h : Kept F s) : Kept F (noRoute d s) := kept_note (kept_bump h)

theorem kept_sendVia {d f hop s} (h : Kept F s) : Kept F (sendVia d f hop s) := kept_queueTx h

theorem kept_route {d f s} (h : Kept F s) : Kept F (route d f s) := by
  unfold route
  split
  · rename_i _ _ s1 heq
    have h1 : Kept F s1 := kept_of_eq (kept_pickHop h) heq
    exact kept_ite (kept_noRoute h1) (kept_sendVia h1)
  · rename_i s2 heq
    have h2 : Kept F s2 := kept_of_eq (kept_pickHop h) heq
    exact kept_noRoute h2

theorem kept_originate {d f s} (h : Kept F s) : Kept F (originate d f s) := kept_ite (kept_route h) h

theorem kept_bftCount {i s} (h : Kept F s) : Kept F (bftCount i s) := kept_bump h

theorem kept_originateBft {d f s} (h : Kept F s) : Kept F (originateBft d f s) := kept_originate (kept_bftCount h)

theorem kept_sendSlip {j type mer excess s} (h : Kept F s) : Kept F (sendSlip j type mer excess s) :=
  kept_ite h (kept_foldl (fun _ _ h => kept_ite (kept_noRoute h) (kept_foldl (fun _ _ h => kept_sendVia h) h)) h)

theorem kept_queueMgt {prio m s} (h : Kept F s) : Kept F (queueMgt prio m s) := kept_frame h

theorem kept_addReq {account id s} (h : Kept F s) : Kept F (addReq account id s) := kept_frame h

theorem kept_chargeJob {slot pj s} (h : Kept F s) : Kept F (chargeJob slot pj s) := kept_modJob h

theorem kept_closeReq {account id s} (h : Kept F s) : Kept F (closeReq account id s).2 := kept_frame h

theorem kept_chargeReq {account id pj s} (h : Kept F s) : Kept F (chargeReq account id pj s) := kept_frame h

theorem kept_flushJob {slot s} (h : Kept F s) : Kept F (flushJob slot s) := by
  unfold flushJob
  dsimp only
  split
  · exact h
  · exact kept_modJob (kept_frame h)

theorem kept_setRing {fn r g s} (h : Kept F s) : Kept F (setRing fn r g s) := kept_frame h

theorem kept_signalRing {fn g s} (h : Kept F s) : Kept F (signalRing fn g s).2 := keptSnd_ite h (kept_sendMsix h)

theorem kept_ringError {fn r s} (h : Kept F s) : Kept F (ringError fn r s) := kept_irqSet (kept_setRing h)

theorem kept_placeReply {fn g r s} (h : Kept F s) : Kept F (placeReply fn g r s) := by
  unfold placeReply
  split
  · split
    · exact kept_hbm h (twf_tsplice _ _ _ h.hbm)
    · exact kept_ringError h
  · exact kept_emit h

theorem kept_writeReply {fn r s} (h : Kept F s) : Kept F (writeReply fn r s) :=
  kept_ite h (kept_ite (kept_setRing h) (kept_setRing (keptSnd_ite (kept_placeReply h) (kept_signalRing (kept_placeReply h)))))

theorem kept_flushRing {fn r s} (h : Kept F s) : Kept F (flushRing fn r s) :=
  kept_ite h (kept_foldl (fun _ _ h => kept_writeReply h) (kept_setRing h))

theorem kept_chargeOwner {pj s} (h : Kept F s) : Kept F (chargeOwner pj s) := kept_chargeReq (kept_ite h (kept_addReq h))

theorem kept_openReq {x s} (h : Kept F s) : Kept F (openReq x s) := kept_chargeReq (kept_addReq h)

theorem kept_replyTo {cmd status echo final s} (h : Kept F s) : Kept F (replyTo cmd status echo final s) := by
  unfold replyTo
  split
  · exact h
  · extract_lets _ _ s1
    have h1 : Kept F s1 := kept_ite (kept_chargeOwner h) (kept_chargeReq (kept_ite h (kept_openReq h)))
    split
    next rcpt s2 heq =>
    have h2 : Kept F s2 := by
      refine kept_of_eq ?_ heq
      exact keptSnd_ite (kept_closeReq h1) h1
    extract_lets _ s3 s4
    have h3 : Kept F s3 := kept_ite (kept_bump h2) h2
    have h4 : Kept F s4 := kept_ite h3 (kept_writeReply h3)
    exact kept_ite (kept_frame h4) (kept_frame h4)

theorem kept_done {cmd echo s} (h : Kept F s) : Kept F (done cmd echo s) := kept_replyTo h

theorem kept_fail {cmd status s} (h : Kept F s) : Kept F (fail cmd status s) := kept_replyTo h

theorem kept_refuseWith {cmd reason s sect item} (h : Kept F s) : Kept F (refuseWith cmd reason s sect item) :=
  kept_replyTo (kept_ite (kept_bump h) h)

theorem kept_modCmd {cmd f s} (h : Kept F s) : Kept F (modCmd cmd f s) := kept_frame h

theorem kept_refuseHeaders {s} (h : Kept F s) : Kept F (refuseHeaders s) := by
  unfold refuseHeaders
  refine kept_foldl (fun _ _ h => ?_) h
  split
  · refine kept_ite h ?_
    split
    · exact kept_fail (kept_modCmd h)
    · exact h
  · exact h

theorem kept_runCmd {cmd op f s} (hf : ∀ x s, Kept F s → Kept F (f x s)) (h : Kept F s) : Kept F (runCmd cmd op f s) := by
  unfold runCmd
  dsimp only
  split
  · exact kept_refuseHeaders h
  · exact kept_ite (kept_refuseHeaders h) (hf _ _ (kept_openReq (kept_frame (kept_refuseHeaders h))))

theorem kept_stopUpdates {stack s} (h : Kept F s) : Kept F (stopUpdates stack s) :=
  kept_ite (kept_irqSet (kept_frame h)) (kept_frame h)

theorem kept_releaseSync {slot s} (h : Kept F s) : Kept F (releaseSync slot s) := kept_frame h

theorem kept_closeCtx {i s} (h : Kept F s) : Kept F (closeCtx i s) := by
  unfold closeCtx
  dsimp only
  split
  · exact h
  · exact kept_frame (kept_originateBft h)

theorem kept_endJob {slot j status echo s} (h : Kept F s) : Kept F (endJob slot j status echo s) := by
  unfold endJob
  dsimp only
  split
  · exact kept_replyTo (kept_releaseSync (kept_frame (kept_foldl (fun _ _ h => kept_closeCtx h) (kept_flushJob h))))
  · exact kept_releaseSync (kept_frame (kept_foldl (fun _ _ h => kept_closeCtx h) (kept_flushJob h)))

theorem kept_abortJob {slot src s} (h : Kept F s) : Kept F (abortJob slot src s) := by
  unfold abortJob
  dsimp only
  split
  · exact h
  · exact kept_ite h (kept_sendSlip (kept_frame (kept_modJob h)))

theorem kept_abortAll {slots src s} (h : Kept F s) : Kept F (abortAll slots src s) :=
  kept_foldl (fun _ _ h => kept_abortJob h) h

theorem kept_blockStops {e s} (h : Kept F s) : Kept F (blockStops e s) := by
  unfold blockStops
  dsimp only
  split
  · exact kept_modCore h
  · exact kept_stopUpdates h
  · exact kept_frame h
  · exact kept_frame h
  · exact kept_frame h
  · exact kept_ite (kept_leaveSpray h) h
  · exact h

theorem kept_grave {safe en s} (h : Kept F s) : Kept F (grave safe en s) := kept_ite h (kept_frame h)

theorem kept_raise4 {e p s} (h : Kept F s) : Kept F (raise4 e p s) := kept_ite (kept_record h) (kept_record (kept_grave h))

theorem kept_raise3 {e p s} (h : Kept F s) : Kept F (raise3 e p s) := by
  unfold raise3
  dsimp only
  refine kept_ite (kept_abortAll (kept_record h)) ?_
  split
  · exact kept_abortAll (kept_record (kept_irqSet (kept_frame (kept_blockStops h))))
  · exact kept_raise4 (kept_bump (kept_abortAll (kept_record h)))

theorem kept_raise2 {e p s} (h : Kept F s) : Kept F (raise2 e p s) := kept_abortAll (kept_record h)

theorem kept_raise {e s} (h : Kept F s) : Kept F (raise e s) := by
  unfold raise
  dsimp only
  refine kept_ite h ?_
  split
  · exact kept_raise2 (kept_judge h)
  · exact kept_raise3 (kept_judge h)
  · exact kept_raise4 (kept_judge h)
  · exact kept_record (kept_judge h)

theorem kept_raiseJob {src slot s unit sub detail} (h : Kept F s) : Kept F (raiseJob src slot s unit sub detail) := kept_raise h

theorem kept_mismatch {slot s} (h : Kept F s) : Kept F (mismatch slot s) := kept_raiseJob (kept_bump h)

theorem kept_hostMemErr {slot fn s} (h : Kept F s) : Kept F (hostMemErr slot fn s) := kept_raiseJob (kept_irqSet (kept_bump h))

/-! ### Machine/Census -/

theorem kept_censusJob {slot tag vs s} (h : Kept F s) : Kept F (censusJob slot tag vs s) := by
  unfold censusJob
  dsimp only
  split
  · exact h
  · split
    · exact h
    · refine kept_ite ?_ (kept_modJob h)
      split
      · exact kept_modJob (kept_modJob h)
      · exact kept_raiseJob (kept_modJob h)

theorem kept_censusAdd {tenant tag vs s} (h : Kept F s) : Kept F (censusAdd tenant tag vs s) :=
  kept_foldl (fun _ _ h => kept_censusJob h) (kept_frame h)

/-! ### Machine/Mem -/

theorem kept_vaultProgram {page s} (h : Kept F s) : Kept F (vaultProgram page s) := by
  unfold vaultProgram
  dsimp only
  split
  · exact h
  · exact kept_bump (kept_frame h)

theorem kept_modFrame {first f s} (h : Kept F s) : Kept F (modFrame first f s) := kept_frame h

theorem kept_hbmPut {k bs s} (h : Kept F s) : Kept F (hbmPut k bs s) := kept_hbm h (twf_tsplice _ _ _ h.hbm)

theorem kept_soiled {first s} (h : Kept F s) : Kept F (soiled first s) := kept_modFrame h

theorem kept_hbmWrite {k first bs s} (h : Kept F s) : Kept F (hbmWrite k first bs s) := kept_soiled (kept_hbmPut h)

theorem kept_storeWrite {core off bs s} (h : Kept F s) : Kept F (storeWrite core off bs s) :=
  kept_frame (kept_store h (twf_tsplice _ _ _ h.store))

theorem kept_threadRead {core own thr t off n s} (h : Kept F s) : Kept F (threadRead core own thr t off n s).2 :=
  keptSnd_ite h (kept_frame h)

theorem kept_spareEntry {src inst detail came s} (h : Kept F s) : Kept F (spareEntry src inst detail came s) := kept_record h

theorem kept_repairFrame {stack frame s} (h : Kept F s) : Kept F (repairFrame stack frame s) := by
  unfold repairFrame
  dsimp only
  split
  · exact h
  · exact kept_ite h (kept_spareEntry (kept_irqSet (kept_bump (kept_bump (kept_frame (kept_modStack h))))))

theorem kept_releaseFrame {first n s} (h : Kept F s) : Kept F (releaseFrame first n s) := kept_modStack (kept_frame h)

theorem kept_dropPage {hd page s} (h : Kept F s) : Kept F (dropPage hd page s) := by
  unfold dropPage
  split
  · exact h
  · split
    · exact h
    · exact kept_releaseFrame (kept_frame h)

theorem kept_shelfRoom {hd o s} (h : Kept F s) : Kept F (shelfRoom hd o s).2 := by
  unfold shelfRoom
  refine keptSnd_ite h ?_
  split
  · exact kept_dropPage (kept_bump h)
  · exact h

theorem kept_promote {hd page s} (h : Kept F s) : Kept F (promote hd page s) := by
  unfold promote
  dsimp only
  split
  · exact h
  · refine kept_ite h ?_
    split
    · exact kept_frame (kept_shelfRoom h)
    · exact kept_shelfRoom h

theorem kept_hbmCe {stack s} (h : Kept F s) : Kept F (hbmCe stack s) := kept_raise (kept_bump h)

theorem kept_hbmUe {frameKey slot tenants s} (h : Kept F s) : Kept F (hbmUe frameKey slot tenants s) :=
  kept_foldl (fun _ _ h => kept_irqSet (kept_raise h)) (kept_ite (kept_record (kept_bump (kept_irqSet (kept_bump (kept_modStack
    h))))) (kept_raise (kept_irqSet (kept_bump (kept_modStack h)))))

theorem kept_loseFlash {page s} (h : Kept F s) : Kept F (loseFlash page s) := kept_frame h

theorem kept_vaultUe {page tenant s} (h : Kept F s) : Kept F (vaultUe page tenant s) :=
  kept_raise (kept_bump (kept_loseFlash h))

theorem kept_vaultCe {page s} (h : Kept F s) : Kept F (vaultCe page s) := kept_raise (kept_bump (kept_frame h))

theorem kept_channelLost {ch s} (h : Kept F s) : Kept F (channelLost ch s) :=
  kept_foldl (fun _ _ h => kept_ite h (kept_loseFlash h)) h

theorem kept_stackDraw {stack s} (h : Kept F s) : Kept F (stackDraw stack s).2 := kept_frame h

theorem kept_accFold {sr stack c xs s} (h : Kept F s) : Kept F (accFold sr stack c xs s).2 := by
  induction xs generalizing c s with
  | nil => exact h
  | cons x xs ih => exact ih (keptSnd_ite (kept_stackDraw h) h)

theorem kept_countSums {stack s} (h : Kept F s) : Kept F (countSums stack s) :=
  kept_foldl (fun _ _ h => kept_censusAdd h) (kept_modStack h)

theorem kept_accElem {sr stack k x s} (h : Kept F s) : Kept F (accElem sr stack k x s) :=
  kept_hbmPut (kept_modStack (kept_accFold (kept_ite h (kept_countSums h))))

theorem kept_accRun {sr stack y k xs s} (h : Kept F s) : Kept F (accRun sr stack y k xs s) := by
  induction xs generalizing k s with
  | nil => exact h
  | cons x xs ih => exact ih (kept_accElem h)

theorem kept_accInto {o tenant cls k first xs s} (h : Kept F s) : Kept F (accInto o tenant cls k first xs s) :=
  kept_soiled (kept_bump (kept_accRun h))

theorem kept_accBelow {sr cs xs s} (h : Kept F s) : Kept F (accBelow sr cs xs s).2 := by
  induction cs generalizing xs s with
  | nil => cases xs <;> exact h
  | cons c cs ih =>
    cases xs with
    | nil => exact h
    | cons x xs => exact ih (kept_frame h)

theorem kept_writePlace {fn far p bs last s} (hfar : ∀ x0 x1 x2 x3 x4 x5 s, Kept F s → Kept F (far x0 x1 x2 x3 x4 x5 s))
    (h : Kept F s) : Kept F (writePlace fn far p bs last s) := by
  unfold writePlace
  split
  · exact kept_storeWrite h
  · exact kept_hbmWrite h
  · exact kept_vaultProgram (kept_flash h (twf_tsplice _ _ _ h.flash))
  · exact kept_emit h
  · exact hfar _ _ _ _ _ _ _ h
  · exact h

theorem kept_writePlaces {fn far ps bs s} (hfar : ∀ x0 x1 x2 x3 x4 x5 s, Kept F s → Kept F (far x0 x1 x2 x3 x4 x5 s))
    (h : Kept F s) : Kept F (writePlaces fn far ps bs s) := by
  induction ps generalizing bs s with
  | nil => exact h
  | cons p r ih => exact ih (kept_writePlace hfar h)

theorem kept_accPlace {o tenant far p n xs last s} (hfar : ∀ x0 x1 x2 x3 x4 x5 s, Kept F s → Kept F (far x0 x1 x2 x3 x4 x5 s))
    (h : Kept F s) : Kept F (accPlace o tenant far p n xs last s) := by
  unfold accPlace
  dsimp only
  split
  · exact kept_writePlace hfar (kept_censusAdd (kept_accBelow h))
  · exact kept_writePlace hfar (kept_censusAdd (kept_accBelow (kept_drawFree h)))
  · exact kept_writePlace hfar (kept_censusAdd (kept_accBelow (kept_drawFree h)))
  · exact h

theorem kept_noFar {x0 x1 x2 x3 x4 x5 s} (h : Kept F s) : Kept F (noFar x0 x1 x2 x3 x4 x5 s) := h

theorem kept_accOver {o tenant cls far ps xs s} (hfar : ∀ x0 x1 x2 x3 x4 x5 s, Kept F s → Kept F (far x0 x1 x2 x3 x4 x5 s))
    (h : Kept F s) : Kept F (accOver o tenant cls far ps xs s) := by
  fun_induction accOver o tenant cls far ps xs s with
  | case1 => exact h
  | case2 _ _ _ _ _ _ ih => exact ih (kept_accInto h)
  | case3 _ _ _ _ _ _ ih => exact ih (kept_accPlace hfar h)

theorem kept_writeOver {far tenant va ps bs s cls} (hfar : ∀ x0 x1 x2 x3 x4 x5 s, Kept F s → Kept F (far x0 x1 x2 x3 x4 x5 s))
    (h : Kept F s) : Kept F (writeOver far tenant va ps bs s cls) := by
  unfold writeOver
  split
  · exact kept_accOver hfar h
  · exact kept_writePlaces hfar h

theorem kept_writeVa {far tenant cores va bs s cls} (hfar : ∀ x0 x1 x2 x3 x4 x5 s, Kept F s → Kept F (far x0 x1 x2 x3 x4 x5 s))
    (h : Kept F s) : Kept F (writeVa far tenant cores va bs s cls) :=
  kept_writeOver hfar h

theorem kept_refetchBlock {ecc slot tenant core b acc} (H_acc : Kept F acc.2) : Kept F
    (refetchBlock ecc slot tenant core b acc).2 := by
  unfold refetchBlock
  dsimp only
  split
  · exact kept_raiseJob H_acc
  · split
    · exact keptSnd_ite (kept_raiseJob H_acc) (keptSnd_ite (kept_raiseJob (kept_hbmUe H_acc)) (kept_raiseJob (kept_storeWrite
        (kept_ite (kept_hbmCe H_acc) H_acc))))
    · exact kept_raiseJob H_acc

theorem kept_checkStore {slot tenant core off n s ecc} (h : Kept F s) : Kept F (checkStore slot tenant core off n s ecc).2 := by
  unfold checkStore
  split
  · exact h
  · refine keptSnd_foldl (fun _ _ h => ?_) h
    exact kept_refetchBlock h

/-! ### Machine/Schedule -/

theorem kept_takeOpen {tenant r dir n c s} (h : Kept F s) : Kept F (takeOpen tenant r dir n c s).2 :=
  kept_ite (kept_frame h) (kept_bump (kept_frame h))

theorem kept_translate {tenant ps s} (h : Kept F s) : Kept F (translate tenant ps s) := kept_ite h (kept_frame h)

theorem kept_outsideGrant {tenant src dst c s iod} (h : Kept F s) : Kept F (outsideGrant tenant src dst c s iod).2 := by
  unfold outsideGrant
  dsimp only
  refine kept_translate ?_
  refine keptSnd_foldl (fun _ _ h => ?_) h
  exact kept_takeOpen h

theorem kept_goNow {tenant src dst s iod} (h : Kept F s) : Kept F (goNow tenant src dst s iod) := kept_outsideGrant h

/-! ### Machine/Operands -/

theorem kept_setSreg {k r v usable s} (h : Kept F s) : Kept F (setSreg k r v usable s) :=
  kept_ite h (kept_frame (kept_sregs h (twf_tset _ _ _ h.sregs)))

theorem kept_setVreg {k v lanes usable s} (h : Kept F s) : Kept F (setVreg k v lanes usable s) :=
  kept_frame (kept_vregs h (twf_tsplice _ _ _ h.vregs))

/-! ### Machine/Threads -/

theorem kept_syncOp {obj reset add src s} (h : Kept F s) : Kept F (syncOp obj reset add src s) := by
  unfold syncOp
  dsimp only
  split
  · exact h
  · exact kept_frame h

theorem kept_signalAdd {obj add src s} (h : Kept F s) : Kept F (signalAdd obj add src s) := kept_syncOp h

/-! ### Machine/Clock -/

theorem kept_readRows {t s} (h : Kept F s) : Kept F (readRows t s) := kept_frame h

theorem kept_passRing {core i s} (h : Kept F s) : Kept F (passRing core i s) := kept_modCore h

theorem kept_countHolds {t s} (h : Kept F s) : Kept F (countHolds t s) :=
  kept_ite h (kept_frame (kept_foldl (fun _ _ h => kept_bump h) (kept_foldl (fun _ _ h => kept_bump h) h)))

theorem kept_countWaits {t core s} (h : Kept F s) : Kept F (countWaits t core s) :=
  kept_ite h (kept_foldl (fun _ _ h => kept_bump h) h)

theorem kept_countStalls {n s} (h : Kept F s) : Kept F (countStalls n s) :=
  kept_foldl (fun _ _ h => kept_bump h) (kept_foldl (fun _ _ h => kept_bump h) (kept_foldl (fun _ _ h => kept_ite h (kept_bump
    h)) (kept_foldl (fun _ _ h => kept_bump h) (kept_ite (kept_bump h) h))))

theorem kept_countCor {t s} (h : Kept F s) : Kept F (countCor t s) :=
  kept_foldl (fun _ _ h => kept_ite h (kept_foldl (fun _ _ h => kept_bump h) (kept_ite (kept_ite h (kept_bump h)) (kept_bump
    (kept_ite h (kept_bump h)))))) h

theorem kept_countPauses {t s} (h : Kept F s) : Kept F (countPauses t s) := kept_foldl (fun _ _ h => kept_ite h (kept_bump h)) h

theorem kept_countFetch {n s} (h : Kept F s) : Kept F (countFetch n s) := kept_ite (kept_frame h) h

theorem kept_advance {t s} (h : Kept F s) : Kept F (advance t s) :=
  kept_ite h (kept_frame (kept_countCor (kept_countFetch (kept_countStalls (kept_countPauses (kept_foldl (fun _ _ h =>
    kept_countWaits h) (kept_countHolds (kept_readRows h))))))))

/-! ### Machine/Acks -/

theorem kept_modCtx {i f s} (h : Kept F s) : Kept F (modCtx i f s) := kept_frame h

theorem kept_sendAck {i s} (h : Kept F s) : Kept F (sendAck i s) := by
  unfold sendAck
  split
  · exact h
  · exact kept_originateBft (kept_frame h)

theorem kept_outcome {i psn n code ackReq s} (h : Kept F s) : Kept F (outcome i psn n code ackReq s) := by
  unfold outcome
  split
  · exact h
  · extract_lets _ _ _ s1 s2
    have h1 : Kept F s1 := kept_frame h
    have h2 : Kept F s2 := by
      unfold s2
      split
      · exact kept_bftCount h1
      · exact kept_bftCount h1
      · exact kept_bftCount h1
      · exact kept_bftCount h1
      · exact kept_bftCount h1
      · exact kept_bftCount h1
      · exact h1
    exact kept_ite (kept_sendAck h2) h2

theorem kept_outcomeOf {dcid psn n code ackReq s} (h : Kept F s) : Kept F (outcomeOf dcid psn n code ackReq s) := by
  unfold outcomeOf
  split
  · exact kept_outcome h
  · exact h

theorem kept_ingressFalls {code prio n s} (h : Kept F s) : Kept F (ingressFalls code prio n s) :=
  kept_ite (kept_queueTx (kept_modPort (kept_modPort h))) (kept_modPort h)

theorem kept_wrStatus {slot handle st err s} (h : Kept F s) : Kept F (wrStatus slot handle st err s) := by
  unfold wrStatus
  split
  · exact h
  · exact kept_writeVa (fun _ _ _ _ _ _ _ h => kept_noFar h) h

theorem kept_revokeDone {idx s} (h : Kept F s) : Kept F (revokeDone idx s) := by
  unfold revokeDone
  dsimp only
  split
  · exact h
  · split
    · exact kept_done (kept_irqSet (kept_frame h))
    · exact kept_irqSet (kept_frame h)

theorem kept_armOn {obj threshold handle s} (h : Kept F s) : Kept F (armOn obj threshold handle s).2 := by
  unfold armOn
  dsimp only
  split
  · exact h
  · exact keptSnd_ite h (kept_wrStatus (kept_frame h))

theorem kept_applySync {p s} (h : Kept F s) : Kept F (applySync p s) := by
  unfold applySync
  dsimp only
  split
  · exact kept_outcomeOf h
  · exact kept_outcomeOf (kept_signalAdd h)
  · exact kept_outcomeOf (kept_syncOp h)
  · refine kept_ite (kept_outcomeOf h) ?_
    split
    · rename_i s1 heq
      have h1 : Kept F s1 := kept_of_eq (kept_armOn h) heq
      exact kept_outcomeOf h1
    · rename_i s2 heq
      have h2 : Kept F s2 := kept_of_eq (kept_armOn h) heq
      exact kept_outcomeOf (kept_raiseJob h2)

/-! ### Machine/Transport -/

theorem kept_evictCtx {s} (h : Kept F s) : Kept F (evictCtx s) := by
  unfold evictCtx
  dsimp only
  refine kept_ite h ?_
  split
  · exact kept_bftCount (kept_modCtx h)
  · exact h

theorem kept_allocCtx {c s} (h : Kept F s) : Kept F (allocCtx c s).2 := by
  unfold allocCtx
  dsimp only
  split
  · exact h
  · exact keptSnd_ite (kept_evictCtx h) (kept_frame (kept_evictCtx h))

theorem kept_openCtx {tenant peer pTenant jobId s} (h : Kept F s) : Kept F (openCtx tenant peer pTenant jobId s).2 := by
  unfold openCtx
  dsimp only
  split
  · exact h
  · split
    · rename_i _ s1 heq
      have h1 : Kept F s1 := kept_of_eq (kept_allocCtx h) heq
      exact kept_originateBft h1
    · rename_i s2 heq
      have h2 : Kept F s2 := kept_of_eq (kept_allocCtx h) heq
      exact h2

theorem kept_sendRun {i psn n s} (h : Kept F s) : Kept F (sendRun i psn n s) := by
  unfold sendRun
  dsimp only
  split
  · exact h
  · split
    · exact h
    · exact kept_originateBft (kept_frame (kept_ite (kept_bftCount h) h))

theorem kept_sendPkt {i psn s} (h : Kept F s) : Kept F (sendPkt i psn s) := by
  unfold sendPkt
  split
  · exact kept_sendRun h
  · exact h

theorem kept_pump {i s} (h : Kept F s) : Kept F (pump i s) := by
  unfold pump
  refine kept_foldl (fun _ _ h => ?_) h
  split
  · exact kept_sendRun h
  · exact h

theorem kept_sendOn {i msg ds s} (h : Kept F s) : Kept F (sendOn i msg ds s) := by
  unfold sendOn
  dsimp only
  split
  · exact h
  · exact kept_pump (kept_frame h)

theorem kept_msgError {msg code peer s} (h : Kept F s) : Kept F (msgError msg code peer s) := by
  unfold msgError
  dsimp only
  split
  · split
    · exact kept_raiseJob (kept_frame h)
    · exact h
  · split
    · exact kept_raiseJob (kept_irqSet (kept_bftCount (kept_wrStatus (kept_frame h))))
    · exact h
  · exact kept_raiseJob (kept_irqSet (kept_bump h))
  · exact kept_raiseJob h
  · exact h

theorem kept_sendMsg {slot tenant peer pTenant msg mk s wait} (h : Kept F s) : Kept F
    (sendMsg slot tenant peer pTenant msg mk s wait) := by
  unfold sendMsg
  dsimp only
  split
  · exact kept_sendOn h
  · split
    · rename_i _ s1 heq
      have h1 : Kept F s1 := kept_of_eq (kept_openCtx h) heq
      exact kept_sendOn h1
    · rename_i s2 heq
      have h2 : Kept F s2 := kept_of_eq (kept_openCtx h) heq
      exact kept_msgError h2

theorem kept_startMove {hd page s} (h : Kept F s) : Kept F (startMove hd page s) := by
  unfold startMove
  dsimp only
  split
  · exact kept_ite (kept_sendMsg (kept_modFrame (kept_outsideGrant (kept_promote h)))) (kept_modFrame (kept_outsideGrant
      (kept_promote h)))
  · exact kept_promote h

theorem kept_abandon {msg s} (h : Kept F s) : Kept F (abandon msg s) := kept_frame h

theorem kept_forget {msg s} (h : Kept F s) : Kept F (forget msg s) := kept_frame h

theorem kept_sendNak {i psn code retry s} (h : Kept F s) : Kept F (sendNak i psn code retry s) := by
  unfold sendNak
  dsimp only
  split
  · exact h
  · exact kept_originateBft (kept_ite (kept_bftCount h) (kept_ite (kept_bftCount h) h))

/-! ### Machine/CorBase -/

theorem kept_modCor {slot op f s} (h : Kept F s) : Kept F (modCor slot op f s) := kept_modJob h

theorem kept_putChunk {c kind chunk gran bs s} (h : Kept F s) : Kept F (putChunk c kind chunk gran bs s) := kept_modCor h

theorem kept_corSend {c rank ds s wait} (h : Kept F s) : Kept F (corSend c rank ds s wait) := by
  unfold corSend
  dsimp only
  split
  · exact h
  · exact kept_sendMsg (kept_chargeJob (kept_bump h))

theorem kept_corLand {c va bs s seen ecc} (h : Kept F s) : Kept F (corLand c va bs s seen ecc) := by
  unfold corLand
  extract_lets s1
  have h1 : Kept F s1 := kept_ite h (kept_censusAdd h)
  refine kept_ite h1 ?_
  split
  · exact kept_hbmUe h1
  · exact kept_writeVa (fun _ _ _ _ _ _ _ h => kept_noFar h) (kept_hbmCe h1)
  · exact kept_writeVa (fun _ _ _ _ _ _ _ h => kept_noFar h) h1

theorem kept_corLandLater {c va bs s seen ecc} (h : Kept F s) : Kept F (corLandLater c va bs s seen ecc) :=
  kept_ite h (kept_modCor (kept_frame h))

theorem kept_setEdge {slot q x s} (h : Kept F s) : Kept F (setEdge slot q x s) := kept_frame h

theorem kept_sendCredit {c q freed s} (h : Kept F s) : Kept F (sendCredit c q freed s) := kept_corSend (kept_setEdge h)

theorem kept_entryFreed {c entry s} (h : Kept F s) : Kept F (entryFreed c entry s) := by
  unfold entryFreed
  dsimp only
  split
  · exact h
  · exact kept_sendCredit (kept_setEdge h)

theorem kept_writeBlock {c va bs s} (h : Kept F s) : Kept F (writeBlock c va bs s) :=
  kept_writeVa (fun _ _ _ _ _ _ _ h => kept_noFar h) h

theorem kept_landMove {c p l m s} (h : Kept F s) : Kept F (landMove c p l m s) := kept_writeBlock (kept_bump (kept_modCor h))

theorem kept_goFrame {c p x fin mark s} (h : Kept F s) : Kept F (goFrame c p x fin mark s) := kept_corSend h

theorem kept_stageBlock {c p l s} (h : Kept F s) : Kept F (stageBlock c p l s) := kept_frame h

theorem kept_unstageBlock {c p l s} (h : Kept F s) : Kept F (unstageBlock c p l s) := kept_frame h

theorem kept_startCycles {c p s} (h : Kept F s) : Kept F (startCycles c p s).2 := by
  unfold startCycles
  dsimp only
  split
  · exact h
  · refine keptSnd_foldl (fun _ _ h => ?_) (kept_modCor h)
    exact keptSnd_ite h (kept_goFrame h)

theorem kept_afterMove {c p x fin s} (h : Kept F s) : Kept F (afterMove c p x fin s).2 := by
  unfold afterMove
  dsimp only
  split
  · exact h
  · exact keptSnd_ite (kept_unstageBlock h) (keptSnd_ite h (kept_goFrame h))

theorem kept_copyBlock {c p x fin src dst s} (h : Kept F s) : Kept F (copyBlock c p x fin src dst s) :=
  kept_modCor (kept_frame (kept_outsideGrant h))

theorem kept_moveBlock {c p x fin y va mark s} (h : Kept F s) : Kept F (moveBlock c p x fin y va mark s) :=
  kept_ite (kept_copyBlock h) (kept_modCor (kept_corSend h))

theorem kept_takeGo {c p x fin s} (h : Kept F s) : Kept F (takeGo c p x fin s).2 := by
  unfold takeGo
  dsimp only
  split
  · exact h
  · exact keptSnd_ite (kept_moveBlock h) (keptSnd_ite (kept_afterMove h) (keptSnd_ite (keptSnd_ite (kept_modCor h) (keptSnd_ite
      (kept_afterMove (kept_stageBlock h)) (kept_copyBlock (kept_stageBlock h)))) (kept_moveBlock h)))

theorem kept_takeGoes {c p n xs s} (h : Kept F s) : Kept F (takeGoes c p n xs s) := by
  fun_induction takeGoes c p n xs s with
  | case1 => exact h
  | case2 => exact kept_startCycles h
  | case3 _ _ _ _ _ _ _ htake _ _ hstart ih => exact ih (kept_of_eq (kept_startCycles (kept_of_eq (kept_takeGo h) htake))
    hstart)

theorem kept_retryGoes {c p s} (h : Kept F s) : Kept F (retryGoes c p s) := by
  unfold retryGoes
  dsimp only
  split
  · exact h
  · refine kept_takeGoes (kept_startCycles (keptSnd_foldl (fun _ _ h => ?_) (kept_modCor h)))
    exact kept_afterMove h

theorem kept_moveLands {c p x fin s} (h : Kept F s) : Kept F (moveLands c p x fin s) := by
  unfold moveLands
  dsimp only
  split
  · exact h
  · exact kept_takeGoes (kept_afterMove (kept_landMove (kept_writeBlock (kept_modCor h))))

theorem kept_permOn {slot s} (h : Kept F s) : Kept F (permOn slot s) := by
  unfold permOn
  split
  · exact h
  · refine kept_foldl (fun _ _ h => ?_) h
    split
    · exact kept_retryGoes h
    · exact h

theorem kept_takeBlock {c p block s} (h : Kept F s) : Kept F (takeBlock c p block s) := by
  unfold takeBlock
  dsimp only
  split
  · exact kept_ite h (kept_retryGoes (kept_landMove (kept_writeBlock (kept_modCor h))))
  · exact h

theorem kept_blockLater {c p block s} (h : Kept F s) : Kept F (blockLater c p block s) := by
  unfold blockLater
  dsimp only
  split
  · exact h
  · exact kept_ite h (kept_frame h)

theorem kept_qTake {c s} (h : Kept F s) : Kept F (qTake c s) := by
  unfold qTake
  dsimp only
  split
  · exact kept_ite h (kept_frame (kept_setEdge (kept_modCor (kept_putChunk h))))
  · exact h

theorem kept_wakeQueue {slot edge s} (h : Kept F s) : Kept F (wakeQueue slot edge s) := by
  unfold wakeQueue
  refine kept_foldl (fun _ _ h => ?_) h
  split
  · exact kept_qTake h
  · exact h

theorem kept_clearLogs {slot s} (h : Kept F s) : Kept F (clearLogs slot s) := by
  unfold clearLogs
  split
  · exact h
  · refine kept_foldl (fun _ _ h => ?_) h
    split
    · exact kept_ite (kept_writeBlock h) h
    · exact h

theorem kept_honour {slot mer sender excess s} (h : Kept F s) : Kept F (honour slot mer sender excess s) := by
  unfold honour
  dsimp only
  split
  · exact h
  · exact kept_ite h (kept_irqSet (kept_setCtr (kept_setCtr (kept_bump (kept_modJob h)))))

theorem kept_requestSlip {slot excess s} (h : Kept F s) : Kept F (requestSlip slot excess s) := by
  unfold requestSlip
  dsimp only
  split
  · exact h
  · exact kept_ite h (kept_ite (kept_modJob h) (kept_sendSlip (kept_honour (kept_bump (kept_modJob h)))))

theorem kept_slipCheck {slot s} (h : Kept F s) : Kept F (slipCheck slot s) := by
  unfold slipCheck
  split
  · exact kept_ite (kept_requestSlip h) h
  · exact h

theorem kept_saturated {x s} (h : Kept F s) : Kept F (saturated x s) := by
  unfold saturated
  dsimp only
  split
  · exact kept_ite (kept_frame (kept_raise (kept_frame h))) h
  · exact h

theorem kept_arriveSignal {x s} (h : Kept F s) : Kept F (arriveSignal x s) := by
  unfold arriveSignal
  split
  · exact kept_signalAdd h
  · exact kept_applySync h
  · exact kept_slipCheck h
  · exact kept_saturated h
  · exact kept_revokeDone h
  · exact kept_outcomeOf h
  · split
    · exact kept_ite (kept_frame h) h
    · exact h
  · exact kept_ingressFalls h
  · split
    · exact kept_modCor (kept_corLand h)
    · exact h
  · exact kept_wakeQueue h
  · split
    · exact kept_moveLands h
    · exact h
  · split
    · exact kept_entryFreed h
    · exact h
  · split
    · exact kept_takeBlock h
    · exact h

theorem kept_landBlocks {slot s} (h : Kept F s) : Kept F (landBlocks slot s) := kept_foldl (fun _ _ h => kept_arriveSignal h) h

/-! ### Machine/Held -/

theorem kept_farWrite {slot tenant msg last m peer key off bs s} (h : Kept F s) : Kept F
    (farWrite slot tenant msg last m peer key off bs s) :=
  kept_sendMsg h

theorem kept_ownerPut {k bs s} (h : Kept F s) : Kept F (ownerPut k bs s) := by
  unfold ownerPut
  refine keptSnd_foldl (fun _ _ h => ?_) h
  refine kept_ite h ?_
  split
  · exact kept_hbmWrite h
  · exact kept_hbmPut h

theorem kept_ownerWrite {k bs s} (h : Kept F s) : Kept F (ownerWrite k bs s) := by
  unfold ownerWrite
  dsimp only
  split
  · exact kept_ite (kept_accOver (fun _ _ _ _ _ _ _ h => kept_farWrite h) h) (kept_ownerPut h)
  · exact kept_ownerPut h

theorem kept_barMiss {s} (h : Kept F s) : Kept F (barMiss s) := kept_bump h

theorem kept_landHeld {w s} (h : Kept F s) : Kept F (landHeld w s) := by
  unfold landHeld
  extract_lets _ s1
  have h1 : Kept F s1 := by
    unfold s1
    split
    · exact h
    · exact h
    · exact kept_hbmCe h
    · exact kept_hbmUe h
  refine kept_ite h1 ?_
  split
  · exact kept_ownerWrite (kept_goNow h1)
  · extract_lets s2
    have h2 : Kept F s2 := kept_goNow h1
    exact kept_ite (kept_barMiss h1) (kept_writeVa (fun _ _ _ _ _ _ _ h => kept_farWrite h) h2)

theorem kept_touchPages {ps s} (h : Kept F s) : Kept F (touchPages ps s) := kept_foldl (fun _ _ h => kept_startMove h) h

theorem kept_moveHeld {w s} (h : Kept F s) : Kept F (moveHeld w s) := by
  unfold moveHeld
  split
  · exact h
  · exact kept_touchPages h

theorem kept_writeHeld {w s} (h : Kept F s) : Kept F (writeHeld w s) :=
  kept_ite (kept_landHeld h) (kept_moveHeld (kept_frame h))

theorem kept_eccOf {ecc ps s} (h : Kept F s) : Kept F (eccOf ecc ps s).2 := by
  unfold eccOf
  split
  · exact kept_hbmCe h
  · exact kept_hbmUe h
  · exact kept_vaultCe h
  · exact kept_vaultUe h
  · exact h

theorem kept_workFails {id w s} (h : Kept F s) : Kept F (workFails id w s) := kept_wrStatus (kept_frame h)

theorem kept_sendWork {id j w bs data s} (h : Kept F s) : Kept F (sendWork id j w bs data s) := by
  unfold sendWork
  dsimp only
  split
  · split
    · exact kept_raiseJob (kept_workFails (kept_wrStatus (kept_frame h)))
    · exact kept_ite (kept_workFails (kept_eccOf (kept_wrStatus (kept_frame h)))) (kept_sendMsg (kept_goNow (kept_eccOf
        (kept_wrStatus (kept_frame h)))))
  · exact kept_sendMsg (kept_wrStatus (kept_frame h))
  · exact kept_sendMsg (kept_wrStatus (kept_frame h))

theorem kept_issueWork {slot handle j bs data s} (h : Kept F s) : Kept F (issueWork slot handle j bs data s) :=
  kept_ite (kept_wrStatus h) (kept_ite (kept_touchPages (kept_frame h)) (kept_sendWork (kept_frame h)))

theorem kept_releaseWork {id w s} (h : Kept F s) : Kept F (releaseWork id w s) := by
  unfold releaseWork
  split
  · exact kept_ite h (kept_sendWork h)
  · exact h

theorem kept_releaseHeld {s} (h : Kept F s) : Kept F (releaseHeld s) :=
  kept_foldl (fun _ _ h => kept_releaseWork h) (kept_ite h (kept_foldl (fun _ _ h => kept_ite (kept_frame h) (kept_landHeld h))
    (kept_frame h)))

/-! ### Machine/Abort -/

theorem kept_scribble {ps s} (h : Kept F s) : Kept F (scribble ps s) := by
  fun_induction scribble ps s with
  | case1 => exact h
  | case2 _ _ _ _ _ _ hdraw ih => exact ih (kept_storeWrite (kept_of_eq (kept_drawFree h) hdraw))
  | case3 _ _ _ _ _ _ _ hdraw ih => exact ih (kept_hbmWrite (kept_of_eq (kept_drawFree h) hdraw))
  | case4 _ _ _ _ _ ih => exact ih h

theorem kept_dropMOp {m s} (h : Kept F s) : Kept F (dropMOp m s) := kept_ite h (kept_scribble h)

theorem kept_dropMOps {slot s} (h : Kept F s) : Kept F (dropMOps slot s) :=
  kept_frame (kept_foldl (fun _ _ h => kept_storeWrite (kept_drawFree h)) (kept_foldl (fun _ _ h => kept_dropMOp h) h))

theorem kept_dropCor {slot j s} (h : Kept F s) : Kept F (dropCor slot j s) := by
  unfold dropCor
  dsimp only
  refine kept_foldl (fun _ _ h => ?_) h
  split
  · exact h
  · exact kept_ite h (kept_scribble h)

theorem kept_unlockPages {s slot j} (h : Kept F s) : Kept F (unlockPages s slot j) := by
  unfold unlockPages
  dsimp only
  split
  · exact h
  · exact kept_foldl (fun _ _ h => kept_modFrame h) h

theorem kept_finishAbort {slot j src s} (h : Kept F s) : Kept F (finishAbort slot j src s) :=
  kept_endJob (kept_unlockPages (kept_foldl (fun _ _ h => kept_irqSet h) (kept_frame (kept_foldl (fun _ _ h => kept_wrStatus h)
    (kept_dropCor (kept_dropMOps (kept_landBlocks h)))))))

theorem kept_settleAt {a s} (h : Kept F s) : Kept F (settleAt a s) := by
  unfold settleAt
  dsimp only
  refine kept_foldl (fun _ _ h => ?_) ?_
  · exact kept_arriveSignal h
  · refine kept_frame (kept_foldl (fun _ _ h => ?_) (kept_foldl (fun _ _ h => kept_saturated h) (kept_frame (kept_foldl (fun _ _
      h => kept_countSums h) (kept_foldl (fun _ _ h => kept_censusAdd h) (kept_frame h))))))
    split
    · exact kept_ite (kept_finishAbort h) h
    · exact h

theorem kept_settle {t s} (h : Kept F s) : Kept F (settle t s) := kept_foldl (fun _ _ h => kept_settleAt (kept_advance h)) h

theorem kept_tick {t s} (h : Kept F s) : Kept F (tick t s) :=
  kept_refuseHeaders (kept_releaseHeld (kept_advance (kept_settle h)))

/-! ### Machine/Sync -/

theorem kept_unitSignal {slot idx add s} (h : Kept F s) : Kept F (unitSignal slot idx add s) := by
  unfold unitSignal
  split
  · exact h
  · split
    · exact kept_signalAdd h
    · exact h

/-! ### Machine/Issue -/

theorem kept_strike {core k us s} (h : Kept F s) : Kept F (strike core k us s) := by
  unfold strike
  refine kept_foldl (fun _ _ h => ?_) h
  split <;> exact kept_frame h

theorem kept_modThr {k f s} (h : Kept F s) : Kept F (modThr k f s) := kept_frame h

theorem kept_markIssue {core k cls t slot s} (h : Kept F s) : Kept F (markIssue core k cls t slot s) :=
  kept_modThr (kept_frame (kept_modCore (kept_bump h)))

theorem kept_issue {cls op i f s} (hf : ∀ x s, Kept F s → Kept F (f x s)) (h : Kept F s) : Kept F (issue cls op i f s) := by
  unfold issue
  extract_lets s1 _ _ s2
  have h1 : Kept F s1 := kept_tick h
  have h2 : Kept F s2 := kept_strike h1
  split
  · exact h1
  · split
    · exact h1
    · refine kept_ite h1 ?_
      split
      · exact kept_ite h1 (kept_raiseJob h1)
      · exact kept_ite h1 (kept_ite h2 (kept_ite h2 (hf _ _ (kept_markIssue h2))))

theorem kept_thrFault {src c s detail} (h : Kept F s) : Kept F (thrFault src c s detail) := kept_raiseJob h

theorem kept_addRange {c lo hi until_ panel s} (h : Kept F s) : Kept F (addRange c lo hi until_ panel s) := kept_frame h

theorem kept_landStore {c lo hi until_ bs s} (h : Kept F s) : Kept F (landStore c lo hi until_ bs s) :=
  kept_frame (kept_storeWrite h)

/-! ### Machine/Control -/

theorem kept_checkDone {slot s} (h : Kept F s) : Kept F (checkDone slot s) := by
  unfold checkDone
  dsimp only
  split
  · exact h
  · exact kept_ite (kept_unlockPages (kept_modJob (kept_frame (kept_setCtr h)))) h

theorem kept_control {op f i s} (hf : ∀ x s, Kept F s → Kept F (f x s)) (h : Kept F s) : KeptNext F (control op f i s) :=
  KeptNext.next (kept_issue hf h)

theorem kept_jumpTo {c target s} (h : Kept F s) : Kept F (jumpTo c target s) :=
  kept_ite (kept_modThr h) (kept_thrFault (kept_modThr h))

theorem kept_execNop {i s} (h : Kept F s) : KeptNext F (execNop i s) := kept_control (fun _ _ h => h) h

theorem kept_execEndThread {i s} (h : Kept F s) : KeptNext F (execEndThread i s) :=
  kept_control (fun _ _ h => kept_checkDone (kept_modThr h)) h

theorem kept_execBr {i s} (h : Kept F s) : KeptNext F (execBr i s) := kept_control (fun _ _ h => kept_jumpTo h) h

theorem kept_execBrc {i s} (h : Kept F s) : KeptNext F (execBrc i s) := kept_control (fun _ _ h => kept_ite (kept_jumpTo h) h) h

theorem kept_execMile {i s} (h : Kept F s) : KeptNext F (execMile i s) := by
  unfold execMile
  dsimp only
  refine kept_control (fun _ _ h => ?_) h
  split
  · exact h
  · exact kept_frame (kept_modJob h)

theorem kept_execCall {i s} (h : Kept F s) : KeptNext F (execCall i s) :=
  kept_control (fun _ _ h => kept_jumpTo (kept_setSreg h)) h

theorem kept_execRet {i s} (h : Kept F s) : KeptNext F (execRet i s) := kept_control (fun _ _ h => kept_jumpTo h) h

/-! ### Machine/MemClass -/

theorem kept_memory {op f i s} (hf : ∀ x s, Kept F s → Kept F (f x s)) (h : Kept F s) : KeptNext F (memory op f i s) :=
  KeptNext.next (kept_issue hf h)

theorem kept_loadStore {c core off n s} (h : Kept F s) : Kept F (loadStore c core off n s).2 :=
  keptSnd_ite (kept_threadRead (kept_checkStore h)) (kept_checkStore h)

theorem kept_putStore {c r bs s} (h : Kept F s) : Kept F (putStore c r bs s) := kept_landStore h

theorem kept_sigAt {c t s} (h : Kept F s) : Kept F (sigAt c t s) := by
  unfold sigAt
  refine kept_ite ?_ h
  split
  · exact kept_frame h
  · exact h

theorem kept_execMldv {i s} (h : Kept F s) : KeptNext F (execMldv i s) := by
  unfold execMldv
  dsimp only
  refine kept_memory (fun _ _ h => ?_) h
  refine kept_ite (kept_thrFault h) ?_
  split
  · rename_i _ _ s1 heq
    have h1 : Kept F s1 := kept_of_eq (kept_loadStore h) heq
    exact kept_sigAt (kept_setVreg h1)
  · rename_i s2 heq
    have h2 : Kept F s2 := kept_of_eq (kept_loadStore h) heq
    exact h2

theorem kept_execMstv {i s} (h : Kept F s) : KeptNext F (execMstv i s) :=
  kept_memory (fun _ _ h => kept_ite (kept_thrFault h) (kept_ite (kept_thrFault h) (kept_sigAt (kept_putStore h)))) h

theorem kept_execMlds {i s} (h : Kept F s) : KeptNext F (execMlds i s) := by
  unfold execMlds
  dsimp only
  refine kept_memory (fun _ _ h => ?_) h
  refine kept_ite (kept_thrFault h) ?_
  split
  · rename_i _ _ s1 heq
    have h1 : Kept F s1 := kept_of_eq (kept_loadStore h) heq
    exact kept_sigAt (kept_setSreg h1)
  · rename_i s2 heq
    have h2 : Kept F s2 := kept_of_eq (kept_loadStore h) heq
    exact h2

theorem kept_execMsts {i s} (h : Kept F s) : KeptNext F (execMsts i s) :=
  kept_memory (fun _ _ h => kept_ite (kept_thrFault h) (kept_sigAt (kept_putStore h))) h

theorem kept_execMldvx {i s} (h : Kept F s) : KeptNext F (execMldvx i s) := by
  unfold execMldvx
  dsimp only
  refine kept_memory (fun _ _ h => ?_) h
  split
  · exact kept_thrFault h
  · refine kept_ite (kept_thrFault h) ?_
    split
    · rename_i _ _ s1 heq
      have h1 : Kept F s1 := kept_of_eq (kept_loadStore h) heq
      exact kept_sigAt (kept_setVreg h1)
    · rename_i s2 heq
      have h2 : Kept F s2 := kept_of_eq (kept_loadStore h) heq
      exact h2

theorem kept_copyFar {slot tenant msg src dst s} (h : Kept F s) : Kept F (copyFar slot tenant msg src dst s) := by
  unfold copyFar
  dsimp only
  split
  · refine kept_sendMsg ?_
    split
    · exact kept_sendMsg h
    · exact h
  · split
    · exact kept_sendMsg h
    · exact h

theorem kept_execMcopy {i s} (h : Kept F s) : KeptNext F (execMcopy i s) := by
  unfold execMcopy
  refine kept_memory (fun _ _ h => ?_) h
  extract_lets _ _ _ _ _ _ _ _ s1
  have h1 : Kept F s1 := kept_touchPages (kept_frame h)
  refine kept_ite (kept_thrFault h) ?_
  split
  · exact kept_thrFault h
  · split
    rename_i _ s2 heq
    have h2 : Kept F s2 := kept_of_eq (keptSnd_ite h1 (kept_outsideGrant h1)) heq
    extract_lets _ _ _ s3 s4
    have h3 : Kept F s3 := kept_modCore h2
    have h4 : Kept F s4 := kept_foldl (fun _ _ h => kept_addRange h) h3
    exact kept_ite h4 (kept_copyFar h4)

theorem kept_execMstream {i s} (h : Kept F s) : KeptNext F (execMstream i s) :=
  kept_memory (fun _ _ h => kept_ite (kept_thrFault h) (kept_ite (kept_thrFault h) (kept_modCore (kept_foldl (fun _ _ h =>
    kept_passRing h) h)))) h

theorem kept_checkSpans {slot tenant ps ecc s} (h : Kept F s) : Kept F (checkSpans slot tenant ps ecc s).2 := by
  unfold checkSpans
  dsimp only
  refine keptSnd_foldl (fun _ _ h => ?_) h
  split
  · exact kept_checkStore h
  · exact h

theorem kept_popCopy {core m s} (h : Kept F s) : Kept F (popCopy core m s) := kept_frame (kept_modCore h)

theorem kept_copySignal {core m s} (h : Kept F s) : Kept F (copySignal core m s) := by
  unfold copySignal
  refine kept_ite ?_ h
  split
  · split
    · exact kept_signalAdd h
    · exact h
  · exact h

theorem kept_copyFails {core m tenant err s} (h : Kept F s) : Kept F (copyFails core m tenant err s) := by
  unfold copyFails
  extract_lets s1
  have h1 : Kept F s1 := kept_popCopy h
  split
  · exact kept_hostMemErr h1
  · split
    · exact kept_vaultUe h1
    · exact h1
  · exact kept_raiseJob h1
  · split
    · exact kept_ite (kept_hbmUe h1) (kept_hbmUe h1)
    · exact h1

theorem kept_copyRead {core thr ps out s} (h : Kept F s) : Kept F (copyRead core thr ps out s).2 := by
  induction ps generalizing out s with
  | nil => exact h
  | cons p r ih =>
    obtain ⟨p, n⟩ := p
    cases p with
    | core k => exact ih (kept_threadRead h)
    | _ => exact ih h

theorem kept_execMOpComplete {t core data err s} (h : Kept F s) : KeptNext F (execMOpComplete t core data err s) := by
  unfold execMOpComplete
  extract_lets s1
  have h1 : Kept F s1 := kept_tick h
  refine KeptNext.next ?_
  split
  · exact h1
  · split
    · exact h1
    · extract_lets _ s2 _ _ _ s3
      have h2 : Kept F s2 := kept_modCore h1
      have h3 : Kept F s3 := kept_ite (kept_foldl (fun _ _ h => kept_hbmCe h) h2) (kept_ite (kept_foldl (fun _ _ h =>
        kept_vaultCe h) h2) h2)
      refine kept_ite (kept_ite (kept_checkDone (kept_copySignal (kept_popCopy h1))) h1) ?_
      split
      · exact kept_raiseJob (kept_popCopy h2)
      · refine kept_ite (kept_copyFails h2) (kept_ite (kept_touchPages h2) (kept_ite h2 (kept_ite (kept_copyFar (kept_modCore
          h2)) (kept_ite h2 ?_))))
        split
        rename_i _ s4 heq
        have h4 : Kept F s4 := kept_of_eq (kept_checkSpans h3) heq
        extract_lets s5
        have h5 : Kept F s5 := kept_forget (kept_popCopy h4)
        refine kept_ite ?_ h5
        split
        rename_i _ s6 heq
        have h6 : Kept F s6 := kept_of_eq (kept_copyRead h5) heq
        extract_lets s7 s8
        have h7 : Kept F s7 := kept_chargeJob h6
        have h8 : Kept F s8 := kept_writeOver (fun _ _ _ _ _ _ _ h => kept_noFar h) h7
        exact kept_checkDone (kept_copySignal h8)

/-! ### Machine/Ope -/

theorem kept_freeSlot {core i s} (h : Kept F s) : Kept F (freeSlot core i s) := kept_frame h

theorem kept_releaseSlot {core i s} (h : Kept F s) : Kept F (releaseSlot core i s) :=
  kept_ite (kept_frame h) (kept_ite h (kept_freeSlot h))

theorem kept_deliver {core i vals side s} (h : Kept F s) : Kept F (deliver core i vals side s) :=
  kept_ite (kept_freeSlot (kept_passRing h)) (kept_frame (kept_passRing h))

theorem kept_stepSum {core m k s} (h : Kept F s) : Kept F (stepSum core m k s) := by
  unfold stepSum addOuter
  refine kept_acc ?_ (twf_tsplice _ _ _ ?_)
  · exact keptSnd_ite (kept_threadRead h) (kept_threadRead (kept_threadRead h))
  · exact Kept.acc (keptSnd_ite (kept_threadRead h) (kept_threadRead (kept_threadRead h)))

theorem kept_execMac {i s} (h : Kept F s) : KeptNext F (execMac i s) := by
  refine KeptNext.next (kept_issue (fun c s h => ?_) h)
  dsimp only
  refine kept_ite (kept_raiseJob h) (kept_foldl (fun _ _ h => kept_addRange h) (kept_modCore (kept_ite ?_ h)))
  exact kept_frame (kept_acc h (twf_tclear _ _ h.acc))

theorem kept_execDrain {i s} (h : Kept F s) : KeptNext F (execDrain i s) :=
  KeptNext.next (kept_issue (fun _ _ h => kept_ite (kept_raiseJob h) (kept_ite (kept_raiseJob h) (kept_landStore (kept_modCore
    h)))) h)

theorem kept_execRelease {i s} (h : Kept F s) : KeptNext F (execRelease i s) :=
  KeptNext.next (kept_issue (fun _ _ h => kept_foldl (fun _ _ h => kept_releaseSlot h) h) h)

theorem kept_useGrant {core s} (h : Kept F s) : Kept F (useGrant core s) := kept_modCore h

theorem kept_macDone {core m s} (h : Kept F s) : Kept F (macDone core m s) := kept_frame (kept_modCore h)

theorem kept_macWaits {core m s} (h : Kept F s) : Kept F (macWaits core m s) := kept_modCore h

theorem kept_relSlots {core m n s} (h : Kept F s) : Kept F (relSlots core m n s) :=
  kept_ite (kept_foldl (fun _ _ h => kept_freeSlot h) h) h

theorem kept_execOpeStepEntry {t at_ s} (h : Kept F s) : KeptNext F (execOpeStepEntry t at_ s) := by
  unfold execOpeStepEntry
  extract_lets s1
  have h1 : Kept F s1 := kept_tick h
  refine KeptNext.next ?_
  split
  · exact h1
  · extract_lets
    split
    · exact h1
    · refine kept_ite h1 (kept_ite (kept_macWaits h1) ?_)
      split
      · exact kept_raiseJob (kept_modCore h1)
      · refine kept_ite (kept_bump (kept_macWaits h1)) ?_
        split
        · exact kept_raiseJob (kept_modCore h1)
        · refine kept_ite (kept_raiseJob (kept_modCore h1)) ?_
          split
          rename_i _ s2 heq
          have h2 : Kept F s2 := kept_of_eq (kept_checkStore h1) heq
          split
          rename_i _ s3 heq
          have h3 : Kept F s3 := kept_of_eq (keptSnd_ite h2 (kept_checkStore h2)) heq
          extract_lets s4 s5 s6 s7
          have h4 : Kept F s4 := kept_foldl (fun _ _ h => kept_stepSum h) h3
          have h5 : Kept F s5 := kept_relSlots (kept_useGrant h4)
          have h6 : Kept F s6 := kept_bump h5
          have h7 : Kept F s7 := kept_chargeJob h6
          exact kept_ite (kept_modCore h3) (kept_ite (kept_macDone h7) (kept_modCore h7))

theorem kept_deliverAll {dests i sl s} (h : Kept F s) : Kept F (deliverAll dests i sl s) :=
  kept_foldl (fun _ _ h => kept_foldl (fun _ _ h => kept_deliver h) h) h

theorem kept_loseSlot {core i s} (h : Kept F s) : Kept F (loseSlot core i s) := kept_passRing (kept_frame h)

theorem kept_deliverShared {core i rows sl s} (h : Kept F s) : Kept F (deliverShared core i rows sl s) :=
  kept_ite (kept_bump (kept_foldl (fun _ _ h => kept_ite (kept_loseSlot h) (kept_deliver h)) h)) (kept_foldl (fun _ _ h =>
    kept_ite (kept_loseSlot h) (kept_deliver h)) h)

/-! ### Machine/StackEngine -/

theorem kept_engineDraw {j stack gen e s} (h : Kept F s) : Kept F (engineDraw j stack gen e s).2 :=
  keptSnd_ite h (kept_stackDraw h)

theorem kept_engineDraws {sr j stack gen e n s} (h : Kept F s) : Kept F (engineDraws sr j stack gen e n s).2 := by
  induction n generalizing e s with
  | zero => exact h
  | succ n ih => exact keptSnd_ite (ih (kept_engineDraw h)) h

theorem kept_engErr {slot stack err s} (h : Kept F s) : Kept F (engErr slot stack err s).2 := by
  unfold engErr
  split
  · exact h
  · exact kept_hbmCe h
  · exact kept_hbmUe h
  · exact kept_raise h
  · exact kept_raiseJob h
  · exact kept_raiseJob h

theorem kept_objWrite {hd off bs s} (h : Kept F s) : Kept F (objWrite hd off bs s) := by
  unfold objWrite
  refine keptSnd_foldl (fun _ _ h => ?_) h
  split
  · exact kept_hbmWrite h
  · exact h

theorem kept_workDone {slot key s} (h : Kept F s) : Kept F (workDone slot key s) := kept_modJob h

theorem kept_engineWork {slot stack p deferred s} (h : Kept F s) : Kept F (engineWork slot stack p deferred s) :=
  kept_ite (kept_chargeJob h) (kept_bump (kept_chargeJob h))

theorem kept_execSeStream {t slot entry s} (h : Kept F s) : KeptNext F (execSeStream t slot entry s) := by
  unfold execSeStream
  extract_lets s1
  have h1 : Kept F s1 := kept_tick h
  refine KeptNext.next ?_
  split
  · exact h1
  · split
    · extract_lets _ s2 s3
      have h2 : Kept F s2 := kept_foldl (fun _ _ h => kept_passRing h) h1
      have h3 : Kept F s3 := kept_foldl (fun _ _ h => kept_passRing h) h2
      exact kept_ite h1 (kept_ite h1 (kept_ite (kept_raiseJob h1) (kept_ite h1 (kept_modStack h3))))
    · exact h1

theorem kept_deriveRow {j e row bs s} (h : Kept F s) : Kept F (deriveRow j e row bs s).2.2 := by
  unfold deriveRow
  dsimp only
  exact keptSnd_ite2 (kept_censusAdd h) (kept_censusAdd (kept_engineDraws h))

theorem kept_deliverySlots {j e r s} (h : Kept F s) : Kept F (deliverySlots j e r s).2 :=
  keptSnd_ite (kept_deriveRow h) (keptSnd_ite (kept_deriveRow h) (keptSnd_ite2 (kept_deriveRow (kept_deriveRow h))
    (kept_deriveRow h)))

theorem kept_engineRow {stack idx err s} (h : Kept F s) : Kept F (engineRow stack idx err s) := by
  unfold engineRow
  split
  · exact h
  · split
    · exact h
    · extract_lets
      refine kept_ite h ?_
      split
      rename_i _ s1 heq
      have h1 : Kept F s1 := kept_of_eq (kept_engErr h) heq
      refine kept_ite h1 ?_
      split
      rename_i _ s2 heq
      have h2 : Kept F s2 := kept_of_eq (kept_deliverySlots h1) heq
      extract_lets s3 s4 s5
      have h3 : Kept F s3 := kept_ite (kept_foldl (fun _ _ h => kept_deliverShared h) h2) (kept_deliverAll h2)
      have h4 : Kept F s4 := kept_bump h3
      have h5 : Kept F s5 := kept_chargeJob h4
      exact kept_ite (kept_workDone (kept_modStack h5)) (kept_modStack h5)

theorem kept_copyRow {core ecc s} (h : Kept F s) : Kept F (copyRow core ecc s) := by
  unfold copyRow
  dsimp only
  split
  · exact h
  · split
    · exact h
    · refine kept_ite h (kept_ite ?_ ?_)
      · refine kept_modCore ?_
        split
        · exact kept_checkStore (kept_checkStore h)
        · exact kept_checkStore h
      · refine kept_modCore ?_
        refine kept_deliverAll ?_
        split
        · refine kept_threadRead ?_
          refine kept_threadRead ?_
          split
          · exact kept_checkStore (kept_checkStore h)
          · exact kept_checkStore h
        · refine kept_threadRead ?_
          split
          · exact kept_checkStore (kept_checkStore h)
          · exact kept_checkStore h

theorem kept_execStreamRowWrite {t src s} (h : Kept F s) : KeptNext F (execStreamRowWrite t src s) := by
  unfold execStreamRowWrite
  dsimp only
  refine KeptNext.next (kept_ite (kept_tick h) ?_)
  split
  · exact kept_engineRow (kept_tick h)
  · exact kept_copyRow (kept_tick h)

theorem kept_seRun {slot entry err j e at_ out ps act s} (hact : ∀ s, Kept F s → Kept F (act s)) (h : Kept F s) : Kept F
    (seRun slot entry err j e at_ out ps act s) := by
  unfold seRun
  dsimp only
  refine kept_ite h ?_
  split
  · exact kept_raiseJob (kept_workDone h)
  · exact kept_ite (kept_touchPages h) (kept_workDone (kept_ite (hact _ (kept_engineWork (kept_engErr h))) (kept_engErr h)))

theorem kept_execSeAccum {t slot work s} (h : Kept F s) : KeptNext F (execSeAccum t slot work s) := by
  unfold execSeAccum
  dsimp only
  refine KeptNext.next ?_
  split
  · exact kept_tick h
  · refine kept_seRun (fun _ h => ?_) (kept_tick h)
    split
    · exact kept_accOver (fun _ _ _ _ _ _ _ h => kept_noFar h) h
    · exact h

theorem kept_packForm {j e bs s} (h : Kept F s) : Kept F (packForm j e bs s).2 :=
  keptSnd_ite h (keptSnd_ite h (kept_engineDraws h))

theorem kept_putForm {j e bs s} (h : Kept F s) : Kept F (putForm j e bs s) :=
  kept_writeVa (fun _ _ _ _ _ _ _ h => kept_noFar h) h

theorem kept_execSePack {t slot work s} (h : Kept F s) : KeptNext F (execSePack t slot work s) := by
  unfold execSePack
  dsimp only
  refine KeptNext.next ?_
  split
  · exact kept_tick h
  · refine kept_seRun (fun _ h => ?_) (kept_tick h)
    split
    · rename_i s1 heq
      have h1 : Kept F s1 := kept_of_eq (kept_packForm h) heq
      exact kept_raiseJob h1
    · rename_i _ _ s2 heq
      have h2 : Kept F s2 := kept_of_eq (kept_packForm h) heq
      exact kept_putForm (kept_censusAdd h2)

theorem kept_execSeUnpack {t slot work s} (h : Kept F s) : KeptNext F (execSeUnpack t slot work s) := by
  unfold execSeUnpack
  dsimp only
  refine KeptNext.next ?_
  split
  · exact kept_tick h
  · exact kept_seRun (fun _ h => kept_putForm h) (kept_tick h)

theorem kept_execSeZero {t slot entry s} (h : Kept F s) : KeptNext F (execSeZero t slot entry s) := by
  unfold execSeZero
  dsimp only
  refine KeptNext.next ?_
  split
  · exact kept_tick h
  · refine kept_seRun (fun _ h => ?_) (kept_tick h)
    refine kept_foldl (fun _ _ h => ?_) h
    split
    · exact kept_frame (kept_hbmWrite h)
    · exact h

/-! ### Machine/Strips -/

theorem kept_putMoments {hd stack i n bs s} (h : Kept F s) : Kept F (putMoments hd stack i n bs s) :=
  kept_objWrite (kept_objWrite h)

theorem kept_putHeader {d e hd s} (h : Kept F s) : Kept F (putHeader d e hd s) := kept_objWrite h

theorem kept_putRec {u d p st s} (h : Kept F s) : Kept F (putRec u d p st s) := by
  unfold putRec
  dsimp only
  split
  · exact h
  · exact kept_frame h

theorem kept_seJobCtr {stack off slot s} (h : Kept F s) : Kept F (seJobCtr stack off slot s) := kept_bump h

theorem kept_wake {run d ps s} (h : Kept F s) : Kept F (wake run d ps s) := by
  fun_induction wake run d ps s with
  | case1 => exact h
  | case2 => exact h
  | case3 _ _ _ _ _ _ ih => exact ih h
  | case4 _ _ _ _ _ _ _ _ _ ih => exact ih (kept_ite (kept_putRec (kept_frame h)) (kept_frame h))

theorem kept_nextStrip {run d n s} (h : Kept F s) : Kept F (nextStrip run d n s) := by
  induction n generalizing s with
  | zero => exact h
  | succ n ih =>
    unfold nextStrip
    split
    · exact h
    · refine kept_ite h (kept_ite (ih (kept_seJobCtr (kept_frame h))) ?_)
      split
      · exact h
      · exact kept_frame h

theorem kept_pumpUpd {run s} (h : Kept F s) : Kept F (pumpUpd run s) := by
  unfold pumpUpd
  dsimp only
  split
  · exact h
  · split
    · exact h
    · exact kept_ite (kept_nextStrip (kept_frame (kept_wake h))) (kept_frame (kept_wake h))

theorem kept_pumpStack {stack s} (h : Kept F s) : Kept F (pumpStack stack s) := kept_foldl (fun _ _ h => kept_pumpUpd h) h

theorem kept_interruptRun {run u s} (h : Kept F s) : Kept F (interruptRun run u s) :=
  kept_pumpStack (kept_ite (kept_irqSet (kept_workDone (kept_frame h))) (kept_workDone (kept_frame h)))

theorem kept_settleUpd {run s} (h : Kept F s) : Kept F (settleUpd run s) := by
  unfold settleUpd
  dsimp only
  split
  · exact h
  · exact kept_ite (kept_irqSet (kept_frame h)) (kept_ite (kept_workDone (kept_frame h)) h)

theorem kept_addUpd {u s} (h : Kept F s) : Kept F (addUpd u s) := kept_frame h

theorem kept_startZero {slot entry j d e at_ s} (h : Kept F s) : Kept F (startZero slot entry j d e at_ s) :=
  kept_pumpUpd (kept_addUpd h)

theorem kept_startPrep {slot entry j d e at_ s} (h : Kept F s) : Kept F (startPrep slot entry j d e at_ s) := by
  unfold startPrep
  dsimp only
  refine kept_ite (kept_workDone (kept_bump h)) ?_
  split
  · exact h
  · exact kept_pumpUpd (kept_addUpd h)

theorem kept_startPass {slot entry j d e at_ s} (h : Kept F s) : Kept F (startPass slot entry j d e at_ s) :=
  kept_ite (kept_raiseJob (kept_workDone (kept_bump h))) (kept_settleUpd (kept_pumpUpd (kept_addUpd (kept_frame h))))

theorem kept_execSeUpdate {t slot work s} (h : Kept F s) : KeptNext F (execSeUpdate t slot work s) := by
  unfold execSeUpdate
  extract_lets _ s1
  have h1 : Kept F s1 := kept_tick h
  refine KeptNext.next ?_
  split
  · exact h1
  · extract_lets
    split
    · exact h1
    · exact kept_ite h1 (kept_ite (kept_foldl (fun _ _ h => kept_startMove h) h1) (kept_ite (kept_workDone (kept_engErr h1))
        (kept_ite (kept_raiseJob (kept_workDone (kept_engErr h1))) (kept_ite (kept_ite (kept_workDone (kept_engErr h1))
        (kept_startZero (kept_engErr h1))) (kept_ite (kept_startPrep (kept_engErr h1)) (kept_startPass (kept_engErr h1)))))))

theorem kept_prepPhase {slot j d u k s} (h : Kept F s) : Kept F (prepPhase slot j d u k s) :=
  kept_ite (kept_ite h (kept_ite (kept_raiseJob (kept_bump h)) (kept_putHeader (kept_objWrite (kept_ite (kept_censusAdd h)
    h))))) (kept_ite (kept_putHeader h) (kept_ite (kept_objWrite h) (kept_putHeader h)))

theorem kept_roundMoments {has j d e e0 vals s} (h : Kept F s) : Kept F (roundMoments has j d e e0 vals s).2 :=
  keptSnd_ite (kept_engineDraws h) h

theorem kept_computeStrip {j d u p s} (h : Kept F s) : Kept F (computeStrip j d u p s).2 :=
  keptSnd_ite (kept_roundMoments (kept_roundMoments (kept_engineDraws h))) (kept_roundMoments (kept_roundMoments
    (kept_engineDraws h)))

theorem kept_phaseOver {run u p s} (h : Kept F s) : Kept F (phaseOver run u p s) := kept_frame h

theorem kept_phaseWork {u d p s} (h : Kept F s) : Kept F (phaseWork u d p s) := kept_engineWork h

theorem kept_earlyPhase {run u j d p err s} (h : Kept F s) : Kept F (earlyPhase run u j d p err s) := by
  unfold earlyPhase
  dsimp only
  refine kept_ite (kept_interruptRun h) (kept_ite (kept_raiseJob (kept_interruptRun h)) (kept_ite (kept_engErr h) (kept_ite
    (kept_ite (kept_raiseJob (kept_engErr h)) (kept_pumpStack (kept_phaseOver (kept_phaseWork (kept_engErr h))))) ?_)))
  split
  · rename_i _ s1 heq
    have h1 : Kept F s1 := kept_of_eq (kept_computeStrip (kept_engErr h)) heq
    exact kept_pumpStack (kept_phaseOver (kept_phaseWork h1))
  · rename_i s2 heq
    have h2 : Kept F s2 := kept_of_eq (kept_computeStrip (kept_engErr h)) heq
    exact kept_raiseJob (kept_bump (kept_frame h2))

theorem kept_latePhase {run u d p err s} (h : Kept F s) : Kept F (latePhase run u d p err s) := by
  unfold latePhase
  extract_lets _ _ _ s1 s2 s3 s4 s5 s6 _ s7
  have h1 : Kept F s1 := kept_putRec (kept_frame h)
  have h2 : Kept F s2 := kept_raise h1
  have h3 : Kept F s3 := kept_phaseWork (kept_engErr h)
  have h4 : Kept F s4 := kept_ite (kept_putMoments h3) h3
  have h5 : Kept F s5 := kept_foldl (fun _ _ h => kept_censusAdd h) (kept_seJobCtr (kept_putRec h3))
  have h6 : Kept F s6 := by
    unfold s6
    split
    · exact kept_putRec (kept_ite (kept_seJobCtr h3) h3)
    · exact kept_ite (kept_putMoments h4) h4
    · exact kept_objWrite h3
    · exact kept_objWrite h3
    · exact kept_ite (kept_seJobCtr h5) h5
  have h7 : Kept F s7 := kept_frame h6
  split
  · exact kept_settleUpd (kept_pumpStack h2)
  · exact kept_raiseJob (kept_interruptRun h)
  · exact kept_ite (kept_pumpStack (kept_phaseOver h6)) (kept_settleUpd (kept_pumpStack h7))

theorem kept_solePhase {run u d p err s} (h : Kept F s) : Kept F (solePhase run u d p err s) := by
  unfold solePhase
  dsimp only
  split
  · exact h
  · exact kept_ite (kept_workDone (kept_frame h)) (kept_ite (kept_engErr h) (kept_settleUpd (kept_pumpStack (kept_frame
      (kept_ite (kept_prepPhase (kept_phaseWork (kept_engErr h))) (kept_objWrite (kept_phaseWork (kept_engErr h))))))))

theorem kept_execStripPhaseComplete {t run strip err s} (h : Kept F s) : KeptNext F
    (execStripPhaseComplete t run strip err s) := by
  unfold execStripPhaseComplete
  extract_lets s1 s2
  have h1 : Kept F s1 := kept_tick h
  have h2 : Kept F s2 := kept_ite (kept_pumpUpd h1) h1
  refine KeptNext.next (kept_ite h1 ?_)
  split
  · exact h2
  · split
    · split
      · exact h2
      · refine kept_ite h2 (kept_ite (kept_solePhase h2) (kept_ite (kept_latePhase h2) ?_))
        split
        · exact kept_earlyPhase h2
        · exact h2
    · exact h2

/-! ### Machine/Tiers -/

theorem kept_modMap {hd tenant f s} (h : Kept F s) : Kept F (modMap hd tenant f s) := kept_frame h

theorem kept_setPin {hd tenant page s} (h : Kept F s) : Kept F (setPin hd tenant page s) := kept_modMap h

theorem kept_castVote {hd tenant page s} (h : Kept F s) : Kept F (castVote hd tenant page s) := by
  unfold castVote
  dsimp only
  refine kept_ite ?_ ?_
  · refine kept_foldl (fun _ _ h => ?_) ?_
    · exact kept_bump h
    · split
      · exact kept_modFrame (kept_modMap h)
      · exact kept_modMap h
  · split
    · exact kept_modFrame (kept_modMap h)
    · exact kept_modMap h

theorem kept_modEph {slot entry f s} (h : Kept F s) : Kept F (modEph slot entry f s) := kept_modJob h

theorem kept_doneCc {j e s} (h : Kept F s) : Kept F (doneCc j e s).2 := keptSnd_ite h (kept_frame h)

theorem kept_writeStatus {slot entry outcome failed tier r e s} (h : Kept F s) : Kept F
    (writeStatus slot entry outcome failed tier r e s) := by
  unfold writeStatus
  dsimp only
  split
  · exact h
  · split
    · exact kept_writeHeld (kept_doneCc h)
    · exact kept_doneCc h

theorem kept_endEph {slot entry outcome failed tier s} (h : Kept F s) : Kept F (endEph slot entry outcome failed tier s) := by
  unfold endEph
  extract_lets
  split
  · exact h
  · split
    · split
      extract_lets _ s1 s2 s3 s4 s5 s6
      have h1 : Kept F s1 := kept_frame h
      have h2 : Kept F s2 := kept_bump h1
      have h3 : Kept F s3 := kept_ite (kept_irqSet (kept_bump (kept_bump h2))) h2
      have h4 : Kept F s4 := kept_writeStatus h3
      have h5 : Kept F s5 := kept_modEph h4
      have h6 : Kept F s6 := kept_ite (kept_ite (kept_unitSignal h5) h5) (kept_ite (kept_unitSignal h5) h5)
      exact kept_checkDone h6
    · exact h

theorem kept_ephPage {slot entry page tier s} (h : Kept F s) : Kept F (ephPage slot entry page tier s) := by
  unfold ephPage
  dsimp only
  split
  · exact h
  · split
    · exact kept_ite h (kept_ite (kept_endEph (kept_ite (kept_setPin (kept_modEph h)) (kept_modEph h))) (kept_ite (kept_setPin
        (kept_modEph h)) (kept_modEph h)))
    · exact h

theorem kept_startPages {slot entry s} (h : Kept F s) : Kept F (startPages slot entry s) := by
  unfold startPages
  split
  · exact h
  · split
    · exact kept_foldl (fun _ _ h => kept_ite (kept_ephPage h) (kept_startMove h)) h
    · exact h

theorem kept_waitOver {cmd x s} (h : Kept F s) : Kept F (waitOver cmd x s) := kept_ite (kept_done h) h

theorem kept_cmdPage {hd page s} (h : Kept F s) : Kept F (cmdPage hd page s) :=
  kept_foldl (fun _ _ h => kept_ite (kept_ite (kept_waitOver (kept_ite (kept_setPin h) h)) (kept_frame (kept_ite (kept_setPin h)
    h))) h) h

theorem kept_pumpMoves {s} (h : Kept F s) : Kept F (pumpMoves s) :=
  kept_foldl (fun _ _ h => kept_ite (kept_foldl (fun _ _ h => kept_startMove h) h) h) (kept_foldl (fun _ _ h => kept_startPages
    h) (kept_foldl (fun _ _ h => kept_modEph h) h))

theorem kept_arrive {hd page first tier s} (h : Kept F s) : Kept F (arrive hd page first tier s) := by
  unfold arrive
  dsimp only
  split
  · exact h
  · exact kept_pumpMoves (kept_cmdPage (kept_foldl (fun _ _ h => kept_ephPage h) (kept_modFrame (kept_frame h))))

theorem kept_execPromotionComplete {t obj page data s} (h : Kept F s) : KeptNext F
    (execPromotionComplete t obj page data s) := by
  unfold execPromotionComplete
  dsimp only
  refine KeptNext.next ?_
  split
  · exact kept_ite (kept_arrive (kept_bump (kept_forget (kept_hbmPut (kept_ite (kept_vaultCe (kept_tick h)) (kept_tick h))))))
      (kept_tick h)
  · exact kept_tick h

theorem kept_copyHome {o page first s} (h : Kept F s) : Kept F (copyHome o page first s) :=
  kept_writePlace (fun _ _ _ _ _ _ _ h => kept_farWrite h) (kept_goNow h)

theorem kept_pageErr {ecc first s} (h : Kept F s) : Kept F (pageErr ecc first s) := by
  unfold pageErr
  split
  · exact h
  · exact kept_hbmCe h
  · exact kept_hbmUe h

theorem kept_execDemotionCopyComplete {t obj read s} (h : Kept F s) : KeptNext F (execDemotionCopyComplete t obj read s) := by
  unfold execDemotionCopyComplete
  dsimp only
  refine KeptNext.next ?_
  split
  · exact kept_tick h
  · split
    · exact kept_tick h
    · exact kept_ite (kept_tick h) (kept_ite (kept_modFrame (kept_tick h)) (kept_ite (kept_tick h) (kept_ite (kept_modFrame
        (kept_pageErr (kept_tick h))) (kept_modFrame (kept_copyHome (kept_pageErr (kept_tick h)))))))

theorem kept_execEphEntryArm {t slot entry s} (h : Kept F s) : KeptNext F (execEphEntryArm t slot entry s) := by
  unfold execEphEntryArm
  dsimp only
  refine KeptNext.next ?_
  split
  · exact kept_tick h
  · split
    · exact kept_ite (kept_tick h) (kept_ite (kept_endEph (kept_modEph (kept_foldl (fun _ _ h => kept_castVote h) (kept_modEph
        (kept_tick h))))) (kept_pumpMoves (kept_modEph (kept_tick h))))
    · exact kept_tick h

theorem kept_cancelPages {slot entry hd r s} (h : Kept F s) : Kept F (cancelPages slot entry hd r s) := by
  unfold cancelPages
  refine kept_foldl (fun _ _ h => ?_) h
  refine kept_ite h ?_
  split
  · exact kept_ite (kept_releaseFrame (kept_abandon h)) h
  · exact h

theorem kept_execEphDeadlineFallback {t slot entry s} (h : Kept F s) : KeptNext F (execEphDeadlineFallback t slot entry s) := by
  unfold execEphDeadlineFallback
  dsimp only
  refine KeptNext.next ?_
  split
  · exact kept_tick h
  · split
    · exact kept_ite (kept_pumpMoves (kept_endEph (kept_cancelPages (kept_tick h)))) (kept_tick h)
    · exact kept_tick h

theorem kept_entryFails {slot entry page s} (h : Kept F s) : Kept F (entryFails slot entry page s) := by
  unfold entryFails
  split
  · exact h
  · split
    · extract_lets _ s1 s2
      have h1 : Kept F s1 := by
        unfold s1
        split
        · exact kept_ite (kept_vaultUe h) h
        · exact h
      have h2 : Kept F s2 := kept_cancelPages h1
      exact kept_ite h (kept_ite (kept_pumpMoves (kept_endEph h2)) (kept_pumpMoves (kept_raiseJob (kept_endEph h2))))
    · exact h

theorem kept_execEphPageFail {t slot entry page s} (h : Kept F s) : KeptNext F (execEphPageFail t slot entry page s) :=
  KeptNext.next (kept_entryFails (kept_tick h))

theorem kept_farFails {f s} (h : Kept F s) : Kept F (farFails f s) := by
  unfold farFails
  split
  · exact h
  · extract_lets _ s1
    have h1 : Kept F s1 := kept_foldl (fun _ _ h => kept_entryFails h) h
    refine kept_ite h ?_
    split
    · exact kept_ite (kept_releaseFrame (kept_abandon h1)) h1
    · exact h1

theorem kept_vaultSpare {s} (h : Kept F s) : Kept F (vaultSpare s) :=
  kept_ite (kept_irqSet (kept_raise (kept_frame (kept_ite (kept_irqSet (kept_note (kept_frame h))) h)))) (kept_ite (kept_irqSet
    (kept_note (kept_frame h))) h)

theorem kept_retireBlock {b s} (h : Kept F s) : Kept F (retireBlock b s) := kept_vaultSpare (kept_alm (kept_frame h))

theorem kept_execVaultErase {t work s} (h : Kept F s) : KeptNext F (execVaultErase t work s) :=
  KeptNext.next (kept_ite (kept_tick h) (kept_ite (kept_retireBlock (kept_tick h)) (kept_alm (kept_frame (kept_tick h)))))

theorem kept_vaultRefuses {hd s} (h : Kept F s) : Kept F (vaultRefuses hd s) := kept_raise h

theorem kept_endFlush {f copied s} (h : Kept F s) : Kept F (endFlush f copied s) := kept_modFrame (kept_frame h)

theorem kept_execVaultFlush {w s} (h : Kept F s) : KeptNext F (execVaultFlush w s) := by
  unfold execVaultFlush
  extract_lets s1
  have h1 : Kept F s1 := kept_tick h
  refine KeptNext.next ?_
  split
  · split
    · exact kept_ite (kept_frame h1) (kept_ite (kept_vaultRefuses (kept_endFlush h1)) (kept_ite h1 (kept_ite (kept_endFlush
        (kept_pageErr h1)) (kept_endFlush (kept_copyHome (kept_pageErr h1))))))
    · exact kept_frame h1
  · split
    · exact h1
    · exact kept_ite (kept_vaultRefuses h1) (kept_ite h1 (kept_modFrame (kept_frame h1)))

theorem kept_execWearLevelMove {t src dst failed s} (h : Kept F s) : KeptNext F (execWearLevelMove t src dst failed s) := by
  have h1 := kept_tick (t := t) h
  refine KeptNext.next ?_
  split
  exact kept_ite h1 (kept_ite (kept_retireBlock h1) (kept_ite h1 (kept_ite h1 (kept_bump (kept_frame h1)))))

theorem kept_settleFills {stack s} (h : Kept F s) : Kept F (settleFills stack s) :=
  kept_foldl (fun _ _ h => kept_ite h (kept_arrive (kept_frame (kept_hbm_tclear h)))) h

theorem kept_execPageFillComplete {t stack s} (h : Kept F s) : KeptNext F (execPageFillComplete t stack s) := by
  unfold execPageFillComplete
  refine KeptNext.next ?_
  have h1 := kept_tick (t := t) h
  generalize tick t s = s at h1 ⊢
  dsimp only
  split
  · exact h1
  · next first n rest heq =>
    have h2 : Kept F (takeOpen none (2 + stack.val) 0 (1024 * n) s.now s).2 := kept_takeOpen h1
    refine kept_ite h1 (kept_pumpMoves (kept_settleFills (kept_foldl (fun _ _ h => kept_repairFrame h) (kept_bump (kept_modStack
      ?_)))))
    generalize (takeOpen none (2 + stack.val) 0 (1024 * n) s.now s).2 = v at h2 ⊢
    exact kept_hbm_tclear h2

theorem kept_scrubStep {stack whole s} (h : Kept F s) : Kept F (scrubStep stack whole s) :=
  kept_ite (kept_modStack h) (kept_ite (kept_bump (kept_modStack h)) (kept_modStack h))

theorem kept_scrubErr {stack frame ecc s} (h : Kept F s) : Kept F (scrubErr stack frame ecc s) := by
  unfold scrubErr
  split
  · exact h
  · exact kept_hbmCe h
  · split
    · exact kept_hbmUe h
    · exact kept_repairFrame (kept_hbmUe h)

theorem kept_execPatrolScrubRead {t stack ecc ecc2 s} (h : Kept F s) : KeptNext F (execPatrolScrubRead t stack ecc ecc2 s) :=
  KeptNext.next (kept_ite (kept_tick h) (kept_ite (kept_scrubStep (kept_modStack (kept_tick h))) (kept_scrubStep (kept_scrubErr
    (kept_scrubErr (kept_goNow (kept_tick h)))))))

theorem kept_execAccumulateWrite {t who va data ecc s} (h : Kept F s) : KeptNext F
    (execAccumulateWrite t who va data ecc s) := by
  unfold execAccumulateWrite
  dsimp only
  refine KeptNext.next ?_
  split
  · exact kept_tick h
  · split
    · exact kept_tick h
    · refine kept_ite (kept_tick h) ?_
      split
      · exact kept_tick h
      · refine kept_ite (kept_tick h) ?_
        split
        · exact kept_hbmUe (kept_ite (kept_goNow (kept_tick h)) (kept_tick h))
        · exact kept_writeVa (fun _ _ _ _ _ _ _ h => kept_farWrite h) (kept_hbmCe (kept_ite (kept_goNow (kept_tick h))
            (kept_tick h)))
        · exact kept_writeVa (fun _ _ _ _ _ _ _ h => kept_farWrite h) (kept_ite (kept_goNow (kept_tick h)) (kept_tick h))

/-! ### Machine/Barfeos -/

theorem kept_execTriggerFire {t obj idx data s} (h : Kept F s) : KeptNext F (execTriggerFire t obj idx data s) := by
  unfold execTriggerFire
  dsimp only
  refine KeptNext.next ?_
  split
  · exact kept_tick h
  · split
    · exact kept_tick h
    · refine kept_ite (kept_tick h) ?_
      split
      · exact kept_tick h
      · exact kept_issueWork (kept_bftCount (kept_frame (kept_tick h)))

theorem kept_execWorkRequestComplete {t id err data s} (h : Kept F s) : KeptNext F
    (execWorkRequestComplete t id err data s) := by
  unfold execWorkRequestComplete
  extract_lets s1 _ s2
  have h1 : Kept F s1 := kept_tick h
  have h2 : Kept F s2 := kept_forget (kept_frame h1)
  refine KeptNext.next ?_
  split
  · exact h1
  · split
    · exact h1
    · extract_lets _ s3 s4
      have h3 : Kept F s3 := kept_ite (kept_landHeld h2) h2
      have h4 : Kept F s4 := kept_wrStatus h3
      refine kept_ite h1 (kept_ite (kept_msgError h1) (kept_ite (kept_moveHeld h1) (kept_ite ?_ h4)))
      split
      · exact kept_signalAdd h4
      · exact h4

theorem kept_endMsg {msg code peer s} (h : Kept F s) : Kept F (endMsg msg code peer s) :=
  kept_ite (kept_farFails h) (kept_msgError h)

theorem kept_ctxError {i code s} (h : Kept F s) : Kept F (ctxError i code s) := by
  unfold ctxError
  dsimp only
  split
  · exact h
  · exact kept_foldl (fun _ _ h => kept_endMsg h) (kept_irqSet (kept_frame h))

theorem kept_sendRefuse {p cause s} (h : Kept F s) : Kept F (sendRefuse p cause s) := kept_originateBft h

theorem kept_sendAccept {i s} (h : Kept F s) : Kept F (sendAccept i s) := by
  unfold sendAccept
  split
  · exact kept_originateBft h
  · exact h

theorem kept_answerNew {p s} (h : Kept F s) : Kept F (answerNew p s) := by
  unfold answerNew
  split
  · rename_i _ s1 heq
    have h1 : Kept F s1 := kept_of_eq (kept_allocCtx h) heq
    exact kept_sendAccept h1
  · rename_i s2 heq
    have h2 : Kept F s2 := kept_of_eq (kept_allocCtx h) heq
    exact kept_sendRefuse h2

theorem kept_openWith {i c b s} (h : Kept F s) : Kept F (openWith i c b s) := kept_frame h

theorem kept_execConnect {t p s} (h : Kept F s) : KeptNext F (execConnect t p s) := by
  unfold execConnect
  extract_lets s1 _ s2
  have h1 : Kept F s1 := kept_tick h
  have h2 : Kept F s2 := kept_bftCount h1
  refine KeptNext.next (kept_ite h1 (kept_ite (kept_bftCount (kept_bftCount h1)) ?_))
  split
  · exact kept_sendAccept h2
  · refine kept_ite (kept_sendRefuse h2) (kept_ite (kept_sendRefuse h2) ?_)
    split
    · extract_lets
      exact kept_ite (kept_answerNew (kept_ctxError h2)) (kept_pump (kept_sendAccept (kept_openWith h2)))
    · exact kept_answerNew h2

theorem kept_hold {p s} (h : Kept F s) : Kept F (hold p s) :=
  kept_ite (kept_bftCount (kept_frame h)) (kept_sendNak (kept_irqSet h))

theorem kept_regionUse {key s} (h : Kept F s) : Kept F (regionUse key s) := kept_frame h

theorem kept_revokeNext {idx s} (h : Kept F s) : Kept F (revokeNext idx s) :=
  kept_ite (kept_ite (kept_revokeDone h) (kept_frame h)) h

theorem kept_regionEnd {key s} (h : Kept F s) : Kept F (regionEnd key s) := kept_revokeNext (kept_frame h)

theorem kept_serveRead {p c wait bs s} (h : Kept F s) : Kept F (serveRead p c wait bs s) :=
  kept_foldl (fun _ _ h => kept_originateBft h) h

theorem kept_atomicResp {p c wait old s} (h : Kept F s) : Kept F (atomicResp p c wait old s) := kept_originateBft h

theorem kept_serveAtomic {p c key first wait s} (h : Kept F s) : Kept F (serveAtomic p c key first wait s) :=
  kept_atomicResp (kept_modCtx (kept_hbmWrite h))

theorem kept_serve {p data ecc s} (h : Kept F s) : Kept F (serve p data ecc s) := by
  unfold serve
  extract_lets
  split
  · exact h
  · extract_lets
    split
    rename_i _ s1 heq
    have h1 : Kept F s1 := kept_of_eq (kept_eccOf h) heq
    extract_lets s2 s3 s4
    have h2 : Kept F s2 := kept_ite (kept_goNow h1) (kept_goNow h1)
    have h3 : Kept F s3 := kept_writeVa (fun _ _ _ _ _ _ _ h => kept_farWrite h) h2
    have h4 : Kept F s4 := by
      unfold s4
      refine kept_ite ?_ h3
      split
      · exact kept_signalAdd h3
      · exact h3
    refine kept_ite (kept_outcomeOf (kept_regionEnd h2)) ?_
    split
    · exact kept_outcomeOf (kept_regionEnd h4)
    · exact kept_serveRead (kept_regionEnd h2)
    · split
      · exact kept_serveAtomic (kept_regionEnd h2)
      · exact kept_outcomeOf (kept_regionEnd h2)
    · exact kept_regionEnd h2

theorem kept_letIn {p ecc s} (h : Kept F s) : Kept F (letIn p ecc s) := by
  unfold letIn
  dsimp only
  split
  · exact h
  · split
    · exact kept_outcome h
    · refine kept_ite (kept_frame h) ?_
      split
      · exact h
      · exact kept_ite (kept_hold (kept_foldl (fun _ _ h => kept_startMove h) h)) (kept_ite (kept_outcome h) (kept_ite
          (kept_touchPages (kept_frame (kept_regionUse h))) (kept_serve (kept_regionUse h))))

theorem kept_badContext {hd s} (h : Kept F s) : Kept F (badContext hd s) := by
  unfold badContext
  dsimp only
  split
  · exact kept_sendNak h
  · exact kept_originateBft (kept_bftCount (kept_frame h))

theorem kept_duplicate {p c ecc s} (h : Kept F s) : Kept F (duplicate p c ecc s) := by
  unfold duplicate
  extract_lets s1
  have h1 : Kept F s1 := kept_sendAck (kept_bftCount h)
  refine kept_ite h1 ?_
  split
  · exact kept_ite (kept_letIn h1) h1
  · split
    · exact kept_atomicResp h1
    · exact h1
  · exact h1

theorem kept_window {p c ecc k s} (hk : ∀ s, Kept F s → Kept F (k s)) (h : Kept F s) : Kept F (window p c ecc k s) :=
  kept_ite (kept_duplicate h) (kept_ite (kept_bftCount h) (hk _ h))

theorem kept_receive {p ecc s} (h : Kept F s) : Kept F (receive p ecc s) := by
  unfold receive
  dsimp only
  split
  · exact h
  · refine kept_window (fun _ h => ?_) h
    refine kept_ite (kept_outcome h) ?_
    split
    · exact kept_mismatch (kept_outcome h)
    · refine kept_ite ?_ ?_
      · refine kept_outcome ?_
        split
        · exact kept_chargeJob h
        · exact h
      · refine kept_ite ?_ ?_
        · refine kept_letIn ?_
          refine kept_bftCount ?_
          split
          · exact kept_chargeJob h
          · exact h
        · refine kept_letIn ?_
          split
          · exact kept_chargeJob h
          · exact h

theorem kept_heard {i hd s} (h : Kept F s) : Kept F (heard i hd s) := kept_ite (kept_bftCount (kept_modCtx h)) (kept_modCtx h)

theorem kept_rxContext {also p k s} (hk : ∀ x s, Kept F s → Kept F (k x s)) (h : Kept F s) : Kept F (rxContext also p k s) := by
  unfold rxContext
  dsimp only
  refine kept_ite (kept_bftCount (kept_bftCount h)) ?_
  split
  · exact kept_badContext (kept_bftCount h)
  · exact kept_ite (kept_badContext (kept_bftCount h)) (kept_ite (kept_hold (kept_bftCount h)) (kept_ite (kept_bftCount
      (kept_bftCount h)) (hk _ _ (kept_heard (kept_bftCount h)))))

theorem kept_rxData {t mk ecc s} (h : Kept F s) : KeptNext F (rxData t mk ecc s) :=
  KeptNext.next (kept_ite (kept_tick h) (kept_rxContext (fun _ _ h => kept_receive h) (kept_tick h)))

theorem kept_execWrite {t hd key rgn data s} (h : Kept F s) : KeptNext F (execWrite t hd key rgn data s) := kept_rxData h

theorem kept_execReadReq {t hd key rgn ecc s} (h : Kept F s) : KeptNext F (execReadReq t hd key rgn ecc s) := kept_rxData h

theorem kept_execAtomic {t hd key off aop ops ecc s} (h : Kept F s) : KeptNext F (execAtomic t hd key off aop ops ecc s) :=
  kept_rxData h

theorem kept_execSync {t hd key obj sop value wrh s} (h : Kept F s) : KeptNext F (execSync t hd key obj sop value wrh s) :=
  kept_rxData h

theorem kept_strayPkt {hd s} (h : Kept F s) : Kept F (strayPkt hd s) := by
  unfold strayPkt
  dsimp only
  split
  · exact kept_ite (kept_window (fun _ h => kept_outcome h) (kept_heard (kept_bftCount h))) (kept_bftCount (kept_bftCount h))
  · exact kept_bftCount (kept_bftCount h)

theorem kept_execBftWriteLand {t pkt data ecc s} (h : Kept F s) : KeptNext F (execBftWriteLand t pkt data ecc s) := by
  unfold execBftWriteLand
  extract_lets _ s1 s2
  have h1 : Kept F s1 := kept_tick h
  have h2 : Kept F s2 := kept_frame h1
  refine KeptNext.next ?_
  split
  · exact h1
  · extract_lets
    split
    · exact h2
    · extract_lets
      exact kept_ite h1 (kept_ite (kept_regionEnd (kept_outcomeOf h2)) (kept_ite (kept_regionEnd h2) (kept_ite (kept_serve h2)
        (kept_touchPages (kept_frame h1)))))

theorem kept_execBftHoldRelease {t r s} (h : Kept F s) : KeptNext F (execBftHoldRelease t r s) := by
  unfold execBftHoldRelease
  dsimp only
  refine KeptNext.next (kept_ite (kept_tick h) ?_)
  split
  · exact kept_tick h
  · exact kept_ite (kept_tick h) (kept_letIn (kept_frame (kept_tick h)))

theorem kept_execBftHoldExpiry {t hold s} (h : Kept F s) : KeptNext F (execBftHoldExpiry t hold s) := by
  unfold execBftHoldExpiry
  dsimp only
  refine KeptNext.next (kept_ite (kept_tick h) ?_)
  split
  · exact kept_tick h
  · exact kept_ite (kept_tick h) (kept_ite (kept_sendNak (kept_frame (kept_tick h))) (kept_frame (kept_tick h)))

theorem kept_settleMsgs {i s} (h : Kept F s) : Kept F (settleMsgs i s) := by
  unfold settleMsgs
  dsimp only
  split
  · exact h
  · split
    · exact kept_permOn (kept_pump (kept_foldl (fun _ _ h => kept_endMsg h) (kept_frame h)))
    · exact kept_pump (kept_foldl (fun _ _ h => kept_endMsg h) (kept_frame h))

theorem kept_takeAck {i hd b s} (h : Kept F s) : Kept F (takeAck i hd b s) := by
  unfold takeAck
  dsimp only
  split
  · exact h
  · exact kept_settleMsgs (kept_foldl (fun _ _ h => kept_ite (kept_sendPkt h) h) (kept_frame (kept_ite (kept_bftCount h) h)))

theorem kept_takeNak {i hd code retryAfter s} (h : Kept F s) : Kept F (takeNak i hd code retryAfter s) := by
  unfold takeNak
  dsimp only
  split
  · exact h
  · refine kept_ite (kept_ctxError h) (kept_ite ?_ h)
    split
    · exact kept_bftCount h
    · exact kept_ite (kept_ctxError (kept_bftCount h)) (kept_modCtx (kept_bftCount h))

theorem kept_takeClose {i s} (h : Kept F s) : Kept F (takeClose i s) := by
  unfold takeClose
  split
  · exact h
  · exact kept_frame h

theorem kept_rxControl {t hd opcode op1 op2 k s} (hk : ∀ x s, Kept F s → Kept F (k x s)) (h : Kept F s) : KeptNext F
    (rxControl t hd opcode op1 op2 k s) :=
  KeptNext.next (kept_ite (kept_tick h) (kept_rxContext (fun _ _ h => kept_ite (hk _ _ h) (kept_bftCount h)) (kept_tick h)))

theorem kept_execAck {t hd b s} (h : Kept F s) : KeptNext F (execAck t hd b s) := kept_rxControl (fun _ _ h => kept_takeAck h) h

theorem kept_execNak {t hd code retryAfter s} (h : Kept F s) : KeptNext F (execNak t hd code retryAfter s) :=
  kept_rxControl (fun _ _ h => kept_takeNak h) h

theorem kept_execClose {t hd s} (h : Kept F s) : KeptNext F (execClose t hd s) :=
  kept_rxControl (fun _ _ h => kept_takeClose h) h

theorem kept_rxAnswer {t hd k s} (hk : ∀ x0 x1 s, Kept F s → Kept F (k x0 x1 s)) (h : Kept F s) : KeptNext F
    (rxAnswer t hd k s) :=
  KeptNext.next (kept_ite (kept_tick h) (kept_rxContext (fun _ _ h => kept_ite (kept_bftCount h) (kept_ite (hk _ _ _ h) h))
    (kept_tick h)))

theorem kept_execAccept {t hd b s} (h : Kept F s) : KeptNext F (execAccept t hd b s) :=
  kept_rxAnswer (fun _ _ _ h => kept_pump (kept_openWith h)) h

theorem kept_execRefuse {t hd cause s} (h : Kept F s) : KeptNext F (execRefuse t hd cause s) := by
  unfold execRefuse
  dsimp only
  exact kept_rxAnswer (fun _ _ _ h => kept_ctxError h) h

theorem kept_response {t hd op keep s} (h : Kept F s) : KeptNext F (response t hd op keep s) := by
  unfold response
  dsimp only
  refine KeptNext.next (kept_ite (kept_tick h) (kept_rxContext (fun _ _ h => ?_) (kept_tick h)))
  split
  · exact h
  · split
    · exact kept_bftCount h
    · split
      · exact kept_bftCount h
      · exact kept_settleMsgs (kept_frame h)

theorem kept_execReadResp {t hd off data s} (h : Kept F s) : KeptNext F (execReadResp t hd off data s) := kept_response h

theorem kept_execAtomicResp {t hd old s} (h : Kept F s) : KeptNext F (execAtomicResp t hd old s) := kept_response h

theorem kept_resume {p s} (h : Kept F s) : Kept F (resume p s) := by
  unfold resume
  split
  · exact kept_bftCount h
  · exact kept_bftCount h
  · exact kept_takeAck h
  · exact kept_takeNak h
  · exact kept_takeClose h
  · exact h
  · exact kept_receive h

theorem kept_execBftContextFetch {t ctx ok s} (h : Kept F s) : KeptNext F (execBftContextFetch t ctx ok s) := by
  unfold execBftContextFetch
  extract_lets s1 s2 mine drop
  have h1 : Kept F s1 := kept_tick h
  have h2 : Kept F s2 := kept_evictCtx h1
  refine KeptNext.next ?_
  split
  · exact h1
  · have hdrop (s : State) (h : Kept F s) : Kept F (drop s) := kept_frame h
    refine kept_ite h1 (kept_ite (kept_pump (kept_foldl (fun _ _ h => ?_) (kept_modCtx (hdrop _ h2))))
      (kept_ctxError (kept_modCtx (hdrop _ h1))))
    exact kept_ite (kept_bftCount h) (kept_ite (kept_bftCount h) (kept_resume (kept_heard h)))

theorem kept_execBftRetryAfterExpiry {t ctx psn s} (h : Kept F s) : KeptNext F (execBftRetryAfterExpiry t ctx psn s) := by
  unfold execBftRetryAfterExpiry
  dsimp only
  refine KeptNext.next ?_
  split
  · split
    · exact kept_ite (kept_tick h) (kept_ite (kept_ctxError (kept_tick h)) (kept_sendPkt (kept_tick h)))
    · exact kept_tick h
  · exact kept_tick h

theorem kept_execBftRtoExpiry {t ctx psn s} (h : Kept F s) : KeptNext F (execBftRtoExpiry t ctx psn s) := by
  unfold execBftRtoExpiry
  dsimp only
  refine KeptNext.next (kept_ite (kept_tick h) ?_)
  split
  · exact kept_tick h
  · refine kept_ite (kept_ite (kept_tick h) (kept_ite (kept_ctxError (kept_bftCount (kept_tick h))) (kept_originateBft
      (kept_bftCount (kept_frame (kept_tick h)))))) (kept_ite ?_ (kept_tick h))
    split
    · exact kept_tick h
    · exact kept_ite (kept_tick h) (kept_ite (kept_ctxError (kept_bftCount (kept_tick h))) (kept_sendPkt (kept_frame
        (kept_bftCount (kept_tick h)))))

theorem kept_execBftAckTimer {t ctx s} (h : Kept F s) : KeptNext F (execBftAckTimer t ctx s) := by
  unfold execBftAckTimer
  dsimp only
  refine KeptNext.next (kept_ite (kept_tick h) ?_)
  split
  · exact kept_ite (kept_sendAck (kept_tick h)) (kept_tick h)
  · exact kept_tick h

theorem kept_execBftIdleClose {t ctx s} (h : Kept F s) : KeptNext F (execBftIdleClose t ctx s) := by
  unfold execBftIdleClose
  dsimp only
  refine KeptNext.next (kept_ite (kept_tick h) ?_)
  split
  · exact kept_ite (kept_closeCtx (kept_tick h)) (kept_tick h)
  · exact kept_tick h

theorem kept_execBftCwndIncrease {t ctx s} (h : Kept F s) : KeptNext F (execBftCwndIncrease t ctx s) := by
  unfold execBftCwndIncrease
  dsimp only
  refine KeptNext.next (kept_ite (kept_tick h) ?_)
  split
  · exact kept_ite (kept_pump (kept_modCtx (kept_tick h))) (kept_tick h)
  · exact kept_tick h

/-! ### Machine/Views -/

theorem kept_ownerRead {k n s} (h : Kept F s) : Kept F (ownerRead k n s).2 := kept_frame h

/-! ### Machine/NightLog -/

theorem kept_execAckWindowExpiry {t record s} (h : Kept F s) : KeptNext F (execAckWindowExpiry t record s) := by
  unfold execAckWindowExpiry
  dsimp only
  refine KeptNext.next ?_
  split
  · exact kept_ite (kept_raise (kept_frame (kept_tick h))) (kept_tick h)
  · exact kept_tick h

theorem kept_acknowledge {record s} (h : Kept F s) : Kept F (acknowledge record s) := by
  unfold acknowledge
  dsimp only
  split
  · exact kept_ite (kept_frame h) h
  · exact h

theorem kept_execFltAck {t record s} (h : Kept F s) : KeptNext F (execFltAck t record s) :=
  KeptNext.next (kept_ite (kept_acknowledge (kept_tick h)) (kept_tick h))

theorem kept_ringPush {e s} (h : Kept F s) : Kept F (ringPush e s) := by
  unfold ringPush
  dsimp only
  refine kept_frame ?_
  split
  · exact kept_ite h (kept_ite (kept_irqSet (kept_bump (kept_frame h))) (kept_frame h))
  · exact h

theorem kept_execNightLogDrain {t s} (h : Kept F s) : KeptNext F (execNightLogDrain t s) := by
  unfold execNightLogDrain
  dsimp only
  refine KeptNext.next ?_
  split
  · exact kept_tick h
  · exact kept_ite (kept_tick h) (kept_ite (kept_irqSet (kept_ringPush (kept_frame (kept_goNow (kept_tick h))))) (kept_ringPush
      (kept_frame (kept_goNow (kept_tick h)))))

theorem kept_execBeaconGenerate {t s} (h : Kept F s) : KeptNext F (execBeaconGenerate t s) := by
  unfold execBeaconGenerate
  dsimp only
  refine KeptNext.next ?_
  split
  · exact kept_ite (kept_tick h) (kept_queueMgt (kept_frame (kept_tick h)))
  · exact kept_tick h

/-! ### Machine/SelfTest -/

theorem kept_changeField {f s} (h : Kept F s) : Kept F (changeField f s) := kept_frame h

theorem kept_useSpare {cat unit p s} (h : Kept F s) : Kept F (useSpare cat unit p s) := kept_changeField h

theorem kept_putInService {cat unit old new s} (h : Kept F s) : Kept F (putInService cat unit old new s) := kept_changeField h

theorem kept_outOfService {cat unit old s} (h : Kept F s) : Kept F (outOfService cat unit old s) := kept_changeField h

theorem kept_clearContexts {core s} (h : Kept F s) : Kept F (clearContexts core s) :=
  kept_frame (kept_acc (kept_vregs (kept_sregs h (twf_tclear _ _ h.sregs)) (twf_tclear _ _ h.vregs)) (twf_tclear _ _ h.acc))

theorem kept_clearStore {core off n s} (h : Kept F s) : Kept F (clearStore core off n s) :=
  kept_frame (kept_store h (twf_tclear _ _ h.store))

theorem kept_stackLost {k s} (h : Kept F s) : Kept F (stackLost k s) := kept_modStack (kept_frame h)

theorem kept_swapCore {old new s} (h : Kept F s) : Kept F (swapCore old new s) :=
  kept_changeField (kept_frame (kept_modCore (kept_modCore (kept_clearStore (kept_clearContexts h)))))

theorem kept_unspared {cat inst s} (h : Kept F s) : Kept F (unspared cat inst s) := by
  unfold unspared
  dsimp only
  split
  · exact kept_changeField (kept_frame (kept_modCore h))
  · exact kept_stackLost h
  · exact kept_stackLost h
  · exact h

theorem kept_remeasure {slice inst mapping check s} (h : Kept F s) : Kept F (remeasure slice inst mapping check s).2 :=
  kept_ite (kept_changeField (kept_frame h)) (kept_frame h)

theorem kept_spareIn {cat inst p s} (h : Kept F s) : Kept F (spareIn cat inst p s) := by
  unfold spareIn
  extract_lets u s1 sub s2
  have h1 : Kept F s1 := kept_useSpare h
  have h2 : Kept F s2 := kept_ite h1 (kept_putInService h1)
  split
  · exact kept_swapCore h2
  · exact kept_modCore (kept_acc h2 (twf_tclear _ _ (twf_tclear _ _ h2.acc)))
  · exact kept_modCore (kept_acc h2 (twf_filter _ h2.acc))
  · exact kept_ite (kept_clearStore h2) h2
  · exact kept_modStack h2
  · exact kept_modStack (kept_bump h2)
  · exact kept_modStack h2
  · exact kept_remeasure h2
  · exact kept_remeasure h2
  · exact h2

theorem kept_decideWaits {r res idx s} (h : Kept F s) : Kept F (decideWaits r res idx s) := kept_frame h

theorem kept_answerSpare {r idx s} (h : Kept F s) : Kept F (answerSpare r idx s) := by
  unfold answerSpare
  split
  · exact kept_done h
  · exact h

theorem kept_bringSpare {r s} (h : Kept F s) : Kept F (bringSpare r s).2 := by
  unfold bringSpare
  dsimp only
  split
  · exact keptSnd_ite (kept_ite (kept_irqSet (kept_frame (kept_irqSet (kept_bump (kept_spareIn h))))) (kept_frame (kept_irqSet
      (kept_bump (kept_spareIn h))))) (kept_useSpare h)
  · exact kept_ite (kept_channelLost (kept_unspared (kept_outOfService h))) (kept_unspared (kept_outOfService h))

theorem kept_serveRepair {r s} (h : Kept F s) : Kept F (serveRepair r s) :=
  kept_answerSpare (kept_decideWaits (kept_spareEntry (kept_bringSpare h)))

theorem kept_serveDue {r s} (h : Kept F s) : Kept F (serveDue r s) := by
  unfold serveDue
  split
  · exact kept_spareEntry h
  · exact kept_serveRepair h

theorem kept_serveRepairs {s} (h : Kept F s) : Kept F (serveRepairs s) :=
  kept_foldl (fun _ _ h => kept_serveDue h) (kept_frame h)

theorem kept_startField {s} (h : Kept F s) : Kept F (startField s) := kept_ite (kept_frame h) h

theorem kept_execAlmanacWriteComplete {t s} (h : Kept F s) : KeptNext F (execAlmanacWriteComplete t s) := by
  unfold execAlmanacWriteComplete
  dsimp only
  refine KeptNext.next ?_
  split
  · exact kept_ite (kept_tick h) (kept_startField (kept_bump (kept_frame (kept_alm (kept_tick h)))))
  · exact kept_tick h

theorem kept_execChannelPairCopyComplete {t stack s} (h : Kept F s) : KeptNext F (execChannelPairCopyComplete t stack s) :=
  KeptNext.next (kept_modStack (kept_tick h))

theorem kept_remeasurePair {u pair s} (h : Kept F s) : Kept F (remeasurePair u pair s).2 := kept_remeasure (kept_remeasure h)

theorem kept_degradePort {u pair s} (h : Kept F s) : Kept F (degradePort u pair s) :=
  kept_ite (kept_leaveSpray h) (kept_ite (kept_modPort (kept_remeasurePair h)) (kept_leaveSpray (kept_remeasurePair h)))

theorem kept_sliceFailed {slice instn sub s} (h : Kept F s) : Kept F (sliceFailed slice instn sub s) :=
  kept_ite (kept_irqSet (kept_raise h)) (kept_ite (kept_degradePort (kept_raise h)) (kept_ite (kept_stackLost (kept_raise h))
    (kept_ite (kept_channelLost (kept_raise h)) (kept_raise h))))

theorem kept_endSlice {slice instn late fails s} (h : Kept F s) : Kept F (endSlice slice instn late fails s) := by
  unfold endSlice
  extract_lets _ _ s1 s2
  have h1 : Kept F s1 := kept_frame h
  have h2 : Kept F s2 := kept_irqSet (kept_bump h1)
  split
  · exact h
  · extract_lets _ _ _ _ _ s3 _ _ s4
    have h3 : Kept F s3 := kept_ite h2 (kept_irqSet (kept_bump h2))
    have h4 : Kept F s4 := kept_frame h3
    exact kept_ite h (kept_ite h4 (kept_ite (kept_foldl (fun _ _ h => kept_raise h) h4) (kept_foldl (fun _ _ h =>
      kept_sliceFailed h) h4)))

theorem kept_execSliceComplete {t slice inst sig res s} (h : Kept F s) : KeptNext F
    (execSliceComplete t slice inst sig res s) :=
  KeptNext.next (kept_endSlice (kept_tick h))

theorem kept_execSliceBudgetExpiry {t slice inst s} (h : Kept F s) : KeptNext F (execSliceBudgetExpiry t slice inst s) :=
  KeptNext.next (kept_endSlice (kept_tick h))

theorem kept_startSlices {s} (h : Kept F s) : Kept F (startSlices s) := by
  unfold startSlices
  dsimp only
  exact kept_foldl (fun _ _ h => kept_ite h (kept_ite h (kept_ite (kept_foldl (fun _ _ h => kept_leaveSpray h) (kept_frame h))
    (kept_frame h)))) h

theorem kept_returnBlocks {s} (h : Kept F s) : Kept F (returnBlocks s) := kept_foldl (fun _ _ h => kept_done h) (kept_frame h)

theorem kept_execSelftest {t cmd s} (h : Kept F s) : KeptNext F (execSelftest t cmd s) := by
  unfold execSelftest
  dsimp only
  refine KeptNext.next (kept_runCmd (fun _ _ h => ?_) (kept_tick h))
  split
  · exact kept_refuseWith h
  · exact kept_ite (kept_refuseWith h) (kept_ite (kept_fail h) (kept_frame h))

theorem kept_retire {cmd cat instn want s} (h : Kept F s) : Kept F (retire cmd cat instn want s) :=
  kept_frame (kept_ite (kept_modCore h) (kept_ite (kept_modStack h) h))

theorem kept_spareAction {cmd action s} (h : Kept F s) : Kept F (spareAction cmd action s) :=
  kept_ite h (kept_runCmd (fun _ _ h => kept_ite (kept_refuseWith h) (kept_ite (kept_refuseWith h) (kept_ite (kept_ite
    (kept_fail h) (kept_retire h)) (kept_retire (kept_abortAll h))))) h)

theorem kept_execSpareRetire {t cmd s} (h : Kept F s) : KeptNext F (execSpareRetire t cmd s) :=
  KeptNext.next (kept_spareAction (kept_tick h))

theorem kept_execSpareRetireForce {t cmd s} (h : Kept F s) : KeptNext F (execSpareRetireForce t cmd s) :=
  KeptNext.next (kept_spareAction (kept_tick h))

/-! ### Machine/Link -/

theorem kept_portCount {code i n s} (h : Kept F s) : Kept F (portCount code i n s) := kept_bump h

theorem kept_ptpSelect {s} (h : Kept F s) : Kept F (ptpSelect s) := kept_ite h (kept_frame h)

theorem kept_execLinkUp {t code s} (h : Kept F s) : KeptNext F (execLinkUp t code s) :=
  KeptNext.next (kept_ite (kept_tick h) (kept_irqSet (kept_modPort (kept_tick h))))

theorem kept_dropLink {code s} (h : Kept F s) : Kept F (dropLink code s) :=
  kept_ite h (kept_raise (kept_irqSet (kept_ptpSelect (kept_modSpray (kept_portCount h)))))

theorem kept_execLinkDown {t code s} (h : Kept F s) : KeptNext F (execLinkDown t code s) :=
  KeptNext.next (kept_dropLink (kept_tick h))

theorem kept_execLaneFail {t port lane healthy0 healthy1 accepted s} (h : Kept F s) : KeptNext F
    (execLaneFail t port lane healthy0 healthy1 accepted s) := by
  unfold execLaneFail
  dsimp only
  refine KeptNext.next (kept_ite (kept_tick h) ?_)
  split
  · exact kept_ite (kept_modPort (kept_irqSet (kept_raise (kept_dropLink (kept_tick h))))) (kept_modPort (kept_irqSet
      (kept_raise (kept_dropLink (kept_tick h)))))
  · exact kept_dropLink (kept_tick h)
  · exact kept_dropLink (kept_tick h)
  · exact kept_tick h

theorem kept_execSprayRejoin {t code s} (h : Kept F s) : KeptNext F (execSprayRejoin t code s) :=
  KeptNext.next (kept_ite (kept_modSpray (kept_tick h)) (kept_tick h))

theorem kept_execPreemptVerify {t port ok s} (h : Kept F s) : KeptNext F (execPreemptVerify t port ok s) :=
  KeptNext.next (kept_ite (kept_modPort (kept_tick h)) (kept_tick h))

theorem kept_passUp {code f trunc s} (h : Kept F s) : Kept F (passUp code f trunc s) :=
  kept_ite (kept_bump h) (kept_emit (kept_emit (kept_frame h)))

theorem kept_upOrBad {code f trunc s} (h : Kept F s) : Kept F (upOrBad code f trunc s) :=
  kept_ite (kept_portCount h) (kept_passUp h)

theorem kept_transit {code d f trunc s} (h : Kept F s) : Kept F (transit code d f trunc s) := by
  unfold transit
  refine kept_ite (kept_upOrBad h) (kept_ite h (kept_ite (kept_portCount h) (kept_ite (kept_portCount h) ?_)))
  split
  · rename_i s1 heq
    have h1 : Kept F s1 := kept_of_eq (kept_pickHop h) heq
    exact kept_noRoute h1
  · rename_i _ _ s2 heq
    have h2 : Kept F s2 := kept_of_eq (kept_pickHop h) heq
    extract_lets _ _ s3 s4 s5
    have h3 : Kept F s3 := kept_portCount h2
    have h4 : Kept F s4 := kept_ite (kept_portCount h3) h3
    have h5 : Kept F s5 := kept_ite (kept_portCount h4) h4
    exact kept_ite (kept_noRoute h2) (kept_queueTx (keptSnd_ite h5 (kept_takeOpen h5)))

theorem kept_endPause {code prio s} (h : Kept F s) : Kept F (endPause code prio s) := kept_modPort h

theorem kept_macControl {code f s} (h : Kept F s) : Kept F (macControl code f s) :=
  kept_ite (kept_portCount h) (kept_ite h (kept_irqSet (kept_foldl (fun _ _ h => kept_ite (kept_ite (kept_endPause h)
    (kept_modPort (kept_endPause h))) h) h)))

theorem kept_ingressFlow {code f s} (h : Kept F s) : Kept F (ingressFlow code f s) :=
  kept_ite (kept_queueTx (kept_modPort (kept_modPort (kept_frame h)))) (kept_modPort (kept_frame h))

theorem kept_ownDatagram {code f trunc s} (h : Kept F s) : Kept F (ownDatagram code f trunc s) := by
  unfold ownDatagram
  refine kept_ite h (kept_ite (kept_portCount h) (kept_ite (kept_portCount h) ?_))
  split
  · exact kept_strayPkt h
  · exact h

theorem kept_ipFrame {code f trunc s} (h : Kept F s) : Kept F (ipFrame code f trunc s) := by
  unfold ipFrame
  refine kept_ite ?_ ?_
  · split
    · exact kept_ite (kept_ownDatagram h) (kept_upOrBad h)
    · exact kept_upOrBad h
  · split
    · exact kept_transit h
    · exact kept_upOrBad h

theorem kept_execFrameReceive {t code f s} (h : Kept F s) : KeptNext F (execFrameReceive t code f s) := by
  unfold execFrameReceive
  extract_lets s1 s2 s3 _ s4
  have h1 : Kept F s1 := kept_tick h
  have h2 : Kept F s2 := kept_portCount (kept_portCount (kept_portCount h1))
  have h3 : Kept F s3 := kept_ingressFlow h2
  have h4 : Kept F s4 := kept_ite (kept_portCount h3) h3
  exact KeptNext.next (kept_ite h1 (kept_ite (kept_portCount h2) (kept_ite h3 (kept_ite (kept_portCount h3) (kept_ite
    (kept_portCount h3) (kept_ite (kept_portCount h4) (kept_ite (kept_ite h4 (kept_ite (kept_portCount h4) h4)) (kept_ite
    (kept_ite h4 (kept_ite (kept_portCount h4) (kept_macControl h4))) (kept_ite (kept_ipFrame h4) (kept_upOrBad h4))))))))))

theorem kept_execPfcPauseExpire {t code prio s} (h : Kept F s) : KeptNext F (execPfcPauseExpire t code prio s) :=
  KeptNext.next (kept_ite (kept_endPause (kept_tick h)) (kept_tick h))

theorem kept_chargeFrame {f s} (h : Kept F s) : Kept F (chargeFrame f s) := by
  unfold chargeFrame
  split
  · split
    · exact kept_chargeJob h
    · exact h
  · exact h

theorem kept_stampTx {f c s} (h : Kept F s) : Kept F (stampTx f c s) := by
  unfold stampTx
  split
  · exact kept_emit h
  · exact h

theorem kept_leaveLater {code c w f cut s} (h : Kept F s) : Kept F (leaveLater code c w f cut s) := kept_frame h

theorem kept_ptpLeft {c f s} (h : Kept F s) : Kept F (ptpLeft c f s) := by
  unfold ptpLeft
  dsimp only
  split
  · exact kept_frame h
  · exact h

theorem kept_portWait {code c f s} (h : Kept F s) : Kept F (portWait code c f s) := kept_ite (kept_bump h) h

theorem kept_execFrameTransmit {t code s} (h : Kept F s) : KeptNext F (execFrameTransmit t code s) := by
  unfold execFrameTransmit
  extract_lets s1
  have h1 : Kept F s1 := kept_tick h
  refine KeptNext.next ?_
  split
  · exact h1
  · extract_lets _ _ _ _ s2 s3 s4 s5 s6 s7
    have h2 : Kept F s2 := kept_chargeFrame h1
    have h3 : Kept F s3 := kept_modPort h2
    have h4 : Kept F s4 := kept_leaveLater (kept_ptpLeft (kept_stampTx (kept_portWait h3)))
    have h5 : Kept F s5 := kept_portCount (kept_modPort h4)
    have h6 : Kept F s6 := kept_ite (kept_portCount h5) h5
    have h7 : Kept F s7 := kept_ite (kept_portCount h3) (kept_emit (kept_ite (kept_portCount h6) h6))
    exact kept_ite h1 (kept_foldl (fun _ _ h => kept_checkDone h) h7)

theorem kept_nextSeq {code s} (h : Kept F s) : Kept F (nextSeq code s) := kept_modPort h

theorem kept_withdraw {code s} (h : Kept F s) : Kept F (withdraw code s) :=
  kept_nextSeq (kept_emit (kept_portCount (kept_portCount h)))

theorem kept_sendFinder {code s} (h : Kept F s) : Kept F (sendFinder code s) := kept_queueTx (kept_nextSeq (kept_modPort h))

theorem kept_execFinderSend {t code s} (h : Kept F s) : KeptNext F (execFinderSend t code s) :=
  KeptNext.next (kept_ite (kept_sendFinder (kept_tick h)) (kept_tick h))

theorem kept_execFinderReceive {t code r s} (h : Kept F s) : KeptNext F (execFinderReceive t code r s) := by
  unfold execFinderReceive
  extract_lets s1 _ _ s2 s3
  have h1 : Kept F s1 := kept_tick h
  have h2 : Kept F s2 := kept_modSpray h1
  have h3 : Kept F s3 := kept_ite (kept_irqSet h2) h2
  exact KeptNext.next (kept_ite h1 (kept_ite (kept_ite (kept_raise (kept_irqSet (kept_modPort h1))) h1) (kept_ite h1 (kept_ite
    (kept_ite h3 (kept_raise (kept_irqSet (kept_modSpray h3)))) (kept_modPort h3)))))

theorem kept_execFinderHoldExpiry {t code s} (h : Kept F s) : KeptNext F (execFinderHoldExpiry t code s) := by
  unfold execFinderHoldExpiry
  dsimp only
  refine KeptNext.next ?_
  split
  · exact kept_ite (kept_raise (kept_irqSet (kept_modPort (kept_tick h)))) (kept_tick h)
  · exact kept_tick h

theorem kept_execMgtFinderSend {t s} (h : Kept F s) : KeptNext F (execMgtFinderSend t s) :=
  KeptNext.next (kept_ite (kept_tick h) (kept_frame (kept_tick h)))

theorem kept_setLock {l s} (h : Kept F s) : Kept F (setLock l s) :=
  kept_ite h (kept_ite (kept_raise (kept_irqSet (kept_frame h))) (kept_ite (kept_foldl (fun _ _ h => kept_raiseJob h)
    (kept_irqSet (kept_frame h))) (kept_irqSet (kept_frame h))))

theorem kept_placeNext {s} (h : Kept F s) : Kept F (placeNext s) := kept_frame h

theorem kept_stepTime {ns s} (h : Kept F s) : Kept F (stepTime ns s) := kept_ite (kept_placeNext (kept_frame h)) (kept_frame h)

theorem kept_slewTime {offset s} (h : Kept F s) : Kept F (slewTime offset s) := kept_frame h

theorem kept_servo {offset s} (h : Kept F s) : Kept F (servo offset s) :=
  kept_setLock (kept_ite (kept_stepTime (kept_frame h)) (kept_slewTime (kept_frame h)))

theorem kept_execPtpMessageReceive {t m s} (h : Kept F s) : KeptNext F (execPtpMessageReceive t m s) :=
  KeptNext.next (kept_ite (kept_tick h) (kept_ite (kept_ptpSelect (kept_frame (kept_tick h))) (kept_ite (kept_tick h) (kept_ite
    (kept_servo (kept_frame (kept_tick h))) (kept_frame (kept_tick h))))))

theorem kept_execPtpMessageSend {t port kind s} (h : Kept F s) : KeptNext F (execPtpMessageSend t port kind s) :=
  KeptNext.next (kept_ite (kept_ite (kept_queueTx (kept_queueTx (kept_frame (kept_tick h)))) (kept_queueTx (kept_frame
    (kept_tick h)))) (kept_tick h))

theorem kept_execPtpAnnounceTimeout {t port master s} (h : Kept F s) : KeptNext F (execPtpAnnounceTimeout t port master s) := by
  unfold execPtpAnnounceTimeout
  dsimp only
  refine KeptNext.next ?_
  split
  · exact kept_tick h
  · exact kept_ite (kept_tick h) (kept_ite (kept_setLock (kept_ptpSelect (kept_frame (kept_tick h)))) (kept_ptpSelect
      (kept_frame (kept_tick h))))

theorem kept_execMerHoldoverExpiry {t s} (h : Kept F s) : KeptNext F (execMerHoldoverExpiry t s) :=
  KeptNext.next (kept_ite (kept_setLock (kept_tick h)) (kept_tick h))

theorem kept_execSyncInEdge {t ns offset s} (h : Kept F s) : KeptNext F (execSyncInEdge t ns offset s) :=
  KeptNext.next (kept_ite (kept_tick h) (kept_ite (kept_stepTime (kept_servo (kept_frame (kept_tick h)))) (kept_servo
    (kept_frame (kept_tick h)))))

theorem kept_execSyncInAbsent {t s} (h : Kept F s) : KeptNext F (execSyncInAbsent t s) :=
  KeptNext.next (kept_ite (kept_ite (kept_setLock (kept_frame (kept_tick h))) (kept_frame (kept_tick h))) (kept_tick h))

theorem kept_execSyncOutPulse {t s} (h : Kept F s) : KeptNext F (execSyncOutPulse t s) :=
  KeptNext.next (kept_ite (kept_emit (kept_tick h)) (kept_tick h))

theorem kept_execPtpTimeSet {t ns s} (h : Kept F s) : KeptNext F (execPtpTimeSet t ns s) :=
  KeptNext.next (kept_ite (kept_frame (kept_stepTime (kept_tick h))) (kept_tick h))

theorem kept_sendHost {slot hd s} (h : Kept F s) : Kept F (sendHost slot hd s) := by
  unfold sendHost
  dsimp only
  refine kept_ite h (kept_ite ?_ (kept_ite (kept_queueTx h) (kept_portCount h)))
  split
  · exact kept_route h
  · exact h

theorem kept_sendHosts {n i hs s} (h : Kept F s) : Kept F (sendHosts n i hs s) := by
  induction hs generalizing i s with
  | nil => exact h
  | cons x r ih => exact ih (kept_sendHost h)

theorem kept_execTxRingDoorbell {t tail frames s} (h : Kept F s) : KeptNext F (execTxRingDoorbell t tail frames s) :=
  KeptNext.next (kept_ite (kept_tick h) (kept_ite (kept_liveWrite (kept_tick h)) (kept_sendHosts (kept_frame (kept_liveWrite
    (kept_tick h))))))

theorem kept_execPuTailWrite {t tail s} (h : Kept F s) : KeptNext F (execPuTailWrite t tail s) :=
  KeptNext.next (kept_ite (kept_liveWrite (kept_tick h)) (kept_tick h))

theorem kept_mgtTake {s} (h : Kept F s) : Kept F (mgtTake s).2 := by
  unfold mgtTake
  dsimp only
  split
  · exact h
  · exact h
  · split
    · exact kept_frame h
    · exact h
  · split
    · exact kept_frame h
    · exact h

theorem kept_mgtDone {q s} (h : Kept F s) : Kept F (mgtDone q s) := kept_frame h

theorem kept_mgtSend {q m s} (h : Kept F s) : Kept F (mgtSend q m s) := kept_emit (kept_bump (kept_mgtDone h))

theorem kept_mgtBurst {n s} (h : Kept F s) : Kept F (mgtBurst n s) := by
  induction n generalizing s with
  | zero => exact h
  | succ n ih =>
    unfold mgtBurst
    split
    · rename_i heq
      exact ih (kept_mgtSend (kept_of_eq (kept_mgtTake h) heq))
    · rename_i heq
      exact kept_of_eq (kept_mgtTake h) heq

theorem kept_mgtOpportunity {s} (h : Kept F s) : Kept F (mgtOpportunity s) :=
  kept_ite h (kept_mgtBurst (kept_ite (kept_emit (kept_frame h)) (kept_frame h)))

theorem kept_mgtAttempt {busy collision s} (h : Kept F s) : Kept F (mgtAttempt busy collision s) := by
  unfold mgtAttempt
  dsimp only
  refine kept_ite (kept_mgtOpportunity h) (kept_ite h ?_)
  split
  · rename_i s1 heq
    have h1 : Kept F s1 := kept_of_eq (kept_mgtTake h) heq
    exact h1
  · rename_i _ _ s2 heq
    have h2 : Kept F s2 := kept_of_eq (kept_mgtTake h) heq
    exact kept_ite (kept_ite (kept_ite (kept_bump (kept_mgtDone (kept_bump h2))) (kept_queueMgt (kept_bump (kept_mgtDone
      (kept_bump h2))))) (kept_frame (kept_bump h2))) (kept_mgtSend h2)

theorem kept_execMgtTransmit {t busy collision s} (h : Kept F s) : KeptNext F (execMgtTransmit t busy collision s) :=
  KeptNext.next (kept_ite (kept_tick h) (kept_mgtAttempt (kept_tick h)))

theorem kept_execMgtBackoffExpiry {t busy collision s} (h : Kept F s) : KeptNext F (execMgtBackoffExpiry t busy collision s) :=
  KeptNext.next (kept_ite (kept_tick h) (kept_mgtAttempt (kept_frame (kept_tick h))))

/-! ### Machine/Power -/

theorem kept_supplyOff {latched s} (h : Kept F s) : Kept F (supplyOff latched s) := kept_frame (kept_cold h)

theorem kept_lockOut {latched s} (h : Kept F s) : Kept F (lockOut latched s) := kept_frame (kept_supplyOff h)

theorem kept_meter {mv ma s} (h : Kept F s) : Kept F (meter mv ma s) := kept_ite (kept_frame h) (kept_frame h)

theorem kept_powerEvent {src s} (h : Kept F s) : Kept F (powerEvent src s) := kept_raise h

theorem kept_regionStep {s} (h : Kept F s) : Kept F (regionStep s) := by
  unfold regionStep
  extract_lets _ s1 _ s2 _ s3
  have h1 : Kept F s1 := kept_ite (kept_powerEvent (kept_frame h)) h
  have h2 : Kept F s2 := kept_ite (kept_frame h1) h1
  have h3 : Kept F s3 := kept_ite (kept_powerEvent (kept_frame h2)) h2
  exact kept_ite (kept_powerEvent h3) (kept_ite (kept_powerEvent h3) h3)

theorem kept_execVoltageSample {t mv ma s} (h : Kept F s) : KeptNext F (execVoltageSample t mv ma s) := by
  unfold execVoltageSample
  extract_lets s1 _ s2
  have h1 : Kept F s1 := kept_tick h
  have h2 : Kept F s2 := kept_frame h1
  exact KeptNext.next (kept_ite (kept_lockOut h2) (kept_ite (kept_regionStep (kept_meter h2)) (kept_ite (kept_ite (kept_lockOut
    h2) (kept_ite (kept_lockOut h2) (kept_meter h2))) (kept_ite h2 (kept_meter h2)))))

theorem kept_execSurgeTimeout {t s} (h : Kept F s) : KeptNext F (execSurgeTimeout t s) :=
  KeptNext.next (kept_ite (kept_powerEvent (kept_tick h)) (kept_tick h))

theorem kept_execSagTimeout {t s} (h : Kept F s) : KeptNext F (execSagTimeout t s) :=
  KeptNext.next (kept_ite (kept_powerEvent (kept_tick h)) (kept_tick h))

theorem kept_execSagRelease {t s} (h : Kept F s) : KeptNext F (execSagRelease t s) :=
  KeptNext.next (kept_ite (kept_frame (kept_tick h)) (kept_tick h))

theorem kept_execInrushCharged {t s} (h : Kept F s) : KeptNext F (execInrushCharged t s) :=
  KeptNext.next (kept_ite (kept_frame (kept_tick h)) (kept_tick h))

theorem kept_execUvloRelease {t s} (h : Kept F s) : KeptNext F (execUvloRelease t s) :=
  KeptNext.next (kept_ite (kept_frame (kept_tick h)) (kept_tick h))

theorem kept_execUvloLatchClear {t s} (h : Kept F s) : KeptNext F (execUvloLatchClear t s) :=
  KeptNext.next (kept_ite (kept_frame (kept_tick h)) (kept_tick h))

theorem kept_execBringupStart {t s} (h : Kept F s) : KeptNext F (execBringupStart t s) :=
  KeptNext.next (kept_ite (kept_frame (kept_tick h)) (kept_tick h))

theorem kept_execCurrentLimitTrip {t s} (h : Kept F s) : KeptNext F (execCurrentLimitTrip t s) :=
  KeptNext.next (kept_supplyOff (kept_tick h))

theorem kept_execSupplyLoss {t s} (h : Kept F s) : KeptNext F (execSupplyLoss t s) :=
  KeptNext.next (kept_supplyOff (kept_tick h))

theorem kept_execSafeNAssert {t s} (h : Kept F s) : KeptNext F (execSafeNAssert t s) :=
  KeptNext.next (kept_ite (kept_powerEvent (kept_tick h)) (kept_tick h))

theorem kept_execSafeStopConvertersOff {t s} (h : Kept F s) : KeptNext F (execSafeStopConvertersOff t s) :=
  KeptNext.next (kept_ite (kept_lockOut (kept_tick h)) (kept_tick h))

theorem kept_execGrantFrame {t s} (h : Kept F s) : KeptNext F (execGrantFrame t s) :=
  KeptNext.next (kept_ite (kept_tick h) (kept_frame (kept_tick h)))

theorem kept_allot {tenant units cores s} (h : Kept F s) : Kept F (allot tenant units cores s) :=
  kept_foldl (fun _ _ h => kept_modCore h) h

theorem kept_execPowerControlPeriod {t fixedW s} (h : Kept F s) : KeptNext F (execPowerControlPeriod t fixedW s) :=
  KeptNext.next (kept_ite (kept_tick h) (kept_foldl (fun _ _ h => kept_ite (kept_allot h) (kept_ite (kept_allot h) h))
    (kept_frame (kept_tick h))))

theorem kept_execPhaseDemandUpdate {t slot phase x s} (h : Kept F s) : KeptNext F (execPhaseDemandUpdate t slot phase x s) :=
  KeptNext.next (kept_modJob (kept_tick h))

theorem kept_execThermalSample {t sensor deciC s} (h : Kept F s) : KeptNext F (execThermalSample t sensor deciC s) :=
  KeptNext.next (kept_ite (kept_tick h) (kept_ite (kept_raise (kept_ite (kept_raise (kept_frame (kept_tick h))) (kept_frame
    (kept_tick h)))) (kept_ite (kept_raise (kept_frame (kept_tick h))) (kept_frame (kept_tick h)))))

theorem kept_execThermalCeilingStep {t s} (h : Kept F s) : KeptNext F (execThermalCeilingStep t s) :=
  KeptNext.next (kept_ite (kept_tick h) (kept_frame (kept_tick h)))

theorem kept_execMeterOutOfRange {t s} (h : Kept F s) : KeptNext F (execMeterOutOfRange t s) :=
  KeptNext.next (kept_ite (kept_raise (kept_irqSet (kept_tick h))) (kept_tick h))

theorem kept_execTwilightSlotStart {t s} (h : Kept F s) : KeptNext F (execTwilightSlotStart t s) := by
  unfold execTwilightSlotStart
  dsimp only
  refine KeptNext.next ?_
  split
  · exact kept_ite (kept_frame (kept_tick h)) (kept_tick h)
  · exact kept_tick h

theorem kept_execTwilightSlotEnd {t s} (h : Kept F s) : KeptNext F (execTwilightSlotEnd t s) := by
  unfold execTwilightSlotEnd
  dsimp only
  refine KeptNext.next ?_
  split
  · exact kept_ite (kept_frame (kept_tick h)) (kept_tick h)
  · exact kept_tick h

/-! ### Machine/Receipts -/

theorem kept_spread {account shared idle s} (h : Kept F s) : Kept F (spread account shared idle s) :=
  kept_ite h (kept_frame (kept_ite h (kept_addReq h)))

theorem kept_flushJobs {s} (h : Kept F s) : Kept F (flushJobs s) := kept_foldl (fun _ _ h => kept_flushJob h) h

theorem kept_apportion {s} (h : Kept F s) : Kept F (apportion s) :=
  kept_frame (kept_ite (kept_spread (kept_foldl (fun _ _ h => kept_spread h) (kept_flushJobs h))) (kept_foldl (fun _ _ h =>
    kept_spread h) (kept_foldl (fun _ _ h => kept_spread h) (kept_flushJobs h))))

theorem kept_queueReceipt {x s} (h : Kept F s) : Kept F (queueReceipt x s) :=
  kept_ite (kept_irqSet (kept_frame h)) (kept_frame h)

theorem kept_finalReceipts {tEnd s} (h : Kept F s) : Kept F (finalReceipts tEnd s) :=
  kept_foldl (fun _ _ h => kept_queueReceipt h) (kept_frame h)

theorem kept_interimReceipts {tEnd s} (h : Kept F s) : Kept F (interimReceipts tEnd s) :=
  kept_foldl (fun _ _ h => kept_bump (kept_queueReceipt (kept_frame h))) h

theorem kept_receiptsAt {ns s} (h : Kept F s) : Kept F (receiptsAt ns s) :=
  kept_frame (kept_ite (kept_interimReceipts (kept_finalReceipts h)) (kept_finalReceipts h))

theorem kept_checkpoint {account seq s} (h : Kept F s) : Kept F (checkpoint account seq s) := kept_alm h

theorem kept_deliverReceipt {r s} (h : Kept F s) : Kept F (deliverReceipt r s) := by
  unfold deliverReceipt
  extract_lets _ s1 _ _ _ s2 _ s3 s4
  have h1 : Kept F s1 := kept_frame h
  have h2 : Kept F s2 := kept_emit (kept_emit h1)
  have h3 : Kept F s3 := kept_frame h2
  have h4 : Kept F s4 := kept_ite h1 (kept_ite (kept_irqSet h3) h3)
  exact kept_ite (kept_queueMgt h4) h4

theorem kept_execReceiptSigned {t s} (h : Kept F s) : KeptNext F (execReceiptSigned t s) := by
  unfold execReceiptSigned
  extract_lets s1
  have h1 : Kept F s1 := kept_tick h
  refine KeptNext.next ?_
  split
  · exact h1
  · extract_lets s2 s3 _ _ _ _ _ s4 s5
    have h2 : Kept F s2 := kept_frame h1
    have h3 : Kept F s3 := kept_ite (kept_checkpoint h2) h2
    have h4 : Kept F s4 := kept_frame h3
    have h5 : Kept F s5 := kept_ite (kept_bump h4) h4
    exact kept_ite h1 (kept_bump (kept_deliverReceipt h5))

theorem kept_execReceiptCheckpoint {t account s} (h : Kept F s) : KeptNext F (execReceiptCheckpoint t account s) := by
  unfold execReceiptCheckpoint
  dsimp only
  refine KeptNext.next ?_
  split
  · exact kept_ite (kept_tick h) (kept_frame (kept_checkpoint (kept_tick h)))
  · exact kept_tick h

/-! ### Machine/Update -/

theorem kept_modSession {type f s} (h : Kept F s) : Kept F (modSession type f s) := kept_frame h

theorem kept_answer {who type status reason echo s} (h : Kept F s) : Kept F (answer who type status reason echo s) := by
  unfold answer
  split
  · exact kept_ite (kept_refuseWith h) (kept_ite (kept_done h) (kept_fail h))
  · exact kept_queueMgt h

theorem kept_stage {who id off n s} (h : Kept F s) : Kept F (stage who id off n s) := by
  unfold stage
  extract_lets type x s1 _ s2
  have h1 : Kept F s1 := by
    refine kept_ite ?_ h
    split
    · exact kept_answer h
    · exact h
  have h2 : Kept F s2 := kept_ite (kept_alm h1) h1
  exact kept_ite (kept_answer h) (kept_ite (kept_answer h) (kept_ite (kept_answer h) (kept_ite (kept_answer h) (kept_modSession
    h2))))

theorem kept_eraseA {type s} (h : Kept F s) : Kept F (eraseA type s) := kept_alm h

theorem kept_activated {type s} (h : Kept F s) : Kept F (activated type s) := by
  unfold activated
  dsimp only
  refine kept_modSession ?_
  refine kept_eraseA ?_
  split
  · exact kept_answer h
  · exact h

theorem kept_changedOver {type bit digest s} (h : Kept F s) : Kept F (changedOver type bit digest s) :=
  kept_ite (kept_activated (kept_frame (kept_modSession h))) (kept_frame (kept_modSession h))

theorem kept_activate {who id img s} (h : Kept F s) : Kept F (activate who id img s) := by
  unfold activate
  dsimp only
  refine kept_ite (kept_answer h) (kept_ite (kept_answer h) (kept_ite (kept_answer h) (kept_ite (kept_answer h) (kept_ite
    (kept_answer h) ?_))))
  split
  · exact kept_activated (kept_modSession (kept_modSession (kept_alm h)))
  · exact kept_frame (kept_modSession (kept_alm h))
  · exact kept_modSession (kept_alm h)

theorem kept_execFwStage {t cmd data s} (h : Kept F s) : KeptNext F (execFwStage t cmd data s) :=
  KeptNext.next (kept_runCmd (fun _ _ h => kept_ite (kept_stage h) (kept_fail h)) (kept_tick h))

theorem kept_execFwActivate {t cmd img s} (h : Kept F s) : KeptNext F (execFwActivate t cmd img s) :=
  KeptNext.next (kept_runCmd (fun _ _ h => kept_activate h) (kept_tick h))

theorem kept_mgtReceive {hd type f s} (hf : ∀ s, Kept F s → Kept F (f s)) (h : Kept F s) : Kept F (mgtReceive hd type f s) :=
  kept_ite h (kept_ite (kept_bump h) (kept_ite (hf _ (kept_bump h)) (kept_bump h)))

theorem kept_execMgtFwStage {t hd image offset data s} (h : Kept F s) : KeptNext F (execMgtFwStage t hd image offset data s) :=
  KeptNext.next (kept_mgtReceive (fun _ h => kept_ite h (kept_stage h)) (kept_tick h))

theorem kept_execMgtFwActivate {t hd image img s} (h : Kept F s) : KeptNext F (execMgtFwActivate t hd image img s) := by
  refine KeptNext.next (kept_mgtReceive (fun s h => ?_) (kept_tick h))
  dsimp only
  refine kept_ite (kept_ite (kept_answer h) (kept_ite (kept_answer h) (kept_frame (kept_eraseA (kept_answer ?_)))))
    (kept_activate h)
  exact kept_modSession (kept_alm h)

theorem kept_execMgtFwQuery {t hd image s} (h : Kept F s) : KeptNext F (execMgtFwQuery t hd image s) :=
  KeptNext.next (kept_mgtReceive (fun _ h => kept_answer h) (kept_tick h))

theorem kept_execImageWriteComplete {t type s} (h : Kept F s) : KeptNext F (execImageWriteComplete t type s) := by
  unfold execImageWriteComplete
  extract_lets s1 x s2 _ s3 s4
  have h1 : Kept F s1 := kept_tick h
  have h2 : Kept F s2 := kept_modSession h1
  have h3 : Kept F s3 := by
    unfold s3
    split
    · exact kept_alm h1
    · exact h1
  have h4 : Kept F s4 := kept_modSession h3
  refine KeptNext.next (kept_ite h1 (kept_ite h1 (kept_ite ?_ (kept_ite ?_ h1))))
  · split
    · exact kept_answer h2
    · exact h2
  · split
    · exact kept_startField (kept_changeField h4)
    · exact h4

theorem kept_cpChangeover {s} (h : Kept F s) : Kept F (cpChangeover s) :=
  kept_ite (kept_irqSet (kept_changedOver (kept_frame h))) h

theorem kept_microSwitch {s} (h : Kept F s) : Kept F (microSwitch s) := by
  unfold microSwitch
  dsimp only
  split
  · exact kept_foldl (fun _ _ h => kept_changedOver (kept_modStack h)) h
  · exact h

theorem kept_portSwitch {s} (h : Kept F s) : Kept F (portSwitch s) := by
  unfold portSwitch
  dsimp only
  split
  · exact kept_foldl (fun _ _ h => kept_changedOver (kept_foldl (fun _ _ h => kept_modPort (kept_dropLink h)) h)) h
  · exact h

/-! ### Machine/Bringup -/

theorem kept_toStage {n s} (h : Kept F s) : Kept F (toStage n s) := kept_frame h

theorem kept_stopBringup {cause s} (h : Kept F s) : Kept F (stopBringup cause s) := kept_frame h

theorem kept_execBringupRails {t good s} (h : Kept F s) : KeptNext F (execBringupRails t good s) :=
  KeptNext.next (kept_ite (kept_tick h) (kept_ite (kept_toStage (kept_tick h)) (kept_stopBringup (kept_tick h))))

theorem kept_useImage {type x s} (h : Kept F s) : Kept F (useImage type x s) := kept_frame h

theorem kept_execBringupBootRom {t seOk s} (h : Kept F s) : KeptNext F (execBringupBootRom t seOk s) := by
  unfold execBringupBootRom
  dsimp only
  refine KeptNext.next (kept_ite (kept_tick h) (kept_ite (kept_stopBringup (kept_tick h)) ?_))
  split
  · exact kept_toStage (kept_useImage (kept_frame (kept_tick h)))
  · exact kept_stopBringup (kept_frame (kept_tick h))

theorem kept_execBringupAlmanac {t factoryOk fieldOk s} (h : Kept F s) : KeptNext F
    (execBringupAlmanac t factoryOk fieldOk s) :=
  KeptNext.next (kept_ite (kept_tick h) (kept_ite (kept_stopBringup (kept_tick h)) (kept_toStage (kept_ite (kept_frame
    (kept_drawRandom (kept_tick h))) (kept_raise (kept_frame (kept_drawRandom (kept_tick h))))))))

theorem kept_execBringupImages {t s} (h : Kept F s) : KeptNext F (execBringupImages t s) := by
  unfold execBringupImages
  dsimp only
  refine KeptNext.next (kept_ite (kept_tick h) ?_)
  split
  · exact kept_stopBringup (kept_tick h)
  · refine kept_toStage ?_
    split
    · refine kept_foldl (fun _ _ h => ?_) ?_
      · exact kept_modPort h
      · refine kept_useImage ?_
        split
        · exact kept_frame (kept_useImage (kept_useImage (kept_tick h)))
        · exact kept_frame (kept_useImage (kept_tick h))
    · refine kept_foldl (fun _ _ h => ?_) ?_
      · exact kept_modPort h
      · split
        · exact kept_frame (kept_useImage (kept_useImage (kept_tick h)))
        · exact kept_frame (kept_useImage (kept_tick h))

theorem kept_spareFailed {cat u sub s} (h : Kept F s) : KeptSome F (spareFailed cat u sub s) :=
  keptSome_ite (keptSome_ite KeptSome.none (KeptSome.some (kept_changeField (kept_modCore h)))) (keptSome_ite (KeptSome.some
    (kept_useSpare h)) KeptSome.none)

theorem kept_postFailure {slice u sub s} (h : Kept F s) : Kept F (postFailure slice u sub s) := by
  unfold postFailure
  extract_lets
  refine kept_ite h ?_
  split
  rename_i _ _ s1 heq
  have h1 : Kept F s1 := kept_of_eq2 (kept_judge h) heq
  extract_lets _ _ s2
  have h2 : Kept F s2 := kept_irqSet (kept_bump (kept_record h1))
  refine kept_ite (kept_frame (kept_degradePort h2)) (kept_ite (kept_frame (kept_stackLost h2)) (kept_ite (kept_frame
    (kept_frame h2)) (kept_ite (kept_frame (kept_frame h2)) ?_)))
  split
  · rename_i s3 heq
    have h3 : Kept F s3 := (kept_spareFailed h2) _ heq
    exact h3
  · exact kept_frame (kept_bringSpare h2)

theorem kept_execBringupSelfTest {t results s} (h : Kept F s) : KeptNext F (execBringupSelfTest t results s) := by
  unfold execBringupSelfTest
  extract_lets s1 _ s2 _ _ _ s3
  have h1 : Kept F s1 := kept_tick h
  have h2 : Kept F s2 := kept_foldl (fun _ _ h => kept_postFailure h) (kept_bump h1)
  have h3 : Kept F s3 := kept_frame h2
  exact KeptNext.next (kept_ite h1 (kept_ite (kept_stopBringup h3) (kept_toStage (kept_startField h3))))

theorem kept_execBringupFill {t s} (h : Kept F s) : KeptNext F (execBringupFill t s) := by
  unfold execBringupFill
  extract_lets s1 total fill s2
  have h1 : Kept F s1 := kept_tick h
  have h2 : Kept F s2 := kept_foldl (fun _ _ h => kept_irqSet h) h1
  exact KeptNext.next (kept_ite h1 (kept_toStage (kept_frame
    (kept_flash (kept_store (kept_hbm h2 (twf_nil 0)) (twf_nil 0)) (twf_nil 0)))))

theorem kept_seedCore {ok core s} (h : Kept F s) : Kept F (seedCore ok core s) :=
  kept_ite (kept_modCore (kept_bump (kept_drawRandom h))) (kept_raise h)

theorem kept_seedStack {ok k s} (h : Kept F s) : Kept F (seedStack ok k s) :=
  kept_ite (kept_modStack (kept_drawRandom h)) (kept_raise h)

theorem kept_execBringupRelease {t rngOk s} (h : Kept F s) : KeptNext F (execBringupRelease t rngOk s) :=
  KeptNext.next (kept_ite (kept_tick h) (kept_foldl (fun _ _ h => kept_seedStack h) (kept_foldl (fun _ _ h => kept_seedCore h)
    (kept_placeNext (kept_frame (kept_vregs (kept_sregs (kept_tick h) (twf_nil 0)) (twf_nil 0)))))))

theorem kept_execBringupReady {t s} (h : Kept F s) : KeptNext F (execBringupReady t s) :=
  KeptNext.next (kept_ite (kept_tick h) (kept_frame (kept_tick h)))

theorem kept_execBringupStopBeacon {t s} (h : Kept F s) : KeptNext F (execBringupStopBeacon t s) := by
  unfold execBringupStopBeacon
  dsimp only
  refine KeptNext.next ?_
  split
  · exact kept_ite (kept_tick h) (kept_queueMgt (kept_frame (kept_tick h)))
  · exact kept_tick h

/-! ### Machine/Vector -/

theorem kept_draws {c s} (h : Kept F s) : Kept F (draws c s).2 := by
  unfold draws
  dsimp only
  refine keptSnd_ite ?_ (kept_bump h)
  split
  · exact kept_modThr (kept_bump h)
  · exact kept_bump h

theorem kept_vector {op lat tagged f i s} (hf : ∀ x s, Kept F s → Kept F (f x s).2.2) (h : Kept F s) : KeptNext F
    (vector op lat tagged f i s) :=
  KeptNext.next (kept_issue (fun _ _ h => kept_ite (kept_thrFault h) (kept_ite (kept_frame (kept_setVreg (hf _ _ h)))
    (kept_setVreg (hf _ _ h)))) h)

theorem kept_plainRes {c lanes s} (h : Kept F s) : Kept F (plainRes c lanes s).2.2 := h

theorem kept_lane1 {g c s} (h : Kept F s) : Kept F (lane1 g c s).2.2 := kept_plainRes h

theorem kept_lane2 {g c s} (h : Kept F s) : Kept F (lane2 g c s).2.2 := kept_plainRes h

theorem kept_lane3 {g c s} (h : Kept F s) : Kept F (lane3 g c s).2.2 := kept_plainRes h

theorem kept_execVadd {i s} (h : Kept F s) : KeptNext F (execVadd i s) := kept_vector (fun _ _ h => kept_lane2 h) h

theorem kept_execVsub {i s} (h : Kept F s) : KeptNext F (execVsub i s) := kept_vector (fun _ _ h => kept_lane2 h) h

theorem kept_execVmul {i s} (h : Kept F s) : KeptNext F (execVmul i s) := kept_vector (fun _ _ h => kept_lane2 h) h

theorem kept_execVfma {i s} (h : Kept F s) : KeptNext F (execVfma i s) := kept_vector (fun _ _ h => kept_lane3 h) h

theorem kept_execVmax {i s} (h : Kept F s) : KeptNext F (execVmax i s) := kept_vector (fun _ _ h => kept_lane2 h) h

theorem kept_execVmin {i s} (h : Kept F s) : KeptNext F (execVmin i s) := kept_vector (fun _ _ h => kept_lane2 h) h

theorem kept_execVabs {i s} (h : Kept F s) : KeptNext F (execVabs i s) := kept_vector (fun _ _ h => kept_lane1 h) h

theorem kept_execVneg {i s} (h : Kept F s) : KeptNext F (execVneg i s) := kept_vector (fun _ _ h => kept_lane1 h) h

theorem kept_execVcvt {i s} (h : Kept F s) : KeptNext F (execVcvt i s) :=
  kept_vector (fun _ _ h => keptSnd_ite (kept_draws h) h) h

theorem kept_execVscale {i s} (h : Kept F s) : KeptNext F (execVscale i s) := kept_vector (fun _ _ h => kept_lane1 h) h

theorem kept_execVbcast {i s} (h : Kept F s) : KeptNext F (execVbcast i s) := kept_vector (fun _ _ h => kept_plainRes h) h

theorem kept_execVextr {i s} (h : Kept F s) : KeptNext F (execVextr i s) :=
  KeptNext.next (kept_issue (fun _ _ h => kept_ite (kept_thrFault h) (kept_setSreg h)) h)

theorem kept_execVsel {i s} (h : Kept F s) : KeptNext F (execVsel i s) := kept_vector (fun _ _ h => kept_lane3 h) h

theorem kept_execVcmplt {i s} (h : Kept F s) : KeptNext F (execVcmplt i s) := kept_vector (fun _ _ h => kept_lane2 h) h

theorem kept_execVcmpeq {i s} (h : Kept F s) : KeptNext F (execVcmpeq i s) := kept_vector (fun _ _ h => kept_lane2 h) h

theorem kept_execVredsum {i s} (h : Kept F s) : KeptNext F (execVredsum i s) := kept_vector (fun _ _ h => kept_plainRes h) h

theorem kept_execVredmax {i s} (h : Kept F s) : KeptNext F (execVredmax i s) := kept_vector (fun _ _ h => kept_plainRes h) h

theorem kept_execVexp2 {i s} (h : Kept F s) : KeptNext F (execVexp2 i s) := kept_vector (fun _ _ h => kept_lane1 h) h

theorem kept_execVlog2 {i s} (h : Kept F s) : KeptNext F (execVlog2 i s) := kept_vector (fun _ _ h => kept_lane1 h) h

theorem kept_execVrecip {i s} (h : Kept F s) : KeptNext F (execVrecip i s) := kept_vector (fun _ _ h => kept_lane1 h) h

theorem kept_execVrsqrt {i s} (h : Kept F s) : KeptNext F (execVrsqrt i s) := kept_vector (fun _ _ h => kept_lane1 h) h

theorem kept_execVrand {i s} (h : Kept F s) : KeptNext F (execVrand i s) := kept_vector (fun _ _ h => kept_draws h) h

theorem kept_execVmov {i s} (h : Kept F s) : KeptNext F (execVmov i s) := kept_vector (fun _ _ h => kept_lane1 h) h

/-! ### Machine/Correlator -/

theorem kept_finalGran {c later g lanes s ecc} (h : Kept F s) : Kept F (finalGran c later g lanes s ecc) :=
  kept_ite (kept_corSend (kept_putChunk (kept_ite (kept_corLandLater h) (kept_corLand h)))) (kept_putChunk (kept_ite
    (kept_corLandLater h) (kept_corLand h)))

theorem kept_finalGrans {c k g s ecc} (h : Kept F s) : Kept F (finalGrans c k g s ecc) := by
  unfold finalGrans
  dsimp only
  refine kept_foldl (fun _ _ h => ?_) h
  split
  · exact h
  · exact kept_ite h (kept_finalGran h)

theorem kept_takePartial {c k g bs s ecc} (h : Kept F s) : Kept F (takePartial c k g bs s ecc) :=
  kept_ite (kept_finalGrans (kept_putChunk (kept_chargeJob h))) (kept_putChunk (kept_corSend (kept_chargeJob h)))

theorem kept_takeGathered {c kind k g bs s ecc} (h : Kept F s) : Kept F (takeGathered c kind k g bs s ecc) :=
  kept_ite (kept_putChunk (kept_corLandLater h)) (kept_corSend (kept_putChunk (kept_corLandLater h)))

theorem kept_beginReduce {c s} (h : Kept F s) : Kept F (beginReduce c s) :=
  kept_ite (kept_foldl (fun _ _ h => kept_finalGran h) h) (kept_corSend h)

theorem kept_beginGather {c s} (h : Kept F s) : Kept F (beginGather c s) :=
  kept_ite (kept_corLand h) (kept_corSend (kept_corLand h))

theorem kept_beginAll {c s} (h : Kept F s) : Kept F (beginAll c s) := kept_foldl (fun _ _ h => kept_corSend h) (kept_corLand h)

theorem kept_beginRotate {c s} (h : Kept F s) : Kept F (beginRotate c s) := kept_ite (kept_corLand h) (kept_corSend h)

theorem kept_beginVerdict {c s} (h : Kept F s) : Kept F (beginVerdict c s) := kept_foldl (fun _ _ h => kept_corSend h) h

theorem kept_qPush {n c s} (h : Kept F s) : Kept F (qPush n c s) := by
  induction n generalizing c s with
  | zero => exact h
  | succ n ih =>
    unfold qPush
    dsimp only
    split
    · exact kept_ite h (ih (kept_corSend (kept_modCor (kept_setEdge h))))
    · exact h

theorem kept_arriveLater {c q entry s} (h : Kept F s) : Kept F (arriveLater c q entry s) := by
  unfold arriveLater
  dsimp only
  split
  · exact h
  · exact kept_ite (kept_signalAdd h) (kept_frame h)

theorem kept_putRing {c q entry g bs s} (h : Kept F s) : Kept F (putRing c q entry g bs s) :=
  kept_frame (kept_writeVa (fun _ _ _ _ _ _ _ h => kept_noFar h) (kept_setEdge h))

theorem kept_takeQueue {c entry g bs s} (h : Kept F s) : Kept F (takeQueue c entry g bs s) := by
  unfold takeQueue
  dsimp only
  split
  · exact h
  · exact kept_ite h (kept_ite (kept_raiseJob (kept_irqSet (kept_bump h))) (kept_wakeQueue (kept_ite (kept_arriveLater
      (kept_setCtr (kept_ite (kept_setEdge h) (kept_putRing h)))) (kept_setCtr (kept_ite (kept_setEdge h) (kept_putRing h))))))

theorem kept_permBad {slot s} (h : Kept F s) : Kept F (permBad slot s) := kept_raiseJob (kept_irqSet h)

theorem kept_beginPermute {c s} (h : Kept F s) : Kept F (beginPermute c s) :=
  kept_ite (kept_permBad h) (kept_foldl (fun _ _ h => kept_takeBlock h) (kept_retryGoes (kept_frame (kept_foldl (fun _ _ h =>
    kept_ite (kept_modCor h) (kept_ite (kept_modCor h) h)) h))))

theorem kept_takeEarly {c s} (h : Kept F s) : Kept F (takeEarly c s) := by
  unfold takeEarly
  dsimp only
  split
  · exact h
  · exact kept_foldl (fun _ _ h => kept_ite (kept_takeGathered h) (kept_ite (kept_takeGathered h) (kept_takePartial h)))
      (kept_modCor h)

theorem kept_noteWaits {slot op s} (h : Kept F s) : Kept F (noteWaits slot op s) := by
  unfold noteWaits
  split
  · exact kept_modCor h
  · exact h

theorem kept_begin_ {t slot op code f s} (hf : ∀ x s, Kept F s → Kept F (f x s)) (h : Kept F s) : KeptNext F
    (begin_ t slot op code f s) := by
  unfold begin_
  dsimp only
  refine KeptNext.next ?_
  split
  · exact kept_ite (kept_tick h) (kept_noteWaits (kept_takeEarly (hf _ _ (kept_modCor (kept_tick h)))))
  · exact kept_tick h

theorem kept_execAllreduce {t slot op s} (h : Kept F s) : KeptNext F (execAllreduce t slot op s) :=
  kept_begin_ (fun _ _ h => kept_beginReduce h) h

theorem kept_execReduceScatter {t slot op s} (h : Kept F s) : KeptNext F (execReduceScatter t slot op s) :=
  kept_begin_ (fun _ _ h => kept_beginReduce h) h

theorem kept_execAllgather {t slot op s} (h : Kept F s) : KeptNext F (execAllgather t slot op s) :=
  kept_begin_ (fun _ _ h => kept_beginGather h) h

theorem kept_execAlltoall {t slot op s} (h : Kept F s) : KeptNext F (execAlltoall t slot op s) :=
  kept_begin_ (fun _ _ h => kept_beginAll h) h

theorem kept_execPermute {t slot op s} (h : Kept F s) : KeptNext F (execPermute t slot op s) :=
  kept_begin_ (fun _ _ h => kept_beginPermute h) h

theorem kept_execRingRotate {t slot op s} (h : Kept F s) : KeptNext F (execRingRotate t slot op s) :=
  kept_begin_ (fun _ _ h => kept_beginRotate h) h

theorem kept_execVerdict {t slot op s} (h : Kept F s) : KeptNext F (execVerdict t slot op s) :=
  kept_begin_ (fun _ _ h => kept_beginVerdict h) h

theorem kept_execQsend {t slot op s} (h : Kept F s) : KeptNext F (execQsend t slot op s) := by
  unfold execQsend
  dsimp only
  refine kept_begin_ (fun _ _ h => ?_) h
  split
  · exact h
  · exact kept_qPush (kept_modCor (kept_setEdge h))

theorem kept_execQrecv {t slot op s} (h : Kept F s) : KeptNext F (execQrecv t slot op s) :=
  kept_begin_ (fun _ _ h => kept_qTake h) h

theorem kept_corFinish {c s} (h : Kept F s) : Kept F (corFinish c s) :=
  kept_ite (kept_ite (kept_bump (kept_modJob h)) (kept_modJob h)) (kept_ite (kept_irqSet h) h)

theorem kept_corErr {slot err s} (h : Kept F s) : Kept F (corErr slot err s) := by
  unfold corErr
  split
  · exact kept_hbmCe h
  · exact kept_hbmUe h
  · exact kept_raiseJob (kept_irqSet (kept_bump h))
  · exact h

theorem kept_execCorOpComplete {t slot work s} (h : Kept F s) : KeptNext F (execCorOpComplete t slot work s) := by
  unfold execCorOpComplete
  extract_lets _ s1 s2
  have h1 : Kept F s1 := kept_tick h
  have h2 : Kept F s2 := kept_corErr h1
  refine KeptNext.next ?_
  split
  · extract_lets _ s3 s4 s5 s6
    have h3 : Kept F s3 := kept_corFinish (kept_modCor h2)
    have h4 : Kept F s4 := kept_ite (kept_ite (kept_unitSignal h3) h3) h2
    have h5 : Kept F s5 := kept_modCor h4
    have h6 : Kept F s6 := kept_ite (kept_ite (kept_unitSignal h5) h5) h4
    exact kept_ite h1 (kept_ite (kept_corErr h1) (kept_ite (kept_checkDone (kept_bump (kept_modCor h6))) h6))
  · exact h1

theorem kept_corFrame {t hd hdr len f s} (hf : ∀ x0 x1 s, Kept F s → Kept F (f x0 x1 s)) (h : Kept F s) : KeptNext F
    (corFrame t hd hdr len f s) := by
  unfold corFrame
  dsimp only
  refine KeptNext.next (kept_ite (kept_tick h) (kept_rxContext (fun _ _ h => ?_) (kept_tick h)))
  refine kept_ite (kept_sendAck (kept_bftCount h)) (kept_ite (kept_bftCount h) ?_)
  split
  · exact kept_outcome h
  · exact kept_ite (kept_outcome h) (kept_ite (kept_outcome (kept_noteWaits (hf _ _ _ (kept_chargeJob h)))) (kept_mismatch
      (kept_outcome h)))

theorem kept_early {c kind chunk gran bs s} (h : Kept F s) : Kept F (early c kind chunk gran bs s) := kept_putChunk h

theorem kept_execCorDataGranule {t hd hdr digest gran s} (h : Kept F s) : KeptNext F
    (execCorDataGranule t hd hdr digest gran s) := by
  unfold execCorDataGranule
  dsimp only
  refine kept_corFrame (fun _ _ _ h => ?_) h
  split
  · exact h
  · refine kept_ite (kept_ite (kept_takeQueue h) h) ?_
    split
    · exact h
    · refine kept_ite h ?_
      split
      · exact kept_ite (kept_early h) (kept_ite h (kept_takeGathered h))
      · exact kept_ite (kept_early h) (kept_ite h (kept_takeGathered h))
      · exact kept_putChunk (kept_corLandLater h)
      · exact kept_putChunk (kept_corLandLater h)
      · exact kept_ite (kept_putChunk h) (kept_ite (kept_permBad (kept_putChunk h)) (kept_blockLater (kept_putChunk h)))
      · exact kept_ite (kept_ite (kept_early h) (kept_ite h (kept_takePartial h))) h

theorem kept_execCorVerdictFrame {t hd hdr dirty s} (h : Kept F s) : KeptNext F (execCorVerdictFrame t hd hdr dirty s) :=
  kept_corFrame (fun _ _ _ h => kept_ite h (kept_modCor h)) h

theorem kept_execCorPermuteGo {t hd hdr digest s} (h : Kept F s) : KeptNext F (execCorPermuteGo t hd hdr digest s) := by
  unfold execCorPermuteGo
  dsimp only
  refine kept_corFrame (fun _ _ _ h => ?_) h
  split
  · exact kept_ite h (kept_ite (kept_permBad h) (kept_ite (kept_retryGoes (kept_modCor h)) (kept_modCor h)))
  · exact h

theorem kept_execCorCreditFrame {t hd hdr edge s} (h : Kept F s) : KeptNext F (execCorCreditFrame t hd hdr edge s) := by
  unfold execCorCreditFrame
  dsimp only
  refine kept_corFrame (fun _ _ _ h => ?_) h
  split
  · exact h
  · refine kept_ite h (kept_foldl (fun _ _ h => ?_) (kept_setEdge h))
    split
    · exact kept_ite (kept_qPush h) h
    · exact h

theorem kept_execCreditRepeat {t slot edge s} (h : Kept F s) : KeptNext F (execCreditRepeat t slot edge s) := by
  unfold execCreditRepeat
  dsimp only
  refine KeptNext.next ?_
  split
  · exact kept_tick h
  · split
    · split
      · refine kept_ite (kept_tick h) ?_
        split
        · exact kept_sendCredit (kept_tick h)
        · exact kept_tick h
      · exact kept_tick h
    · exact kept_tick h

/-! ### Machine/Pcie -/

theorem kept_configured {fn f s} (hf : ∀ s, Kept F s → Kept F (f s)) (h : Kept F s) : Kept F (configured fn f s) :=
  kept_ite (hf _ h) (kept_ite (kept_emit h) h)

theorem kept_muteFn {fn s} (h : Kept F s) : Kept F (muteFn fn s) := kept_frame h

theorem kept_resetVf {fn s} (h : Kept F s) : Kept F (resetVf fn s) := kept_muteFn (kept_frame h)

theorem kept_resetPf {s} (h : Kept F s) : Kept F (resetPf s) := kept_frame (kept_frame h)

theorem kept_execPerstAssert {t s} (h : Kept F s) : KeptNext F (execPerstAssert t s) :=
  KeptNext.next (kept_ite (kept_frame (kept_tick h)) (kept_irqUpdate (kept_frame (kept_tick h))))

theorem kept_execPerstRelease {t s} (h : Kept F s) : KeptNext F (execPerstRelease t s) :=
  KeptNext.next (kept_frame (kept_tick h))

theorem kept_execPcieLinkUp {t speed width link s} (h : Kept F s) : KeptNext F (execPcieLinkUp t speed width link s) :=
  KeptNext.next (kept_ite (kept_tick h) (kept_foldl (fun _ _ h => kept_flushRing h) (kept_sendPending (kept_frame (kept_tick
    h)))))

theorem kept_execPcieLinkDown {t s} (h : Kept F s) : KeptNext F (execPcieLinkDown t s) :=
  KeptNext.next (kept_frame (kept_tick h))

theorem kept_execVfFlr {t vf s} (h : Kept F s) : KeptNext F (execVfFlr t vf s) :=
  KeptNext.next (kept_configured (fun _ h => kept_ite (kept_frame (kept_resetVf h)) h) (kept_tick h))

theorem kept_execPf0Flr {t s} (h : Kept F s) : KeptNext F (execPf0Flr t s) :=
  KeptNext.next (kept_configured (fun _ h => kept_frame (kept_resetPf h)) (kept_tick h))

theorem kept_execVfEnableClear {t s} (h : Kept F s) : KeptNext F (execVfEnableClear t s) :=
  KeptNext.next (kept_configured (fun _ h => kept_resetPf h) (kept_tick h))

theorem kept_execVfEnableSet {t n s} (h : Kept F s) : KeptNext F (execVfEnableSet t n s) :=
  KeptNext.next (kept_configured (fun _ h => kept_frame h) (kept_tick h))

theorem kept_execD3hotEntry {t fn s} (h : Kept F s) : KeptNext F (execD3hotEntry t fn s) :=
  KeptNext.next (kept_configured (fun _ h => kept_ite (kept_frame h) h) (kept_tick h))

theorem kept_execD3hotExit {t fn s} (h : Kept F s) : KeptNext F (execD3hotExit t fn s) :=
  KeptNext.next (kept_configured (fun _ h => kept_foldl (fun _ _ h => kept_flushRing h) (kept_sendPending (kept_frame h)))
    (kept_tick h))

theorem kept_execSqDoorbell {t fn ring tail s} (h : Kept F s) : KeptNext F (execSqDoorbell t fn ring tail s) :=
  KeptNext.next (kept_ite (kept_tick h) (kept_setRing (kept_tick h)))

theorem kept_execCqHeadWrite {t fn ring head s} (h : Kept F s) : KeptNext F (execCqHeadWrite t fn ring head s) :=
  KeptNext.next (kept_ite (kept_tick h) (kept_flushRing (kept_setRing (kept_tick h))))

theorem kept_execRingEnableWrite {t fn ring value s} (h : Kept F s) : KeptNext F (execRingEnableWrite t fn ring value s) :=
  KeptNext.next (kept_ite (kept_tick h) (kept_setRing (kept_tick h)))

theorem kept_execIrqCoalesceExpiry {t fn ring s} (h : Kept F s) : KeptNext F (execIrqCoalesceExpiry t fn ring s) :=
  KeptNext.next (kept_ite (kept_tick h) (kept_sendMsix (kept_setRing (kept_tick h))))

theorem kept_enterExec {fn ring g hd s} (h : Kept F s) : Kept F (enterExec fn ring g hd s) := kept_refuseHeaders (kept_frame h)

theorem kept_execCommandFetch {t fn ring hd s} (h : Kept F s) : KeptNext F (execCommandFetch t fn ring hd s) := by
  unfold execCommandFetch
  dsimp only
  refine KeptNext.next ?_
  split
  · exact kept_tick h
  · refine kept_ite (kept_tick h) ?_
    split
    · exact kept_ringError (kept_frame (kept_tick h))
    · exact kept_enterExec (kept_bump (kept_setRing (kept_frame (kept_tick h))))

theorem kept_execCommandStartedTimeout {t cmd s} (h : Kept F s) : KeptNext F (execCommandStartedTimeout t cmd s) := by
  unfold execCommandStartedTimeout
  dsimp only
  refine KeptNext.next ?_
  split
  · exact kept_tick h
  · exact kept_ite (kept_tick h) (kept_replyTo (kept_frame (kept_tick h)))

theorem kept_takeRead {fn addr len s} (h : Kept F s) : Kept F (takeRead fn addr len s).2 := by
  unfold takeRead
  dsimp only
  split <;> exact kept_frame h

theorem kept_holdRead {fn addr len s} (h : Kept F s) : Kept F (holdRead fn addr len s) := kept_ite h (kept_frame h)

theorem kept_answerRead {fn addr len frame ecc data s} (h : Kept F s) : Kept F (answerRead fn addr len frame ecc data s) := by
  unfold answerRead
  dsimp only
  split
  · exact kept_emit (kept_hbmUe (kept_takeRead h))
  · exact kept_emit (kept_hbmCe (kept_takeRead h))
  · exact kept_emit (kept_takeRead h)

theorem kept_execBar4Read {t fn addr len ecc s} (h : Kept F s) : KeptNext F (execBar4Read t fn addr len ecc s) := by
  unfold execBar4Read
  dsimp only
  refine KeptNext.next (kept_ite (kept_tick h) (kept_ite (kept_ite (kept_holdRead (kept_tick h)) (kept_answerRead
    (kept_ownerRead (kept_goNow (kept_tick h))))) ?_))
  split
  · exact kept_emit (kept_barMiss (kept_takeRead (kept_tick h)))
  · exact kept_ite (kept_holdRead (kept_tick h)) (kept_answerRead (kept_goNow (kept_tick h)))

theorem kept_execBar4Write {t fn addr data s} (h : Kept F s) : KeptNext F (execBar4Write t fn addr data s) :=
  KeptNext.next (kept_ite (kept_tick h) (kept_ite (kept_barMiss (kept_tick h)) (kept_writeHeld (kept_tick h))))

theorem kept_execBar4ReadTimeout {t id s} (h : Kept F s) : KeptNext F (execBar4ReadTimeout t id s) := by
  unfold execBar4ReadTimeout
  dsimp only
  refine KeptNext.next ?_
  split
  · exact kept_ite (kept_tick h) (kept_emit (kept_barMiss (kept_frame (kept_tick h))))
  · exact kept_tick h

theorem kept_execAtsInvalidation {t fn addr len s} (h : Kept F s) : KeptNext F (execAtsInvalidation t fn addr len s) :=
  KeptNext.next (kept_ite (kept_tick h) (kept_emit (kept_bump (kept_frame (kept_tick h)))))

theorem kept_execIdeIntegrityFail {t stream s} (h : Kept F s) : KeptNext F (execIdeIntegrityFail t stream s) :=
  KeptNext.next (kept_ite (kept_tick h) (kept_raise (kept_irqSet (kept_bump (kept_frame (kept_tick h))))))

theorem kept_rekeyed {stream s} (h : Kept F s) : Kept F (rekeyed stream s) :=
  kept_frame (kept_foldl (fun _ _ h => kept_acknowledge h) h)

theorem kept_execIdeKeyLoad {t stream s} (h : Kept F s) : KeptNext F (execIdeKeyLoad t stream s) :=
  KeptNext.next (kept_ite (kept_tick h) (kept_rekeyed (kept_frame (kept_tick h))))

theorem kept_execDoeSpdmRequest {t session s} (h : Kept F s) : KeptNext F (execDoeSpdmRequest t session s) :=
  KeptNext.next (kept_ite (kept_tick h) (kept_emit (kept_frame (kept_tick h))))

/-! ### Machine/Objects -/

theorem kept_putOut {x a bs s} (h : Kept F s) : KeptSome F (putOut x a bs s) := by
  unfold putOut
  extract_lets s1
  have h1 : Kept F s1 := kept_chargeReq h
  exact keptSome_ite (keptSome_ite KeptSome.none (keptSome_ite (KeptSome.some (kept_ownerWrite h1)) (KeptSome.some (kept_writeVa
    (fun _ _ _ _ _ _ _ h => kept_farWrite h) h1)))) (keptSome_ite (KeptSome.some (kept_emit h1)) KeptSome.none)

theorem kept_answerOut {cmd x a bs echo s} (h : Kept F s) : Kept F (answerOut cmd x a bs echo s) := by
  unfold answerOut
  split
  · rename_i s1 heq
    have h1 : Kept F s1 := (kept_putOut h) _ heq
    exact kept_done h1
  · exact kept_fail h

theorem kept_writeBack {x off n old new s} (h : Kept F s) : Kept F (writeBack x off n old new s) := by
  refine kept_ite h ?_
  cases hput : putOut x (x.hdr.param + off) (leBytes n new) s with
  | none => exact h
  | some u => exact kept_putOut h u hput

theorem kept_forTenant {cmd op f s} (hf : ∀ x s, Kept F s → Kept F (f x s)) (h : Kept F s) : Kept F (forTenant cmd op f s) := by
  unfold forTenant
  refine kept_runCmd (fun _ _ h => ?_) h
  split
  · exact kept_ite (kept_fail h) (hf _ _ h)
  · exact kept_fail h

theorem kept_withBlock {cmd op f s} (hf : ∀ x s, Kept F s → Kept F (f x s)) (h : Kept F s) : Kept F (withBlock cmd op f s) :=
  kept_forTenant (fun _ _ h => kept_ite (hf _ _ h) (kept_fail h)) h

theorem kept_mappedObject {cmd x hd f s} (hf : ∀ x0 x1 s, Kept F s → Kept F (f x0 x1 s)) (h : Kept F s) : Kept F
    (mappedObject cmd x hd f s) := by
  unfold mappedObject
  split
  · exact kept_fail h
  · split
    · exact kept_fail h
    · exact hf _ _ _ h

theorem kept_execTierSetup {t cmd s} (h : Kept F s) : KeptNext F (execTierSetup t cmd s) :=
  KeptNext.next (kept_runCmd (fun _ _ h => kept_ite (kept_fail h) (kept_ite (kept_fail h) (kept_done (kept_frame h))))
    (kept_tick h))

theorem kept_homeFrame {o n page s} (h : Kept F s) : KeptSome F (homeFrame o n page s) := by
  unfold homeFrame
  dsimp only
  refine keptSome_ite KeptSome.none ?_
  split
  · exact KeptSome.some (kept_frame (kept_hbm_tclear h))
  · intro u hu
    obtain ⟨f, -, rfl⟩ := Option.map_eq_some_iff.1 hu
    exact kept_frame h

theorem kept_homeFrames {o n k s} (h : Kept F s) : KeptSome F (homeFrames o n k s) := by
  induction k with
  | zero => exact KeptSome.some h
  | succ k ih =>
    intro u hu
    obtain ⟨v, hv, hu⟩ := Option.bind_eq_some_iff.1 hu
    exact kept_homeFrame (ih v hv) u hu

theorem kept_sealObj {cmd hd hash k s} (hk : ∀ s, Kept F s → Kept F (k s)) (h : Kept F s) : Kept F
    (sealObj cmd hd hash k s) := by
  unfold sealObj
  dsimp only
  split
  · exact kept_fail h
  · exact kept_ite (kept_refuseWith (kept_frame h)) (hk _ (kept_frame (kept_bump (kept_frame h))))

theorem kept_finishMap {cmd hd s} (h : Kept F s) : Kept F (finishMap cmd hd s) := kept_ite (kept_done h) (kept_modCmd h)

theorem kept_mapNew {cmd x ten b s} (h : Kept F s) : Kept F (mapNew cmd x ten b s) := by
  unfold mapNew
  dsimp only
  split
  · exact kept_refuseWith h
  · split
    · exact kept_fail h
    · rename_i s1 heq
      have h1 : Kept F s1 := (keptSome_ite (kept_homeFrames (kept_frame h)) (KeptSome.some (kept_frame h))) _ heq
      exact kept_ite (kept_ite (kept_refuseWith h) (kept_finishMap (kept_frame (kept_bump (kept_frame (kept_writeBack
        (kept_writeBack (kept_writeBack h1)))))))) (kept_finishMap (kept_writeBack (kept_writeBack (kept_writeBack h1))))

theorem kept_execObjMap {t cmd b s} (h : Kept F s) : KeptNext F (execObjMap t cmd b s) := by
  unfold execObjMap
  dsimp only
  refine KeptNext.next (kept_ite (kept_tick h) (kept_withBlock (fun _ _ h => ?_) (kept_tick h)))
  refine kept_ite (kept_fail h) ?_
  split
  · exact kept_mapNew h
  · exact h

theorem kept_mapExisting {cmd b sealing s} (h : Kept F s) : Kept F (mapExisting cmd b sealing s) := by
  unfold mapExisting
  dsimp only
  refine kept_withBlock (fun _ _ h => ?_) (kept_modCmd h)
  refine kept_ite (kept_fail h) ?_
  split
  · split
    · exact kept_refuseWith h
    · exact kept_ite (kept_sealObj (fun _ h => kept_done (kept_frame h)) h) (kept_done (kept_frame h))
  · exact kept_fail h

theorem kept_execObjMapExisting {t cmd b s} (h : Kept F s) : KeptNext F (execObjMapExisting t cmd b s) :=
  KeptNext.next (kept_ite (kept_tick h) (kept_mapExisting (kept_tick h)))

theorem kept_execBaseObjectSeal {t cmd b s} (h : Kept F s) : KeptNext F (execBaseObjectSeal t cmd b s) :=
  KeptNext.next (kept_ite (kept_tick h) (kept_mapExisting (kept_tick h)))

theorem kept_unmapNow {n tenant s} (h : Kept F s) : Kept F (unmapNow n tenant s) := by
  unfold unmapNow
  split
  · exact h
  · extract_lets maps gone s1 s2 _ s3
    have h1 : Kept F s1 := kept_frame h
    have h2 : Kept F s2 := kept_foldl (fun _ _ h => kept_dropPage h) h1
    have h3 : Kept F s3 := kept_ite (kept_frame (kept_flash h2 (twf_tclear _ _ h2.flash))) h2
    exact kept_ite h1 (kept_frame h3)

theorem kept_unmapStep {cmd x s} (h : Kept F s) : Kept F (unmapStep cmd x s) := kept_ite (kept_done (kept_unmapNow h)) h

theorem kept_execObjUnmap {t cmd s} (h : Kept F s) : KeptNext F (execObjUnmap t cmd s) := by
  unfold execObjUnmap
  dsimp only
  refine KeptNext.next ?_
  split
  · exact kept_ite (kept_unmapStep (kept_tick h)) (kept_forTenant (fun _ _ h => kept_mappedObject (fun _ _ _ h => kept_ite
      (kept_fail h) (kept_unmapStep (kept_modCmd h))) h) (kept_tick h))
  · exact kept_tick h

theorem kept_execObjPlace {t cmd s} (h : Kept F s) : KeptNext F (execObjPlace t cmd s) := by
  unfold execObjPlace
  refine KeptNext.next (kept_forTenant (fun _ _ h => ?_) (kept_tick h))
  refine kept_mappedObject (fun _ _ _ h => ?_) h
  extract_lets
  split
  · exact kept_refuseWith h
  · extract_lets _ _ s1
    have h1 : Kept F s1 := kept_ite (kept_foldl (fun _ _ h => kept_setPin h) h) h
    exact kept_ite (kept_refuseWith h) (kept_ite (kept_refuseWith h) (kept_ite (kept_done (kept_foldl (fun _ _ h =>
      kept_castVote h) h)) (kept_ite (kept_done h1) (kept_pumpMoves (kept_modCmd h1)))))

theorem kept_pinPages {cmd vote s} (h : Kept F s) : Kept F (pinPages cmd vote s) := by
  unfold pinPages
  refine kept_forTenant (fun _ _ h => ?_) h
  refine kept_mappedObject (fun _ _ _ h => ?_) h
  split
  · exact kept_refuseWith h
  · exact kept_done (kept_foldl (fun _ _ h => kept_ite (kept_castVote h) (kept_setPin h)) h)

theorem kept_execObjPin {t cmd s} (h : Kept F s) : KeptNext F (execObjPin t cmd s) :=
  KeptNext.next (kept_ite (kept_tick h) (kept_pinPages (kept_tick h)))

theorem kept_execObjVote {t cmd s} (h : Kept F s) : KeptNext F (execObjVote t cmd s) :=
  KeptNext.next (kept_ite (kept_pinPages (kept_tick h)) (kept_tick h))

theorem kept_execObjQuery {t cmd s} (h : Kept F s) : KeptNext F (execObjQuery t cmd s) := by
  unfold execObjQuery
  refine KeptNext.next (kept_forTenant (fun _ _ h => ?_) (kept_tick h))
  refine kept_mappedObject (fun _ _ _ h => ?_) h
  split
  · exact kept_refuseWith h
  · exact kept_answerOut h

theorem kept_execWindow {t cmd s} (h : Kept F s) : KeptNext F (execWindow t cmd s) :=
  KeptNext.next (kept_forTenant (fun _ _ h => kept_done (kept_frame h)) (kept_tick h))

theorem kept_onPlan {cmd x hd f s} (hf : ∀ x s, Kept F s → Kept F (f x s)) (h : Kept F s) : Kept F (onPlan cmd x hd f s) := by
  unfold onPlan
  split
  · exact kept_fail h
  · exact kept_ite (kept_fail h) (hf _ _ h)

theorem kept_execEphLoad {t cmd es s} (h : Kept F s) : KeptNext F (execEphLoad t cmd es s) := by
  unfold execEphLoad
  dsimp only
  refine KeptNext.next (kept_withBlock (fun _ _ h => ?_) (kept_tick h))
  refine kept_onPlan (fun _ _ h => ?_) h
  refine kept_ite (kept_fail h) ?_
  split
  · exact kept_refuseWith h
  · exact kept_done (kept_frame h)

theorem kept_execRgnSetup {t cmd s} (h : Kept F s) : KeptNext F (execRgnSetup t cmd s) :=
  KeptNext.next (kept_runCmd (fun _ _ h => kept_ite (kept_fail h) (kept_done (kept_frame h))) (kept_tick h))

theorem kept_execRgnRegister {t cmd b s} (h : Kept F s) : KeptNext F (execRgnRegister t cmd b s) := by
  unfold execRgnRegister
  dsimp only
  refine KeptNext.next (kept_withBlock (fun _ _ h => ?_) (kept_tick h))
  refine kept_ite (kept_refuseWith h) ?_
  split
  · exact kept_fail h
  · exact kept_done (kept_frame h)

theorem kept_revokeRegion {i cmd s} (h : Kept F s) : Kept F (revokeRegion i cmd s) := kept_revokeNext (kept_frame h)

theorem kept_execRgnRevoke {t cmd s} (h : Kept F s) : KeptNext F (execRgnRevoke t cmd s) := by
  unfold execRgnRevoke
  dsimp only
  refine KeptNext.next (kept_forTenant (fun _ _ h => ?_) (kept_tick h))
  split
  · exact kept_fail h
  · exact kept_ite (kept_fail h) (kept_ite (kept_fail h) (kept_revokeRegion (kept_modCmd h)))

/-! ### Machine/Jobs -/

theorem kept_execPlanLoad {t cmd p s} (h : Kept F s) : KeptNext F (execPlanLoad t cmd p s) := by
  unfold execPlanLoad
  dsimp only
  refine KeptNext.next (kept_withBlock (fun _ _ h => ?_) (kept_tick h))
  refine kept_ite (kept_fail h) ?_
  split
  · exact kept_refuseWith h
  · exact kept_ite (kept_fail h) (kept_done (kept_frame h))

theorem kept_execPlanUnload {t cmd s} (h : Kept F s) : KeptNext F (execPlanUnload t cmd s) :=
  KeptNext.next (kept_forTenant (fun _ _ h => kept_onPlan (fun _ _ h => kept_ite (kept_fail h) (kept_done (kept_frame h))) h)
    (kept_tick h))

theorem kept_clampedBack {x a b s} (h : Kept F s) : Kept F (clampedBack x a b s) :=
  kept_writeBack (kept_writeBack (kept_writeBack (kept_writeBack h)))

theorem kept_clearSlot {slot tenant p s} (h : Kept F s) : Kept F (clearSlot slot tenant p s) := kept_frame h

theorem kept_allocSync {base n slot tenant s} (h : Kept F s) : Kept F (allocSync base n slot tenant s) := kept_frame h

theorem kept_applyArms {slot arms s} (h : Kept F s) : Kept F (applyArms slot arms s) := by
  unfold applyArms
  dsimp only
  refine kept_foldl (fun _ _ h => ?_) h
  split
  · exact h
  · exact kept_ite (kept_armOn h) (kept_raiseJob (kept_armOn h))

theorem kept_openJobConns {tenant p id s} (h : Kept F s) : Kept F (openJobConns tenant p id s) :=
  kept_foldl (fun _ _ h => kept_openCtx h) h

theorem kept_createJob {cmd x p b s} (h : Kept F s) : Kept F (createJob cmd x p b s) := by
  unfold createJob
  dsimp only
  split
  · exact kept_ite (kept_fail h) (kept_openJobConns (kept_applyArms (kept_allocSync (kept_allocSync (kept_frame (kept_clearSlot
      h))))))
  · exact kept_fail h

theorem kept_execJobStart {t cmd b s} (h : Kept F s) : KeptNext F (execJobStart t cmd b s) := by
  unfold execJobStart
  dsimp only
  refine KeptNext.next (kept_ite (kept_tick h) (kept_withBlock (fun _ _ h => ?_) (kept_tick h)))
  refine kept_ite (kept_fail h) (kept_onPlan (fun _ _ h => ?_) h)
  split
  · exact kept_refuseWith (kept_clampedBack h)
  · exact kept_createJob (kept_clampedBack h)

theorem kept_onSlot {cmd x slot f s} (hf : ∀ x s, Kept F s → Kept F (f x s)) (h : Kept F s) : Kept F
    (onSlot cmd x slot f s) := by
  unfold onSlot
  split
  · exact kept_fail h
  · exact kept_ite (kept_fail h) (hf _ _ h)

theorem kept_stopJob {cmd abort s} (h : Kept F s) : Kept F (stopJob cmd abort s) :=
  kept_forTenant (fun _ _ h => kept_onSlot (fun _ _ h => kept_done (kept_modJob h)) h) h

theorem kept_execJobStop {t cmd s} (h : Kept F s) : KeptNext F (execJobStop t cmd s) :=
  KeptNext.next (kept_ite (kept_tick h) (kept_stopJob (kept_tick h)))

theorem kept_execJobStopAbort {t cmd s} (h : Kept F s) : KeptNext F (execJobStopAbort t cmd s) :=
  KeptNext.next (kept_ite (kept_stopJob (kept_tick h)) (kept_tick h))

theorem kept_execLsRule {t cmd s} (h : Kept F s) : KeptNext F (execLsRule t cmd s) :=
  KeptNext.next (kept_forTenant (fun _ _ h => kept_onSlot (fun _ _ h => kept_done (kept_modJob h)) h) (kept_tick h))

theorem kept_execCensusRead {t cmd s} (h : Kept F s) : KeptNext F (execCensusRead t cmd s) :=
  KeptNext.next (kept_forTenant (fun _ _ h => kept_answerOut h) (kept_tick h))

theorem kept_execEnergyQuery {t cmd s} (h : Kept F s) : KeptNext F (execEnergyQuery t cmd s) :=
  KeptNext.next (kept_forTenant (fun _ _ h => kept_answerOut h) (kept_tick h))

theorem kept_execAttest {t cmd nonce s} (h : Kept F s) : KeptNext F (execAttest t cmd nonce s) :=
  KeptNext.next (kept_withBlock (fun _ _ h => kept_ite (kept_fail h) (kept_answerOut h)) (kept_tick h))

theorem kept_execLogRead {t cmd s} (h : Kept F s) : KeptNext F (execLogRead t cmd s) :=
  KeptNext.next (kept_runCmd (fun _ _ h => kept_answerOut h) (kept_tick h))

theorem kept_execTenantCreate {t cmd s} (h : Kept F s) : KeptNext F (execTenantCreate t cmd s) :=
  KeptNext.next (kept_runCmd (fun _ _ h => kept_ite (kept_fail h) (kept_done (kept_frame h))) (kept_tick h))

theorem kept_goneAll {n cmd s} (h : Kept F s) : Kept F (goneAll n cmd s) := kept_foldl (fun _ _ h => kept_fail h) (kept_frame h)

theorem kept_destroyStep {cmd n s} (h : Kept F s) : Kept F (destroyStep cmd n s) := by
  unfold destroyStep
  extract_lets _ s1 s2 s3
  have h1 : Kept F s1 := kept_foldl (fun _ _ h => kept_revokeRegion h) h
  have h2 : Kept F s2 := kept_foldl (fun _ _ h => kept_closeCtx h) h1
  have h3 : Kept F s3 := kept_foldl (fun _ _ h => kept_unmapNow h) h2
  exact kept_ite h (kept_ite h2 (kept_done (kept_frame h3)))

theorem kept_execTenantDestroy {t cmd s} (h : Kept F s) : KeptNext F (execTenantDestroy t cmd s) := by
  unfold execTenantDestroy
  dsimp only
  refine KeptNext.next ?_
  split
  · exact kept_ite (kept_destroyStep (kept_tick h)) (kept_runCmd (fun _ _ h => kept_ite (kept_fail h) (kept_destroyStep
      (kept_abortAll (kept_goneAll (kept_modCmd (kept_frame h)))))) (kept_tick h))
  · exact kept_tick h

theorem kept_execPartition {t cmd s} (h : Kept F s) : KeptNext F (execPartition t cmd s) := by
  unfold execPartition
  dsimp only
  refine KeptNext.next (kept_runCmd (fun _ _ h => ?_) (kept_tick h))
  split
  · exact kept_fail h
  · exact kept_ite (kept_fail h) (kept_ite (kept_refuseWith h) (kept_ite (kept_fail h) (kept_done (kept_frame h))))

theorem kept_execPowerShare {t cmd s} (h : Kept F s) : KeptNext F (execPowerShare t cmd s) := by
  unfold execPowerShare
  dsimp only
  refine KeptNext.next (kept_runCmd (fun _ _ h => ?_) (kept_tick h))
  split
  · exact kept_fail h
  · exact kept_ite (kept_ite (kept_fail h) (kept_done (kept_frame h))) (kept_done (kept_frame h))

theorem kept_pollCmds {s} (h : Kept F s) : Kept F (pollCmds s) :=
  kept_foldl (fun _ _ h => kept_ite (kept_unmapStep h) (kept_destroyStep h)) h

/-! ### Machine/Meridian -/

theorem kept_endStep {slot j p s} (h : Kept F s) : Kept F (endStep slot j p s) := by
  unfold endStep
  extract_lets
  split
  extract_lets _ s1 s2 s3
  have h1 : Kept F s1 := kept_bump (kept_frame h)
  have h2 : Kept F s2 := kept_ite (kept_irqSet (kept_bump h1)) h1
  have h3 : Kept F s3 := kept_ite (kept_raiseJob (kept_irqSet (kept_bump h2))) h2
  exact kept_foldl (fun _ _ h => kept_raiseJob (kept_bump h)) h3

theorem kept_finishJob {slot j s} (h : Kept F s) : Kept F (finishJob slot j s) := kept_endJob h

theorem kept_firstStart {slot j s} (h : Kept F s) : Kept F (firstStart slot j s) := by
  unfold firstStart
  split
  · exact kept_ite (kept_replyTo h) h
  · exact h

theorem kept_startSegment {slot seg stepFirst s} (h : Kept F s) : Kept F (startSegment slot seg stepFirst s) := by
  unfold startSegment
  dsimp only
  split
  · exact h
  · split
    · split
      · exact kept_abortJob h
      · exact kept_slipCheck (kept_ite (kept_firstStart (kept_frame (kept_ite (kept_writeVa (fun _ _ _ _ _ _ _ h =>
          kept_farWrite h) h) h))) (kept_frame (kept_ite (kept_writeVa (fun _ _ _ _ _ _ _ h => kept_farWrite h) h) h)))
    · exact kept_finishJob h

theorem kept_slipOn {slot s} (h : Kept F s) : Kept F (slipOn slot s) := kept_slipCheck (kept_modJob h)

theorem kept_nextSegment {slot j s} (h : Kept F s) : Kept F (nextSegment slot j s) := by
  unfold nextSegment
  extract_lets s1
  have h1 : Kept F s1 := kept_clearLogs h
  split
  · exact h
  · extract_lets _ s2
    have h2 : Kept F s2 := kept_ite (kept_endStep h1) h1
    split
    · exact h2
    · exact kept_ite (kept_finishJob h2) (kept_startSegment h2)

theorem kept_jobAtMeridian {slot s} (h : Kept F s) : Kept F (jobAtMeridian slot s) := by
  unfold jobAtMeridian
  extract_lets _ s1
  have h1 : Kept F s1 := kept_modJob h
  split
  · exact h
  · extract_lets
    refine kept_ite h1 (kept_ite (kept_abortJob (kept_raiseJob h1)) (kept_ite (kept_raiseJob h1) ?_))
    split
    · exact kept_ite (kept_finishJob h1) (kept_ite (kept_startSegment h1) h1)
    · exact kept_ite (kept_slipOn h1) (kept_raiseJob h1)
    · exact kept_ite (kept_slipOn h1) (kept_nextSegment h1)
    · exact h1

theorem kept_switchCore {rngOk core s} (h : Kept F s) : Kept F (switchCore rngOk core s) := by
  unfold switchCore
  extract_lets _ _ _ _ _ _ _ _ s1 s2 s3 s4 s5
  have h1 : Kept F s1 := kept_ite (kept_frame h) h
  have h2 : Kept F s2 := kept_ite (kept_bump h1) h1
  have h3 : Kept F s3 := kept_ite (kept_clearContexts h2) h2
  have h4 : Kept F s4 := kept_seedCore (kept_bump (kept_clearStore h3))
  have h5 : Kept F s5 := kept_ite (kept_ite h4 (kept_abortAll h4)) h3
  exact kept_ite h (kept_modCore h5)

theorem kept_dealCore {core s} (h : Kept F s) : Kept F (dealCore core s) := kept_modCore h

theorem kept_launch {slot j l s} (h : Kept F s) : Kept F (launch slot j l s) :=
  kept_frame (kept_sregs h (twf_tset _ _ _ (twf_tset _ _ _ (twf_tset _ _ _ h.sregs))))

theorem kept_launchAll {slot s} (h : Kept F s) : Kept F (launchAll slot s) := by
  unfold launchAll
  dsimp only
  split
  · exact h
  · refine kept_ite h ?_
    split
    · exact kept_foldl (fun _ _ h => kept_launch h) (kept_frame h)
    · exact kept_frame h

theorem kept_switchStack {rngOk k s} (h : Kept F s) : Kept F (switchStack rngOk k s) :=
  kept_ite h (kept_ite (kept_abortAll (kept_seedStack h)) (kept_modStack (kept_seedStack h)))

theorem kept_dispatch {rngOk s} (h : Kept F s) : Kept F (dispatch rngOk s) :=
  kept_foldl (fun _ _ h => kept_checkDone h) (kept_foldl (fun _ _ h => kept_launchAll h) (kept_foldl (fun _ _ h => kept_dealCore
    h) (kept_foldl (fun _ _ h => kept_switchStack h) (kept_foldl (fun _ _ h => kept_switchCore h) h))))

theorem kept_lockPages {s} (h : Kept F s) : Kept F (lockPages s) := kept_frame h

theorem kept_demoteFrame {first s} (h : Kept F s) : Kept F (demoteFrame first s) := by
  unfold demoteFrame
  dsimp only
  split
  · exact h
  · split
    · exact h
    · exact kept_ite h (kept_ite (kept_ite (kept_modFrame h) (kept_dropPage (kept_bump h))) (kept_ite (kept_ite (kept_foldl (fun
        _ _ h => kept_bump h) (kept_modFrame h)) (kept_ite (kept_modFrame h) (kept_dropPage (kept_bump h)))) h))

theorem kept_demote {s} (h : Kept F s) : Kept F (demote s) := kept_foldl (fun _ _ h => kept_demoteFrame h) h

theorem kept_retrain {p s} (h : Kept F s) : Kept F (retrain p s) := kept_foldl (fun _ _ h => kept_modPort (kept_dropLink h)) h

theorem kept_applyRegisters {s} (h : Kept F s) : Kept F (applyRegisters s) := by
  unfold applyRegisters
  extract_lets s1 _ _ _ s2 s3 s4 _ _ _ s5
  have h1 : Kept F s1 := kept_applyShadows h
  have h2 : Kept F s2 := kept_frame h1
  have h3 : Kept F s3 := kept_ite (kept_irqSet h2) h2
  have h4 : Kept F s4 := kept_ite (kept_frame h3) h3
  have h5 : Kept F s5 := kept_foldl (fun _ _ h => kept_withdraw h) h4
  exact kept_ptpSelect (kept_foldl (fun _ _ h => kept_retrain h) h5)

theorem kept_applyTenants {s} (h : Kept F s) : Kept F (applyTenants s) := kept_frame h

theorem kept_snapshotCensus {s} (h : Kept F s) : Kept F (snapshotCensus s) := kept_frame h

theorem kept_steady {len next s} (h : Kept F s) : Kept F (steady len next s) := kept_frame h

theorem kept_placeMeridian {len next err changed m s} (h : Kept F s) : Kept F (placeMeridian len next err changed m s) :=
  kept_frame (kept_steady h)

theorem kept_serveMeridian {s} (h : Kept F s) : Kept F (serveMeridian s) :=
  kept_portSwitch (kept_microSwitch (kept_cpChangeover (kept_startSlices (kept_startField (kept_serveRepairs (kept_returnBlocks
    (kept_pollCmds h)))))))

theorem kept_restartTwilight {s} (h : Kept F s) : Kept F (restartTwilight s) := kept_frame h

theorem kept_execMeridian {t len ns err rngOk s} (h : Kept F s) : KeptNext F (execMeridian t len ns err rngOk s) := by
  unfold execMeridian
  extract_lets s1 _ _ _ s2 _ s3 _ s4 s5 s6
  have h1 : Kept F s1 := kept_tick h
  have h2 : Kept F s2 := kept_snapshotCensus (kept_receiptsAt (kept_apportion h1))
  have h3 : Kept F s3 := kept_applyTenants (kept_applyRegisters (kept_placeMeridian h2))
  have h4 : Kept F s4 := kept_ite (kept_foldl (fun _ _ h => kept_raiseJob h) h3) h3
  have h5 : Kept F s5 := kept_foldl (fun _ _ h => kept_jobAtMeridian h) h4
  have h6 : Kept F s6 := kept_demote (kept_lockPages (kept_dispatch (kept_restartTwilight h5)))
  exact KeptNext.next (kept_ite h1 (kept_irqSet (kept_serveMeridian (kept_frame h6))))

theorem kept_execJobDeadline {t slot s} (h : Kept F s) : KeptNext F (execJobDeadline t slot s) := by
  unfold execJobDeadline
  dsimp only
  refine KeptNext.next ?_
  split
  · exact kept_ite (kept_requestSlip (kept_tick h)) (kept_tick h)
  · exact kept_tick h

theorem kept_lateSlip {slot j sender mer s} (h : Kept F s) : Kept F (lateSlip slot j sender mer s) :=
  kept_ite (kept_raiseJob (kept_raiseJob (kept_bump h))) (kept_raiseJob (kept_bump h))

theorem kept_execSlipRequestReceive {t bit job sender mer segment excess plan s} (h : Kept F s) : KeptNext F
    (execSlipRequestReceive t bit job sender mer segment excess plan s) := by
  unfold execSlipRequestReceive
  dsimp only
  refine KeptNext.next ?_
  split
  · exact kept_tick h
  · exact kept_ite (kept_tick h) (kept_ite (kept_lateSlip (kept_modJob (kept_tick h))) (kept_ite (kept_mismatch (kept_modJob
      (kept_tick h))) (kept_honour (kept_modJob (kept_tick h)))))

theorem kept_execJobAbortReceive {t job sender s} (h : Kept F s) : KeptNext F (execJobAbortReceive t job sender s) := by
  unfold execJobAbortReceive
  dsimp only
  refine KeptNext.next ?_
  split
  · exact kept_tick h
  · exact kept_ite (kept_tick h) (kept_raiseJob (kept_tick h))

/-! ### Machine/Readout -/

theorem kept_readReg {a s} (h : Kept F s) : Kept F (readReg a s).2 := by
  unfold readReg
  refine keptSnd_ite h ?_
  split
  · exact h
  · exact h
  · exact keptSnd_ite h (kept_frame h)

/-! ### Machine/Registers -/

theorem kept_writeWord {a v s} (h : Kept F s) : Kept F (writeWord a v s) := by
  unfold writeWord
  dsimp only
  split
  · exact kept_ite (kept_commitWrite h) h
  · exact kept_ite (kept_irqClear h) (kept_ite (kept_irqUpdate (kept_liveWrite (kept_ite (kept_shadowWrite h) h))) (kept_ite
      (kept_shadowWrite h) h))

theorem kept_writeReg {a v s} (h : Kept F s) : Kept F (writeReg a v s) := by
  unfold writeReg
  dsimp only
  split
  · exact kept_frame h
  · split
    · exact kept_writeWord (kept_writeWord (kept_frame h))
    · exact kept_writeWord h

theorem kept_onWrite {addr k f s} (hf : ∀ x s, Kept F s → Kept F (f x s)) (h : Kept F s) : Kept F (onWrite addr k f s) := by
  unfold onWrite
  split
  · exact kept_ite (hf _ _ h) h
  · exact h

theorem kept_execCommitRegisterWrite {t addr value s} (h : Kept F s) : KeptNext F (execCommitRegisterWrite t addr value s) :=
  KeptNext.next (kept_onWrite (fun _ _ h => kept_writeReg h) (kept_tick h))

theorem kept_execCommitGroupMemberWrite {t addr value s} (h : Kept F s) : KeptNext F
    (execCommitGroupMemberWrite t addr value s) :=
  KeptNext.next (kept_onWrite (fun _ _ h => kept_writeReg h) (kept_tick h))

theorem kept_execRegisterPairHiWrite {t addr value s} (h : Kept F s) : KeptNext F (execRegisterPairHiWrite t addr value s) :=
  KeptNext.next (kept_onWrite (fun _ _ h => kept_writeReg h) (kept_tick h))

theorem kept_execIrqStatusW1c {t addr value s} (h : Kept F s) : KeptNext F (execIrqStatusW1c t addr value s) :=
  KeptNext.next (kept_onWrite (fun _ _ h => kept_writeReg h) (kept_tick h))

theorem kept_setSeconds {a v s} (h : Kept F s) : Kept F (setSeconds a v s) :=
  kept_ite (kept_frame h) (kept_ite (kept_frame h) h)

theorem kept_ringWrite {fn ring off v s} (h : Kept F s) : Kept F (ringWrite fn ring off v s) := by
  unfold ringWrite
  dsimp only
  refine kept_ite h ?_
  split
  · exact kept_setRing h
  · exact kept_setRing h
  · exact kept_setRing h
  · exact kept_setRing h
  · exact kept_setRing h
  · exact h

theorem kept_execRegisterWrite {t addr be value s} (h : Kept F s) : KeptNext F (execRegisterWrite t addr be value s) :=
  KeptNext.next (kept_ite (kept_tick h) (kept_ite (kept_ite (kept_ringWrite (kept_tick h)) (kept_tick h)) (kept_onWrite (fun _ _
    h => kept_setSeconds (kept_writeReg h)) (kept_tick h))))

theorem kept_readBytes {addr s} (h : Kept F s) : Kept F (readBytes addr s).2 :=
  keptSnd_ite (kept_readReg h) (kept_readReg (kept_tick (kept_readReg h)))

theorem kept_execRegisterPairLoRead {t addr s} (h : Kept F s) : KeptNext F (execRegisterPairLoRead t addr s) :=
  KeptNext.next (kept_ite (kept_ite (kept_frame (kept_tick h)) (kept_tick h)) (kept_ite (kept_frame (kept_readBytes (kept_tick
    h))) (kept_tick h)))

/-! ### Machine/Scalar -/

theorem kept_scalar {op lat f i s} (h : Kept F s) : KeptNext F (scalar op lat f i s) :=
  KeptNext.next (kept_issue (fun _ _ h => kept_setSreg h) h)

theorem kept_execAdd {i s} (h : Kept F s) : KeptNext F (execAdd i s) := kept_scalar h

theorem kept_execSub {i s} (h : Kept F s) : KeptNext F (execSub i s) := kept_scalar h

theorem kept_execMul {i s} (h : Kept F s) : KeptNext F (execMul i s) := kept_scalar h

theorem kept_execMulh {i s} (h : Kept F s) : KeptNext F (execMulh i s) := kept_scalar h

theorem kept_execAnd {i s} (h : Kept F s) : KeptNext F (execAnd i s) := kept_scalar h

theorem kept_execOr {i s} (h : Kept F s) : KeptNext F (execOr i s) := kept_scalar h

theorem kept_execXor {i s} (h : Kept F s) : KeptNext F (execXor i s) := kept_scalar h

theorem kept_execShl {i s} (h : Kept F s) : KeptNext F (execShl i s) := kept_scalar h

theorem kept_execShr {i s} (h : Kept F s) : KeptNext F (execShr i s) := kept_scalar h

theorem kept_execSra {i s} (h : Kept F s) : KeptNext F (execSra i s) := kept_scalar h

theorem kept_execSlt {i s} (h : Kept F s) : KeptNext F (execSlt i s) := kept_scalar h

theorem kept_execSltu {i s} (h : Kept F s) : KeptNext F (execSltu i s) := kept_scalar h

theorem kept_execMin {i s} (h : Kept F s) : KeptNext F (execMin i s) := kept_scalar h

theorem kept_execMax {i s} (h : Kept F s) : KeptNext F (execMax i s) := kept_scalar h

theorem kept_execMovi {i s} (h : Kept F s) : KeptNext F (execMovi i s) := kept_scalar h

theorem kept_execMovhi {i s} (h : Kept F s) : KeptNext F (execMovhi i s) := kept_scalar h

theorem kept_execScvtf {i s} (h : Kept F s) : KeptNext F (execScvtf i s) := kept_scalar h

theorem kept_execScvti {i s} (h : Kept F s) : KeptNext F (execScvti i s) := kept_scalar h

theorem kept_execRdspec {i s} (h : Kept F s) : KeptNext F (execRdspec i s) := kept_scalar h

/-! ### Machine/SyncClass -/

theorem kept_onObject {op f far i s} (hf : ∀ x0 x1 x2 s, Kept F s → Kept F (f x0 x1 x2 s))
    (hfar : ∀ x s, Kept F s → Kept F (far x s)) (h : Kept F s) : KeptNext F (onObject op f far i s) := by
  unfold onObject
  refine KeptNext.next (kept_issue (fun _ _ h => ?_) h)
  refine kept_ite (hfar _ _ h) ?_
  split
  · exact hf _ _ _ _ h
  · exact kept_thrFault h

theorem kept_remoteSync {sop c s} (h : Kept F s) : Kept F (remoteSync sop c s) := by
  unfold remoteSync
  dsimp only
  exact kept_sendMsg (kept_frame h)

theorem kept_execYsig {i s} (h : Kept F s) : KeptNext F (execYsig i s) :=
  kept_onObject (fun _ _ _ _ h => kept_signalAdd h) (fun _ _ h => kept_remoteSync h) h

theorem kept_execYwge {i s} (h : Kept F s) : KeptNext F (execYwge i s) := kept_onObject (fun _ _ _ _ h => h) (fun _ _ h => h) h

theorem kept_execYweq {i s} (h : Kept F s) : KeptNext F (execYweq i s) := kept_onObject (fun _ _ _ _ h => h) (fun _ _ h => h) h

theorem kept_execYrst {i s} (h : Kept F s) : KeptNext F (execYrst i s) :=
  kept_onObject (fun _ _ _ _ h => kept_syncOp h) (fun _ _ h => kept_remoteSync h) h

theorem kept_execYarm {i s} (h : Kept F s) : KeptNext F (execYarm i s) := by
  unfold execYarm
  refine kept_onObject (fun _ _ _ _ h => ?_) (fun _ _ h => kept_remoteSync h) h
  split
  · rename_i s1 heq
    have h1 : Kept F s1 := kept_of_eq (kept_armOn h) heq
    exact h1
  · rename_i s2 heq
    have h2 : Kept F s2 := kept_of_eq (kept_armOn h) heq
    exact kept_raiseJob h2

theorem kept_execYread {i s} (h : Kept F s) : KeptNext F (execYread i s) :=
  kept_onObject (fun _ _ _ _ h => kept_setSreg h) (fun _ _ h => h) h

/-! ### Every command, every step -/

theorem kept_exec {i s} (h : Kept F s) : KeptNext F (exec i s) :=
  match i with
  | .meridian .. => kept_execMeridian h
  | .twilightSlotStart .. => kept_execTwilightSlotStart h
  | .twilightSlotEnd .. => kept_execTwilightSlotEnd h
  | .merHoldoverExpiry .. => kept_execMerHoldoverExpiry h
  | .jobDeadline .. => kept_execJobDeadline h
  | .slipRequestReceive .. => kept_execSlipRequestReceive h
  | .jobAbortReceive .. => kept_execJobAbortReceive h
  | .mac .. => kept_execMac h
  | .drain .. => kept_execDrain h
  | .release .. => kept_execRelease h
  | .opeStepEntry .. => kept_execOpeStepEntry h
  | .streamRowWrite .. => kept_execStreamRowWrite h
  | .add .. => kept_execAdd h
  | .sub .. => kept_execSub h
  | .mul .. => kept_execMul h
  | .mulh .. => kept_execMulh h
  | .and .. => kept_execAnd h
  | .or .. => kept_execOr h
  | .xor .. => kept_execXor h
  | .shl .. => kept_execShl h
  | .shr .. => kept_execShr h
  | .sra .. => kept_execSra h
  | .slt .. => kept_execSlt h
  | .sltu .. => kept_execSltu h
  | .min .. => kept_execMin h
  | .max .. => kept_execMax h
  | .movi .. => kept_execMovi h
  | .movhi .. => kept_execMovhi h
  | .scvtf .. => kept_execScvtf h
  | .scvti .. => kept_execScvti h
  | .rdspec .. => kept_execRdspec h
  | .vadd .. => kept_execVadd h
  | .vsub .. => kept_execVsub h
  | .vmul .. => kept_execVmul h
  | .vfma .. => kept_execVfma h
  | .vmax .. => kept_execVmax h
  | .vmin .. => kept_execVmin h
  | .vabs .. => kept_execVabs h
  | .vneg .. => kept_execVneg h
  | .vcvt .. => kept_execVcvt h
  | .vscale .. => kept_execVscale h
  | .vbcast .. => kept_execVbcast h
  | .vextr .. => kept_execVextr h
  | .vsel .. => kept_execVsel h
  | .vcmplt .. => kept_execVcmplt h
  | .vcmpeq .. => kept_execVcmpeq h
  | .vredsum .. => kept_execVredsum h
  | .vredmax .. => kept_execVredmax h
  | .vexp2 .. => kept_execVexp2 h
  | .vlog2 .. => kept_execVlog2 h
  | .vrecip .. => kept_execVrecip h
  | .vrsqrt .. => kept_execVrsqrt h
  | .vrand .. => kept_execVrand h
  | .vmov .. => kept_execVmov h
  | .mldv .. => kept_execMldv h
  | .mstv .. => kept_execMstv h
  | .mlds .. => kept_execMlds h
  | .msts .. => kept_execMsts h
  | .mldvx .. => kept_execMldvx h
  | .mcopy .. => kept_execMcopy h
  | .mstream .. => kept_execMstream h
  | .mOpComplete .. => kept_execMOpComplete h
  | .ysig .. => kept_execYsig h
  | .ywge .. => kept_execYwge h
  | .yweq .. => kept_execYweq h
  | .yrst .. => kept_execYrst h
  | .yarm .. => kept_execYarm h
  | .yread .. => kept_execYread h
  | .nop .. => kept_execNop h
  | .endThread .. => kept_execEndThread h
  | .br .. => kept_execBr h
  | .brc .. => kept_execBrc h
  | .mile .. => kept_execMile h
  | .call .. => kept_execCall h
  | .ret .. => kept_execRet h
  | .triggerFire .. => kept_execTriggerFire h
  | .workRequestComplete .. => kept_execWorkRequestComplete h
  | .seStream .. => kept_execSeStream h
  | .seAccum .. => kept_execSeAccum h
  | .seUpdate .. => kept_execSeUpdate h
  | .sePack .. => kept_execSePack h
  | .seUnpack .. => kept_execSeUnpack h
  | .seZero .. => kept_execSeZero h
  | .stripPhaseComplete .. => kept_execStripPhaseComplete h
  | .accumulateWrite .. => kept_execAccumulateWrite h
  | .pageFillComplete .. => kept_execPageFillComplete h
  | .patrolScrubRead .. => kept_execPatrolScrubRead h
  | .promotionComplete .. => kept_execPromotionComplete h
  | .demotionCopyComplete .. => kept_execDemotionCopyComplete h
  | .ephEntryArm .. => kept_execEphEntryArm h
  | .ephDeadlineFallback .. => kept_execEphDeadlineFallback h
  | .ephPageFail .. => kept_execEphPageFail h
  | .vaultFlush .. => kept_execVaultFlush h
  | .vaultErase .. => kept_execVaultErase h
  | .wearLevelMove .. => kept_execWearLevelMove h
  | .allreduce .. => kept_execAllreduce h
  | .reduceScatter .. => kept_execReduceScatter h
  | .allgather .. => kept_execAllgather h
  | .alltoall .. => kept_execAlltoall h
  | .permute .. => kept_execPermute h
  | .ringRotate .. => kept_execRingRotate h
  | .verdict .. => kept_execVerdict h
  | .qsend .. => kept_execQsend h
  | .qrecv .. => kept_execQrecv h
  | .corOpComplete .. => kept_execCorOpComplete h
  | .corDataGranule .. => kept_execCorDataGranule h
  | .corVerdictFrame .. => kept_execCorVerdictFrame h
  | .corPermuteGo .. => kept_execCorPermuteGo h
  | .corCreditFrame .. => kept_execCorCreditFrame h
  | .creditRepeat .. => kept_execCreditRepeat h
  | .linkUp .. => kept_execLinkUp h
  | .linkDown .. => kept_execLinkDown h
  | .laneFail .. => kept_execLaneFail h
  | .sprayRejoin .. => kept_execSprayRejoin h
  | .preemptVerify .. => kept_execPreemptVerify h
  | .frameReceive .. => kept_execFrameReceive h
  | .pfcPauseExpire .. => kept_execPfcPauseExpire h
  | .frameTransmit .. => kept_execFrameTransmit h
  | .finderSend .. => kept_execFinderSend h
  | .finderReceive .. => kept_execFinderReceive h
  | .finderHoldExpiry .. => kept_execFinderHoldExpiry h
  | .mgtFinderSend .. => kept_execMgtFinderSend h
  | .ptpMessageReceive .. => kept_execPtpMessageReceive h
  | .ptpMessageSend .. => kept_execPtpMessageSend h
  | .ptpAnnounceTimeout .. => kept_execPtpAnnounceTimeout h
  | .syncInEdge .. => kept_execSyncInEdge h
  | .syncOutPulse .. => kept_execSyncOutPulse h
  | .ptpTimeSet .. => kept_execPtpTimeSet h
  | .txRingDoorbell .. => kept_execTxRingDoorbell h
  | .puTailWrite .. => kept_execPuTailWrite h
  | .mgtTransmit .. => kept_execMgtTransmit h
  | .mgtBackoffExpiry .. => kept_execMgtBackoffExpiry h
  | .connect .. => kept_execConnect h
  | .accept .. => kept_execAccept h
  | .refuse _ _ cause => kept_execRefuse (cause := cause) h
  | .close .. => kept_execClose h
  | .write .. => kept_execWrite h
  | .readReq .. => kept_execReadReq h
  | .readResp .. => kept_execReadResp h
  | .atomic .. => kept_execAtomic h
  | .atomicResp .. => kept_execAtomicResp h
  | .sync .. => kept_execSync h
  | .ack .. => kept_execAck h
  | .nak .. => kept_execNak h
  | .bftWriteLand .. => kept_execBftWriteLand h
  | .bftHoldRelease .. => kept_execBftHoldRelease h
  | .bftHoldExpiry .. => kept_execBftHoldExpiry h
  | .bftContextFetch .. => kept_execBftContextFetch h
  | .bftRtoExpiry .. => kept_execBftRtoExpiry h
  | .bftRetryAfterExpiry .. => kept_execBftRetryAfterExpiry h
  | .bftAckTimer .. => kept_execBftAckTimer h
  | .bftIdleClose .. => kept_execBftIdleClose h
  | .bftCwndIncrease .. => kept_execBftCwndIncrease h
  | .perstAssert .. => kept_execPerstAssert h
  | .perstRelease .. => kept_execPerstRelease h
  | .pcieLinkUp .. => kept_execPcieLinkUp h
  | .vfFlr .. => kept_execVfFlr h
  | .pf0Flr .. => kept_execPf0Flr h
  | .vfEnableClear .. => kept_execVfEnableClear h
  | .d3hotEntry .. => kept_execD3hotEntry h
  | .sqDoorbell .. => kept_execSqDoorbell h
  | .cqHeadWrite .. => kept_execCqHeadWrite h
  | .ringEnableWrite .. => kept_execRingEnableWrite h
  | .commandFetch .. => kept_execCommandFetch h
  | .commandStartedTimeout .. => kept_execCommandStartedTimeout h
  | .irqCoalesceExpiry .. => kept_execIrqCoalesceExpiry h
  | .bar4Read .. => kept_execBar4Read h
  | .bar4Write .. => kept_execBar4Write h
  | .bar4ReadTimeout .. => kept_execBar4ReadTimeout h
  | .atsInvalidation .. => kept_execAtsInvalidation h
  | .ideIntegrityFail .. => kept_execIdeIntegrityFail h
  | .ideKeyLoad .. => kept_execIdeKeyLoad h
  | .planLoad .. => kept_execPlanLoad h
  | .planUnload .. => kept_execPlanUnload h
  | .jobStart .. => kept_execJobStart h
  | .jobStop .. => kept_execJobStop h
  | .jobStopAbort .. => kept_execJobStopAbort h
  | .tierSetup .. => kept_execTierSetup h
  | .objMap .. => kept_execObjMap h
  | .objMapExisting .. => kept_execObjMapExisting h
  | .baseObjectSeal .. => kept_execBaseObjectSeal h
  | .objUnmap .. => kept_execObjUnmap h
  | .objPlace .. => kept_execObjPlace h
  | .objPin .. => kept_execObjPin h
  | .objVote .. => kept_execObjVote h
  | .objQuery .. => kept_execObjQuery h
  | .window .. => kept_execWindow h
  | .ephLoad .. => kept_execEphLoad h
  | .rgnSetup .. => kept_execRgnSetup h
  | .rgnRegister .. => kept_execRgnRegister h
  | .rgnRevoke .. => kept_execRgnRevoke h
  | .tenantCreate .. => kept_execTenantCreate h
  | .tenantDestroy .. => kept_execTenantDestroy h
  | .partition .. => kept_execPartition h
  | .powerShare .. => kept_execPowerShare h
  | .lsRule .. => kept_execLsRule h
  | .censusRead .. => kept_execCensusRead h
  | .energyQuery .. => kept_execEnergyQuery h
  | .attest .. => kept_execAttest h
  | .fwStage .. => kept_execFwStage h
  | .fwActivate .. => kept_execFwActivate h
  | .selftest .. => kept_execSelftest h
  | .spareRetire .. => kept_execSpareRetire h
  | .spareRetireForce .. => kept_execSpareRetireForce h
  | .logRead .. => kept_execLogRead h
  | .voltageSample .. => kept_execVoltageSample h
  | .surgeTimeout .. => kept_execSurgeTimeout h
  | .sagTimeout .. => kept_execSagTimeout h
  | .sagRelease .. => kept_execSagRelease h
  | .uvloRelease .. => kept_execUvloRelease h
  | .uvloLatchClear .. => kept_execUvloLatchClear h
  | .bringupStart .. => kept_execBringupStart h
  | .inrushCharged .. => kept_execInrushCharged h
  | .currentLimitTrip .. => kept_execCurrentLimitTrip h
  | .supplyLoss .. => kept_execSupplyLoss h
  | .safeNAssert .. => kept_execSafeNAssert h
  | .safeStopConvertersOff .. => kept_execSafeStopConvertersOff h
  | .grantFrame .. => kept_execGrantFrame h
  | .powerControlPeriod .. => kept_execPowerControlPeriod h
  | .phaseDemandUpdate .. => kept_execPhaseDemandUpdate h
  | .thermalSample .. => kept_execThermalSample h
  | .thermalCeilingStep .. => kept_execThermalCeilingStep h
  | .meterOutOfRange .. => kept_execMeterOutOfRange h
  | .receiptSigned .. => kept_execReceiptSigned h
  | .receiptCheckpoint .. => kept_execReceiptCheckpoint h
  | .ackWindowExpiry .. => kept_execAckWindowExpiry h
  | .fltAck .. => kept_execFltAck h
  | .nightLogDrain .. => kept_execNightLogDrain h
  | .beaconGenerate .. => kept_execBeaconGenerate h
  | .sliceComplete .. => kept_execSliceComplete h
  | .sliceBudgetExpiry .. => kept_execSliceBudgetExpiry h
  | .channelPairCopyComplete .. => kept_execChannelPairCopyComplete h
  | .almanacWriteComplete .. => kept_execAlmanacWriteComplete h
  | .bringupRails .. => kept_execBringupRails h
  | .bringupBootRom .. => kept_execBringupBootRom h
  | .bringupAlmanac .. => kept_execBringupAlmanac h
  | .bringupImages .. => kept_execBringupImages h
  | .bringupSelfTest .. => kept_execBringupSelfTest h
  | .bringupFill .. => kept_execBringupFill h
  | .bringupRelease .. => kept_execBringupRelease h
  | .bringupReady .. => kept_execBringupReady h
  | .bringupStopBeacon .. => kept_execBringupStopBeacon h
  | .mgtFwStage .. => kept_execMgtFwStage h
  | .mgtFwActivate .. => kept_execMgtFwActivate h
  | .mgtFwQuery .. => kept_execMgtFwQuery h
  | .commitRegisterWrite .. => kept_execCommitRegisterWrite h
  | .commitGroupMemberWrite .. => kept_execCommitGroupMemberWrite h
  | .registerPairHiWrite .. => kept_execRegisterPairHiWrite h
  | .registerPairLoRead .. => kept_execRegisterPairLoRead h
  | .irqStatusW1c .. => kept_execIrqStatusW1c h
  | .registerWrite .. => kept_execRegisterWrite h
  | .d3hotExit .. => kept_execD3hotExit h
  | .vfEnableSet .. => kept_execVfEnableSet h
  | .pcieLinkDown .. => kept_execPcieLinkDown h
  | .doeSpdmRequest .. => kept_execDoeSpdmRequest h
  | .imageWriteComplete .. => kept_execImageWriteComplete h
  | .syncInAbsent .. => kept_execSyncInAbsent h

/-- Settles O60: every command keeps the invariant, and a step runs a command or idles. -/
theorem everyStepKeeps : Obligations.EveryStepKeeps := by
  intro s u hcanonical hstep
  have h : Kept (factoryPart s) s := ⟨hcanonical, rfl⟩
  rw [step] at hstep
  split at hstep
  · exact KeptNext.next h u hstep
  · exact kept_exec (kept_frame h) u hstep

end Sys2Proof.Machine
end
